-- ==== Sys2Proof/Word.lean ====
section
/-! DEFINITION. The word types of the core and their plainest arithmetic (R5: bit 0 is the least significant bit,
multi-byte values are little-endian). -/

namespace Sys2Proof

/-- One byte of a store or of a packet. -/
abbrev Byte := BitVec 8

/-- A 32-bit word. -/
abbrev W32 := BitVec 32

/-- A 64-bit word: a setup register, a scalar-file entry, a global address. -/
abbrev W64 := BitVec 64

/-- A 64-byte command of a program (R28), bit 0 at bit 0 of byte 0. -/
abbrev CmdWord := BitVec 512

/-- All ones: "no DPI" in records and messages (R360, R394). -/
def noDpi : W64 := BitVec.allOnes 64

end Sys2Proof
end

