-- ==== Sys2Proof/Syntax.lean ====
section
/-! DEFINITION. The commands of the block: one constructor of `Instr` for each row of spec/opcode_table.json, with the
operands the outside supplies, and the fields of a program command (R28, R30, R36, R37, R48, R69 to R71, R76, R87, R161,
R171, R172, R190, R194, R195, R291, R300, R406). -/

namespace Sys2Proof

/-! ### Program commands -/

/-- A tile view (R30), without its RsvZ bits. -/
structure View where
  region  : BitVec 6
  half    : Bool
  format  : BitVec 4
  lsel    : BitVec 3
  rows    : BitVec 16
  cols    : BitVec 16
  offset  : BitVec 22
  stride  : BitVec 16
  lstep   : BitVec 10
  deriving DecidableEq, Repr

/-- The all-zero view: the view is not used (R30). -/
def View.zero : View := ⟨0, false, 0, 0, 0, 0, 0, 0, 0⟩

/-- A wait of the header (R28, R39): comparison 0 none, 1 GE, 2 LT, 3 EQ. -/
structure Wait where
  ec    : BitVec 6
  cmp   : BitVec 2
  thr   : BitVec 16
  tstep : BitVec 4
  deriving DecidableEq, Repr

/-- A signal of the header (R28): increment 0 means no signal. -/
structure Signal where
  ec  : BitVec 6
  inc : BitVec 8
  deriving DecidableEq, Repr

/-- The 16-byte command header (R28) without OPCODE, which the body's constructor gives. -/
structure Header where
  queue  : BitVec 5
  silent : Bool
  pen    : Bool
  psense : Bool
  psel   : BitVec 4
  part   : BitVec 2
  version : Bool
  vtag   : Bool
  fuse   : BitVec 8
  waitA  : Wait
  vstage : BitVec 4
  waitB  : Wait
  mbatch : BitVec 8
  sigA   : Signal
  sigB   : Signal
  deriving DecidableEq, Repr

/-- The header of a command on queue `q` with every other field zero. -/
def Header.plain (q : BitVec 5) : Header :=
  ⟨q, false, false, false, 0, 0, false, false, 0, ⟨0, 0, 0, 0⟩, 0, ⟨0, 0, 0, 0⟩, 0, ⟨0, 0⟩, ⟨0, 0⟩⟩

/-- LOOP (R48). -/
structure LoopBody where
  countImm : BitVec 32
  countSf  : BitVec 6
  countSrc : Bool
  bodyLen  : BitVec 8
  deriving DecidableEq, Repr

/-- SET_EC (R36): `mode` false writes, true adds. -/
structure SetEcBody where
  ec    : BitVec 6
  mode  : Bool
  value : BitVec 16
  deriving DecidableEq, Repr

/-- SET_PD (R37). -/
structure SetPdBody where
  pd    : BitVec 4
  src   : BitVec 2
  imm   : Bool
  sfIdx : BitVec 6
  sfBit : BitVec 6
  ecIdx : BitVec 6
  cmp   : BitVec 2
  thr   : BitVec 16
  deriving DecidableEq, Repr

/-- BARRIER (R300). -/
structure BarrierBody where
  members : BitVec 8
  relEc   : BitVec 6
  relInc  : BitVec 8
  calSwap : Bool
  deriving DecidableEq, Repr

/-- CAL_LOAD (R291). -/
structure CalLoadBody where
  region : BitVec 6
  half   : Bool
  offset : BitVec 22
  deriving DecidableEq, Repr

/-- REGION_SET (R69): `entry` in the layout of R66. -/
structure RegionSetBody where
  region : BitVec 6
  entry  : BitVec 256
  deriving DecidableEq, Repr

/-- REGION_ATTR (R71). -/
structure RegionAttrBody where
  region        : BitVec 6
  setFrozen     : Bool
  clrFrozen     : Bool
  setBg         : Bool
  clrBg         : Bool
  clrPoisonCur  : Bool
  clrPoisonNext : Bool
  deriving DecidableEq, Repr

/-- The parameters of the four computing matrix commands (R161), each field at its own bits; a field an opcode does not
use is zero. Bits [68:67] are SMODE or OP, [70:69] hold SREG and SLOAD or OPND, [76:71] hold TM1 or OSF. -/
structure MxParams where
  m       : BitVec 12
  n       : BitVec 12
  k       : BitVec 17
  plane   : Bool
  start   : Bool
  hold    : Bool
  outmode : Bool
  cvt     : BitVec 8
  rmask   : Bool
  bmask   : Bool
  smode   : BitVec 2
  sreg    : Bool
  sload   : Bool
  tm1     : BitVec 3
  sfmt    : BitVec 4
  op      : BitVec 2
  opnd    : BitVec 2
  osf     : BitVec 6
  deriving DecidableEq, Repr

/-- A matrix command: three views (R30) and the parameters (R161). -/
structure MxBody where
  v0 : View
  v1 : View
  v2 : View
  p  : MxParams
  deriving DecidableEq, Repr

/-- MASK_SET (R171). -/
structure MaskSetBody where
  row   : BitVec 256
  block : BitVec 64
  deriving DecidableEq, Repr

/-- The parameters of VX_MAP, VX_REDUCE, CU_MAP and CU_REDUCE (R190). -/
structure VxParams where
  prog   : BitVec 5
  sfbase : BitVec 6
  cvt    : BitVec 8
  axis   : BitVec 2
  rop    : BitVec 2
  pdEn   : Bool
  pdIdx  : BitVec 4
  sfwEn  : Bool
  sfw    : BitVec 6
  deriving DecidableEq, Repr

/-- A computing vector command (R189, R406). -/
structure VxBody where
  v0 : View
  v1 : View
  v2 : View
  p  : VxParams
  deriving DecidableEq, Repr

/-- VX_AUX (R194). -/
structure AuxBody where
  v0       : View
  v1       : View
  v2       : View
  maskMode : BitVec 2
  maskFill : BitVec 2
  idxMode  : BitVec 3
  scatOp   : Bool
  deriving DecidableEq, Repr

/-- VX_PROG, CU_PROG (FIRST) and VX_TABLE, CU_TABLE (the table number): view 0 and the parameter (R195, R406). -/
structure VxLoadBody where
  v0    : View
  v1    : View
  v2    : View
  first : BitVec 5
  deriving DecidableEq, Repr

/-- STREAM (R76). -/
structure StreamBody where
  region    : BitVec 6
  half      : Bool
  dir       : Bool
  esize     : BitVec 3
  trans     : Bool
  tu        : BitVec 2
  slot      : BitVec 2
  notify    : Bool
  mcast     : Bool
  notifyEc  : BitVec 6
  notifyInc : BitVec 8
  offset    : BitVec 22
  far       : BitVec 64
  count0    : BitVec 16
  count1    : BitVec 16
  count2    : BitVec 16
  count3    : BitVec 16
  count4    : BitVec 16
  stride0   : BitVec 32
  stride1   : BitVec 32
  stride2   : BitVec 32
  stride3   : BitVec 32
  stride4   : BitVec 32
  group     : BitVec 12
  deriving DecidableEq, Repr

/-- TRANSPOSE (R87): copies `v0` into `v1` transposed. -/
structure TransposeBody where
  v0    : View
  v1    : View
  tesize : BitVec 2
  deriving DecidableEq, Repr

/-- The body of a program command, one constructor per opcode of R34. -/
inductive Op where
  | loop (b : LoopBody)
  | setEc (b : SetEcBody)
  | setPd (b : SetPdBody)
  | barrier (b : BarrierBody)
  | calLoad (b : CalLoadBody)
  | regionSet (b : RegionSetBody)
  | regionSwap (region : BitVec 6)
  | regionAttr (b : RegionAttrBody)
  | nop
  | fin
  | mmOs (b : MxBody)
  | mmSt (b : MxBody)
  | mmEw (b : MxBody)
  | mmDrain (b : MxBody)
  | maskSet (b : MaskSetBody)
  | arrayMode (mode : BitVec 2)
  | vxMap (b : VxBody)
  | vxReduce (b : VxBody)
  | vxAux (b : AuxBody)
  | vxProg (b : VxLoadBody)
  | vxTable (b : VxLoadBody)
  | stream (b : StreamBody)
  | transpose (b : TransposeBody)
  | cuMap (b : VxBody)
  | cuReduce (b : VxBody)
  | cuProg (b : VxLoadBody)
  | cuTable (b : VxLoadBody)
  deriving DecidableEq, Repr

/-- A decoded command. -/
structure Cmd where
  h  : Header
  op : Op
  deriving DecidableEq, Repr

/-- Where a command stands: its task, its DPI (R26) and the iteration indices of its enclosing loops, outermost first
(R48). An injected command has no index (R344). -/
structure Ctx where
  task  : Fin 4
  dpi   : W64
  iters : List Nat
  deriving DecidableEq, Repr

/-! ### Operands of the other commands -/

/-- An engine or partition that runs one command at a time (R32). Stream engines run transfers in slots instead. -/
inductive UnitId where
  | mx (n p : Fin 4)
  | vx
  | cu
  | tu (n : Fin 4)
  deriving DecidableEq, Repr

/-- Where a parity error strikes a running array command (R155, R156). -/
inductive ParityAt where
  | steps        -- feeders, pipelines, reduction network, a plane started from ZERO, a register the command loaded
  | heldPlane    -- a plane continued or edited in place
  | heldRegister -- a register the command reuses
  | drain        -- after E
  | cgMismatch (drain : Bool)  -- the two copies of a counter-generator block differ (R237), in an array's drain after E or before
  | progSlot (i : Fin 32)  -- VX or CU program slot (R205)
  | table (i : Fin 8)      -- VX or CU function table (R205)
  deriving DecidableEq, Repr

/-- Where a parity error lies in its unit (R153, R394): the lane group of VX or Crucible, the physical row or segment, and the
physical column. -/
structure PhysLoc where
  group : BitVec 8
  row : BitVec 9
  col : BitVec 9
  deriving DecidableEq, Repr

/-- What memory outside the core answers a read of a command (R26, R308): the word, or a refusal with its cause. -/
inductive Fetched where
  | word (w : BitVec 512)
  | refused (cause : BitVec 8)
  deriving DecidableEq, Repr

/-- What an engine finds while a command runs, beyond the faults the model computes from its own state (R55, R151). -/
inductive FoundFault where
  | uncorrectable (addr nth : Nat)   -- an uncorrectable word that the `nth` command of the unit from the oldest reads (R64)
  | shared (loc : PhysLoc)       -- a check of a structure that the partitions share (R151)
  | peerRefused (cause : BitVec 8)  -- the peer refuses an exported tile (R231, R308)
  | corrected (addr : Nat)       -- a single-bit error that the bank corrects on a read, after which the command goes on (R64)
  | upset (word : Nat) (double : Bool)  -- an upset of a word of IMEM or DMEM, by its address over 8, which its next read finds (R336)
  deriving DecidableEq, Repr

/-- The requester of an inbound access (R308, R310). For one on another chip, `back` is the port of the chip whose positions of agent 13
lead back to it, and `lastw` the LASTW of the packet that arrives (R310, R315). -/
structure Requester where
  chip : BitVec 20
  core : BitVec 3
  back : Fin 64
  lastw : Bool
  deriving DecidableEq, Repr

/-- A command in flight on a unit: `nth` counts those of the unit from the oldest (R144; log entry 146). -/
structure InFlight where
  unit : UnitId
  nth : Nat
  deriving DecidableEq, Repr

/-- A release notice of a receiver on the sender's or another chip (R299): the receiver's core, and the keys (R359) of the drops that its log
records for the group (log entry 48). -/
structure Notice where
  core : BitVec 3
  drops : List W64
  deriving DecidableEq, Repr

/-- What IJTAG does to the internal chains (R436): whether it opens them, and the bits that a scan shift loads, first bit first. -/
structure ChainScan where
  opens : Bool
  shift : Option (List Bool)
  deriving DecidableEq, Repr

/-- A failing location of a self-test (R424): UNIT and LOC of R394. -/
structure FailLoc where
  unit : BitVec 8
  loc  : BitVec 32
  deriving DecidableEq, Repr

/-- Units of a packet that waits for the origin positions of its owner at a fabric port (R315): the owner's core and agent, the
command that sends it, whether a frame has carried some of its units, and the units still to send. -/
structure OutPacket where
  core  : BitVec 3
  agent : Nat
  task  : Fin 4
  dpi   : W64
  begun : Bool
  units : List (BitVec 128)
  deriving DecidableEq, Repr

/-- An arriving frame (R309, R312): its sixteen flits, and whether the PHY flagged one or parity fails (R321). `owners` gives, for each
ingress position of the port, a number of the owner whose packets it carries, and `taken` the positions that egress positions of other
cores' ports name: the hall plan's facts, which no register of this core holds (R313, R315). -/
structure Frame where
  flits   : List (BitVec 512)
  flagged : Bool
  parity  : Bool
  owners  : List Nat
  taken   : List Nat
  deriving DecidableEq, Repr

/-- An error of an engine in the known-answer test (R425): the bits that a run flips in an element's result of a kernel, or of the
reduction as number 11. -/
structure KatFlaw where
  kernel  : Nat
  element : Nat
  flips   : W32
  deriving DecidableEq, Repr

/-- What the island monitor measures of a crossing (R388): the clocks of its two sides, in one unit, and the supply difference in
mV. -/
structure CrossingRead where
  clockA : Nat
  clockB : Nat
  supply : Nat
  deriving DecidableEq, Repr

/-- A sensor and estimate sample (R373, R374, R450): work power in 0.25 W, temperatures in 0.25 °C, the work power attributed to
each array partition by agent code (R378), the coefficients by agent code and opcode (R380), the crossings of R387 in its order, and
the physical partitions whose ballast met a parity error since the last sample (R159). -/
structure PowerSample where
  work     : Nat
  temps    : List Nat
  parts    : List (BitVec 8 × Nat)
  coeffs   : List (BitVec 8 × BitVec 8 × Nat)
  crossings : List CrossingRead
  parity   : List (Fin 4 × Fin 4 × PhysLoc)
  deriving DecidableEq, Repr

/-- Which CSR instruction form writes a scalar-file entry (R337). -/
inductive CsrOp where
  | rw
  | rs
  | rc
  deriving DecidableEq, Repr

/-- The error a scrub read finds (R64). -/
inductive EccKind where
  | clean
  | single
  | double
  deriving DecidableEq, Repr

/-- A clock input whose stop a monitor detects (R440). -/
inductive ClockIn where
  | router
  | sync
  | fabric
  | arrayClock (n : Fin 4)
  deriving DecidableEq, Repr

/-- A peer core's outstanding Solstice arrival as SY_IN shows it (R446). -/
structure Arrival where
  members : BitVec 8
  calSwap : Bool
  parity  : Bool
  sched   : BitVec 16
  deriving DecidableEq, Repr

/-- Bytes at addresses, unlisted bytes zero: an image or a packet the outside supplies. -/
abbrev Bytes := List (Nat × Byte)

/-- A parity error: what it hits, where it lies (R153, R155), and which of the commands in flight on its unit it strikes, counted from
the oldest (R204). -/
structure ParityHit where
  kind : ParityAt
  loc  : PhysLoc
  nth  : Nat
  deriving DecidableEq, Repr

/-- One of the chip's egress slots of a port: the port and the packets that other owners of the chip hand it over the mesh for their
origin positions (R315, R318). -/
structure PortSlot where
  port   : Fin 8
  handed : List OutPacket
  deriving DecidableEq, Repr

/-- The length of an arriving read request, and the addresses among its bytes at whose words the bank corrects a single-bit error (R64,
R75). -/
structure ReadRun where
  len    : Nat
  single : List Nat
  deriving DecidableEq, Repr

/-- What an arriving multicast carries beside its runs: its NOTIFY, for one from the fabric its index MROUTE (R298, R317), and the port
of the chip whose positions of agent 13 lead back to a sender on another chip (R315). -/
structure McastTail where
  note   : Option (BitVec 6 × BitVec 8)
  mroute : Option (BitVec 12)
  back   : Fin 64
  deriving DecidableEq, Repr

/-- Where a BARRIER message goes, and the SRC_CHIP, SRC_CORE and SRC_AGENT of its sender as bits [114:88] of the header have them (R310,
R320). -/
structure BarrierHead where
  dest : BitVec 64
  src  : BitVec 27
  deriving DecidableEq, Repr

/-- A flit on a hop: what it is, and the transfer of its source engine when it has one (R283). -/
structure HopFlit where
  flit : Fin 9 × Nat
  xfer : Option (Fin 13 × Fin 4)
  deriving DecidableEq, Repr

/-- The units of an ingress position that another core of the chip holds, and how many of them end a packet of an earlier frame
(R315). -/
structure TransitUnits where
  skip  : Nat
  units : List (BitVec 128)
  deriving DecidableEq, Repr

/-- SY_IN: the arrivals it shows, and whether its triplicated wires disagreed, so that the odd one was outvoted (R302, R446). -/
structure SyncIn where
  peers : List (Fin 8 × Arrival)
  vote  : Bool
  deriving DecidableEq, Repr

/-- A sideband item of several beats, and whether its beats came in order (R449). -/
structure Item (α : Type) where
  content : α
  inOrder : Bool
  deriving DecidableEq, Repr

/-- The errors of the two runs of the known-answer test (R425): Crucible's, and VX's or, where VX is fenced, those of the second run. -/
structure KatRuns where
  cu    : List KatFlaw
  other : List KatFlaw
  deriving DecidableEq, Repr

/-- The commands of the block, one constructor per row of the table, in its order. -/
inductive Instr where
  -- program commands (02, 03, 07, 08, 12, 17)
  | loop (x : Ctx) (h : Header) (b : LoopBody)
  | setEc (x : Ctx) (h : Header) (b : SetEcBody)
  | setPd (x : Ctx) (h : Header) (b : SetPdBody)
  | barrier (x : Ctx) (h : Header) (b : BarrierBody)
  | calLoad (x : Ctx) (h : Header) (b : CalLoadBody)
  | regionSet (x : Ctx) (h : Header) (b : RegionSetBody)
  | regionSwap (x : Ctx) (h : Header) (region : BitVec 6)
  | regionAttr (x : Ctx) (h : Header) (b : RegionAttrBody)
  | nop (x : Ctx) (h : Header)
  | fin (x : Ctx) (h : Header)
  | mmOs (x : Ctx) (h : Header) (b : MxBody)
  | mmSt (x : Ctx) (h : Header) (b : MxBody)
  | mmEw (x : Ctx) (h : Header) (b : MxBody)
  | mmDrain (x : Ctx) (h : Header) (b : MxBody)
  | maskSet (x : Ctx) (h : Header) (b : MaskSetBody)
  | arrayMode (x : Ctx) (h : Header) (mode : BitVec 2)
  | vxMap (x : Ctx) (h : Header) (b : VxBody)
  | vxReduce (x : Ctx) (h : Header) (b : VxBody)
  | vxAux (x : Ctx) (h : Header) (b : AuxBody)
  | vxProg (x : Ctx) (h : Header) (b : VxLoadBody)
  | vxTable (x : Ctx) (h : Header) (b : VxLoadBody)
  | stream (x : Ctx) (h : Header) (b : StreamBody)
  | transpose (x : Ctx) (h : Header) (b : TransposeBody)
  | cuMap (x : Ctx) (h : Header) (b : VxBody)
  | cuReduce (x : Ctx) (h : Header) (b : VxBody)
  | cuProg (x : Ctx) (h : Header) (b : VxLoadBody)
  | cuTable (x : Ctx) (h : Header) (b : VxLoadBody)
  -- steps of the issue unit and the engines
  | commandFetch (t : Fin 4) (data : Fetched)
  | commandIssue
  | commandComplete (u : InFlight)
  | shadowPromote (e : Fin 8) (slot : Fin 4)
  | streamComplete (e : Fin 8) (slot : Fin 4)
  | swapTakesEffect (region : Fin 64)
  | issueTimeout
  | arrayReplay (n p : Fin 4) (hit : ParityHit)
  | vxReplay (hit : ParityHit)
  | cuReplay (hit : ParityHit)
  -- jobs
  | selectionPoint
  | jobLoad (ext : Bytes)
  | descriptorRefused
  | jobStop
  | jobEnd
  | preemptSave
  | preemptTimeout
  | doorbell (ring : Fin 8) (value : W64)
  | preempt (value : W64)
  -- setup registers with a row of their own
  | ringCommit (ring : Fin 8) (value : W64)
  | eqCommit (value : W64)
  | bgCommit (value : W64)
  | fpCommit (port : Fin 8) (value : W64)
  | routeCommit (value : W64)
  | routeEntHi (value : W64)
  | obsCommit (value : W64)
  | ccCtrl (value : W64)
  | ccMdataRead
  | ccMdataWrite (value : W64)
  | errlogPop (value : W64)
  | clrLost (value : W64)
  | clrPrbs (port : Fin 8) (value : W64)
  | clrReplay (port : Fin 8) (value : W64)
  | registerWrite (offset : BitVec 16) (value : W64)
  -- control core
  | sfCsrWrite (idx : BitVec 6) (op : CsrOp) (value : W64)
  | evpendWrite (value : W64)
  | mtimecmpWrite (value : W64)
  | wdKick
  | wdLimitWrite (value : W64)
  | watchWrite (slot : Fin 8) (value : W64)
  | mtimeMatch
  | watchdogExpiry
  | injCmdWrite (offset : BitVec 7) (value : W64)
  | injGo
  | injectionPlace
  | msgSend (offset : BitVec 5) (value : W64)
  | controlSlotSend (slot : PortSlot)
  -- arrivals
  | inboundWrite (req : Requester) (addr : Nat) (bytes : List Byte)
  | readReq (req : Requester) (addr : Nat) (run : ReadRun)
  | readData (e : Fin 8) (slot : Fin 4) (addr : Nat) (bytes : List Byte)
  | ack (e : Fin 13) (slot : Fin 4) (windows : Nat)
  | refuse (e : Fin 13) (slot : Fin 4) (cause : BitVec 8) (chip : BitVec 20) (core : BitVec 3)
  | notify (req : Requester) (ec : BitVec 6) (inc : BitVec 8)
  | mcastWrite (group : BitVec 12) (chip : BitVec 20) (core : BitVec 3) (seq : BitVec 16)
      (runs : List (Nat × List Byte)) (tail : McastTail)
  | mreport (e : Fin 8) (slot : Fin 4) (result : BitVec 2) (chip : BitVec 20) (core : BitVec 3)
  | barrierMessage (head : BarrierHead) (ec : BitVec 6) (inc : BitVec 8)
  | ctrlMessage (payload : BitVec 128) (chip : BitVec 20)
  | releaseNotice (group : BitVec 12) (chip : BitVec 20) (notice : Notice)
  | portDownNotice (port : Fin 64)
  -- mesh and links
  | flitForward (slot : Fin 4096) (arrived : List (Fin 9 × Nat))
  | meshReplay (second : Bool) (f : HopFlit)
  | meshTimeout (e : Fin 13) (slot : Fin 4)
  | frameReceive (port : Fin 8) (f : Frame)
  | linkReplay (port : Fin 8) (ackSeq : BitVec 12) (aEpoch : Bool)
  | transitForward (port : Fin 8) (pos : Fin 60) (inport : Fin 64) (inpos : Fin 60)
      (u : TransitUnits)
  | heartbeatTick
  | heartbeatMiss (port : Fin 8)
  | linkTrainingComplete (port : Fin 8)
  | phyUpFall (port : Fin 8)
  | fabricTimeout (e : Fin 13) (slot : Fin 4)
  | keyEpochFlip (port : Fin 8)
  | keyExpired (port : Fin 8)
  | detourOrder (n : BitVec 4)
  | detourSwitch
  -- Solstice and calendars
  | solsticeRelease (sy : SyncIn)
  | calendarSwap
  | calendarLoadComplete
  | membershipChange (mask : BitVec 8) (peers : List (Fin 8 × Arrival))
  -- Equinox and background
  | equinoxSample (p : PowerSample)
  | equinoxTick (band : BitVec 33) (toggle : Bool)
  | stretchChange
  | throttleChange (demand : BitVec 4)
  | islandClampRelease (arith control : Bool)
  | backgroundLevel (us : Nat)
  | scrub (addr : Nat) (found : EccKind)
  | tileRecordDrain
  | telemetry
  -- fences and repair
  | coreFence (code : BitVec 12) (dpi : W64)
  | admissionWithdraw
  | mgmtFence
  | repairRecord (record : Item (BitVec 2048))
  | repairApply (failed : BitVec 32)
  -- reset and bring-up
  | powerOnReset
  | warmReset
  | resetRelease (testHold : Bool) (failing : Option FailLoc)
  | identity (item : W64)
  | lifecycle (item : W64)
  | gradeItem (item : W64)
  | defaultCalendar (image : Item Bytes)
  | detourPart (n : Fin 8) (image : Item Bytes)
  | linkKey (port : Fin 8) (rx : Bool) (slot : Bool) (key : BitVec 256)
  | salt (port : Fin 8) (rx : Bool) (value : BitVec 32)
  | memoryBist (failing : List FailLoc)
  | logicBist (failing : List FailLoc)
  | knownAnswerTest (runs : KatRuns) (cgMismatch : Bool)
  | sidebandTimeout
  | ready
  | unlock
  | powerRemoval
  | clockStop (c : ClockIn)
  -- test access
  | idcode
  | report
  | prbsCount
  | ijtag (scan : ChainScan)
  | bypass
  -- execution
  | executionStart (u : UnitId)
  | executionFault (u : UnitId) (f : FoundFault)
  | ccHalt
  deriving DecidableEq, Repr

end Sys2Proof
end

