-- ==== Sys2Proof/Machine/Codes.lean ====
section
/-! DEFINITION. The single table of error codes (R393) and the classes an entry of the error log carries (R391, R394). -/

namespace Sys2Proof.Machine

/-- An error number of R393. -/
abbrev Code := BitVec 12

/-- ECC_CORRECTED (R393). -/
def Code.eccCorrected : Code := 0x001
/-- ARRAY_REPLAY (R393). -/
def Code.arrayReplay : Code := 0x002
/-- VX_REPLAY (R393). -/
def Code.vxReplay : Code := 0x003
/-- CU_REPLAY (R393). -/
def Code.cuReplay : Code := 0x004
/-- MESH_REPLAY (R393). -/
def Code.meshReplay : Code := 0x005
/-- LINK_REPLAY (R393). -/
def Code.linkReplay : Code := 0x006
/-- SYNC_VOTE (R393). -/
def Code.syncVote : Code := 0x007
/-- BALLAST_PARITY (R393). -/
def Code.ballastParity : Code := 0x008
/-- ISLAND_LIMIT (R393). -/
def Code.islandLimit : Code := 0x009
/-- ROUTE_CHANGE (R393). -/
def Code.routeChange : Code := 0x00A
/-- BOUND_EXTEND (R393). -/
def Code.boundExtend : Code := 0x00B
/-- DETOUR (R393). -/
def Code.detour : Code := 0x00C
/-- INBOUND_REFUSED (R393). -/
def Code.inboundRefused : Code := 0x080
/-- MCAST_DROP (R393). -/
def Code.mcastDrop : Code := 0x081
/-- MSG_DISCARDED (R393). -/
def Code.msgDiscarded : Code := 0x082
/-- CAL_MISMATCH (R393). -/
def Code.calMismatch : Code := 0x083
/-- BACKGROUND_OVERDUE (R393). -/
def Code.backgroundOverdue : Code := 0x084
/-- REPAIR_HINT (R393). -/
def Code.repairHint : Code := 0x085
/-- REPAIR_REFUSED (R393). -/
def Code.repairRefused : Code := 0x086
/-- SELFTEST_FAIL (R393). -/
def Code.selftestFail : Code := 0x087
/-- NO_PATH (R393). -/
def Code.noPath : Code := 0x088
/-- KEY_EXPIRED (R393). -/
def Code.keyExpired : Code := 0x089
/-- LINK_AUTH (R393). -/
def Code.linkAuth : Code := 0x08A
/-- ILLEGAL_OPCODE (R393). -/
def Code.illegalOpcode : Code := 0x100
/-- ILLEGAL_COMMAND (R393). -/
def Code.illegalCommand : Code := 0x101
/-- LOOP_NEST (R393). -/
def Code.loopNest : Code := 0x102
/-- ABSENT_ENGINE (R393). -/
def Code.absentEngine : Code := 0x103
/-- FENCED_ENGINE (R393). -/
def Code.fencedEngine : Code := 0x104
/-- NOT_OWNED (R393). -/
def Code.notOwned : Code := 0x105
/-- STALE_VERSION (R393). -/
def Code.staleVersion : Code := 0x106
/-- BAD_FORMAT (R393). -/
def Code.badFormat : Code := 0x107
/-- BAD_DESCRIPTOR (R393). -/
def Code.badDescriptor : Code := 0x108
/-- VX_PROGRAM (R393). -/
def Code.vxProgram : Code := 0x109
/-- BAD_REGION (R393). -/
def Code.badRegion : Code := 0x120
/-- BOUNDS (R393). -/
def Code.bounds : Code := 0x121
/-- POISONED_READ (R393). -/
def Code.poisonedRead : Code := 0x122
/-- BAD_PARTITION (R393). -/
def Code.badPartition : Code := 0x123
/-- FROZEN_WRITE (R393). -/
def Code.frozenWrite : Code := 0x124
/-- VERSION_HELD (R393). -/
def Code.versionHeld : Code := 0x125
/-- BAD_ROUTE (R393). -/
def Code.badRoute : Code := 0x126
/-- ISSUE_TIMEOUT (R393). -/
def Code.issueTimeout : Code := 0x127
/-- UNCORRECTABLE (R393). -/
def Code.uncorrectable : Code := 0x140
/-- ARRAY_STATE (R393). -/
def Code.arrayState : Code := 0x141
/-- ARRAY_PARITY (R393). -/
def Code.arrayParity : Code := 0x142
/-- ARRAY_SHARED (R393). -/
def Code.arrayShared : Code := 0x143
/-- VX_PARITY (R393). -/
def Code.vxParity : Code := 0x144
/-- CU_PARITY (R393). -/
def Code.cuParity : Code := 0x145
/-- CG_MISMATCH (R393). -/
def Code.cgMismatch : Code := 0x146
/-- REMOTE_REFUSED (R393). -/
def Code.remoteRefused : Code := 0x147
/-- MESH_PARITY (R393). -/
def Code.meshParity : Code := 0x148
/-- MESH_TIMEOUT (R393). -/
def Code.meshTimeout : Code := 0x149
/-- LINK_DOWN (R393). -/
def Code.linkDown : Code := 0x14A
/-- FABRIC_TIMEOUT (R393). -/
def Code.fabricTimeout : Code := 0x14B
/-- BARRIER_MISMATCH (R393). -/
def Code.barrierMismatch : Code := 0x14C
/-- BAD_CALENDAR (R393). -/
def Code.badCalendar : Code := 0x14D
/-- REPLAY_LOG_FULL (R393). -/
def Code.replayLogFull : Code := 0x14E
/-- REPLAY_DIVERGED (R393). -/
def Code.replayDiverged : Code := 0x14F
/-- PREEMPT_TIMEOUT (R393). -/
def Code.preemptTimeout : Code := 0x150
/-- NOT_READY (R393). -/
def Code.notReady : Code := 0x200
/-- BAD_JOB (R393). -/
def Code.badJob : Code := 0x201
/-- BAD_SHARES (R393). -/
def Code.badShares : Code := 0x202
/-- BAD_RESUME (R393). -/
def Code.badResume : Code := 0x203
/-- BAD_ALMANAC (R393). -/
def Code.badAlmanac : Code := 0x204
/-- DEGRADED_REFUSED (R393). -/
def Code.degradedRefused : Code := 0x205
/-- CC_FAULT (R393). -/
def Code.ccFault : Code := 0x300
/-- CC_WATCHDOG (R393). -/
def Code.ccWatchdog : Code := 0x301
/-- IU_FAULT (R393). -/
def Code.iuFault : Code := 0x302
/-- TR_FAULT (R393). -/
def Code.trFault : Code := 0x303
/-- SYNC_FAULT (R393). -/
def Code.syncFault : Code := 0x304
/-- THERMAL_LIMIT (R393). -/
def Code.thermalLimit : Code := 0x305
/-- MGMT_FENCE (R393). -/
def Code.mgmtFence : Code := 0x306
/-- BRINGUP_FAIL (R393). -/
def Code.bringupFail : Code := 0x307

/-- The class field [13:12] of an error-log entry (R394): 0 corrected or notice, 1 task-fatal, 2 core-fatal, 3 refusal. -/
inductive ErrClass where
  | minor
  | taskFatal
  | coreFatal
  | refusal
  deriving DecidableEq, Repr

/-- The two bits of the class (R394). -/
def ErrClass.bits : ErrClass → BitVec 2
  | .minor => 0
  | .taskFatal => 1
  | .coreFatal => 2
  | .refusal => 3

/-- The first code whose condition holds: "the first failing check decides" (R165, R479). -/
def firstFault : List (Bool × Code) → Option Code
  | [] => none
  | (b, c) :: rest => if b then some c else firstFault rest

/-- Either the first fault or, when there is none, the second. -/
def orFault (a : Option Code) (b : Option Code) : Option Code :=
  match a with
  | some c => some c
  | none => b

end Sys2Proof.Machine
end

