-- ==== Sys2Proof/Machine/Formats.lean ====
section
/-! DEFINITION. Number formats, exact values, rounding and conversion (R90 to R108), and the FP32 and FP40 arithmetic
built on one rounding (R101, R109, R136, R178, R179). A finite value is held exactly, as a sign, a natural significand and
a power of two, so no step of the model rounds except where the spec rounds. -/

namespace Sys2Proof.Machine

/-! ### Exact values -/

/-- An exact value: NaN, a signed infinity, or (-1)^neg × m × 2^e with a signed zero at m = 0 (R94). -/
inductive Num where
  | nan
  | inf (neg : Bool)
  | fin (neg : Bool) (m : Nat) (e : Int)
  deriving DecidableEq, Repr

/-- +0. -/
def Num.zero : Num := .fin false 0 0

/-- 1. -/
def Num.one : Num := .fin false 1 0

/-- `m1 × 2^e1 ≤ m2 × 2^e2`. -/
def magLe (m1 : Nat) (e1 : Int) (m2 : Nat) (e2 : Int) : Bool :=
  if e1 ≤ e2 then m1 ≤ m2 <<< (e2 - e1).toNat else m1 <<< (e1 - e2).toNat ≤ m2

/-- Flip the sign (R182): exact. -/
def Num.neg : Num → Num
  | .nan => .nan
  | .inf s => .inf (!s)
  | .fin s m e => .fin (!s) m e

/-- Magnitude. -/
def Num.abs : Num → Num
  | .nan => .nan
  | .inf _ => .inf false
  | .fin _ m e => .fin false m e

/-- Multiply by 2^k exactly (R100, R126). -/
def Num.scale (k : Int) : Num → Num
  | .nan => .nan
  | .inf s => .inf s
  | .fin s m e => .fin s m (e + k)

def Num.isNan : Num → Bool
  | .nan => true
  | _ => false

def Num.isFinite : Num → Bool
  | .fin _ _ _ => true
  | _ => false

def Num.isZero : Num → Bool
  | .fin _ 0 _ => true
  | _ => false

/-- Sign bit; a NaN the core writes has sign 0 (R93). -/
def Num.sign : Num → Bool
  | .nan => false
  | .inf s => s
  | .fin s _ _ => s

/-- The integer `±m × 2^(e - base)` for a base not above `e`. -/
def alignInt (neg : Bool) (m : Nat) (e base : Int) : Int :=
  let v : Int := (m <<< (e - base).toNat : Nat)
  if neg then -v else v

/-- Exact sum under IEEE 754 and R136: NaN and opposite infinities give NaN, an exact zero sum of opposite signs is +0. -/
def Num.add : Num → Num → Num
  | .nan, _ => .nan
  | _, .nan => .nan
  | .inf a, .inf b => if a = b then .inf a else .nan
  | .inf a, _ => .inf a
  | _, .inf b => .inf b
  | .fin s1 m1 e1, .fin s2 m2 e2 =>
    if m1 = 0 ∧ m2 = 0 then .fin (s1 && s2) 0 0
    else
      let base := if e1 ≤ e2 then e1 else e2
      let v := alignInt s1 m1 e1 base + alignInt s2 m2 e2 base
      if v = 0 then .fin false 0 0 else .fin (v < 0) v.natAbs base

/-- Exact product under IEEE 754 (R109, R178): 0 × ∞ is NaN. -/
def Num.mul : Num → Num → Num
  | .nan, _ => .nan
  | _, .nan => .nan
  | .inf a, .inf b => .inf (a != b)
  | .inf a, .fin s m _ => if m = 0 then .nan else .inf (a != s)
  | .fin s m _, .inf b => if m = 0 then .nan else .inf (s != b)
  | .fin s1 m1 e1, .fin s2 m2 e2 => .fin (s1 != s2) (m1 * m2) (e1 + e2)

/-- Exact difference. -/
def Num.sub (a b : Num) : Num := a.add b.neg

/-- Order of two values, none when either is NaN; −0 equals +0 (R179). -/
def Num.cmp : Num → Num → Option Ordering
  | .nan, _ => none
  | _, .nan => none
  | .inf a, .inf b => some (if a = b then .eq else if a then .lt else .gt)
  | .inf a, .fin _ _ _ => some (if a then .lt else .gt)
  | .fin _ _ _, .inf b => some (if b then .gt else .lt)
  | .fin s1 m1 e1, .fin s2 m2 e2 =>
    let base := if e1 ≤ e2 then e1 else e2
    let a := alignInt s1 m1 e1 base
    let b := alignInt s2 m2 e2 base
    some (if a < b then .lt else if a = b then .eq else .gt)

/-- `a < b`, false on NaN. -/
def Num.lt (a b : Num) : Bool := a.cmp b == some .lt

/-- MAX of R146 and R179: NaN when either is NaN, max(+0, −0) = +0. -/
def Num.max (a b : Num) : Num :=
  match a.cmp b with
  | none => .nan
  | some .lt => b
  | some .gt => a
  | some .eq => if a.sign then b else a

/-- MIN of R179: NaN when either is NaN, min(+0, −0) = −0. -/
def Num.min (a b : Num) : Num :=
  match a.cmp b with
  | none => .nan
  | some .lt => a
  | some .gt => b
  | some .eq => if a.sign then a else b

/-- A value is true when it is non-zero and not NaN (R179). -/
def Num.truth (a : Num) : Bool := !a.isNan && !a.isZero

/-! ### Floating-point layouts (R92) -/

/-- Which encodings a layout reserves (R92). -/
inductive Special where
  | ieee   -- exponent all ones: infinity at fraction 0, NaN elsewhere
  | e4m3   -- one NaN per sign, no infinity
  | none   -- every encoding finite
  deriving DecidableEq, Repr

/-- A floating-point layout: sign on top, exponent, fraction (R92). -/
structure FpSpec where
  ebits : Nat
  mbits : Nat
  bias  : Nat
  special : Special
  deriving DecidableEq, Repr

def fp40 : FpSpec := ⟨8, 31, 127, .ieee⟩
def fp32 : FpSpec := ⟨8, 23, 127, .ieee⟩
def bf16 : FpSpec := ⟨8, 7, 127, .ieee⟩
def fp16 : FpSpec := ⟨5, 10, 15, .ieee⟩
def e4m3 : FpSpec := ⟨4, 3, 7, .e4m3⟩
def e5m2 : FpSpec := ⟨5, 2, 15, .ieee⟩
def e3m2 : FpSpec := ⟨3, 2, 3, .none⟩
def e2m3 : FpSpec := ⟨2, 3, 1, .none⟩
def e2m1 : FpSpec := ⟨2, 1, 1, .none⟩

/-- Bits of an encoding. -/
def FpSpec.width (f : FpSpec) : Nat := 1 + f.ebits + f.mbits

/-- The power of two of the last fraction bit of a subnormal (R103). -/
def FpSpec.minUnit (f : FpSpec) : Int := 1 - (f.bias : Int) - f.mbits

/-- The value of an encoding (R92, R93: any NaN encoding is NaN). -/
def FpSpec.decode (f : FpSpec) (w : Nat) : Num :=
  let frac := w % 2 ^ f.mbits
  let ex := (w / 2 ^ f.mbits) % 2 ^ f.ebits
  let neg := (w / 2 ^ (f.mbits + f.ebits)) % 2 = 1
  if f.special = .ieee ∧ ex = 2 ^ f.ebits - 1 then
    (if frac = 0 then .inf neg else .nan)
  else if f.special = .e4m3 ∧ ex = 2 ^ f.ebits - 1 ∧ frac = 2 ^ f.mbits - 1 then .nan
  else if ex = 0 then .fin neg frac f.minUnit
  else .fin neg (2 ^ f.mbits + frac) ((ex : Int) - f.bias - f.mbits)

/-- Significand of the largest finite value (R92). -/
def FpSpec.maxSig (f : FpSpec) : Nat :=
  match f.special with
  | .e4m3 => 2 ^ (f.mbits + 1) - 2
  | _ => 2 ^ (f.mbits + 1) - 1

/-- Power of two of that significand's last bit. -/
def FpSpec.maxExp (f : FpSpec) : Int :=
  match f.special with
  | .ieee => (2 ^ f.ebits - 2 : Int) - f.bias - f.mbits
  | _ => (2 ^ f.ebits - 1 : Int) - f.bias - f.mbits

/-- Encoding of the largest finite value, sign 0. -/
def FpSpec.maxBits (f : FpSpec) : Nat :=
  match f.special with
  | .ieee => (2 ^ f.ebits - 2) * 2 ^ f.mbits + (2 ^ f.mbits - 1)
  | .e4m3 => (2 ^ f.ebits - 1) * 2 ^ f.mbits + (2 ^ f.mbits - 2)
  | .none => (2 ^ f.ebits - 1) * 2 ^ f.mbits + (2 ^ f.mbits - 1)

/-- The canonical NaN (R93), sign 0. -/
def FpSpec.nanBits (f : FpSpec) : Nat :=
  match f.special with
  | .e4m3 => 2 ^ (f.ebits + f.mbits) - 1
  | _ => (2 ^ f.ebits - 1) * 2 ^ f.mbits + 2 ^ (f.mbits - 1)

/-- Infinity, sign 0. -/
def FpSpec.infBits (f : FpSpec) : Nat := (2 ^ f.ebits - 1) * 2 ^ f.mbits

/-- Put the sign bit on an encoding. -/
def FpSpec.signed (f : FpSpec) (neg : Bool) (w : Nat) : Nat :=
  if neg then w + 2 ^ (f.ebits + f.mbits) else w

/-- Encoding of a rounded magnitude `q × 2^u` that does not exceed the largest finite value. -/
def FpSpec.encodeMag (f : FpSpec) (q : Nat) (u : Int) : Nat :=
  if q < 2 ^ f.mbits then q
  else
    let (q, u) := if q = 2 ^ (f.mbits + 1) then (2 ^ f.mbits, u + 1) else (q, u)
    (u + f.mbits + f.bias).toNat * 2 ^ f.mbits + (q - 2 ^ f.mbits)

/-! ### Rounding (R102, R108) -/

/-- RMODE of R100. -/
inductive RMode where
  | rne
  | rtz
  | rup
  | rdn
  | sr
  deriving DecidableEq, Repr

/-- Whether a magnitude with quotient `q` and discarded part `rem / 2^sh` rounds up, `r` being the 16-bit draw of SR. -/
def roundsUp (mode : RMode) (neg : Bool) (r q rem sh : Nat) : Bool :=
  match mode with
  | .rne => 2 * rem > 2 ^ sh || (2 * rem == 2 ^ sh && q % 2 == 1)
  | .rtz => false
  | .rup => !neg && rem > 0
  | .rdn => neg && rem > 0
  | .sr => (rem * 65536) >>> sh + r ≥ 65536

/-- Round `m × 2^e` to a multiple of `2^u`. -/
def roundAt (mode : RMode) (neg : Bool) (r m : Nat) (e u : Int) : Nat :=
  if u ≤ e then m <<< (e - u).toNat
  else
    let sh := (u - e).toNat
    let q := m >>> sh
    let rem := m % 2 ^ sh
    if roundsUp mode neg r q rem sh then q + 1 else q

/-- The unit of the last place of `m × 2^e` in a layout with an unbounded exponent range above (R102). -/
def FpSpec.unit (f : FpSpec) (m : Nat) (e : Int) : Int :=
  let u := e + (Nat.log2 m : Int) - f.mbits
  if u ≤ f.minUnit then f.minUnit else u

/-- The event classes of R105, in its order. -/
inductive Event where
  | none
  | nonfiniteIn
  | nanOut
  | saturation
  | overflowInf
  | underflow
  deriving DecidableEq, Repr

/-- The outcome of one element's conversion: an encoding, or "the block takes scale 0xFF" (R104). -/
structure Conv where
  bits : Nat
  ev   : Event
  blockNan : Bool
  deriving DecidableEq, Repr

/-- The encoding of a finite overflow (R104), by layout, mode and OVF. -/
def FpSpec.overflow (f : FpSpec) (mode : RMode) (ovf neg : Bool) : Conv :=
  let sat : Conv := ⟨f.signed neg f.maxBits, .saturation, false⟩
  let up : Conv :=
    match f.special with
    | .ieee => ⟨f.signed neg f.infBits, .overflowInf, false⟩
    | .e4m3 => ⟨f.nanBits, .nanOut, false⟩
    | .none => ⟨0, .nanOut, true⟩
  if !ovf then sat
  else
    match f.special with
    | .none => up
    | _ =>
      match mode with
      | .rne => up
      | .sr => up
      | .rtz => sat
      | .rup => if neg then sat else up
      | .rdn => if neg then up else sat

/-- Convert an exact value to a floating-point layout (R101 to R105): one rounding, then the special cases of R104. -/
def FpSpec.convert (f : FpSpec) (mode : RMode) (ovf : Bool) (r : Nat) : Num → Conv
  | .nan =>
    match f.special with
    | .none => ⟨0, .nonfiniteIn, true⟩
    | _ => ⟨f.nanBits, .nonfiniteIn, false⟩
  | .inf neg =>
    if !ovf then ⟨f.signed neg f.maxBits, .nonfiniteIn, false⟩
    else
      match f.special with
      | .ieee => ⟨f.signed neg f.infBits, .nonfiniteIn, false⟩
      | .e4m3 => ⟨f.nanBits, .nonfiniteIn, false⟩
      | .none => ⟨0, .nonfiniteIn, true⟩
  | .fin neg m e =>
    if m = 0 then ⟨f.signed neg 0, .none, false⟩
    else
      let u := f.unit m e
      let q := roundAt mode neg r m e u
      if magLe q u f.maxSig f.maxExp then
        ⟨f.signed neg (f.encodeMag q u), if q = 0 then .underflow else .none, false⟩
      else f.overflow mode ovf neg

/-- Convert to a two's-complement integer format of `w` bits with value unit 2^u, clamped to `lo .. hi` (R99, R96). -/
def convertInt (w : Nat) (u : Int) (lo hi : Int) (mode : RMode) (r : Nat) : Num → Conv
  | .nan => ⟨0, .nonfiniteIn, false⟩
  | .inf neg => ⟨(BitVec.ofInt w (if neg then lo else hi)).toNat, .nonfiniteIn, false⟩
  | .fin neg m e =>
    let q : Int := roundAt mode neg r m e u
    let v := if neg then -q else q
    if v < lo then ⟨(BitVec.ofInt w lo).toNat, .saturation, false⟩
    else if hi < v then ⟨(BitVec.ofInt w hi).toNat, .saturation, false⟩
    else ⟨(BitVec.ofInt w v).toNat, if v = 0 ∧ m ≠ 0 then .underflow else .none, false⟩

/-- RNE to a layout with overflow to infinity, as the accumulators and stages round (R101, R109, R136, R178). -/
def FpSpec.rne (f : FpSpec) (v : Num) : Num := f.decode (f.convert .rne true 0 v).bits

/-- RNE to FP40. -/
def rne40 (v : Num) : Num := fp40.rne v

/-- RNE to FP32. -/
def rne32 (v : Num) : Num := fp32.rne v

/-- The FP32 encoding of a value that is an FP32 value. -/
def toF32 (v : Num) : BitVec 32 := BitVec.ofNat 32 (fp32.convert .rne true 0 v).bits

/-- The value of an FP32 encoding. -/
def ofF32 (w : BitVec 32) : Num := fp32.decode w.toNat

/-- The FP40 encoding of a value that is an FP40 value. -/
def toF40 (v : Num) : BitVec 40 := BitVec.ofNat 40 (fp40.convert .rne true 0 v).bits

/-- The value of an FP40 encoding. -/
def ofF40 (w : BitVec 40) : Num := fp40.decode w.toNat

/-- rne40 addition, the accumulation step of R135 and the tree node of R138. -/
def add40 (a b : Num) : Num := rne40 (a.add b)

/-- rne40 multiplication. -/
def mul40 (a b : Num) : Num := rne40 (a.mul b)

/-- FP32 stage operations (R178), one rounding each. -/
def add32 (a b : Num) : Num := rne32 (a.add b)

def mul32 (a b : Num) : Num := rne32 (a.mul b)

def fma32 (a b c : Num) : Num := rne32 ((a.mul b).add c)

/-- IEEE 754 binary32 division of 1.0 by a positive value under RNE (R219): a quotient of 60 bits with a sticky bit. -/
def rcp32 : Num → Num
  | .nan => .nan
  | .inf s => .fin s 0 0
  | .fin s m e =>
    if m = 0 then .inf s
    else
      let k := Nat.log2 m + 60
      let q := 2 ^ k / m
      let sticky := if 2 ^ k % m = 0 then 0 else 1
      rne32 (.fin s (2 * q + sticky) (-(k : Int) - 1 - e))

/-! ### Format codes (R90) -/

/-- The formats of R90; 0xF is reserved. -/
inductive Fmt where
  | f32 | f40 | bf | f16 | e4 | e5 | mx8e4 | mx8e5 | mx6e3 | mx6e2 | mx4 | mxi8 | i8 | i32 | sf16
  deriving DecidableEq, Repr

/-- The format a code names (R90). -/
def Fmt.ofCode (c : BitVec 4) : Option Fmt :=
  match c.toNat with
  | 0 => some .f32
  | 1 => some .f40
  | 2 => some .bf
  | 3 => some .f16
  | 4 => some .e4
  | 5 => some .e5
  | 6 => some .mx8e4
  | 7 => some .mx8e5
  | 8 => some .mx6e3
  | 9 => some .mx6e2
  | 10 => some .mx4
  | 11 => some .mxi8
  | 12 => some .i8
  | 13 => some .i32
  | 14 => some .sf16
  | _ => none

/-- The code of a format (R90). -/
def Fmt.code : Fmt → BitVec 4
  | .f32 => 0
  | .f40 => 1
  | .bf => 2
  | .f16 => 3
  | .e4 => 4
  | .e5 => 5
  | .mx8e4 => 6
  | .mx8e5 => 7
  | .mx6e3 => 8
  | .mx6e2 => 9
  | .mx4 => 10
  | .mxi8 => 11
  | .i8 => 12
  | .i32 => 13
  | .sf16 => 14

/-- Bits of one stored element (R90). -/
def Fmt.bits : Fmt → Nat
  | .f32 => 32
  | .f40 => 40
  | .bf => 16
  | .f16 => 16
  | .e4 => 8
  | .e5 => 8
  | .mx8e4 => 8
  | .mx8e5 => 8
  | .mx6e3 => 6
  | .mx6e2 => 6
  | .mx4 => 4
  | .mxi8 => 8
  | .i8 => 8
  | .i32 => 32
  | .sf16 => 16

/-- Elements of a scale block; 1 for an unblocked format (R90). -/
def Fmt.block : Fmt → Nat
  | .mx8e4 | .mx8e5 | .mx6e3 | .mx6e2 | .mx4 | .mxi8 => 32
  | .sf16 => 256
  | _ => 1

/-- Whether the format carries block scales (R90). -/
def Fmt.blocked (f : Fmt) : Bool := f.block != 1

/-- A Microscaling format (R95). -/
def Fmt.isMx (f : Fmt) : Bool := f.block == 32

/-- Packed bytes of a row of `n` elements (R90). -/
def Fmt.rowBytes (f : Fmt) (n : Nat) : Nat :=
  match f with
  | .sf16 => 516 * ((n + 255) / 256)
  | .mx8e4 | .mx8e5 | .mxi8 => 33 * ((n + 31) / 32)
  | .mx6e3 | .mx6e2 => 25 * ((n + 31) / 32)
  | .mx4 => 17 * ((n + 31) / 32)
  | f => f.bits / 8 * n

/-- The value of one stored element, before any block scale. -/
def Fmt.elemValue (f : Fmt) (w : Nat) : Num :=
  match f with
  | .f32 => fp32.decode w
  | .f40 => fp40.decode w
  | .bf => bf16.decode w
  | .f16 | .sf16 => fp16.decode w
  | .e4 | .mx8e4 => e4m3.decode w
  | .e5 | .mx8e5 => e5m2.decode w
  | .mx6e3 => e3m2.decode w
  | .mx6e2 => e2m3.decode w
  | .mx4 => e2m1.decode w
  | .mxi8 => let v := (BitVec.ofNat 8 w).toInt; .fin (v < 0) v.natAbs (-6)
  | .i8 => let v := (BitVec.ofNat 8 w).toInt; .fin (v < 0) v.natAbs 0
  | .i32 => let v := (BitVec.ofNat 32 w).toInt; .fin (v < 0) v.natAbs 0

/-- The value of an element with its block scale code; code 0xFF reads as NaN (R95 to R97). -/
def Fmt.value (f : Fmt) (scale : Nat) (w : Nat) : Num :=
  if f.blocked then
    if scale = 255 then .nan else (f.elemValue w).scale ((scale : Int) - 127)
  else f.elemValue w

/-- Convert one value to the element encoding of a format (R99, R104); a block format's value is already scaled. -/
def Fmt.convElem (f : Fmt) (mode : RMode) (ovf : Bool) (r : Nat) (v : Num) : Conv :=
  match f with
  | .f32 => fp32.convert mode ovf r v
  | .f40 => fp40.convert mode ovf r v
  | .bf => bf16.convert mode ovf r v
  | .f16 | .sf16 => fp16.convert mode ovf r v
  | .e4 | .mx8e4 => e4m3.convert mode ovf r v
  | .e5 | .mx8e5 => e5m2.convert mode ovf r v
  | .mx6e3 => e3m2.convert mode ovf r v
  | .mx6e2 => e2m3.convert mode ovf r v
  | .mx4 => e2m1.convert mode ovf r v
  | .i8 => convertInt 8 0 (-128) 127 mode r v
  | .i32 => convertInt 32 0 (-2147483648) 2147483647 mode r v
  | .mxi8 =>
    match v with
    | .inf neg => if ovf then ⟨0, .nonfiniteIn, true⟩
        else ⟨(BitVec.ofInt 8 (if neg then -127 else 127)).toNat, .nonfiniteIn, false⟩
    | v =>
      let c := convertInt 8 (-6) (-127) 127 mode r v
      if ovf && c.ev == .saturation then ⟨0, .nanOut, true⟩ else c

/-- M of R98 and of R128: the largest finite element value, as significand and exponent. -/
def Fmt.maxM : Fmt → Nat × Int
  | .e4 | .mx8e4 => (e4m3.maxSig, e4m3.maxExp)
  | .e5 | .mx8e5 => (e5m2.maxSig, e5m2.maxExp)
  | .mx6e3 => (e3m2.maxSig, e3m2.maxExp)
  | .mx6e2 => (e2m3.maxSig, e2m3.maxExp)
  | .mx4 => (e2m1.maxSig, e2m1.maxExp)
  | .mxi8 => (127, -6)
  | .f16 | .sf16 => (fp16.maxSig, fp16.maxExp)
  | .bf => (bf16.maxSig, bf16.maxExp)
  | .f32 => (fp32.maxSig, fp32.maxExp)
  | .f40 => (fp40.maxSig, fp40.maxExp)
  | .i8 => (127, 0)
  | .i32 => (2147483647, 0)

/-- Largest magnitude among the finite values (R98, R113), as an exact value; +0 when there is none. -/
def amaxOf (vs : List Num) : Num :=
  vs.foldl (fun a v => if v.isFinite && a.lt v.abs then v.abs else a) .zero

/-- The block exponent of R98: the smallest integer x with amax ≤ M × 2^x, clamped to ±127; 0 for amax 0. -/
def blockExp (mm : Nat × Int) : Num → Int
  | .fin _ m e =>
    if m = 0 then 0
    else
      let x0 := (e + Nat.log2 m) - (mm.2 + Nat.log2 mm.1)
      let x := if magLe m e mm.1 (mm.2 + x0) then x0 else x0 + 1
      if x < -127 then -127 else if 127 < x then 127 else x
  | _ => 0

/-! ### Conversion control (R100) -/

/-- RMODE of a CVT byte. -/
def cvtMode (cvt : BitVec 8) : RMode :=
  match (cvt.extractLsb' 0 3).toNat with
  | 0 => .rne
  | 1 => .rtz
  | 2 => .rup
  | 3 => .rdn
  | _ => .sr

/-- OVF of a CVT byte. -/
def cvtOvf (cvt : BitVec 8) : Bool := cvt.getLsbD 3

/-- A CVT byte holds no reserved RMODE and no RsvZ bit (R100). -/
def cvtOk (cvt : BitVec 8) : Bool := (cvt.extractLsb' 0 3).toNat ≤ 4 && cvt.extractLsb' 4 4 == 0#4

/-- One converted element: its encoding and its event. -/
abbrev ConvElem := Nat × Event

/-- Convert one block (or one unblocked element) under `cvt`: the scale code and the elements (R98, R104, R105).
`vs` are the sources after any pre-scale and `draws` the 16-bit draws of SR. -/
def Fmt.convBlock (f : Fmt) (cvt : BitVec 8) (vs : List Num) (draws : List Nat) : Nat × List ConvElem :=
  let mode := cvtMode cvt
  let ovf := cvtOvf cvt
  if f.blocked then
    let x := blockExp f.maxM (amaxOf vs)
    let cs := (vs.zip draws).map fun (v, r) => f.convElem mode ovf r (v.scale (-x))
    if vs.any Num.isNan || cs.any Conv.blockNan then
      (255, vs.map fun v => (0, if v.isFinite then Event.nanOut else Event.nonfiniteIn))
    else ((x + 127).toNat, cs.map fun c => (c.bits, c.ev))
  else
    (0, (vs.zip draws).map fun (v, r) => let c := f.convElem mode ovf r v; (c.bits, c.ev))

/-! ### The FP32 split of the arrays (R110) and products (R109) -/

/-- The RNE FP40 value of a product beyond the largest finite FP40 value, the exact product otherwise (R109). -/
def product (a b : Num) : Num :=
  match a.mul b with
  | .fin s m e => if magLe m e fp40.maxSig fp40.maxExp then .fin s m e else rne40 (.fin s m e)
  | v => v

/-- A product with an FP32 operand: exact, then rounded once to FP40 (R110). -/
def product32 (a b : Num) : Num := rne40 (a.mul b)

end Sys2Proof.Machine
end

