-- ==== Sys2Proof/Decode.lean ====
section
/-! DEFINITION. Reading a command: the 64 bytes of a program command to a `Cmd` (R28 to R37, R48 and the body layouts of
the engine chapters), and the decode-stage checks that depend on the command alone (R29, R55). The opcode table gives its
rows no bits, so `decodeTableWord` has no word to read. -/

namespace Sys2Proof

open Machine

/-- The command a word of the opcode table spells: the table gives no row any bits, so there is none. -/
def decodeTableWord (_nbits _w : Nat) : Option Instr := none

/-! ### Fields -/

/-- Bits [lo + n − 1 : lo] (R5). -/
def fld {w : Nat} (x : BitVec w) (lo n : Nat) : BitVec n := x.extractLsb' lo n

/-- One bit as a truth value. -/
def bit {w : Nat} (x : BitVec w) (i : Nat) : Bool := x.getLsbD i

/-- The queue number. -/
def Header.q (h : Header) : Nat := h.queue.toNat

/-- A tile view from its 96 bits (R30); none when a RsvZ bit is set. -/
def parseView (x : BitVec 96) : Option View :=
  if bit x 7 || bit x 15 then none
  else some ⟨fld x 0 6, bit x 6, fld x 8 4, fld x 12 3, fld x 16 16, fld x 32 16, fld x 48 22, fld x 70 16, fld x 86 10⟩

/-- The three views of a command (R30): bytes 16, 28 and 40. -/
def cmdView (w : CmdWord) (i : Nat) : Option View := parseView (fld w (128 + 96 * i) 96)

/-- The header (R28). -/
def parseHeader (w : CmdWord) : Header where
  queue := fld w 8 5
  silent := bit w 13
  pen := bit w 14
  psense := bit w 15
  psel := fld w 16 4
  part := fld w 20 2
  version := bit w 22
  vtag := bit w 23
  fuse := fld w 24 8
  waitA := ⟨fld w 32 6, fld w 38 2, fld w 40 16, fld w 56 4⟩
  vstage := fld w 60 4
  waitB := ⟨fld w 64 6, fld w 70 2, fld w 72 16, fld w 88 4⟩
  mbatch := fld w 92 8
  sigA := ⟨fld w 100 6, fld w 106 8⟩
  sigB := ⟨fld w 114 6, fld w 120 8⟩

/-- The parameters of a matrix command from bytes 52 to 63 (R161). `kind` 0 MM_OS, 1 MM_ST, 2 MM_EW, 3 MM_DRAIN decides
what bits [77:67] hold; none when a bit the opcode does not use is set. -/
def parseMxParams (kind : Nat) (x : BitVec 96) : Option MxParams :=
  let base : MxParams := {
    m := fld x 0 12, n := fld x 12 12, k := fld x 24 17, plane := bit x 41, start := bit x 42, hold := bit x 43,
    outmode := bit x 44, cvt := fld x 45 8, rmask := bit x 53, bmask := bit x 54,
    smode := 0, sreg := false, sload := false, tm1 := 0, sfmt := 0, op := 0, opnd := 0, osf := 0 }
  if fld x 55 12 != 0#12 || fld x 78 18 != 0#18 then none
  else if kind = 1 then
    some { base with smode := fld x 67 2, sreg := bit x 69, sload := bit x 70, tm1 := fld x 71 3, sfmt := fld x 74 4 }
  else if kind = 2 then
    if bit x 77 then none
    else some { base with op := fld x 67 2, opnd := fld x 69 2, osf := fld x 71 6 }
  else if fld x 67 11 != 0#11 then none
  else some base

/-- The body of a matrix command. -/
def parseMx (kind : Nat) (w : CmdWord) : Option MxBody :=
  match cmdView w 0, cmdView w 1, cmdView w 2, parseMxParams kind (fld w 416 96) with
  | some v0, some v1, some v2, some p => some ⟨v0, v1, v2, p⟩
  | _, _, _, _ => none

/-- The body of VX_MAP, VX_REDUCE, CU_MAP and CU_REDUCE (R190). -/
def parseVx (w : CmdWord) : Option VxBody :=
  let x : BitVec 96 := fld w 416 96
  if bit x 5 || fld x 36 60 != 0#60 then none
  else
    match cmdView w 0, cmdView w 1, cmdView w 2 with
    | some v0, some v1, some v2 =>
      some ⟨v0, v1, v2, ⟨fld x 0 5, fld x 6 6, fld x 12 8, fld x 20 2, fld x 22 2, bit x 24, fld x 25 4, bit x 29, fld x 30 6⟩⟩
    | _, _, _ => none

/-- The body of VX_AUX (R194). -/
def parseAux (w : CmdWord) : Option AuxBody :=
  let x : BitVec 96 := fld w 416 96
  if fld x 8 88 != 0#88 then none
  else
    match cmdView w 0, cmdView w 1, cmdView w 2 with
    | some v0, some v1, some v2 => some ⟨v0, v1, v2, fld x 0 2, fld x 2 2, fld x 4 3, bit x 7⟩
    | _, _, _ => none

/-- The body of the four image loads (R195): a 5-bit slot for programs, a 3-bit table number for tables. -/
def parseVxLoad (table : Bool) (w : CmdWord) : Option VxLoadBody :=
  let x : BitVec 96 := fld w 416 96
  let used := if table then 3 else 5
  if x >>> used != 0#96 then none
  else
    match cmdView w 0, cmdView w 1, cmdView w 2 with
    | some v0, some v1, some v2 => some ⟨v0, v1, v2, fld x 0 5⟩
    | _, _, _ => none

/-- The body of STREAM (R76), bits from byte 16. -/
def parseStream (w : CmdWord) : Option StreamBody :=
  let b : BitVec 384 := fld w 128 384
  if fld b 54 10 != 0#10 || fld b 380 4 != 0#4 then none
  else some {
    region := fld b 0 6, half := bit b 6, dir := bit b 7, esize := fld b 8 3, trans := bit b 11, tu := fld b 12 2,
    slot := fld b 14 2, notify := bit b 16, mcast := bit b 17, notifyEc := fld b 18 6, notifyInc := fld b 24 8,
    offset := fld b 32 22, far := fld b 64 64, count0 := fld b 128 16, count1 := fld b 144 16, count2 := fld b 160 16,
    count3 := fld b 176 16, count4 := fld b 192 16, stride0 := fld b 208 32, stride1 := fld b 240 32,
    stride2 := fld b 272 32, stride3 := fld b 304 32, stride4 := fld b 336 32, group := fld b 368 12 }

/-- TRANSPOSE (R87): view 2 and bytes 53 to 63 zero, TESIZE in bits [1:0] of byte 52. -/
def parseTranspose (w : CmdWord) : Option TransposeBody :=
  if fld w 320 96 != 0#96 || fld w 418 94 != 0#94 then none
  else
    match cmdView w 0, cmdView w 1 with
    | some v0, some v1 => some ⟨v0, v1, fld w 416 2⟩
    | _, _ => none

/-- LOOP (R48). -/
def parseLoop (b : BitVec 384) : Option LoopBody :=
  if bit b 39 || fld b 48 336 != 0#336 then none
  else some ⟨fld b 0 32, fld b 32 6, bit b 38, fld b 40 8⟩

/-- SET_EC (R36). -/
def parseSetEc (b : BitVec 384) : Option SetEcBody :=
  if bit b 7 || fld b 24 360 != 0#360 then none else some ⟨fld b 0 6, bit b 6, fld b 8 16⟩

/-- SET_PD (R37). -/
def parseSetPd (b : BitVec 384) : Option SetPdBody :=
  if bit b 7 || fld b 44 340 != 0#340 then none
  else some ⟨fld b 0 4, fld b 4 2, bit b 6, fld b 8 6, fld b 14 6, fld b 20 6, fld b 26 2, fld b 28 16⟩

/-- BARRIER (R300). -/
def parseBarrier (b : BitVec 384) : Option BarrierBody :=
  if fld b 14 2 != 0#2 || fld b 25 359 != 0#359 then none else some ⟨fld b 0 8, fld b 8 6, fld b 16 8, bit b 24⟩

/-- CAL_LOAD (R291). -/
def parseCalLoad (b : BitVec 384) : Option CalLoadBody :=
  if bit b 7 || fld b 30 354 != 0#354 then none else some ⟨fld b 0 6, bit b 6, fld b 8 22⟩

/-- REGION_SET (R69). -/
def parseRegionSet (b : BitVec 384) : Option RegionSetBody :=
  if fld b 6 58 != 0#58 || fld b 320 64 != 0#64 then none else some ⟨fld b 0 6, fld b 64 256⟩

/-- REGION_SWAP (R70). -/
def parseRegionSwap (b : BitVec 384) : Option (BitVec 6) :=
  if fld b 6 378 != 0#378 then none else some (fld b 0 6)

/-- REGION_ATTR (R71). -/
def parseRegionAttr (b : BitVec 384) : Option RegionAttrBody :=
  if fld b 12 372 != 0#372 then none
  else some ⟨fld b 0 6, bit b 6, bit b 7, bit b 8, bit b 9, bit b 10, bit b 11⟩

/-- MASK_SET (R171). -/
def parseMaskSet (b : BitVec 384) : Option MaskSetBody :=
  if fld b 320 64 != 0#64 then none else some ⟨fld b 0 256, fld b 256 64⟩

/-- ARRAY_MODE (R172). -/
def parseArrayMode (b : BitVec 384) : Option (BitVec 2) :=
  if fld b 2 382 != 0#382 then none else some (fld b 0 2)

/-- The body of an assigned opcode (R34, R160, R189): the outer none is an unassigned opcode, the inner a RsvZ bit set. -/
def parseOp (w : CmdWord) : Option (Option Op) :=
  let b : BitVec 384 := fld w 128 384
  match (fld w 0 8).toNat with
  | 0x01 => some ((parseLoop b).map .loop)
  | 0x02 => some ((parseSetEc b).map .setEc)
  | 0x03 => some ((parseSetPd b).map .setPd)
  | 0x04 => some ((parseBarrier b).map .barrier)
  | 0x05 => some ((parseCalLoad b).map .calLoad)
  | 0x06 => some ((parseRegionSet b).map .regionSet)
  | 0x07 => some ((parseRegionSwap b).map .regionSwap)
  | 0x08 => some ((parseRegionAttr b).map .regionAttr)
  | 0x0E => some (if b = 0#384 then some .nop else none)
  | 0x0F => some (if b = 0#384 then some .fin else none)
  | 0x10 => some ((parseMx 0 w).map .mmOs)
  | 0x11 => some ((parseMx 1 w).map .mmSt)
  | 0x12 => some ((parseMx 2 w).map .mmEw)
  | 0x13 => some ((parseMx 3 w).map .mmDrain)
  | 0x14 => some ((parseMaskSet b).map .maskSet)
  | 0x15 => some ((parseArrayMode b).map .arrayMode)
  | 0x30 => some ((parseVx w).map .vxMap)
  | 0x31 => some ((parseVx w).map .vxReduce)
  | 0x32 => some ((parseAux w).map .vxAux)
  | 0x33 => some ((parseVxLoad false w).map .vxProg)
  | 0x34 => some ((parseVxLoad true w).map .vxTable)
  | 0x40 => some ((parseStream w).map .stream)
  | 0x41 => some ((parseTranspose w).map .transpose)
  | 0x50 => some ((parseVx w).map .cuMap)
  | 0x51 => some ((parseVx w).map .cuReduce)
  | 0x52 => some ((parseVxLoad false w).map .cuProg)
  | 0x53 => some ((parseVxLoad true w).map .cuTable)
  | _ => none

/-- Read a command (R29, R34): an unassigned opcode is ILLEGAL_OPCODE, a RsvZ bit set is ILLEGAL_COMMAND. -/
def parseCmd (w : CmdWord) : Except Code Cmd :=
  match parseOp w with
  | none => .error Code.illegalOpcode
  | some none => .error Code.illegalCommand
  | some (some op) => .ok ⟨parseHeader w, op⟩

/-! ### Checks on the command alone -/

/-- The queues an opcode accepts (R32, R34, R160, R189, R406). -/
def Op.queueOk (op : Op) (h : Header) : Bool :=
  let q := h.queue.toNat
  match op with
  | .loop _ | .setEc _ | .setPd _ | .barrier _ | .calLoad _ | .regionSet _ | .regionSwap _ | .regionAttr _ | .fin => q == 22
  | .nop => q ≤ 22
  | .mmOs _ | .mmSt _ | .mmEw _ | .mmDrain _ | .maskSet _ => q < 8
  | .arrayMode _ => q < 8 && q % 2 == 0 && h.part == 0#2
  | .vxMap _ | .vxReduce _ | .vxAux _ | .vxProg _ | .vxTable _ => q == 8
  | .stream _ => 10 ≤ q && q ≤ 17
  | .transpose _ => 18 ≤ q && q ≤ 21
  | .cuMap _ | .cuReduce _ | .cuProg _ | .cuTable _ => q == 9

/-- A chain that a row of R208 lets the opcode name. 0 is no chain. -/
def Op.fuseOk (op : Op) (fuse : BitVec 8) : Bool :=
  match fuse.toNat with
  | 0 => true
  | 0x01 | 0x02 | 0x03 => match op with | .mmOs _ | .mmSt _ | .mmEw _ | .mmDrain _ => true | _ => false
  | 0x04 => match op with | .mmOs _ => true | .mmSt b => b.p.smode == 0#2 | _ => false
  | 0x10 | 0x14 | 0x15 => match op with | .mmOs _ => true | _ => false
  | 0x11 => match op with | .mmDrain _ => true | _ => false
  | 0x12 | 0x18 | 0x19 | 0x1A | 0x1B => match op with | .mmOs _ => true | .mmSt b => b.p.smode.toNat ≤ 1 | _ => false
  | 0x20 | 0x21 => match op with | .vxMap _ => true | _ => false
  | _ => false

/-- Chains with no tile output (R208). -/
def fuseNoTile (fuse : BitVec 8) : Bool := [0x10, 0x12, 0x14, 0x18, 0x1A].contains fuse.toNat

/-- Row-wise chains of the arrays (R208, R232). -/
def fuseRowWise (fuse : BitVec 8) : Bool := 0x10 ≤ fuse.toNat && fuse.toNat ≤ 0x1B

/-- Chains for which OUTMODE must be 0 (R208). -/
def fuseOut0 (fuse : BitVec 8) : Bool := [0x02, 0x11, 0x15, 0x19, 0x1B].contains fuse.toNat

/-- A wait of comparison 0 carries nothing (R29). -/
def Wait.ok (w : Wait) : Bool := w.cmp != 0#2 || (w.ec == 0#6 && w.thr == 0#16 && w.tstep == 0#4)

/-- A signal of increment 0 names no counter (R29). -/
def Signal.ok (g : Signal) : Bool := g.inc != 0#8 || g.ec == 0#6

/-- No signal. -/
def Signal.empty (g : Signal) : Bool := g.inc == 0#8 && g.ec == 0#6

/-- The commands that have a versioned read, and so may set VTAG_VALID (R246). -/
def Op.versionable (op : Op) : Bool :=
  match op with
  | .mmOs _ | .mmSt _ | .vxMap _ | .vxReduce _ | .transpose _ => true
  | .mmEw b => b.p.opnd != 0#2
  | .stream b => b.dir
  | _ => false

/-- Header fields an opcode requires to be zero (R35, R48, R69 to R71, R76, R193, R246, R291, R300, R406). -/
def Op.headerOk (op : Op) (h : Header) : Bool :=
  let noTags := h.part == 0#2 && !h.version && !h.vtag && h.fuse == 0#8
  (h.vtag → op.versionable) &&
  match op with
  | .loop _ => !h.silent && noTags && h.sigA.empty && h.sigB.empty
  | .fin => h.sigA.empty && h.sigB.empty
  | .barrier _ | .calLoad _ | .regionSet _ | .regionSwap _ | .regionAttr _ => noTags
  | .vxAux _ => h == Header.plain 8
  | .stream _ => h.part == 0#2
  | _ => true

/-- The header rules of R29 common to every opcode. -/
def Header.ok (h : Header) : Bool :=
  (h.pen || (h.psel == 0#4 && !h.psense)) && (h.queue.toNat < 8 || h.part == 0#2) &&
  h.waitA.ok && h.waitB.ok && h.sigA.ok && h.sigB.ok

/-- LSEL codes 5 to 7 are reserved (R30). -/
def View.ok (v : View) : Bool := v.lsel.toNat ≤ 4

/-- The view is all zero. -/
def View.isZero (v : View) : Bool := v == View.zero

/-- The views an opcode uses, by position: the first list must name a format, views outside it must be zero (R30, R91). -/
def Op.views (op : Op) (h : Header) : List View × List View :=
  match op with
  | .mmOs b => if b.p.hold || fuseNoTile h.fuse then ([b.v0, b.v1], [b.v2]) else ([b.v0, b.v1, b.v2], [])
  | .mmSt b =>
    let out := b.p.hold || fuseNoTile h.fuse
    let u := b.v0 :: ((if b.p.sload then [b.v1] else []) ++ (if out then [] else [b.v2]))
    (u, (if b.p.sload then [] else [b.v1]) ++ (if out then [b.v2] else []))
  | .mmEw b =>
    ((if b.p.opnd == 0#2 then [] else [b.v0]) ++ (if b.p.hold then [] else [b.v2]),
     (if b.p.opnd == 0#2 then [b.v0] else []) ++ b.v1 :: (if b.p.hold then [b.v2] else []))
  | .mmDrain b => ([b.v2], [b.v0, b.v1])
  | .vxMap b => (b.v0 :: (if b.v1.isZero then [b.v2] else [b.v1, b.v2]), [])
  | .vxReduce b => (b.v0 :: ((if b.v1.isZero then [] else [b.v1]) ++ (if b.v2.isZero then [] else [b.v2])), [])
  | .cuMap b => (b.v0 :: (if b.v1.isZero then [b.v2] else [b.v1, b.v2]), [])
  | .cuReduce b => (b.v0 :: ((if b.v1.isZero then [] else [b.v1]) ++ (if b.v2.isZero then [] else [b.v2])), [])
  | .vxAux b => ([b.v0, b.v1, b.v2].filter (fun v => !v.isZero), [])
  | .vxProg b | .vxTable b | .cuProg b | .cuTable b => ([b.v0], [b.v1, b.v2])
  | .transpose b => ([b.v0, b.v1], [])
  | _ => ([], [])

/-- The formats of a view list that R91 refuses outright. -/
def viewsFormatBad (vs : List View) : Bool := vs.any fun v => (Fmt.ofCode v.format).isNone

/-! ### Matrix commands -/

/-- Operand classes of R163. -/
inductive OpClass where
  | fp8
  | int8
  | mxWide   -- MXFP8, MXFP6, MXINT8
  | mx4
  | half     -- BF16, FP16
  | single
  | bad
  deriving DecidableEq, Repr

/-- The class of a format (R163). -/
def opClass (f : Fmt) : OpClass :=
  match f with
  | .e4 | .e5 => .fp8
  | .i8 => .int8
  | .mx8e4 | .mx8e5 | .mx6e3 | .mx6e2 | .mxi8 => .mxWide
  | .mx4 => .mx4
  | .bf | .f16 => .half
  | .f32 => .single
  | .f40 | .i32 | .sf16 => .bad

/-- Twice the step time c of a pair in OS mode, none for a pair outside R163 (R139). -/
def pairTime2 (a b : Fmt) : Option Nat :=
  match opClass a, opClass b with
  | .fp8, .fp8 => some 2
  | .int8, .int8 => some 2
  | .mxWide, .mxWide => some 2
  | .mxWide, .mx4 => some 2
  | .mx4, .mxWide => some 2
  | .mx4, .mx4 => some 1
  | .half, .half => some 4
  | .half, .fp8 => some 4
  | .fp8, .half => some 4
  | .single, .single => some 36
  | .single, .fp8 => some 12
  | .fp8, .single => some 12
  | .single, .half => if b = .bf then some 12 else none
  | .half, .single => if a = .bf then some 12 else none
  | _, _ => none

/-- Twice the step time in a stationary mode: MXFP4 pairs take a whole cycle (R139, R163). -/
def pairTimeSt2 (a b : Fmt) : Option Nat := (pairTime2 a b).map fun c => if c = 1 then 2 else c

/-- K × c in whole cycles, from twice c (R139): ⌈K/2⌉ at c = 0.5. -/
def stepsTime (k c2 : Nat) : Nat := (k * c2 + 1) / 2

/-- The operand pair of a product command by format codes: A and B of R163. -/
def mxPair (op : Op) : Option (BitVec 4 × BitVec 4 × Bool) :=
  match op with
  | .mmOs b => some (b.v0.format, b.v1.format, false)
  | .mmSt b => some (b.v0.format, b.p.sfmt, true)
  | _ => none

/-- Whether the pair is accepted, and twice its step time (R163). -/
def mxPairTime (a b : BitVec 4) (stat : Bool) : Option Nat :=
  match Fmt.ofCode a, Fmt.ofCode b with
  | some fa, some fb => if stat then pairTimeSt2 fa fb else pairTime2 fa fb
  | _, _ => none

/-- The output formats R164 accepts. `bothInt8` says both operands are INT8, or that the command has no product. -/
def outFmtOk (outmode bothInt8 : Bool) (f : Fmt) : Bool :=
  if outmode then
    match f with
    | .f40 | .f32 | .bf => true
    | _ => false
  else
    match f with
    | .i32 => bothInt8
    | .sf16 => false
    | _ => true

/-- The parameters of a computing matrix command, if it is one. -/
def Op.mx? (op : Op) : Option MxBody :=
  match op with
  | .mmOs b | .mmSt b | .mmEw b | .mmDrain b => some b
  | _ => none

/-- Fields of `MxParams` an opcode does not use are zero (R161). -/
def Op.mxUnusedZero (op : Op) : Bool :=
  match op with
  | .mmOs b => b.p.smode == 0#2 && !b.p.sreg && !b.p.sload && b.p.tm1 == 0#3 && b.p.sfmt == 0#4 && b.p.op == 0#2 &&
      b.p.opnd == 0#2 && b.p.osf == 0#6
  | .mmSt b => b.p.op == 0#2 && b.p.opnd == 0#2 && b.p.osf == 0#6
  | .mmEw b => b.p.smode == 0#2 && !b.p.sreg && !b.p.sload && b.p.tm1 == 0#3 && b.p.sfmt == 0#4 && b.p.k == 0#17 &&
      !b.p.start
  | .mmDrain b => b.p.smode == 0#2 && !b.p.sreg && !b.p.sload && b.p.tm1 == 0#3 && b.p.sfmt == 0#4 && b.p.op == 0#2 &&
      b.p.opnd == 0#2 && b.p.osf == 0#6 && b.p.k == 0#17 && !b.p.start && !b.p.hold
  | _ => true

/-- START, END, OUTMODE, CVT and views zero where R161, R208 and R232 require it. -/
def Op.mxZeroOk (op : Op) (h : Header) : Bool :=
  match op.mx? with
  | none => true
  | some b =>
    let p := b.p
    op.mxUnusedZero && cvtOk p.cvt && (!p.hold || (!p.outmode && p.cvt == 0#8)) &&
    (h.fuse == 0#8 || !p.hold) &&
    (!fuseNoTile h.fuse || (!p.outmode && p.cvt == 0#8)) && (!fuseOut0 h.fuse || !p.outmode) &&
    (!fuseRowWise h.fuse || (!p.rmask && !p.bmask)) &&
    (h.fuse != 4#8 || (!p.start && p.k != 0#17 && (match op with | .mmSt b => b.p.sload | _ => true)))

/-- The formats of a matrix command by its literal codes (R132, R146, R163, R164, R215). -/
def Op.mxFormatOk (op : Op) (h : Header) : Bool :=
  match op.mx? with
  | none => true
  | some b =>
    let pairOk := match mxPair op with
      | none => true
      | some (a, c, st) => (mxPairTime a c st).isSome
    let int8 := match mxPair op with
      | none => true
      | some (a, c, _) => a == 12#4 && c == 12#4
    let outUsed := !b.p.hold && !fuseNoTile h.fuse
    let outOk := !outUsed || (match Fmt.ofCode b.v2.format with
      | none => false
      | some f => outFmtOk b.p.outmode int8 f && (h.fuse != 2#8 || f = .e4 || f = .e5))
    let ewOk := match op with
      | .mmEw b => b.p.opnd == 0#2 || (match Fmt.ofCode b.v0.format with
          | some .f32 | some .bf | some .f40 => true
          | _ => false)
      | _ => true
    let loadOk := match op with
      | .mmSt b => !b.p.sload || (match Fmt.ofCode b.v1.format with
          | some .f40 | some .i32 | some .sf16 => false
          | _ => true)
      | _ => true
    pairOk && outOk && ewOk && loadOk

/-- The view shapes of R162 that do not depend on the partition mode, and the limits of R141 for MM_OS. -/
def Op.mxShapeOk (op : Op) (h : Header) : Bool :=
  match op.mx? with
  | none => true
  | some b =>
    let m := b.p.m.toNat
    let n := b.p.n.toNat
    let k := b.p.k.toNat
    let outUsed := !b.p.hold && !fuseNoTile h.fuse
    let dim (v : View) (r c : Nat) : Bool := v.rows.toNat == r && v.cols.toNat == c
    match op with
    | .mmOs _ =>
      k ≤ 65536 && dim b.v0 0 m && dim b.v1 0 n && (!outUsed || dim b.v2 m n) &&
      (match mxPairTime b.v0.format b.v1.format false with
        | some c2 => stepsTime k c2 ≤ 65536
        | none => false)
    | .mmSt _ =>
      let row := b.p.smode.getLsbD 0
      let is := b.p.smode.getLsbD 1
      k ≤ 65536 && dim b.v0 m k && (!b.p.sload || (if row then dim b.v1 n k else dim b.v1 k n)) &&
      (!outUsed || (if is then dim b.v2 n m else dim b.v2 m n))
    | .mmEw _ =>
      (match b.p.opnd.toNat with
        | 0 => true
        | 1 => dim b.v0 1 n
        | 2 => dim b.v0 1 m
        | _ => dim b.v0 m n) && (!outUsed || dim b.v2 m n) && b.p.op != 3#2 && (b.p.osf == 0#6 || b.p.opnd == 0#2)
    | _ => dim b.v2 m n

/-! ### Vector commands -/

/-- The computing vector commands share one body (R189, R406). -/
def Op.vx? (op : Op) : Option (VxBody × Bool) :=
  match op with
  | .vxMap b | .cuMap b => some (b, false)
  | .vxReduce b | .cuReduce b => some (b, true)
  | _ => none

/-- R196 row 1 on the parameters: SFBASE, CVT, AXIS, ROP, PD_EN, SFW_EN and unused fields. -/
def VxBody.paramsOk (b : VxBody) (reduce : Bool) (h : Header) : Bool :=
  let p := b.p
  p.sfbase.toNat ≤ 56 && cvtOk p.cvt && (p.pdEn || p.pdIdx == 0#4) && (p.sfwEn || p.sfw == 0#6) &&
  (if reduce then
    p.axis != 0#2 && p.rop != 3#2 && ((!p.pdEn && !p.sfwEn) || p.axis == 3#2) && (!b.v2.isZero || p.pdEn || p.sfwEn)
  else p.axis == 0#2 && p.rop == 0#2 && !p.pdEn && !p.sfwEn) &&
  (h.fuse == 0#8 || (p.prog == 0#5 && b.v1.isZero == (h.fuse == 0x20#8)))

/-- An input view's shape against the domain (R191). -/
def View.fits (v : View) (m n : Nat) : Bool :=
  (v.rows.toNat == m || v.rows.toNat == 1) && (v.cols.toNat == n || v.cols.toNat == 1)

/-- The format code of a view, none when reserved. -/
def View.fmt? (v : View) : Option Fmt := Fmt.ofCode v.format

/-- The domain of a computing vector command (R191, R199): view 2 for a map, view 0 for a reduction, M × A.COLS for a row
scatter and the index view's M × N for an element scatter. -/
def vxDomain (b : VxBody) (reduce : Bool) (aux : Option AuxBody) : Nat × Nat :=
  if reduce then (b.v0.rows.toNat, b.v0.cols.toNat)
  else
    match aux with
    | some a =>
      if a.idxMode = 3#3 then (a.v2.rows.toNat, b.v0.cols.toNat)
      else if a.idxMode = 4#3 then (a.v2.rows.toNat, a.v2.cols.toNat)
      else (b.v2.rows.toNat, b.v2.cols.toNat)
    | none => (b.v2.rows.toNat, b.v2.cols.toNat)

/-- The command gathers by its index view (R199). -/
def gathers (aux : Option AuxBody) : Bool := match aux with | some a => a.idxMode == 1#3 || a.idxMode == 2#3 | none => false

/-- Shapes of the compute command's own views (R191, R199, R200). A view 0 that is all zero is not supplied (R30, R196; log
entry 19): a gather and a chain need one. R199 states no shape of view 2 for ROWSCATTER; its columns must be those of the rows scattered (log
entry 138). -/
def vxShapeOk (b : VxBody) (reduce : Bool) (aux : Option AuxBody) (chain : Bool) : Bool :=
  let (m, n) := vxDomain b reduce aux
  let idx := match aux with | some a => a.idxMode.toNat | none => 0
  let aOk :=
    if gathers aux then !b.v0.isZero && (idx != 1 || b.v0.cols.toNat == n)
    else (!chain && b.v0.isZero) || b.v0.fits m n
  let bOk := b.v1.isZero || b.v1.fits m n
  let outOk :=
    if reduce then
      b.v2.isZero ||
      (match b.p.axis.toNat with
        | 1 => b.v2.rows.toNat == m && b.v2.cols.toNat == 1
        | 2 => b.v2.rows.toNat == 1 && b.v2.cols.toNat == n
        | _ => b.v2.rows.toNat == 1 && b.v2.cols.toNat == 1)
    else idx != 3 || b.v2.cols.toNat == n
  aOk && bOk && outOk

/-- Shapes of the views of a VX_AUX: C, mask and index (R191, R197, R199). -/
def auxShapeOk (b : VxBody) (reduce : Bool) (a : AuxBody) : Bool :=
  let (m, n) := vxDomain b reduce (some a)
  (a.v0.isZero || a.v0.fits m n) &&
  (match a.maskMode.toNat with
    | 0 => true
    | 1 => a.v1.rows.toNat == m && a.v1.cols.toNat == (n + 7) / 8
    | _ => a.v1.rows.toNat == 1 && a.v1.cols.toNat == (m + 7) / 8) &&
  (match a.idxMode.toNat with
    | 0 => true
    | 1 | 3 => a.v2.rows.toNat == m && a.v2.cols.toNat == 1
    | _ => a.v2.rows.toNat == m && a.v2.cols.toNat == n) &&
  !(a.idxMode != 0#3 && reduce)

/-- Formats of the compute command's own views by literal code (R191, R196): reductions write FP32, FP40 or BF16. -/
def vxFormatOk (b : VxBody) (reduce : Bool) : Bool :=
  let used := b.v0 :: ((if b.v1.isZero then [] else [b.v1]) ++ (if b.v2.isZero then [] else [b.v2]))
  let outOk := !reduce || b.v2.isZero || (match b.v2.fmt? with | some .f32 | some .f40 | some .bf => true | _ => false)
  !viewsFormatBad used && outOk

/-- Formats of the views of a VX_AUX: masks are INT8, indices INT32 (R197, R199). -/
def auxFormatOk (a : AuxBody) : Bool :=
  !(viewsFormatBad ([a.v0, a.v1, a.v2].filter fun v => !v.isZero)) &&
  (a.maskMode == 0#2 || a.v1.fmt? == some .i8) && (a.idxMode == 0#3 || a.v2.fmt? == some .i32)

/-- VX_AUX parameters (R194): reserved codes, SCATOP outside the scatter modes, views zero exactly when unused. -/
def AuxBody.ok (a : AuxBody) : Bool :=
  a.maskMode != 3#2 && a.maskFill != 3#2 && a.idxMode.toNat ≤ 4 && (!a.scatOp || a.idxMode.toNat ≥ 3) &&
  (a.v1.isZero == (a.maskMode == 0#2)) && (a.v2.isZero == (a.idxMode == 0#3)) && a.v0.ok && a.v1.ok && a.v2.ok

/-- Image loads (R195): BAD_FORMAT first, then the shape. -/
def VxLoadBody.fault (b : VxLoadBody) (table : Bool) : Option Code :=
  let r := b.v0.rows.toNat
  let c := b.v0.cols.toNat
  firstFault [
    (b.v0.format != 12#4, Code.badFormat),
    (if table then r != 1 || c < 32 || c % 16 != 0 || c > 16 + 16 * 2048 || b.first.toNat ≥ 8
     else c != 128 || r < 1 || r > 32 || b.first.toNat + r > 32, Code.illegalCommand),
    (!b.v1.isZero || !b.v2.isZero || !b.v0.ok, Code.illegalCommand)]

/-! ### Stream commands (R76 to R80, R86) -/

/-- The five counts. -/
def StreamBody.counts (b : StreamBody) : List Nat :=
  [b.count0.toNat, b.count1.toNat, b.count2.toNat, b.count3.toNat, b.count4.toNat]

/-- The five signed strides. -/
def StreamBody.strides (b : StreamBody) : List Int :=
  [b.stride0.toInt, b.stride1.toInt, b.stride2.toInt, b.stride3.toInt, b.stride4.toInt]

/-- Elements of the transfer. -/
def StreamBody.total (b : StreamBody) : Nat := b.counts.foldl (· * ·) 1

/-- Bits of one element (R76). -/
def StreamBody.ebits (b : StreamBody) : Nat :=
  match b.esize.toNat with
  | 0 => 4
  | 1 => 8
  | 2 => 16
  | 3 => 32
  | _ => 64

/-- Whole bytes of an element, 1 for 4-bit elements, whose addresses are whole bytes (R78). -/
def StreamBody.ebytes (b : StreamBody) : Nat := max 1 (b.ebits / 8)

/-- Local bytes of the transfer: 4-bit elements two to a byte (R79). -/
def StreamBody.localBytes (b : StreamBody) : Nat := (b.total * b.ebits + 7) / 8

/-- KIND of the far address (R304). -/
def StreamBody.kind (b : StreamBody) : Nat := (fld b.far 40 4).toNat

/-- The lowest and highest far byte offsets the pattern reaches, relative to the kind's base (R78). -/
def StreamBody.farRange (b : StreamBody) : Int × Int :=
  let off : Int := ((fld b.far 0 40).toNat : Int)
  let pairs := b.counts.zip b.strides
  let row0 : Int := if b.ebits = 4 then (b.count0.toNat : Int) / 2 - 1 else b.ebytes - 1
  pairs.foldl (fun (lo, hi) (c, st) =>
    let d := ((c : Int) - 1) * st
    (if d < 0 then lo + d else lo, if d < 0 then hi else hi + d)) (off, off + row0)

/-- BAD_DESCRIPTOR of R78 and R86. -/
def StreamBody.badDescriptor (b : StreamBody) : Bool :=
  let e : Int := b.ebytes
  b.esize.toNat > 4 || (b.esize == 0#3 && !b.trans) || (b.esize == 4#3 && b.trans) || b.kind ≥ 10 ||
  (if b.esize == 0#3 then b.stride0 != 0#32 || b.count0.toNat % 2 != 0
   else ((fld b.far 0 40).toNat : Int) % e != 0 || b.strides.any fun s => s % e != 0) ||
  (b.total != 0 && (b.farRange.1 < 0 || b.farRange.2 ≥ 2 ^ 40)) ||
  ((b.notify || b.mcast) && !b.dir) || (b.notify && (b.kind = 0 || b.kind = 9)) || (b.mcast && (b.kind = 0 || b.kind = 9)) ||
  (b.trans && b.esize != 0#3 && b.stride0.toInt != e)

/-- Fields that R76 reserves unless their switch is set; NOTIFY_INC is 1 to 255 when NOTIFY is 1. -/
def StreamBody.rsvOk (b : StreamBody) : Bool :=
  (b.trans || b.tu == 0#2) && (if b.notify then b.notifyInc != 0#8 else b.notifyEc == 0#6 && b.notifyInc == 0#8) &&
  (b.mcast || b.group == 0#12)

/-- TRANSPOSE (R87): the decode checks. -/
def TransposeBody.ok (b : TransposeBody) : Bool :=
  b.v0.format == b.v1.format && b.v1.rows == b.v0.cols && b.v1.cols == b.v0.rows && b.v0.ok && b.v1.ok &&
  (match b.v0.fmt? with
    | some f => !f.blocked && f.bits == (match b.tesize.toNat with | 0 => 4 | 1 => 8 | 2 => 16 | _ => 32)
    | none => false)

/-! ### All of a command -/

/-- Reserved values and RsvZ rules of a CTL or image body (R36, R37, R48, R71, R148, R300). -/
def Op.bodyOk (op : Op) : Bool :=
  match op with
  | .loop b => b.bodyLen != 0#8 && (if b.countSrc then b.countImm == 0#32 else b.countSf == 0#6)
  | .setPd b =>
    (match b.src.toNat with
      | 0 => b.sfIdx == 0#6 && b.sfBit == 0#6 && b.ecIdx == 0#6 && b.cmp == 0#2 && b.thr == 0#16
      | 1 => !b.imm && b.ecIdx == 0#6 && b.cmp == 0#2 && b.thr == 0#16
      | 2 => !b.imm && b.sfIdx == 0#6 && b.sfBit == 0#6 && b.cmp != 0#2
      | _ => false)
  | .barrier b => b.relInc != 0#8
  | .regionAttr b => !(b.setFrozen && b.clrFrozen) && !(b.setBg && b.clrBg)
  | .arrayMode m => m != 3#2
  | .stream b => b.rsvOk
  | _ => true

/-- The header, the reserved fields and the views that must be zero, whatever the opcode (R29, R30, R35, R161). -/
def headerFault (c : Cmd) : Option Code :=
  let h := c.h
  let (used, unused) := c.op.views h
  firstFault [
    (!c.op.queueOk h || !h.ok || !c.op.headerOk h || !c.op.fuseOk h.fuse || !c.op.bodyOk, Code.illegalCommand),
    (!c.op.mxZeroOk h || unused.any (fun v => !v.isZero) || used.any (fun v => !v.ok), Code.illegalCommand)]

/-- The versioned read of a command: its region and HALF (R246). A view 0 that is all zero is one of region 0 (log entry 19). -/
def Op.versionedView (op : Op) : Option (BitVec 6 × Bool) :=
  match op with
  | .mmOs b => some (b.v1.region, b.v1.half)
  | .mmSt b => if b.p.sload then some (b.v1.region, b.v1.half) else none
  | .mmEw b => if b.p.opnd = 0#2 then none else some (b.v0.region, b.v0.half)
  | .vxMap b | .vxReduce b => some (b.v0.region, b.v0.half)
  | .transpose b => some (b.v0.region, b.v0.half)
  | .stream b => if b.dir then some (b.region, b.half) else none
  | _ => none

/-- The versioned read that a command carries. -/
def Cmd.versioned (c : Cmd) : Option (BitVec 6 × Bool) := if c.h.vtag then c.op.versionedView else none

/-- The checks of a computing vector command with the VX_AUX it takes (R193 to R199). `true` marks a fault in a view of the
VX_AUX, which carries that command's DPI. -/
def vxBodyFault (h : Header) (b : VxBody) (red : Bool) (aux : Option AuxBody) : Option (Code × Bool) :=
  let auxIs (p : AuxBody → Bool) : Bool := match aux with | some a => p a | none => false
  let blocked := match b.v2.fmt? with | some f => f.blocked | none => false
  [ (!b.paramsOk red h || (h.fuse != 0#8 && auxIs fun a => !a.v0.isZero), Code.illegalCommand, false),
    (!vxShapeOk b red aux (h.fuse != 0#8), Code.illegalCommand, false),
    (auxIs fun a => !auxShapeOk b red a, Code.illegalCommand, true),
    (!vxFormatOk b red, Code.badFormat, false),
    (auxIs fun a => !auxFormatOk a, Code.badFormat, true),
    (auxIs fun a => a.maskMode == 1#2 && a.maskFill == 0#2 && blocked, Code.illegalCommand, false),
    (auxIs fun a => a.scatOp && b.p.cvt != 0#8, Code.illegalCommand, false) ].findSome?
    fun p => if p.1 then some p.2 else none

/-- The checks of a command's body, in the order of its chapter: formats before shapes (R55, R165, R195, R196). `true` marks
a fault in a view of the VX_AUX. -/
def bodyFault (c : Cmd) (aux : Option AuxBody) : Option (Code × Bool) :=
  let own (o : Option Code) : Option (Code × Bool) := o.map fun k => (k, false)
  let used := (c.op.views c.h).1
  match c.op with
  | .stream b => own (if b.badDescriptor then some Code.badDescriptor else none)
  | .transpose b => own (firstFault [(viewsFormatBad [b.v0, b.v1], Code.badFormat), (!b.ok, Code.illegalCommand)])
  | .vxProg b | .cuProg b => own (b.fault false)
  | .vxTable b | .cuTable b => own (b.fault true)
  | .vxAux a => own (firstFault [(!a.ok, Code.illegalCommand), (viewsFormatBad used, Code.badFormat)])
  | .vxMap b | .cuMap b => vxBodyFault c.h b false aux
  | .vxReduce b | .cuReduce b => vxBodyFault c.h b true aux
  | _ => own (firstFault [
      (viewsFormatBad used, Code.badFormat),
      (!c.op.mxFormatOk c.h, Code.badFormat),
      (!c.op.mxShapeOk c.h, Code.illegalCommand)])

/-- The decode faults that depend on the command alone (R29, R55, R165, R196). A VX_MAP or VX_REDUCE is checked with the
VX_AUX it takes. -/
def staticFault (c : Cmd) (aux : Option AuxBody) : Option Code :=
  orFault (headerFault c) ((bodyFault c aux).map fun k => k.1)

end Sys2Proof
end

