-- ==== Sys2Proof/Machine/Cg.lean ====
section
/-! DEFINITION. The counter generator (R234 to R238): a pure function of seed, step, tensor, purpose, start, row and
column. -/

namespace Sys2Proof.Machine

/-- The key parts that stay fixed over one command's draws (R107, R214, R241). -/
structure CgKey where
  seed   : W64
  step   : W64
  tensor : W32
  purpose : BitVec 8
  start  : W32
  deriving DecidableEq, Repr

/-- The four words of a block. -/
structure CgBlock where
  x0 : W32
  x1 : W32
  x2 : W32
  x3 : W32
  deriving DecidableEq, Repr

/-- Word `i mod 4` of four. -/
def CgBlock.get (b : CgBlock) (i : Nat) : W32 :=
  match i % 4 with
  | 0 => b.x0
  | 1 => b.x1
  | 2 => b.x2
  | _ => b.x3

/-- The rotation amounts ra and rb and the constants rc of R235. -/
def cgRa (n : Nat) : Nat := match n % 4 with | 0 => 13 | 1 => 7 | 2 => 23 | _ => 11
def cgRb (n : Nat) : Nat := match n % 4 with | 0 => 17 | 1 => 29 | 2 => 5 | _ => 19
def cgRc (j : Nat) : W32 := match j with | 1 => 0x6A3F29D1 | 2 => 0xC41B8E57 | 3 => 0x2F95D06B | _ => 0

/-- Round `n` of R235 with key words `k`. -/
def cgRound (k : CgBlock) (n : Nat) (x : CgBlock) : CgBlock :=
  let x0 := x.x0 + x.x1
  let x3 := (x.x3 ^^^ x0).rotateLeft (cgRa n)
  let x2 := x.x2 + x3
  let x1 := (x.x1 ^^^ x2).rotateLeft (cgRb n)
  if n % 4 = 3 then
    let j := (n + 1) / 4
    ⟨x0 + k.get j, x1 + k.get (j + 1), x2 + k.get (j + 2), x3 + k.get (j + 3) + cgRc j⟩
  else ⟨x0, x1, x2, x3⟩

/-- Rounds 0 to n − 1 in order. -/
def cgRounds (k x : CgBlock) : Nat → CgBlock
  | 0 => x
  | n + 1 => cgRound k n (cgRounds k x n)

/-- The key words of a request (R234). -/
def CgKey.words (key : CgKey) : CgBlock :=
  ⟨key.seed.extractLsb' 0 32, key.seed.extractLsb' 32 32, key.step.extractLsb' 0 32, key.step.extractLsb' 32 32⟩

/-- The output block for a row and group (R234, R235). -/
def CgKey.block (key : CgKey) (row group : Nat) : CgBlock :=
  let k := key.words
  let c0 : W32 := BitVec.ofNat 32 (row % 65536 + 65536 * group)
  let c3 : W32 := key.purpose.setWidth 32
  cgRounds k ⟨c0 ^^^ k.x0, key.start ^^^ k.x1, key.tensor ^^^ k.x2, c3 ^^^ k.x3⟩ 12

/-- The 16-bit draw of purposes 1 and 2 (R236): bits [16q + 15 : 16q] of the block, q = column mod 8. -/
def CgKey.draw16 (key : CgKey) (row col : Nat) : Nat :=
  let b := key.block row (col / 8)
  let w := b.get (col % 8 / 2)
  (if col % 2 = 0 then w.extractLsb' 0 16 else w.extractLsb' 16 16).toNat

/-- The value u of purpose 3 (R236): 24 bits of word q = column mod 4, times 2^−24. -/
def CgKey.rand (key : CgKey) (row col : Nat) : Num :=
  .fin false ((key.block row (col / 4)).get (col % 4) >>> 8).toNat (-24)

end Sys2Proof.Machine
end

