-- ==== Sys2Proof/Config.lean ====
section
/-! DEFINITION. What the spec leaves open: the free values the model draws, with no body, so that nothing in Lean can evaluate
them. -/

namespace Sys2Proof.Config

/-- A value the spec gives no number for, drawn at counter `n` (log entry 3): the DATA word of a read of an absent
unit's register, and every other open value of the model. -/
opaque freeWord : Nat → BitVec 64

end Sys2Proof.Config
end

