-- ==== Sys2Proof/Machine/State.lean ====
section
/-! DEFINITION. The state of the block: every register, table, queue, store and status the spec names, as plain data, and
its value while a reset is held before bring-up has run (R417, R422, R426). INVENTORY.md lists each field with its rule. -/

namespace Sys2Proof.Machine

/-! ### Sparse stores

A store of words by index, one canonical form: indices strictly rising and no entry equal to zero, which an unlisted index
reads as (zeroise, R422). -/

/-- A sparse store of `w`-bit words. -/
abbrev Store (w : Nat) := List (Nat × BitVec w)

/-- The canonical form: indices above `lo` strictly rising, no zero entry. -/
def Store.wfFrom {w : Nat} (lo : Nat) : Store w → Bool
  | [] => true
  | (a, v) :: rest => lo ≤ a && v != 0#w && Store.wfFrom (a + 1) rest

/-- A store is in its canonical form. -/
def Store.wf {w : Nat} (m : Store w) : Bool := Store.wfFrom 0 m

/-- The word at an index. Zero where nothing is listed: zeroise writes zero to every store (R422). -/
def Store.get {w : Nat} : Store w → Nat → BitVec w
  | [], _ => 0
  | (a, v) :: rest, i => if a = i then v else Store.get rest i

/-- Write a word, keeping the canonical form. -/
def Store.set {w : Nat} : Store w → Nat → BitVec w → Store w
  | [], i, x => if x = 0#w then [] else [(i, x)]
  | (a, v) :: rest, i, x =>
    if i < a then (if x = 0#w then (a, v) :: rest else (i, x) :: (a, v) :: rest)
    else if i = a then (if x = 0#w then rest else (i, x) :: rest)
    else (a, v) :: Store.set rest i x

/-- Remove every entry from `lo` up to `hi`, `hi` excluded. -/
def Store.clear {w : Nat} (lo hi : Nat) (m : Store w) : Store w := m.filter fun p => p.1 < lo || hi ≤ p.1

/-! ### Fault and refusal -/

/-- Reasons a step stops with a fault. The core's own faults (R393) are effects on the state, not stops, so no command
raises one. -/
inductive Fault where
  /-- Raised by no command: every fault of the block is an entry of its error log and an effect on its state. Safe. -/
  | none_
  deriving DecidableEq, Repr

/-- Reasons a step is refused. -/
inductive Refusal where
  /-- Raised by the arm of a command whose meaning is not written, under its mnemonic. Safe. -/
  | notModelled (mnemonic : String)
  deriving DecidableEq, Repr

/-! ### Build and identity -/

/-- The five build parameters (R2, R22): lane groups of 256, arrays, MiB of scratchpad, fabric ports, link encryption. -/
structure Build where
  vxGroups : Nat
  arrays   : Nat
  spadMib  : Nat
  ports    : Nat
  crypto   : Bool
  deriving DecidableEq, Repr

/-- Build, identity item, GRADE and whether it has arrived, and lifecycle (R22, R23, R429, R449, R461). -/
structure Ident where
  build  : Build
  chip   : BitVec 20
  core   : BitVec 3
  mfr    : BitVec 11
  memNom : BitVec 14
  hbNom  : BitVec 14
  grade  : W64
  lifecycle : BitVec 3
  graded : Bool
  deriving DecidableEq, Repr

/-! ### Bring-up -/

/-- Bring-up (R421 to R427): a reset is held, the phase, the failure cause with its location, and which sideband items of
the phases have arrived. -/
structure Bring where
  held  : Bool
  phase : BitVec 4
  cause : BitVec 4
  unit  : BitVec 8
  loc   : W32
  failed : Bool
  katSkipped : Bool
  unlocked : Bool
  testHold : Bool
  ready : Bool
  cold  : Bool
  gotId : Bool
  gotLife : Bool
  gotGrade : Bool
  gotRepair : Bool
  gotCal : Bool
  gotDetour : BitVec 8
  failing : List FailLoc
  zeroOk : Bool
  deriving DecidableEq, Repr

/-! ### Scratchpad and region table -/

/-- Scratchpad bytes by local address (R62), words holding an uncorrectable error by word index (R64), and the physical
bank serving each logical bank (R65). -/
structure Spad where
  mem : Store 8
  bad : List Nat
  bankMap : List Nat
  deriving DecidableEq, Repr

/-- A region entry (R66), with the version reference counts of its halves (R249). -/
structure Region where
  valid : Bool
  split : Bool
  frozen : Bool
  background : Bool
  vbit : Bool
  curIsB : Bool
  poisonA : Bool
  poisonB : Bool
  swapPending : Bool
  base : BitVec 16
  size : BitVec 16
  tensor : W32
  refsA : Nat
  refsB : Nat
  deriving DecidableEq, Repr

/-- An invalid entry: every field zero (R67). -/
def Region.empty : Region := ⟨false, false, false, false, false, false, false, false, false, 0, 0, 0, 0, 0⟩

/-- The region table (R66). -/
structure RegionTable where
  tab : Vector Region 64
  deriving DecidableEq, Repr

/-! ### Issue unit -/

/-- A version reference: a physical half of a region, `true` for half B (R249). -/
abbrev Ref := BitVec 6 × Bool

/-- A level of a task's loop state (R58): body start as a command position, body length, latched count, iteration index. -/
structure Loop where
  start : Nat
  len   : Nat
  count : Nat
  idx   : Nat
  deriving DecidableEq, Repr

/-- A decoded command waiting in its queue (R32), with the VX_AUX it forms a pair with (R193), the reference it holds,
whether the injection window placed it (R344), the fetch position and loop state it was decoded at (R366), and the control cycle in
which it entered its queue (R381). -/
structure Entry where
  x : Ctx
  cmd : Cmd
  aux : Option (W64 × AuxBody)
  ref : Option Ref
  injected : Bool
  pos : Nat
  loops : List Loop
  since : Nat
  deriving DecidableEq, Repr

/-- A view as the IU resolves it at issue (R31, R68, R125): physical half, byte address of the effective start, the
start in 64-byte units from the half's base (R107), the resolved format code, the scale exponent q of a bound view, and the
tensor identity of its region. -/
structure RView where
  region : BitVec 6
  halfB  : Bool
  addr   : Nat
  start  : Nat
  rows   : Nat
  cols   : Nat
  stride : Nat
  fmt    : BitVec 4
  q      : Int
  bound  : Bool
  tensor : W32
  deriving DecidableEq, Repr

/-- The masks of one MX queue (R171). -/
structure Masks where
  row : BitVec 256
  block : BitVec 64
  deriving DecidableEq, Repr

/-- Masks of all ones (R171). -/
def Masks.ones : Masks := ⟨BitVec.allOnes 256, BitVec.allOnes 64⟩

/-- One converted element as an Assay unit sees it (R112): position, source before any scale, source after the pre-scale,
and event. -/
structure Obs where
  row : Nat
  col : Nat
  src : Num
  scaled : Num
  ev  : Event
  deriving DecidableEq, Repr

/-- The observations of one output view: the view, the pre-scale exponent, the elements and the rows of empty-row events. -/
structure Seen where
  view : RView
  pre : Int
  obs : List Obs
  empty : List Nat
  deriving DecidableEq, Repr

/-- The bytes that a completed drain has sent to a peer, at global addresses (R231): the windows or runs that wait for an
acknowledgement, in order (R84, R311); whether the notify has been sent; the route entry and path of another chip (R317; log
entry 112); and the observations that the command folds when it completes (R117). -/
structure Exporting where
  bytes : List (Nat × Byte)
  units : List (Nat × Nat)
  notified : Bool
  route : Option Nat
  path : BitVec 2
  seen : List Seen
  deriving DecidableEq, Repr

/-- An issued command: its resolved views by position (the numbered views, then those of a VX_AUX, then the chain views) and, as they were
at issue, the scalar file (R192, R209) and the masks of its MX queue (R171). `replayed` says that a parity replay has run (R155, R205);
`exporting` that its engine has finished and its peer has not acknowledged everything (R42, R231); `stepped` that the steps of a matrix
command are over and its drain runs (R133, R144); `fresh` that the companion plane of ATTN_FWD was EMPTY when it started (R222); `noted` the
words in error that it has met in masked elements only (R198). -/
structure Issued where
  e : Entry
  views : List (Option RView)
  sf : Vector W64 64
  masks : Masks
  replayed : Bool
  exporting : Option Exporting
  stepped : Bool
  fresh : Bool
  noted : List Nat
  deriving DecidableEq, Repr

/-- The tags of a command, which only reports carry (R28, R254). -/
structure Tags where
  vstage : BitVec 4
  mbatch : BitVec 8
  deriving DecidableEq, Repr

/-- What a later resume cannot find again of a command that has left fetch (R368): the count that a LOOP latched, with the LOOP where the core
still knows it, or, with no count, that the control core injected the command. -/
structure Mark where
  dpi : W64
  count : Option Nat
  loop : Option Cmd
  deriving DecidableEq, Repr

/-- What a task is doing: running, or ended with a STATUS of R360. -/
inductive TaskState where
  | idle
  | running
  | ended (status : BitVec 4)
  deriving DecidableEq, Repr

/-- One task (R349, R357): program address, STOP_COUNT, ownership, next fetch position, next DPI, loop state outermost
first, the commands the fetch buffer keeps for replay, a VX_AUX waiting for its command, the reported fault, the DPIs of the
commands that fetch may not pass until they issue (R49, R172, R247), the DPIs a resumed job skips (R368), the tags of the command whose
fault is reported (R254), and the LOOPs and injected commands whose counts and places a save keeps (R368; log entry 31). -/
structure Task where
  st   : TaskState
  prog : W64
  stopCount : W64
  ownMx : BitVec 16
  ownQ  : BitVec 14
  pos   : Nat
  dpi   : W64
  fetchEnded : Bool
  holds : List W64
  loops : List Loop
  buffer : List (Nat × CmdWord)
  aux   : Option (W64 × AuxBody)
  fault : Option (Code × W64)
  skip  : List W64
  ftags : Tags
  marks : List Mark
  deriving DecidableEq, Repr

/-- A task of no job. -/
def Task.none_ : Task := ⟨.idle, 0, 0, 0, 0, 0, 0, false, [], [], [], none, none, [], ⟨0, 0⟩, []⟩

/-! ### Arrays -/

/-- The state of a plane of a partition (R133): `back` is the queue's direction, `hold` whether the builder ends HOLD. -/
inductive PlaneState where
  | empty
  | building (back : Bool) (hold : Bool)
  | held (back : Bool)
  | draining
  deriving DecidableEq, Repr

/-- A stationary register of a partition (R134, R167): the format tag, the load record, whether a view was its
source (R221), and the scale exponent of a bound view it was loaded from (R126). -/
structure Loaded where
  tag : BitVec 4
  region : BitVec 6
  halfB : Bool
  version : Bool
  sourced : Bool
  q : Int
  deriving DecidableEq, Repr

/-- The held state of one partition: planes 0 and 1, registers ST0 and ST1. -/
structure Part where
  plane0 : PlaneState
  plane1 : PlaneState
  reg0 : Option Loaded
  reg1 : Option Loaded
  deriving DecidableEq, Repr

/-- A partition with nothing held. -/
def Part.empty : Part := ⟨.empty, .empty, none, none⟩

/-- A task that aborted in the present control cycle, as it was before (R56, R392): its state, its queued and staged commands, its region
references and the held state of the arrays, by which a further fault of the same cycle is found; and whether such a fault may still
come from its fetch and from its issue, which take one command in a cycle. -/
structure Late where
  task : Fin 4
  was : Task
  queued : List Entry
  staged : List (UnitId × Issued)
  rg : RegionTable
  parts : Vector (Vector Part 4) 4
  fetch : Bool
  issue : Bool
  deriving DecidableEq, Repr

/-- The issue unit: event counters (R39), predicates (R44), scalar file (R337), tasks, queued, staged and executing
commands (R32, R45), the control cycles since anything issued, completed or counted (R27), and, of the tasks that aborted in the
present control cycle, the commands that were executing and what else they held (R56, R392). -/
structure Iu where
  ec : Vector (BitVec 16) 64
  pd : BitVec 16
  sf : Vector W64 64
  tasks : Vector Task 4
  queued : List Entry
  staged : List (UnitId × Issued)
  exec   : List (UnitId × Issued)
  quiet  : Nat
  dropped : List (UnitId × Issued)
  late   : List Late
  sfOld  : List (BitVec 6 × W64)
  sfNext : List (BitVec 6 × W64)
  deriving DecidableEq, Repr

/-- A logical array: partition mode (R148), plane and register words at logical row·256 + column (R131), partitions, and
masks of queue direction·4 + partition, forward first (R171). -/
structure Array_ where
  mode : BitVec 2
  acc0 : Store 40
  acc1 : Store 40
  st0  : Store 32
  st1  : Store 32
  parts : Vector Part 4
  masks : Vector Masks 8
  deriving DecidableEq, Repr

/-- An array with every plane and register EMPTY and every word zero (R149, R422). -/
def Array_.empty (mode : BitVec 2) : Array_ :=
  ⟨mode, [], [], [], [], Vector.replicate 4 Part.empty, Vector.replicate 8 Masks.ones⟩

/-! ### Vector engine and Crucible -/

/-- A function table (R185): header and the entries as 128-bit words, entry e at index e. -/
structure FnTable where
  header : BitVec 128
  entries : List (BitVec 128)
  deriving DecidableEq, Repr

/-- Program slots and function tables of VX or CU (R180, R185): none is EMPTY. -/
structure VecState where
  progs : Vector (Option (BitVec 1024)) 32
  tables : Vector (Option FnTable) 8
  deriving DecidableEq, Repr

/-- Everything EMPTY. -/
def VecState.empty : VecState := ⟨Vector.replicate 32 none, Vector.replicate 8 none⟩

/-! ### Stream engines and transpose units -/

/-- Where a transfer stands (R81, R82, R298, R306, R317): windows or runs still to arrive or to be acknowledged, reports
still awaited from multicast receivers, drops reported, the route entry and path used, whether its task aborted (R82), whether
it met a refusal, whether its notify has been sent, and, for a stream of a BACKGROUND region, the MTIME tick of its admission
(R412). `got` is the data of a load that has returned, which becomes visible together (R14); `seq` its place in the order of
admission (R326); `data` the bytes that a store sends, by global address, as they were at its admission (R14, R326); `mseq` the SEQ of a
multicast and `told` the receivers that have reported it (R298). -/
structure Transfer where
  i : Issued
  halfB : Bool
  orphan : Bool
  left : Nat
  reports : Nat
  drops : Nat
  lateMask : BitVec 8
  route : Option Nat
  path : BitVec 2
  faulted : Bool
  notified : Bool
  back : Option Nat
  got : List (Nat × List Byte)
  seq : Nat
  data : List (Nat × Byte)
  mseq : BitVec 16
  told : List (BitVec 20 × BitVec 3)
  deriving DecidableEq, Repr

/-- A slot and its shadow (R81). -/
structure Slot where
  run : Option Transfer
  shadow : Option Issued
  deriving DecidableEq, Repr

/-- An idle slot. -/
def Slot.idle : Slot := ⟨none, none⟩

/-- Stream engines: engine e's slot k at 4e + k, and the number of transfers admitted. -/
structure Streams where
  slots : Vector Slot 32
  next : Nat
  deriving DecidableEq, Repr

/-- Who holds each transpose unit (R89): the task and DPI of the transfer. -/
structure Transposers where
  holder : Vector (Option (Fin 4 × W64)) 4
  deriving DecidableEq, Repr

/-! ### Assay and Almanac -/

/-- The first offender of a tensor record (R119). -/
structure Offender where
  dpi : W64
  start : W32
  row : BitVec 16
  col : BitVec 16
  cls : BitVec 8
  source : BitVec 8
  deriving DecidableEq, Repr

/-- A tensor record (R118): AMAX as FP32 bits, the eight saturating counts, lost tile records, first offender, histogram. -/
structure TensorRec where
  amax : W32
  lost : Nat
  elements : Nat
  zero : Nat
  nonfiniteIn : Nat
  nanOut : Nat
  saturation : Nat
  overflowInf : Nat
  underflow : Nat
  emptyRow : Nat
  offender : Option Offender
  hist : List Nat
  deriving DecidableEq, Repr

/-- A record nothing has folded into. -/
def TensorRec.zero_ : TensorRec := ⟨0, 0, 0, 0, 0, 0, 0, 0, 0, 0, none, List.replicate 64 0⟩

/-- An Almanac entry (R124). -/
structure AlmEntry where
  tensor : W32
  choose : Bool
  finiteFlag : Bool
  tileLog : Bool
  fmt : BitVec 8
  margin : BitVec 8
  q : BitVec 8
  cand : BitVec 8
  candRun : BitVec 8
  histCount : BitVec 8
  histHead : BitVec 8
  ufLimit : BitVec 16
  history : List W32
  lastStep : W64
  deriving DecidableEq, Repr

/-- Almanac, tensor records, local finite state (R121) and tile-record queue (R116). `entries` lists the valid entries by
index, ascending, each with its tensor record. -/
structure Alm where
  entries : List (Nat × AlmEntry × TensorRec)
  imageIn : List (Nat × AlmEntry)
  unbound : TensorRec
  finite : Bool
  tiles : List (BitVec 1536)
  tileAge : List Nat
  tileCount : Nat
  deriving DecidableEq, Repr

/-! ### Calendars, mesh and Solstice -/

/-- A router part (R287): slots by index, one 256-bit word each, and its header fields. -/
structure RouterPart where
  slots : Store 256
  calId : W32
  schedId : W32
  hmax : BitVec 8
  detourFor : BitVec 8
  period : Nat
  deriving DecidableEq, Repr

/-- An empty router part. -/
def RouterPart.empty : RouterPart := ⟨[], 0, 0, 0, 0xFF, 0⟩

/-- A bank part (R289). -/
structure BankPart where
  slots : Store 256
  calId : W32
  period : Nat
  deriving DecidableEq, Repr

/-- An empty bank part. -/
def BankPart.empty : BankPart := ⟨[], 0, 0⟩

/-- A calendar image: a router part, which may be absent, and a bank part (R292). -/
structure Calendar where
  router : Option RouterPart
  bank : BankPart
  deriving DecidableEq, Repr

/-- The state of STANDBY (R291, R471). -/
inductive Standby where
  | invalid
  | loading
  | valid
  deriving DecidableEq, Repr

/-- The CAL_LOAD under way (R291); `orphan` says that its job has ended, `since` is the MTIME tick of its issue (R412). -/
structure CalLoading where
  task : Fin 4
  dpi : W64
  addr : Nat
  region : BitVec 6
  halfB : Bool
  orphan : Bool
  since : Nat
  deriving DecidableEq, Repr

/-- A flit (R282): an input or output of the TR and an identity that the surroundings give it. -/
abbrev Flit := Fin 9 × Nat

/-- Calendars and the transit router (R282 to R292, R303, R398, R471). `order` is a detour order that awaits its boundary;
`routerSwaps` and `bankSwaps` count the swaps of each part that released barriers have asked for (R303), and `ahead` is a router part that
has become ACTIVE ahead of its bank part, which STANDBY shows until that follows (R471); `held` the flits in the TR with the slot in which
each arrived; `replays` the replay buffers, with the slot in which the core sent each flit (R283; log entry 137). -/
structure Cal where
  router : RouterPart
  bank : BankPart
  deflt : Option Calendar
  standby : Standby
  standbyImg : Option Calendar
  loading : Option CalLoading
  detours : Vector (Option RouterPart) 8
  order : Option (BitVec 4)
  routerSwaps : Nat
  bankSwaps : Nat
  held : List (Nat × Flit)
  withdrawn : Bool
  routerFenced : Bool
  ahead : Option RouterPart
  replays : List (Nat × Nat)
  deriving DecidableEq, Repr

/-- An outstanding Solstice arrival of this core (R301). -/
structure Arrived where
  task : Fin 4
  dpi : W64
  members : BitVec 8
  relEc : BitVec 6
  relInc : BitVec 8
  calSwap : Bool
  parity : Bool
  sched : BitVec 16
  deriving DecidableEq, Repr

/-- The Solstice barrier (R300 to R302, R446). -/
structure Sol where
  memb : BitVec 8
  out : List Arrived
  sent : Nat
  peers : List (Fin 8 × Arrival)
  deriving DecidableEq, Repr

/-! ### Fabric -/

/-- A fabric message (R306, R310, R319): a BARRIER with its destination, the sender as its header
names it, counter and increment, or a CTRL message to a chip, passed on unchanged. -/
inductive FabMsg where
  | barrier (head : BarrierHead) (ec : BitVec 6) (inc : BitVec 8)
  | ctrl (chip : BitVec 20) (payload : BitVec 128)
  deriving DecidableEq, Repr

/-- A frame kept for resending (R322): its sequence number and epoch, its sixteen flits as they were sent, and the commands of this
core of whose runs it carries a unit. -/
structure SentFrame where
  fseq : BitVec 12
  epoch : Bool
  flits : List (BitVec 512)
  keys : List (Fin 4 × W64)
  deriving DecidableEq, Repr

/-- An ingress position that the fabric agent holds (R315): whether an egress position has forwarded it, how many of its units continue
an earlier packet, and its units for other chips. -/
structure HeldPos where
  pos : Nat
  done : Bool
  skip : Nat
  units : List (BitVec 128)
  deriving DecidableEq, Repr

/-- A packet of which not every unit has arrived (R315): the owner whose positions carry it, whether it is for this chip, whether it
is passed on, the units so far and the number of those to come. -/
structure OpenPacket where
  owner : Nat
  here : Bool
  on : Bool
  units : List (BitVec 128)
  need : Nat
  deriving DecidableEq, Repr

/-- The staged or applied settings of a port (R473): control word and the schedule words. -/
structure FpCfg where
  ctrl : W64
  sched : List W64
  deriving DecidableEq, Repr

/-- A fabric port (R312 to R328, R473): link state; `hb` the heartbeat sent, `peerHb` the last one accepted, `misses` successive
intervals without a new one and `good` successive intervals with one while down (R323, R324); `absRun` successive accepted
control flits of an absent peer; the sender's `txSeq`, `fcount` and epoch; the FSEQ and epoch of the last frame accepted,
`rxAny` false before the first; `nak` while a rejected frame is awaited, `rejects` its successive rejections and `tagRejects`
those by the tag alone (R321, R322, R328); the pattern checker; counters; keys by 2·direction + slot and SALTs by direction
(R327); staged and applied settings; the last 40 frames sent; the held ingress positions (R315); messages waiting for a control flit
(R319); the schedule in force (R314); packets waiting for origin positions and units for transit positions (R315); the frames
accepted under the peer's epoch, the units of an ingress position that has not ended and the packets that have not (R313, R315,
R328); the last bits of the pattern generator and of the pattern that the checker expects (R329; log entry 111); and PATTERN in force
(R474). -/
structure Port where
  up : Bool
  phyUp : Bool
  hb : BitVec 8
  peerHb : BitVec 8
  misses : Nat
  good : Nat
  absRun : Nat
  absent : Bool
  txSeq : BitVec 12
  fcount : BitVec 64
  txEpoch : Bool
  rxAny : Bool
  rxLast : BitVec 12
  rxEpoch : Bool
  nak : Bool
  rejects : Nat
  tagRejects : Nat
  locked : Bool
  prbs : BitVec 32
  resent : BitVec 32
  rejected : BitVec 32
  keys : Vector (BitVec 256) 4
  keyFull : BitVec 4
  salts : Vector (BitVec 32) 2
  saltFull : BitVec 2
  staged : FpCfg
  applied : FpCfg
  err : Bool
  reason : BitVec 3
  sent : List SentFrame
  held : List HeldPos
  msgs : List FabMsg
  sched : List W64
  queue : List OutPacket
  egress : List (Nat × List (BitVec 128))
  rxCount : BitVec 64
  carry : List (BitVec 128)
  opens : List OpenPacket
  lfsr : BitVec 31
  chk : BitVec 31
  pat : BitVec 2
  deriving DecidableEq, Repr

/-- A port after reset: down, every counter zero, no key. -/
def Port.down : Port :=
  { up := false, phyUp := false, hb := 0, peerHb := 0, misses := 0, good := 0, absRun := 0, absent := false, txSeq := 0,
    fcount := 0, txEpoch := false, rxAny := false, rxLast := 0, rxEpoch := false, nak := false, rejects := 0, tagRejects := 0,
    locked := false, prbs := 0, resent := 0, rejected := 0, keys := Vector.replicate 4 0, keyFull := 0,
    salts := Vector.replicate 2 0, saltFull := 0, staged := ⟨0, List.replicate 15 0⟩, applied := ⟨0, List.replicate 15 0⟩,
    err := false, reason := 0, sent := [], held := [], msgs := [], sched := List.replicate 15 0, queue := [], egress := [],
    rxCount := 0, carry := [], opens := [], lfsr := BitVec.allOnes 31, chk := 0, pat := 0 }

/-- The fabric agent (R316, R317, R475): applied and staged route entries, the selection of each entry, live ports of the
chip, and the index register with the group's error. -/
structure Fa where
  route : Store 128
  staged : Store 128
  sel : List (Nat × BitVec 2)
  idx : BitVec 12
  err : Bool
  reason : BitVec 3
  portLive : BitVec 64
  deriving DecidableEq, Repr

/-! ### Control core -/

/-- The architectural registers of the RV64 hart (R332 to R334, R337, R347): `msfen` is bit 0 of MSFEN, `cycleBase` what mcycle counts
above the control cycles, and `resv` the address that a load-reserved holds. -/
structure Hart where
  pc : W64
  x : Vector W64 32
  f : Vector W64 32
  machineMode : Bool
  mstatus : W64
  mtvec : W64
  mepc : W64
  mcause : W64
  mtval : W64
  mscratch : W64
  mie : W64
  fcsr : W64
  minstret : W64
  mcounteren : W64
  pmpcfg : Vector (BitVec 8) 16
  pmpaddr : Vector W64 16
  msfen : Bool
  cycleBase : W64
  resv : Option W64
  deriving DecidableEq, Repr

/-- The hart in its boot state (R347). -/
def Hart.boot : Hart :=
  ⟨0, Vector.replicate 32 0, Vector.replicate 32 0, true, 0, 0, 0, 0, 0, 0, 0, 0, 0, 0, Vector.replicate 16 0,
   Vector.replicate 16 0, false, 0, none⟩

/-- A watch slot (R341). -/
structure Watch where
  ec : BitVec 6
  cmp : BitVec 2
  thr : BitVec 16
  deriving DecidableEq, Repr

/-- The control core and its windows (R332 to R348, R462 to R464). -/
structure Cc where
  run : Bool
  halted : Bool
  restart : Bool
  imem : Store 8
  dmem : Store 8
  badWords : List Nat
  flips : List Nat
  maddr : W64
  hart : Hart
  mtimecmp : W64
  wdLimit : W32
  wdStart : Nat
  watch : Vector Watch 8
  evpend : BitVec 16
  injCmd : CmdWord
  injBusy : Bool
  injLost : Bool
  injLast : W64
  injPend : Option CmdWord
  msgDest : W64
  msgArg : W64
  msgQ : List FabMsg
  msgLost : Bool
  deriving DecidableEq, Repr

/-! ### Rings and jobs -/

/-- A job ring (R352, R465). -/
structure Ring where
  baseS : W64
  cfgS : W64
  base : W64
  cfg : W64
  tail : W32
  head : W32
  done : W32
  err : Bool
  reason : BitVec 3
  deriving DecidableEq, Repr

/-- The core's job state (R354, R361). -/
inductive JobState where
  | idle
  | reading
  | running
  deriving DecidableEq, Repr

/-- A transfer that a receiver of a group has taken (R298): its sender and SEQ, and whether it was delivered or dropped. -/
structure Taken where
  chip : BitVec 20
  core : BitVec 3
  seq : BitVec 16
  delivered : Bool
  deriving DecidableEq, Repr

/-- A multicast group of the job (R297 to R299): its table entry; at a receiver the delivered count D_g, whether a release
notice is owed, and the transfers taken; at the sender the transfers sent, the receivers whose notices have come since the last one that
was delivered to them, and the drops that their logs record, as their notices tell. -/
structure McastGroup where
  entry : BitVec 128
  delivered : BitVec 16
  sent : BitVec 16
  notices : List (BitVec 20 × BitVec 3)
  drops : List (BitVec 20 × BitVec 3 × W64)
  owes : Bool
  taken : List Taken
  deriving DecidableEq, Repr

/-- A group with the table entry `e`, of which nothing has been sent or taken. -/
def McastGroup.ofEntry (e : BitVec 128) : McastGroup := ⟨e, 0, 0, [], [], false, []⟩

/-- The job unit (R349 to R369): `cls` is the class of its ring at its selection (R354), `lastMsg` the completion message that
waits for a repair to be applied (R403). `lastMx` is the logical array each physical array ran last in this job (R54). `asked` says that
PREEMPT was written while the descriptor was read or checked (R364, R462). `dumpTags` are the tags of the queue heads of the last dump, by
QUEUE code, and `recTags` those of the fault that the last record reports (R254), which their bytes have no field for (log entry 91). -/
structure Job where
  st : JobState
  desc : BitVec 2048
  ring : Fin 8
  cls : BitVec 2
  slot : W32
  log : Bytes
  logPos : Nat
  logFar : Nat
  mcast : List (Nat × McastGroup)
  preempt : Bool
  preemptAt : Nat
  degraded : Bool
  remap : List (BitVec 8)
  vxOnCu : Bool
  more : Bool
  recWritten : Bool
  hints : List (BitVec 8 × W32)
  served : Vector (Option (Fin 8)) 4
  lastMsg : Option (BitVec 256)
  lastMx : Vector (Option (Fin 4)) 4
  asked : Bool
  dumpTags : List Tags
  recTags : Option Tags
  deriving DecidableEq, Repr

/-! ### Equinox -/

/-- A clamp of the island monitor (R388): the crossing and the limit it breaks, the side it slows, by how many sixteenths, and the
samples since its cause was last seen. -/
structure Clamp where
  crossing : Fin 8
  ratio : Bool
  control : Bool
  size : Nat
  absent : Nat
  deriving DecidableEq, Repr

/-- Equinox (R373 to R390): staged and applied EQ_BAND and the one in use from the last tick; set point and target in 0.025 W; the last ten
work powers, newest last, in 0.25 W; ballast in 0.025 W; throttle, pending throttle, stretch and its components; whether a Solstice point
has passed since the last throttle change, and the run of ticks above the ceiling without one (R384); the forecast with the cycles in which
it was raised and the levels (R380, R381); by agent code the ballast that runs, in 0.025 W, the work power that the last sample attributed,
and with the opcode the coefficients (R378, R380); the opcodes that engines ran at the last sample, and the partitions whose ballast has
ended since (R159, R381); the commands held, each with the cycle in which its hold began (R381); EQ_EVENTS; sensor readings in 0.25 °C, and
those that TS_OUT last showed, over resets too (R452); the port's last toggle (R450); the clamps of the island monitor (R388); the samples
since the last tick (R373); and the port band that a tick last accepted (R375). -/
structure Eqx where
  stagedBand : W64
  band : W64
  inUse : W64
  err : Bool
  reason : BitVec 3
  sp : Nat
  target : Nat
  ballast : Nat
  pw : List Nat
  throttle : Nat
  pendThrottle : Nat
  sth : Nat
  spw : Nat
  stretch : Nat
  solstice : Bool
  hot : Nat
  fc : Bool
  fcLvl : Nat
  fcPast : List (Nat × Nat)
  partBallast : List (BitVec 8 × Nat)
  partWork : List (BitVec 8 × Nat)
  coeffs : List (BitVec 8 × BitVec 8 × Nat)
  ranAt : List (BitVec 8 × BitVec 8)
  ended : List (BitVec 8)
  held : List (Fin 4 × W64 × Nat)
  events : BitVec 5
  temps : List Nat
  tsOut : List Nat
  tgl : Bool
  clamps : List Clamp
  samples : Nat
  portBand : Option (BitVec 33)
  deriving DecidableEq, Repr

/-! ### Errors, repair, background, setup, test -/

/-- An error-log entry with its DETAIL word (R394), its number in order of addition (R469) and, of a fault, the tags of the command
(R254), which its 32 bytes have no field for (log entry 91). -/
structure LogEntry where
  code : Code
  cls : BitVec 2
  task : BitVec 2
  count : Nat
  unit : BitVec 8
  sub : BitVec 8
  loc : W32
  time : W64
  dpi : W64
  detail : W64
  num : W32
  tags : Tags
  deriving DecidableEq, Repr

/-- The error log, oldest first (R394 to R396), and the number the next entry takes (R469). -/
structure Err where
  log : List LogEntry
  lostMinor : BitVec 16
  lostMajor : BitVec 16
  seq : W32
  deriving DecidableEq, Repr

/-- Fences and repair (R398 to R405). -/
structure Repair where
  fence : W32
  record : Option (BitVec 2048)
  pending : Option (BitVec 2048)
  coreFenced : Bool
  fenceCode : Code
  deriving DecidableEq, Repr

/-- Background work (R412, R413, R466, R467): the queued telemetry messages each with the MTIME tick of its queuing; the tick at which
the next is due; the tick at which the scrub pass began, and the words it has read. -/
structure Background where
  d0S : W64
  d1S : W64
  telemS : W64
  d0 : W64
  d1 : W64
  telem : W64
  err : Bool
  reason : BitVec 3
  level : Vector (BitVec 2) 4
  teleQ : List (Nat × BitVec 512)
  teleSeq : W32
  teleDue : Nat
  passStart : Nat
  passWords : Nat
  deriving DecidableEq, Repr

/-- The setup port's last response (R370) and the window-wide write error (R462), and the observation multiplexer (R477). -/
structure Setup where
  rsp : BitVec 3
  rdata : W64
  werr : Bool
  wreason : BitVec 3
  obsS : Vector W64 16
  obs : Vector W64 16
  obsErr : Bool
  obsReason : BitVec 3
  obsCount : List Nat
  deriving DecidableEq, Repr

/-- The TAP (R435, R436): the instruction code, the register it selects, whether the internal chains are open, and what scan shift has
loaded into them, first bit first (log entry 127). -/
structure Tap where
  ir : BitVec 5
  dr : BitVec 256
  chains : Bool
  scan : List Bool
  deriving DecidableEq, Repr

/-! ### What the core puts on its ports -/

/-- One item the core has sent (R4, R438 and 19). -/
inductive Msg where
  | setup (code : BitVec 3) (data : W64)               -- setup port response (R370, R442)
  | memImage (addr : W64) (len : Nat) (bytes : Bytes)  -- `len` bytes at a global address, by offset, unlisted ones zero
  | memWrite (bytes : Bytes)                           -- bytes written at global addresses
  | memRead (addr : W64) (len : Nat)                   -- read request at a global address
  | notify (addr : W64) (ec : BitVec 6) (inc : BitVec 8)
  | mcast (dests : BitVec 8) (group : BitVec 12) (seq : BitVec 16) (addr : W64) (bytes : Bytes) (note : Option (BitVec 6 × BitVec 8))
  | mreport (group : BitVec 12) (chip : BitVec 20) (core : BitVec 3) (seq : BitVec 16) (result : BitVec 2)
  | release (group : BitVec 12) (drops : List W64)       -- a release notice of this core, with the keys of the drops that its log records (R299)
  | noPath (lo hi : BitVec 20)                         -- chips with no live path, to the management block (R326)
  | readData (req : Requester) (bytes : List Byte)
  | ack (req : Requester)
  | refuse (req : Requester) (cause : BitVec 8)
  | ctrl (payload : BitVec 256)                        -- CTRL channel to the management block (R362, R397)
  | tele (payload : BitVec 512)                        -- TELE channel (R467)
  | hint (unit : BitVec 8) (loc : W32)                 -- REPAIR_HINT to the management block (R397)
  | fenceNotice (code : Code)                          -- fence notice (R398)
  | sideband (item : BitVec 8) (value : W64)           -- report to the management block (R424, R449)
  | arrival (members : BitVec 8) (calSwap parity : Bool) (sched : BitVec 16)  -- SY_OUT (R301, R446)
  | flit (slot : Nat) (flits : List Flit)              -- flits forwarded (R282)
  | frame (port : Fin 8) (flits : List (BitVec 512))   -- the sixteen flits of a frame (R309)
  | toPort (port : Nat) (p : OutPacket)                -- a packet toward a port of another core, over the mesh (R318)
  | deliver (head : BitVec 128) (bytes : List Byte)    -- a packet for this chip, over the mesh: its header and its run's bytes (R315)
  | mcastTo (dest : Nat) (group : BitVec 12) (chip : BitVec 20) (core : BitVec 3) (seq : BitVec 16) (runs : List (Nat × List Byte))
      (note : Option (BitVec 6 × BitVec 8))            -- an arriving multicast, to a receiver in LOCAL_CORES (R317)
  | mcastOn (port : Nat) (group : BitVec 12) (chip : BitVec 20) (core : BitVec 3) (seq : BitVec 16) (runs : List (Nat × List Byte))
      (note : Option (BitVec 6 × BitVec 8))            -- an arriving multicast, replicated onto a port in PORTS (R317)
  | pathDown (inport inpos : Nat) (refusal : BitVec 128)  -- cause 5 for a packet of a transit position (R325)
  | resendFlit (xfer : Option (Fin 13 × Fin 4))        -- a flit sent again over the replay sideband (R283)
  | portDown (port : Nat)                              -- port-down announcement (R325)
  | routeMsg (core : Nat) (m : FabMsg)                 -- a message passed to another core of the chip (R320)
  | toMgmt (m : FabMsg)                                -- a CTRL message for this chip's management block (R320)
  | power (throttle stretch : Nat)                     -- PG_F of the power governor port (R450)
  | forecast (level : Nat)                             -- a forecast raised, in 0.25 W; 0 withdrawn (R380)
  | sensors (temps : List Nat) (alarm : Bool)          -- TS_OUT and TALARM (R452)
  | islandLimit                                        -- ISLAND_LIMIT to the management block (R388)
  | itemRequest (types : List (BitVec 8))              -- the sideband items that a phase requests (R423, R449)
  | mgReport (value : W64)                             -- BRINGUP_REPORT on link MG (R445)
  deriving DecidableEq, Repr

/-! ### The state -/

/-- The state of the block and its queue of commands, first in first out. -/
structure State where
  pending : List Instr
  out : List Msg
  freeCtr : Nat
  powered : Bool
  cycle : Nat
  id : Ident
  bring : Bring
  spad : Spad
  rg : RegionTable
  iu : Iu
  mx : Vector Array_ 4
  vx : VecState
  cu : VecState
  se : Streams
  tu : Transposers
  alm : Alm
  cal : Cal
  sol : Sol
  fp : Vector Port 8
  fa : Fa
  cc : Cc
  ring : Vector Ring 8
  job : Job
  eq : Eqx
  err : Err
  rep : Repair
  bg : Background
  su : Setup
  tap : Tap
  deriving DecidableEq, Repr

/-! ### Reset values by unit, shared by reset, bring-up and power removal -/

/-- The reference build (R2, R22; log entry 5). -/
def Build.reference : Build := ⟨8, 4, 128, 8, true⟩

/-- Nothing delivered yet (log entry 6). -/
def Ident.undelivered (b : Build) : Ident := ⟨b, 0, 0, 0, 0, 0, 0, 0, false⟩

/-- A reset is held and no phase has run (R417, R426). -/
def Bring.start : Bring :=
  ⟨true, 0, 0, 0, 0, false, false, false, false, false, true, false, false, false, false, false, 0, [], false⟩

/-- The identity bank map (log entry 7). -/
def Spad.identityMap : List Nat := List.range 32

/-- A zeroised scratchpad (R422). -/
def Spad.zero_ : Spad := ⟨[], [], Spad.identityMap⟩

/-- Every entry invalid (R75). -/
def RegionTable.zero_ : RegionTable := ⟨Vector.replicate 64 Region.empty⟩

/-- Counters, predicates and scalar file zero, no task, empty queues (R422). -/
def Iu.zero_ : Iu := ⟨Vector.replicate 64 0, 0, Vector.replicate 64 0, Vector.replicate 4 Task.none_, [], [], [], 0, [], [], [], []⟩

/-- No entry valid; the local finite state is 1 (log entry 8). -/
def Alm.zero_ : Alm := ⟨[], [], TensorRec.zero_, true, [], [], 0⟩

/-- No calendar loaded; the core's own slots are idle until READY (R418). -/
def Cal.zero_ : Cal :=
  ⟨RouterPart.empty, BankPart.empty, none, .invalid, none, none, Vector.replicate 8 none, none, 0, 0, [], true, false, none, []⟩

/-- No member, no arrival. -/
def Sol.zero_ : Sol := ⟨0, [], 0, []⟩

/-- An empty route table; every port of the chip live (log entry 9). -/
def Fa.zero_ : Fa := ⟨[], [], [], 0, false, 0, BitVec.allOnes 64⟩

/-- The control core halted with cleared memories (R422, R462); MTIMECMP all ones (R340). -/
def Cc.zero_ : Cc :=
  ⟨false, true, false, [], [], [], [], 0, Hart.boot, BitVec.allOnes 64, 0, 0, Vector.replicate 8 ⟨0, 0, 0⟩, 0, 0, false, false,
   BitVec.allOnes 64, none, 0, 0, [], false⟩

/-- A ring never configured (R465). -/
def Ring.zero_ : Ring := ⟨0, 0, 0, 0, 0, 0, 0, false, 0⟩

/-- The remap of a job without one: each queue code is served by the engine of that code (R53, R462). -/
def identityCodes : List (BitVec 8) := (List.range 22).map (BitVec.ofNat 8)

/-- No job. -/
def Job.zero_ : Job :=
  ⟨.idle, 0, 0, 0, 0, [], 0, 0, [], false, 0, false, identityCodes, false, false, false, [],
   Vector.replicate 4 none, none, Vector.replicate 4 none, false, [], none⟩

/-- EQ_BAND at its reset value (R390), everything else zero. -/
def Eqx.zero_ : Eqx :=
  { stagedBand := 0x00006C039628E628, band := 0x00006C039628E628, inUse := 0x00006C039628E628, err := false, reason := 0,
    sp := 0, target := 0, ballast := 0, pw := [], throttle := 0, pendThrottle := 0, sth := 0, spw := 0, stretch := 0,
    solstice := false, hot := 0, fc := false, fcLvl := 0, fcPast := [],
    partBallast := [], partWork := [], coeffs := [], ranAt := [], ended := [], held := [], events := 0, temps := List.replicate 16 0, tsOut := List.replicate 16 0, tgl := false,
    clamps := [], samples := 0, portBand := none }

/-- An empty log (R395). -/
def Err.zero_ : Err := ⟨[], 0, 0, 0⟩

/-- No fence, no record. -/
def Repair.zero_ : Repair := ⟨0, none, none, false, 0⟩

/-- Default deadlines and telemetry period (R412, R466). -/
def Background.zero_ : Background :=
  ⟨0x0000006400030D40, 0x00002710000003E8, 0, 0x0000006400030D40, 0x00002710000003E8, 0, false, 0,
   Vector.replicate 4 0, [], 0, 0, 0, 0⟩

/-- No access yet; selectors zero (R477; log entry 11). -/
def Setup.zero_ : Setup :=
  ⟨0, 0, false, 0, Vector.replicate 16 0, Vector.replicate 16 0, false, 0, List.replicate 6 1⟩

/-- IDCODE selected (log entry 12). -/
def Tap.zero_ : Tap := ⟨1, 0, false, []⟩

/-- The core while a reset is held before bring-up: every store zero, phase 0 (R417, R422, R426). -/
def State.reset : State where
  pending := []
  out := []
  freeCtr := 0
  powered := true
  cycle := 0
  id := Ident.undelivered Build.reference
  bring := Bring.start
  spad := Spad.zero_
  rg := RegionTable.zero_
  iu := Iu.zero_
  mx := Vector.replicate 4 (Array_.empty 0)
  vx := VecState.empty
  cu := VecState.empty
  se := ⟨Vector.replicate 32 Slot.idle, 0⟩
  tu := ⟨Vector.replicate 4 none⟩
  alm := Alm.zero_
  cal := Cal.zero_
  sol := Sol.zero_
  fp := Vector.replicate 8 Port.down
  fa := Fa.zero_
  cc := Cc.zero_
  ring := Vector.replicate 8 Ring.zero_
  job := Job.zero_
  eq := Eqx.zero_
  err := Err.zero_
  rep := Repair.zero_
  bg := Background.zero_
  su := Setup.zero_
  tap := Tap.zero_

end Sys2Proof.Machine
end

