-- ==== Sys2Proof/Machine/Ops.lean ====
section
/-! DEFINITION. The named operations over the state that every meaning shares: replacing a field, counters and predicates,
the scalar file, regions and their halves, the scratchpad, the error log, version references, a task's abort (R56) and the
core fence (R398). -/

namespace Sys2Proof.Machine

/-- Apply a function to every element of a fixed-size file. -/
def mapVec {α β : Type} {n : Nat} (f : α → β) (v : Vector α n) : Vector β n := ⟨⟨v.toList.map f⟩, by simp⟩

/-! ### Replacing a field -/

/-- Replace `pending`. -/
def State.withPending (s : State) (x : List Instr) : State := { s with pending := x }

/-- Replace `out`. -/
def State.withOut (s : State) (x : List Msg) : State := { s with out := x }

/-- Replace `freeCtr`. -/
def State.withFreeCtr (s : State) (x : Nat) : State := { s with freeCtr := x }

/-- Replace `powered`. -/
def State.withPowered (s : State) (x : Bool) : State := { s with powered := x }

/-- Replace `cycle`. -/
def State.withCycle (s : State) (x : Nat) : State := { s with cycle := x }

/-- Replace `id`. -/
def State.withId (s : State) (x : Ident) : State := { s with id := x }

/-- Replace `bring`. -/
def State.withBring (s : State) (x : Bring) : State := { s with bring := x }

/-- Replace `spad`. -/
def State.withSpad (s : State) (x : Spad) : State := { s with spad := x }

/-- Replace `rg`. -/
def State.withRg (s : State) (x : RegionTable) : State := { s with rg := x }

/-- Replace `iu`. -/
def State.withIu (s : State) (x : Iu) : State := { s with iu := x }

/-- Replace `mx`. -/
def State.withMx (s : State) (x : Vector Array_ 4) : State := { s with mx := x }

/-- Replace `vx`. -/
def State.withVx (s : State) (x : VecState) : State := { s with vx := x }

/-- Replace `cu`. -/
def State.withCu (s : State) (x : VecState) : State := { s with cu := x }

/-- Replace `se`. -/
def State.withSe (s : State) (x : Streams) : State := { s with se := x }

/-- Replace `tu`. -/
def State.withTu (s : State) (x : Transposers) : State := { s with tu := x }

/-- Replace `alm`. -/
def State.withAlm (s : State) (x : Alm) : State := { s with alm := x }

/-- Replace `cal`. -/
def State.withCal (s : State) (x : Cal) : State := { s with cal := x }

/-- Replace `sol`. -/
def State.withSol (s : State) (x : Sol) : State := { s with sol := x }

/-- Replace `fp`. -/
def State.withFp (s : State) (x : Vector Port 8) : State := { s with fp := x }

/-- Replace `fa`. -/
def State.withFa (s : State) (x : Fa) : State := { s with fa := x }

/-- Replace `cc`. -/
def State.withCc (s : State) (x : Cc) : State := { s with cc := x }

/-- Replace `ring`. -/
def State.withRing (s : State) (x : Vector Ring 8) : State := { s with ring := x }

/-- Replace `job`. -/
def State.withJob (s : State) (x : Job) : State := { s with job := x }

/-- Replace `eq`. -/
def State.withEq (s : State) (x : Eqx) : State := { s with eq := x }

/-- FLOOR, CEILING, RAMP and BALLAST_LIMIT of a band in the layout of EQ_BAND (R390). -/
def bandFloor (b : W64) : Nat := (fld b 0 8).toNat
def bandCeiling (b : W64) : Nat := (fld b 8 8).toNat
def bandRamp (b : W64) : Nat := (fld b 16 8).toNat
def bandBallast (b : W64) : Nat := (fld b 24 8).toNat

/-- Replace `err`. -/
def State.withErr (s : State) (x : Err) : State := { s with err := x }

/-- Replace `rep`. -/
def State.withRep (s : State) (x : Repair) : State := { s with rep := x }

/-- Replace `bg`. -/
def State.withBg (s : State) (x : Background) : State := { s with bg := x }

/-- Replace `su`. -/
def State.withSu (s : State) (x : Setup) : State := { s with su := x }

/-- Replace `tap`. -/
def State.withTap (s : State) (x : Tap) : State := { s with tap := x }

/-- Put a message on the core's ports. -/
def State.emit (s : State) (m : Msg) : State := s.withOut (s.out ++ [m])

/-- MTIME: ticks of 10 ns, twelve control cycles of 1.2 GHz each (R340, R6). -/
def State.mtime (s : State) : W64 := BitVec.ofNat 64 (s.cycle / 12)

/-- MTIME as a number of ticks since power-on. -/
def State.tick10 (s : State) : Nat := s.cycle / 12

/-- A free value (log entry 3) and the state with the counter advanced. -/
def State.draw (s : State) : W64 × State := (Config.freeWord s.freeCtr, s.withFreeCtr (s.freeCtr + 1))

/-! ### Event counters, predicates, scalar file -/

/-- The value of a counter (R39). -/
def State.ec (s : State) (i : BitVec 6) : BitVec 16 := s.iu.ec[i.toNat]'(i.isLt)

/-- Write a counter. -/
def State.setEc (s : State) (i : BitVec 6) (v : BitVec 16) : State :=
  s.withIu { s.iu with ec := s.iu.ec.set i.toNat v i.isLt, quiet := 0 }

/-- Add to a counter modulo 2^16 (R41). -/
def State.addEc (s : State) (i : BitVec 6) (v : BitVec 16) : State := s.setEc i (s.ec i + v)

/-- Perform one signal: increment 0 means none (R28). -/
def State.signal (s : State) (g : Signal) : State :=
  if g.inc = 0#8 then s else s.addEc g.ec (g.inc.setWidth 16)

/-- Perform the signals of a command (R42). -/
def State.signals (s : State) (h : Header) : State := (s.signal h.sigA).signal h.sigB

/-- A predicate (R44). -/
def State.pd (s : State) (i : BitVec 4) : Bool := s.iu.pd.getLsbD i.toNat

/-- Write a predicate. -/
def State.setPd (s : State) (i : BitVec 4) (b : Bool) : State :=
  let m : BitVec 16 := 1#16 <<< i.toNat
  s.withIu { s.iu with pd := if b then s.iu.pd ||| m else s.iu.pd &&& ~~~m }

/-- Read a scalar-file entry: bit 63 of SF47 reads the local finite state (R337). -/
def State.sf (s : State) (i : BitVec 6) : W64 :=
  let v := s.iu.sf[i.toNat]'(i.isLt)
  if i = 47#6 then v.extractLsb' 0 63 |>.setWidth 64 |>.or (if s.alm.finite then 1#64 <<< 63 else 0) else v

/-- Store a scalar-file entry; bit 63 of SF47 is not stored (R337). -/
def State.putSf (s : State) (i : BitVec 6) (v : W64) : State :=
  let v := if i = 47#6 then (v.extractLsb' 0 63).setWidth 64 else v
  s.withIu { s.iu with sf := s.iu.sf.set i.toNat v i.isLt }

/-- An engine's write of a scalar-file entry. What the entry held at the start of the control cycle is kept until the cycle ends, for a CSR
read in it (R201, R338). -/
def State.setSf (s : State) (i : BitVec 6) (v : W64) : State :=
  let old := if s.iu.sfOld.any fun p => p.1 == i then s.iu.sfOld else (i, s.sf i) :: s.iu.sfOld
  (s.putSf i v).withIu { (s.putSf i v).iu with sfOld := old }

/-- What a CSR read of a scalar-file entry returns: its value at the start of the control cycle (R338). -/
def State.sfAtStart (s : State) (i : BitVec 6) : W64 :=
  match s.iu.sfOld.find? fun p => p.1 == i with
  | some p => p.2
  | none => s.sf i

/-- A CSR write of a scalar-file entry lands in the next control cycle, before an engine's write there (R338). -/
def State.queueSf (s : State) (i : BitVec 6) (v : W64) : State := s.withIu { s.iu with sfNext := s.iu.sfNext ++ [(i, v)] }

/-- A control cycle ends: the CSR writes of its instructions land (R338). -/
def State.landSf (s : State) : State :=
  let t := s.iu.sfNext.foldl (fun s p => s.putSf p.1 p.2) s
  t.withIu { t.iu with sfOld := [], sfNext := [] }

/-- The whole scalar file as a command that issues now snapshots it (R192, R209). -/
def State.sfSnapshot (s : State) : Vector W64 64 := s.iu.sf.set 47 (s.sf 47#6) (by decide)

/-! ### Tasks -/

/-- A task's state. -/
def State.task (s : State) (t : Fin 4) : Task := s.iu.tasks[t.1]

/-- Replace a task's state. -/
def State.setTask (s : State) (t : Fin 4) (k : Task) : State := s.withIu { s.iu with tasks := s.iu.tasks.set t.1 k t.2 }

/-- Whether a task runs. -/
def State.running (s : State) (t : Fin 4) : Bool := (s.task t).st == .running

/-- The core is not fenced, a job runs and the task runs: its fetch goes on, also at and above STOP_COUNT, which ends issue alone (R57). -/
def State.active (s : State) (t : Fin 4) : Bool := !s.rep.coreFenced && s.job.st == .running && s.running t

/-- Issue or completion resets the quiet time of R27. -/
def State.touch (s : State) : State := s.withIu { s.iu with quiet := 0 }

/-- The lowest DPI of a task not yet issued (R58, R351): of its queued commands and a waiting VX_AUX, else the next DPI. -/
def State.lowestDpi (s : State) (t : Fin 4) : W64 :=
  let first (e : Entry) : W64 := match e.aux with | some a => a.1 | none => e.x.dpi
  let k := s.task t
  (s.iu.queued.filter fun e => e.x.task = t).foldl (fun m e => if first e < m then first e else m)
    (match k.aux with | some a => a.1 | none => k.dpi)

/-! ### Regions -/

/-- Capacity in bytes (R62). -/
def State.spadBytes (s : State) : Nat := s.id.build.spadMib * 1048576

/-- A region entry. -/
def State.region (s : State) (r : BitVec 6) : Region := s.rg.tab[r.toNat]'(r.isLt)

/-- Replace a region entry. -/
def State.setRegion (s : State) (r : BitVec 6) (e : Region) : State := s.withRg ⟨s.rg.tab.set r.toNat e r.isLt⟩

/-- Bytes of one half, or of the whole unsplit region (R68). -/
def Region.halfLen (e : Region) : Nat := if e.split then e.size.toNat * 2048 else e.size.toNat * 4096

/-- Local address of a physical half (R68). -/
def Region.halfBase (e : Region) (halfB : Bool) : Nat := e.base.toNat * 4096 + if halfB then e.halfLen else 0

/-- The physical half that CUR (false) or NEXT (true) names (R68). -/
def Region.physical (e : Region) (next : Bool) : Bool := e.split && (e.curIsB != next)

/-- The poison bit of a physical half (R66). -/
def Region.poisoned (e : Region) (halfB : Bool) : Bool := if halfB then e.poisonB else e.poisonA

/-- Write a poison bit of a valid region. -/
def Region.setPoison (e : Region) (halfB v : Bool) : Region :=
  if !e.valid then e else if halfB && e.split then { e with poisonB := v } else { e with poisonA := v }

/-- References held on a physical half (R249). -/
def Region.refs (e : Region) (halfB : Bool) : Nat := if halfB then e.refsB else e.refsA

/-- Change a reference count. -/
def Region.setRefs (e : Region) (halfB : Bool) (n : Nat) : Region :=
  if halfB then { e with refsB := n } else { e with refsA := n }

/-- The first and last local byte of a region. -/
def Region.contains (e : Region) (a : Nat) : Bool :=
  e.valid && e.base.toNat * 4096 ≤ a && a < (e.base.toNat + e.size.toNat) * 4096

/-- The valid region and physical half that hold a local byte. -/
def State.locate (s : State) (a : Nat) : Option Ref :=
  (List.range 64).findSome? fun k =>
    let r := BitVec.ofNat 6 k
    let e := s.region r
    if e.contains a then some (r, e.split && e.halfBase true ≤ a) else none

/-- Poison a physical half (R72). -/
def State.poison (s : State) (h : Ref) : State := s.setRegion h.1 ((s.region h.1).setPoison h.2 true)

/-- Poison the halves that hold the given word indices (R64). -/
def State.poisonWords (s : State) (ws : List Nat) : State :=
  ws.foldl (fun s w => match s.locate (8 * w) with | some h => s.poison h | none => s) s

/-- Release a version reference (R249). -/
def State.releaseRef (s : State) : Option Ref → State
  | none => s
  | some h => s.setRegion h.1 ((s.region h.1).setRefs h.2 ((s.region h.1).refs h.2 - 1))

/-- Take a version reference (R248). -/
def State.takeRef (s : State) : Option Ref → State
  | none => s
  | some h => s.setRegion h.1 ((s.region h.1).setRefs h.2 ((s.region h.1).refs h.2 + 1))

/-- The swap of a region whose retiring half holds no reference takes effect (R70, R250). -/
def Region.swapEffect (e : Region) : Region :=
  if e.swapPending && e.refs (e.physical false) == 0 then
    { e with curIsB := !e.curIsB, vbit := !e.vbit, swapPending := false }
  else e

/-- An entry from its 32 bytes (R66); references are the model's own count. -/
def Region.ofBits (b : BitVec 256) : Region :=
  ⟨bit b 0, bit b 1, bit b 2, bit b 3, bit b 4, bit b 5, bit b 6, bit b 7, bit b 8, fld b 32 16, fld b 48 16, fld b 64 32, 0, 0⟩

/-- The 32 bytes of an entry (R66). -/
def Region.toBits (e : Region) : BitVec 256 :=
  let b (x : Bool) (i : Nat) : BitVec 256 := if x then 1#256 <<< i else 0
  b e.valid 0 ||| b e.split 1 ||| b e.frozen 2 ||| b e.background 3 ||| b e.vbit 4 ||| b e.curIsB 5 ||| b e.poisonA 6 |||
  b e.poisonB 7 ||| b e.swapPending 8 ||| (e.base.setWidth 256 <<< 32) ||| (e.size.setWidth 256 <<< 48) |||
  (e.tensor.setWidth 256 <<< 64)

/-- R67 on one entry's own bits: `cap` is the capacity in 4 KiB units. -/
def regionBitsOk (cap : Nat) (b : BitVec 256) : Bool :=
  let e := Region.ofBits b
  if !e.valid then b == 0#256
  else
    fld b 9 23 == 0#23 && fld b 96 160 == 0#160 && !e.swapPending && 1 ≤ e.size.toNat &&
    e.base.toNat + e.size.toNat ≤ cap && (!e.split || e.size.toNat % 2 == 0) && (e.split || (!e.curIsB && !e.poisonB))

/-- Two entries share a byte. -/
def Region.overlaps (a b : Region) : Bool :=
  a.valid && b.valid && a.base.toNat < b.base.toNat + b.size.toNat && b.base.toNat < a.base.toNat + a.size.toNat

/-- An entry is well formed in place of entry `r` of a table (R67). -/
def regionOk (cap : Nat) (tab : Vector Region 64) (r : BitVec 6) (b : BitVec 256) : Bool :=
  regionBitsOk cap b &&
  (List.range 64).all fun k => k == r.toNat || !(Region.ofBits b).overlaps (tab.toList.getD k Region.empty)

/-! ### Scratchpad -/

/-- One byte of the scratchpad. -/
def State.byte (s : State) (a : Nat) : Byte := s.spad.mem.get a

/-- `n` bytes from a local address. -/
def State.bytes (s : State) (a n : Nat) : List Byte := (List.range n).map fun i => s.byte (a + i)

/-- Bytes as a little-endian number (R5). -/
def leNat : List Byte → Nat
  | [] => 0
  | b :: rest => b.toNat + 256 * leNat rest

/-- A number as `n` little-endian bytes. -/
def leBytes (v : Nat) : Nat → List Byte
  | 0 => []
  | n + 1 => BitVec.ofNat 8 v :: leBytes (v / 256) n

/-- Words of a run of bytes. -/
def wordsOf (a n : Nat) : List Nat := if n = 0 then [] else (List.range ((a + n - 1) / 8 - a / 8 + 1)).map (a / 8 + ·)

/-- Uncorrectable words of a run of bytes (R64). -/
def Spad.badIn (sp : Spad) (a n : Nat) : List Nat :=
  if n = 0 then [] else sp.bad.filter fun w => a / 8 ≤ w && w ≤ (a + n - 1) / 8

/-- Write one byte. -/
def Spad.writeByte (sp : Spad) (a : Nat) (b : Byte) : Spad := { sp with mem := sp.mem.set a b }

/-- Whether a set of writes covers every byte of a word. -/
def coversWord (ws : Bytes) (w : Nat) : Bool := (List.range 8).all fun i => ws.any fun p => p.1 == 8 * w + i

/-- Uncorrectable words that a set of writes touches only in part (R64). -/
def Spad.narrow (sp : Spad) (ws : Bytes) : List Nat :=
  sp.bad.filter fun w => ws.any (fun p => p.1 / 8 == w) && !coversWord ws w

/-- Land a set of writes: a word written in part that holds an uncorrectable error keeps its bits; one written whole is
sound again (R64). Later entries prevail. -/
def Spad.write (sp : Spad) (ws : Bytes) : Spad :=
  let skip := sp.narrow ws
  let ws' := if skip.isEmpty then ws else ws.filter fun p => !skip.contains (p.1 / 8)
  { ws'.foldl (fun sp p => sp.writeByte p.1 p.2) sp with bad := sp.bad.filter fun w => !coversWord ws w }

/-- Land a set of writes and poison the halves of words that could not merge (R64). -/
def State.writeSpad (s : State) (ws : Bytes) : State :=
  let skip := s.spad.narrow ws
  (s.withSpad (s.spad.write ws)).poisonWords skip

/-! ### Accesses of others (R75) -/

/-- Every byte of a run lies in a valid region that meets `p`. -/
def State.allBytes (s : State) (addr n : Nat) (p : Region → Bool → Bool) : Bool :=
  (List.range n).all fun i => match s.locate (addr + i) with
    | some h => p (s.region h.1) h.2
    | none => false

/-- The cause for which R75 refuses a set of writes, and the words it meets. -/
def State.writeCause (s : State) (ws : Bytes) : Option (BitVec 8 × List Nat) :=
  if !(ws.all fun p => s.allBytes p.1 1 (fun _ _ => true)) then some (1, [])
  else if !(ws.all fun p => s.allBytes p.1 1 (fun g _ => !g.frozen)) then some (3, [])
  else match s.spad.narrow ws with
    | [] => none
    | bad => some (8, bad)

/-! ### Error log (R394 to R397) -/

/-- Latch a control-core event: bit 8 JOB_START, 9 JOB_END, 11 PREEMPT_REQ, 12 ERRLOG (R342). -/
def State.latchEvent (s : State) (b : Nat) : State :=
  s.withCc { s.cc with evpend := s.cc.evpend ||| (1#16 <<< b) }

/-- Whether two entries merge (R395): class, number and task are fields of CODE (R394). -/
def LogEntry.sameEvent (a b : LogEntry) : Bool :=
  a.cls == 0#2 && b.cls == 0#2 && a.code == b.code && a.task == b.task && a.unit == b.unit && a.sub == b.sub && a.loc == b.loc

/-- Increment the first entry that merges. -/
def mergeLog (e : LogEntry) : List LogEntry → List LogEntry
  | [] => []
  | x :: rest => if x.sameEvent e then { x with count := min (x.count + 1) 0xFFFF } :: rest else x :: mergeLog e rest

/-- Remove the oldest corrected or notice entry. -/
def dropMinor : List LogEntry → List LogEntry
  | [] => []
  | x :: rest => if x.cls == 0#2 then rest else x :: dropMinor rest

/-- Saturating increment of a 16-bit count. -/
def sat16 (x : BitVec 16) : BitVec 16 := if x = BitVec.allOnes 16 then x else x + 1

/-- Handle one event (R395). -/
def State.addLog (s : State) (e : LogEntry) : State :=
  if e.cls == 0#2 && s.err.log.any (fun x => x.sameEvent e) then s.withErr { s.err with log := mergeLog e s.err.log }
  else if s.err.log.length < 64 then
    (s.withErr { s.err with log := s.err.log ++ [{ e with num := s.err.seq }], seq := s.err.seq + 1 }).latchEvent 12
  else if e.cls == 0#2 then s.withErr { s.err with lostMinor := sat16 s.err.lostMinor }
  else if s.err.log.any (fun x => x.cls == 0#2) then
    (s.withErr { s.err with
      log := dropMinor s.err.log ++ [{ e with num := s.err.seq }], seq := s.err.seq + 1 }).latchEvent 12
  else s.withErr { s.err with lostMajor := sat16 s.err.lostMajor }

/-- A new entry of count 1 at the present time, of no command. -/
def State.logEntry (s : State) (code : Code) (cls : ErrClass) (task : BitVec 2) (unit sub : BitVec 8) (loc : W32)
    (dpi detail : W64) : LogEntry :=
  ⟨code, cls.bits, task, 1, unit, sub, loc, s.mtime, dpi, detail, 0, ⟨0, 0⟩⟩

/-- Whether an entry names a physical row or column, a bank or a segment (R397): one of the control core (unit 0x41) names none of
them. -/
def hintable (c : Code) (unit : BitVec 8) : Bool :=
  unit != 0x41 && [Code.eccCorrected, Code.uncorrectable, Code.arrayReplay, Code.vxReplay, Code.cuReplay, Code.meshReplay,
    Code.ballastParity].contains c

/-- Log a corrected event or a notice of a task, with REPAIR_HINT when its count reaches 16 (R395, R397). -/
def State.noteFor (s : State) (task : BitVec 2) (code : Code) (unit sub : BitVec 8) (loc : W32) (dpi detail : W64) : State :=
  let e := s.logEntry code .minor task unit sub loc dpi detail
  let s1 := s.addLog e
  let n := (s1.err.log.find? fun x => x.sameEvent e).map LogEntry.count
  if hintable code unit && n == some 16 && !s.job.hints.contains (unit, loc) then
    let s2 := s1.withJob { s1.job with hints := (unit, loc) :: s1.job.hints }
    (s2.addLog (s.logEntry Code.repairHint .minor 0 unit sub loc noDpi 0)).emit (.hint unit loc)
  else s1

/-- Log a corrected event or a notice that belongs to no task. -/
def State.note (s : State) (code : Code) (unit sub : BitVec 8) (loc : W32) (dpi detail : W64) : State :=
  s.noteFor 0 code unit sub loc dpi detail

/-! ### Messages to the management block (R362) -/

/-- The 32-byte completion or FENCED message (R362). -/
def ctrlMessage (id : Ident) (ring : BitVec 3) (slot : W32) (status error : BitVec 16) (dpi tag : W64) : BitVec 256 :=
  (id.chip.setWidth 256) ||| (id.core.setWidth 256 <<< 20) ||| (ring.setWidth 256 <<< 23) ||| (slot.setWidth 256 <<< 32) |||
  (status.setWidth 256 <<< 64) ||| (error.setWidth 256 <<< 80) ||| (dpi.setWidth 256 <<< 96) ||| (tag.setWidth 256 <<< 160)

/-- USER_TAG of the job's descriptor (R356). -/
def Job.userTag (j : Job) : W64 := fld j.desc (8 * 0x88) 64

/-! ### Issued commands -/

/-- Agent codes of R289 as units of the error log (R394): arrays by partition, VX, CU and TUs. -/
def unitCode : UnitId → BitVec 8
  | .mx n p => BitVec.ofNat 8 (0x10 + 4 * n.1 + p.1)
  | .vx => 0x20
  | .cu => 0x21
  | .tu n => BitVec.ofNat 8 (0x24 + n.1)

/-- Chain views an entry writes (R210, R218): positions 6 + x in an issued command's views. -/
def fuseWrites (fuse : BitVec 8) : List Nat :=
  match fuse.toNat with
  | 0x02 => [10]
  | 0x03 | 0x10 | 0x11 | 0x12 | 0x18 | 0x1A | 0x20 => [11]
  | _ => []

/-- Positions of the views a command writes. -/
def outPos (c : Cmd) : List Nat :=
  match c.op with
  | .mmOs b | .mmSt b | .mmEw b | .mmDrain b =>
    (if b.p.hold || fuseNoTile c.h.fuse then [] else [2]) ++ fuseWrites c.h.fuse
  | .vxMap _ => 2 :: fuseWrites c.h.fuse
  | .vxReduce _ | .cuMap _ | .cuReduce _ => [2]
  | .transpose _ => [1]
  | _ => []

/-- The commands that engines execute: one that only waits for its peer has left its engine (R231). -/
def Iu.busy (x : Iu) : List (UnitId × Issued) := x.exec.filter fun q => q.2.exporting.isNone

/-- A unit executes a command: one that only waits for its peer has left it. -/
def onUnit (u : UnitId) (x : UnitId × Issued) : Bool := x.1 == u && x.2.exporting.isNone

/-- The commands that a unit executes, oldest first. -/
def Iu.onUnit (x : Iu) (u : UnitId) : List (UnitId × Issued) := x.exec.filter (Machine.onUnit u)

/-- The physical halves of an issued command's output views. -/
def Issued.outHalves (i : Issued) : List Ref :=
  (outPos i.e.cmd).filterMap fun p => ((i.views.getD p none).map fun v => (v.region, v.halfB))

/-- The resolved view at a position. -/
def viewAt (vs : List (Option RView)) (k : Nat) : Option RView := vs.getD k none

/-- The format of a resolved view; a view whose code is reserved is refused at decode. -/
def RView.format (v : RView) : Fmt := (Fmt.ofCode v.fmt).getD .f32

/-- Bytes of one row. -/
def RView.rowBytes (v : RView) : Nat := v.format.rowBytes v.cols

/-- The index i of the loop that LSEL selects (R31). -/
def loopIdx (v : View) (iters : List Nat) : Nat := if v.lsel = 0#3 then 0 else iters.getD (v.lsel.toNat - 1) 0

/-- 64 × LSTEP × i′ of the output view (R214, R231). -/
def loopShift (e : Entry) (v : View) : Nat := 64 * v.lstep.toNat * loopIdx v e.x.iters

/-- View 2 of a command, all zero where it has none. -/
def cmdView2 (c : Cmd) : View :=
  match c.op with
  | .mmOs b | .mmSt b | .mmEw b | .mmDrain b => b.v2
  | .vxMap b | .vxReduce b | .cuMap b | .cuReduce b => b.v2
  | _ => View.zero

/-- An entry of the scalar file as the command snapshot it. -/
def Issued.sfAt (i : Issued) (k : Nat) : W64 := i.sf.toList.getD k 0

/-- PEER_STRIDE, EXPORT and PEER_ADDR of the chain block (R209). -/
def Issued.peerStride (i : Issued) : Nat := (fld (i.sfAt 50) 32 16).toNat
def Issued.exports (i : Issued) : Bool := bit (i.sfAt 50) 62
def Issued.peerAddr (i : Issued) : W64 := i.sfAt 51

/-- An entry of the menu that exports its tile (R231). -/
def Issued.sends (i : Issued) : Bool := i.e.cmd.h.fuse != 0#8 && i.exports

/-- The global address of row `r` of an exported tile (R231). -/
def Issued.peerRow (i : Issued) (r : Nat) : Nat := i.peerAddr.toNat + 64 * (i.peerStride * r + loopShift i.e (cmdView2 i.e.cmd))

/-- The runs of global addresses that an issued command exports to (R231): a packed row of view 2 at each row address, and QTILE's scale
byte. -/
def Issued.peerSpans (i : Issued) : List (Nat × Nat) :=
  match i.sends, viewAt i.views 2 with
  | true, some v => (List.range v.rows).map (fun r => (i.peerRow r, v.rowBytes)) ++
      (if i.e.cmd.h.fuse = 2#8 then [(i.peerRow v.rows, 1)] else [])
  | _, _ => []

/-- CHIP of a global address (R304). -/
def chipOf (a : W64) : BitVec 20 := fld a 44 20

/-- KIND of a global address (R304). -/
def kindOf (a : W64) : Nat := (fld a 40 4).toNat

/-- An address lies in this core's scratchpad. -/
def State.isOwn (s : State) (a : W64) : Bool := chipOf a == s.id.chip && kindOf a == 1 + s.id.core.toNat

/-- The runs of local bytes that an issued command exports to, where its peer is this core (R231). -/
def State.ownPeerSpans (s : State) (i : Issued) : List (Nat × Nat) :=
  if i.sends && s.isOwn i.peerAddr then (i.peerSpans.filter fun q => q.2 != 0).map fun q => (q.1 % 2 ^ 40, q.2) else []

/-- The valid regions' halves that a run of local bytes meets. -/
def State.halvesIn (s : State) (q : Nat × Nat) : List Ref :=
  (List.range 64).flatMap fun k =>
    let r := BitVec.ofNat 6 k
    let g := s.region r
    (if g.split then [false, true] else [false]).filterMap fun h =>
      if g.valid && q.1 < g.halfBase h + g.halfLen && g.halfBase h < q.1 + q.2 then some (r, h) else none

/-- The physical halves an issued command writes: those of its output views, and those of the rows that it exports into this core's own
scratchpad (R72, R231). -/
def State.outHalves (s : State) (i : Issued) : List Ref := i.outHalves ++ (s.ownPeerSpans i).flatMap s.halvesIn

/-- Poison the halves that an issued command writes (R56, R72). -/
def State.poisonOutputs (s : State) (i : Issued) : State := (s.outHalves i).foldl State.poison s

/-- Byte intervals of the rows of a view: address and length. -/
def RView.spans (v : RView) : List (Nat × Nat) :=
  (List.range v.rows).map fun r => (v.addr + r * v.stride, v.rowBytes)

/-- A free value in each of `n` bytes from address `a`; a word that holds an uncorrectable error keeps its bits (R64). -/
def State.freeBytes (s : State) (a n : Nat) : State :=
  (List.range n).foldl (fun s k =>
    if s.spad.bad.contains ((a + k) / 8) then s
    else (s.draw.2).withSpad (s.spad.writeByte (a + k) (s.draw.1.setWidth 8))) s

/-- What an abandoned command leaves where it writes in this core: any value in every byte (R56; log entry 14). -/
def State.scramble (s : State) (i : Issued) : State :=
  ((((outPos i.e.cmd).filterMap fun p => i.views.getD p none).flatMap RView.spans) ++ s.ownPeerSpans i).foldl
    (fun s q => s.freeBytes q.1 q.2) s

/-! ### Logical and physical engines (R53) -/

/-- The queue code of the physical engine that serves a queue (R53, R363). -/
def State.phys (s : State) (q : Nat) : Nat := (s.job.remap.getD q (BitVec.ofNat 8 q)).toNat

/-- The physical array that hosts a logical array. -/
def State.physMx (s : State) (n : Fin 4) : Fin 4 := ⟨s.phys (2 * n.1) / 2 % 4, Nat.mod_lt _ (by decide)⟩

/-- The physical stream engine of a queue. -/
def State.physSe (s : State) (h : Header) : Fin 8 := ⟨(s.phys h.queue.toNat - 10) % 8, Nat.mod_lt _ (by decide)⟩

/-- The physical transpose unit that serves logical unit `n`. -/
def State.physTu (s : State) (n : Fin 4) : Fin 4 := ⟨(s.phys (18 + n.1) - 18) % 4, Nat.mod_lt _ (by decide)⟩

/-- The logical array that runs on a physical array: of those it hosts, the one that ran there last, or else the first (R54). -/
def State.logicalOn (s : State) (n : Fin 4) : Fin 4 :=
  let first := ((List.finRange 4).find? fun m => s.physMx m == n).getD n
  match s.job.lastMx[n] with
  | some m => if s.physMx m == n then m else first
  | none => first

/-- The agents of the partitions of a physical array (R289). -/
def agentOn (n : Fin 4) (a : BitVec 8) : Bool := a.toNat / 4 == 4 + n.1

/-- The ballast of the agents that `p` selects ends (R378); a sample still hears of a parity error in it (R159). -/
def State.dropBallast (s : State) (p : BitVec 8 → Bool) : State :=
  s.withEq { s.eq with
    partBallast := s.eq.partBallast.filter fun q => !p q.1,
    ended := s.eq.ended ++ (s.eq.partBallast.filter fun q => p q.1).map Prod.fst }

/-! ### Task abort (R56, R151, R250) -/

/-- Positions a task owns on the arrays (R350). -/
def Task.ownsPart (k : Task) (n p : Nat) : Bool := k.ownMx.getLsbD (4 * n + p)

/-- Set every plane and register of a partition EMPTY (R134, R151): a plane starts again from ZERO, so its words need no
clearing. -/
def Array_.emptyPart (a : Array_) (p : Fin 4) : Array_ := { a with parts := a.parts.set p.1 Part.empty p.2 }

/-- The partitions of every array that `own` selects become EMPTY. -/
def State.emptyParts (s : State) (own : Nat → Nat → Bool) : State :=
  (List.finRange 4).foldl (fun s n =>
    (List.finRange 4).foldl (fun s p =>
      if own n.1 p.1 then s.withMx (s.mx.set n.1 ((s.mx[n.1]).emptyPart p) n.2) else s) s) s

/-- A slot after its task aborts: a running transfer finishes without signals, a shadow is discarded (R82). -/
def Slot.abort (t : Fin 4) (k : Slot) : Slot :=
  { run := k.run.map (fun r => if r.i.e.x.task = t then { r with orphan := true } else r),
    shadow := match k.shadow with
      | some i => if i.e.x.task = t then none else some i
      | none => none }

/-- References that a task's commands hold. -/
def State.taskRefs (s : State) (t : Fin 4) : List Ref :=
  (s.iu.queued.filterMap fun e => if e.x.task = t then e.ref else none) ++
  ((s.iu.staged ++ s.iu.exec).filterMap fun u => if u.2.e.x.task = t then u.2.e.ref else none) ++
  (s.se.slots.toList.flatMap fun k =>
    (match k.run with | some r => if r.i.e.x.task = t ∧ ¬ r.orphan then r.i.e.ref.toList else [] | none => []) ++
    (match k.shadow with | some i => if i.e.x.task = t then i.e.ref.toList else [] | none => []))

/-- The slot runs the transfer of a task and DPI. -/
def Slot.runs (k : Slot) (h : Fin 4 × W64) : Bool :=
  match k.run with | some r => r.i.e.x.task == h.1 && r.i.e.x.dpi == h.2 | none => false

/-- Free the transpose units whose holder `p` selects (R89). -/
def State.freeHeld (s : State) (p : Fin 4 × W64 → Bool) : State :=
  s.withTu ⟨mapVec (fun h => h.filter fun x => !p x) s.tu.holder⟩

/-- Everything a task's abort does beyond recording the fault: pending swaps cleared, references released, executing and
staged commands abandoned with their output halves poisoned, shadows discarded, partitions emptied, transpose units freed but
those of running transfers (R56, R82, R151, R250). -/
def State.abandonTask (s : State) (t : Fin 4) : State :=
  let s1 := s.withRg ⟨mapVec (fun e => { e with swapPending := false }) s.rg.tab⟩
  let s2 := (s.taskRefs t).foldl (fun s r => s.releaseRef (some r)) s1
  let mine := (s.iu.staged ++ s.iu.exec).filter fun u => u.2.e.x.task = t
  let ran := s.iu.busy.filter fun u => u.2.e.x.task = t
  let s3 := mine.foldl (fun s u => s.poisonOutputs u.2) (ran.foldl (fun s u => s.scramble u.2) s2)
  let keep (l : List (UnitId × Issued)) := l.filter fun u => !(u.2.e.x.task == t)
  let s4 := s3.withIu { s3.iu with
    queued := s3.iu.queued.filter (fun e => !(e.x.task == t)), staged := keep s3.iu.staged, exec := keep s3.iu.exec,
    dropped := s3.iu.dropped ++ s3.iu.exec.filter fun u => u.2.e.x.task = t }
  let s5 := s4.withSe { s4.se with slots := mapVec (Slot.abort t) s4.se.slots }
  let s6 := s5.freeHeld fun h => h.1 == t && !s5.se.slots.toList.any (fun k => k.runs h)
  s6.emptyParts (s.task t).ownsPart

/-- The address of the first of some words, as the DETAIL of a scratchpad code (R394). -/
def wordDetail (ws : List Nat) : W64 := BitVec.ofNat 64 (8 * ws.headD 0)

/-- The physical bank of a local address, as the LOC of an error of a word (R62, R65, R394). -/
def State.bankLoc (s : State) (addr : Nat) : W32 := BitVec.ofNat 32 (s.spad.bankMap.getD (addr / 256 % 32) 0)

/-- A bank corrects a single-bit error of the word that holds a local address, on a read (R64). -/
def State.corrected (s : State) (addr : Nat) : State :=
  if s.spadBytes ≤ addr || s.spad.bad.contains (addr / 8) then s
  else s.note Code.eccCorrected 0x47 0 (s.bankLoc addr) noDpi (wordDetail [addr / 8])

/-- The banks that serve no logical bank of a map (R65). -/
def freeBanks (m : List Nat) : List Nat := (List.range 34).filter fun b => !m.contains b

/-- The spare banks. -/
def State.spareBanks (s : State) : List Nat := freeBanks s.spad.bankMap

/-- Chip, core and cause as DETAIL packs them (R394). -/
def peerDetail (chip : BitVec 20) (core : BitVec 3) (cause : BitVec 8) : W64 :=
  chip.setWidth 64 ||| (core.setWidth 64 <<< 20) ||| ((cause.setWidth 64 &&& 0xF) <<< 23)

/-- What an entry of the error log names (R394): the unit, the part of it, the place inside it, and, where the command has left its
queue and its unit, the tags of the command (R254). -/
structure Site where
  unit : BitVec 8
  sub : BitVec 8
  loc : W32
  tags : Option Tags
  deriving DecidableEq, Repr

/-- The issue unit. -/
def Site.iu : Site := ⟨0x40, 0, 0, none⟩

/-- The tags of a command (R254). -/
def tagsIn (h : Header) : Tags := ⟨h.vstage, h.mbatch⟩

/-- The place with the tags of its command; of a pair, those of its compute command (log entry 91). -/
def Site.of (w : Site) (h : Header) : Site := { w with tags := some (tagsIn h) }

/-- A command of a task, or the VX_AUX of its pair, has this DPI (R193). -/
def Entry.named (e : Entry) (t : Fin 4) (dpi : W64) : Bool :=
  e.x.task == t && (e.x.dpi == dpi || match e.aux with | some a => a.1 == dpi | none => false)

/-- The tags of the command of a task at a DPI, while the issue unit holds it. -/
def State.tagsOf (s : State) (t : Fin 4) (dpi : W64) : Tags :=
  match (s.iu.queued ++ (s.iu.staged ++ s.iu.exec ++ s.iu.dropped).map fun q => q.2.e).find? fun e => e.named t dpi with
  | some e => tagsIn e.cmd.h
  | none => ⟨0, 0⟩

/-- The tags that the report of a fault carries (R254). -/
def State.faultTags (s : State) (t : Fin 4) (dpi : W64) (w : Site) : Tags := w.tags.getD (s.tagsOf t dpi)

/-- LOC of a place (R394). -/
def locBits (l : PhysLoc) : W32 := l.row.setWidth 32 ||| (l.col.setWidth 32 <<< 18)

/-- A unit with a place in it: an array by its physical number and its partition, VX and Crucible by the lane group (R153, R394). -/
def State.unitSite (s : State) (u : UnitId) (l : PhysLoc) : Site :=
  match u with
  | .mx n p => ⟨unitCode (.mx (s.physMx n) p), BitVec.ofNat 8 p.1, locBits l, none⟩
  | _ => ⟨unitCode u, l.group, locBits l, none⟩

/-- No place that an event reports. -/
def noLoc : PhysLoc := ⟨0, 0, 0⟩

/-- A stream engine's slot (R394). -/
def slotSite (e : Fin 8) (k : Fin 4) : Site := ⟨BitVec.ofNat 8 (1 + e.1), BitVec.ofNat 8 k.1, 0, none⟩

/-- Record a task-fatal fault in the error log, with the tags of its command (R254, R393, R394). -/
def State.logFatal (s : State) (t : Fin 4) (code : Code) (dpi : W64) (w : Site) (detail : W64) : State :=
  s.addLog { s.logEntry code .taskFatal (BitVec.ofNat 2 t.1) w.unit w.sub
    (if code == Code.uncorrectable then s.bankLoc detail.toNat else w.loc) dpi detail with
    tags := s.faultTags t dpi w }

/-- The fault that a task's record reports when another arises in the control cycle of its abort: the one with the lower DPI (R56,
R392). -/
def Task.lowerFault (k : Task) (code : Code) (dpi : W64) (g : Tags) : Task :=
  match k.fault with
  | some (_, d) => if dpi < d then { k with fault := some (code, dpi), ftags := g } else k
  | none => k

/-- What a task that aborts held, by which another fault of the same control cycle is found. The fault is one of fetch when its DPI has
not been placed, and one of issue when its command waits in a queue. -/
def State.lateOf (s : State) (t : Fin 4) (dpi : W64) : Late :=
  let k := s.task t
  let fetch := dpi == k.dpi || match k.aux with | some a => a.1 == dpi | none => false
  ⟨t, k, s.iu.queued.filter (fun e => e.x.task == t && !e.named t dpi), s.iu.staged.filter (fun u => u.2.e.x.task == t), s.rg,
    mapVec Array_.parts s.mx, !fetch, fetch || !s.iu.queued.any fun e => e.named t dpi⟩

/-- The task aborted in the present control cycle. -/
def Iu.isLate (x : Iu) (t : Fin 4) : Bool := x.late.any fun l => l.task == t

/-- A task-fatal fault (R56, R57): discarded at or above STOP_COUNT; a task that no longer runs only logs it (R360), and one that
aborted in the same control cycle reports the fault with the lower DPI (R56, R392). -/
def State.abortTaskAt (s : State) (t : Fin 4) (code : Code) (dpi : W64) (w : Site) (detail : W64) : State :=
  let k := s.task t
  if k.stopCount != 0#64 && dpi != noDpi && k.stopCount ≤ dpi then s
  else if k.st != .running then
    let s1 := s.logFatal t code dpi w detail
    let s2 := if s.iu.isLate t then s1.setTask t (k.lowerFault code dpi (s.faultTags t dpi w)) else s1
    s2.withJob { s2.job with more := true }
  else
    let other := (List.finRange 4).any fun u => u != t && (s.task u).fault.isSome
    let s1 := (s.logFatal t code dpi w detail).abandonTask t
    let s2 := (s1.withIu { s1.iu with late := s1.iu.late ++ [s.lateOf t dpi] }).setTask t { s1.task t with
      st := .ended 1, dpi := s.lowestDpi t, fetchEnded := true, holds := [], aux := none, fault := some (code, dpi),
      ftags := s.faultTags t dpi w }
    if other then s2.withJob { s2.job with more := true } else s2

/-- A task-fatal fault that the IU raises. -/
def State.abortTask (s : State) (t : Fin 4) (code : Code) (dpi : W64) : State := s.abortTaskAt t code dpi Site.iu 0

/-! ### Core fence (R398) -/

/-- Order 2 of R398: fetch, issue and injection stop and every command is abandoned without signals. The control core halts too (log entry
144). -/
def State.stopCore (s : State) : State :=
  let stop (k : Task) : Task := if k.st == .running then { k with st := .ended 5, fetchEnded := true, holds := [], aux := none } else k
  let s0 := s.iu.busy.foldl (fun s u => s.scramble u.2) s
  let s1 := s0.withIu { s0.iu with tasks := mapVec stop s0.iu.tasks, queued := [], staged := [], exec := [], late := [] }
  let s2 := s1.withSe { s1.se with
    slots := mapVec (fun k => { run := k.run.map (fun r => { r with orphan := true }), shadow := none }) s1.se.slots }
  let s2' := s2.freeHeld fun h => !s2.se.slots.toList.any fun k => k.runs h
  let s3 := s2'.withRg ⟨mapVec (fun e => { e with refsA := 0, refsB := 0 }) s2.rg.tab⟩
  s3.withCc { s3.cc with injBusy := false, injPend := none, run := false, halted := true }

/-- The FENCED message (R362): the fields depend on whether a job runs, which is so from the read of its descriptor on (R462), and whether
its record is written. USER_TAG of a descriptor that is being read or checked is open (log entry 16). -/
def State.fencedMessage (s : State) (code : Code) (dpi : W64) : BitVec 256 :=
  let err : BitVec 16 := code.setWidth 16
  let ring := BitVec.ofNat 3 s.job.ring.1
  match s.job.st with
  | .idle => ctrlMessage s.id 0 (BitVec.allOnes 32) 5 err noDpi 0
  | .reading => ctrlMessage s.id ring s.job.slot 5 err dpi s.draw.1
  | .running =>
    if s.job.recWritten then ctrlMessage s.id ring (BitVec.allOnes 32) 5 err noDpi s.job.userTag
    else ctrlMessage s.id ring s.job.slot 5 err dpi s.job.userTag

/-- A core-fatal event (R391, R392, R398): log, stop, the completion message of a job whose record is written, FENCED and a
fence notice. A core already fenced only logs. -/
def State.fenceCore (s : State) (code : Code) (unit : BitVec 8) (dpi : W64) : State :=
  let s1 := s.addLog (s.logEntry code .coreFatal 0 unit 0 0 dpi 0)
  if s.rep.coreFenced then s1
  else
    let s2 := (s1.stopCore).withRep { s1.rep with coreFenced := true, fenceCode := code, pending := none }
    let s3 := match s.job.lastMsg with | some m => s2.emit (.ctrl m) | none => s2
    let s4 := if s.job.st == .reading then s3.withFreeCtr (s3.freeCtr + 1) else s3
    ((s4.emit (.ctrl (s2.fencedMessage code dpi))).emit (.fenceNotice code)).withJob { s4.job with
      st := .idle, preempt := false, lastMsg := none }

end Sys2Proof.Machine
end

