-- ==== Sys2Proof/Machine/Port.lean ====
section
/-! DEFINITION. The setup port's responses (R370), refused writes (R459), and the fabric ports' places and
schedules (R314, R473), and pending rings with the pre-emption requests they raise (R352, R354, R364). -/

namespace Sys2Proof.Machine

/-! ### Responses -/

/-- Answer an access of the setup port (R370, R442): 0 OK, 1 NOT_READY, 2 REFUSED, 3 BAD_ADDRESS, 4 LOCKED. -/
def State.respond (s : State) (code : BitVec 3) (data : W64) : State :=
  (s.withSu { s.su with rsp := code, rdata := data }).emit (.setup code data)

/-- Answer OK to a write. -/
def State.ok (s : State) : State := s.respond 0 0

/-- Refuse a write to the immediate group (R459). -/
def State.refuseImm (s : State) (reason : BitVec 3) : State :=
  (s.withSu { s.su with werr := true, wreason := reason }).respond 2 0

/-- An access before READY is refused with NOT_READY; any other takes the given effect (R12, R458). -/
def State.served (s : State) (f : State → State) : State := if s.bring.ready then f s else s.respond 1 0

/-! ### Fabric ports (R314, R473) -/

/-- A port of the state. -/
def State.port (s : State) (p : Fin 8) : Port := s.fp[p.1]

/-- Replace a port. -/
def State.setPort (s : State) (p : Fin 8) (x : Port) : State := s.withFp (s.fp.set p.1 x p.2)

/-- Entry e of a link schedule (R314). -/
def schedEntry (sched : List W64) (e : Nat) : BitVec 16 := fld (sched.getD (e / 4) 0) (16 * (e % 4)) 16

/-- ENC_TX, ENC_RX, PATTERN and TX_EPOCH of a control word (R473). -/
def encTx (c : W64) : Bool := bit c 0
def encRx (c : W64) : Bool := bit c 1
def patternOf (c : W64) : Nat := (fld c 2 2 : BitVec 2).toNat
def epochOf (c : W64) : Bool := bit c 4

/-! ### Rings -/

/-- A ring of the state. -/
def State.ringAt (s : State) (n : Fin 8) : Ring := s.ring[n.1]

/-- Replace a ring. -/
def State.setRing (s : State) (n : Fin 8) (r : Ring) : State := s.withRing (s.ring.set n.1 r n.2)

/-- RING_LOG2, RING_CLASS and RING_EN of an applied configuration (R465). -/
def ringLog2 (cfg : W64) : Nat := (fld cfg 0 4).toNat
def ringClass (cfg : W64) : BitVec 2 := fld cfg 4 2
def ringEn (cfg : W64) : Bool := bit cfg 6

/-- A ring is pending (R354). -/
def Ring.isPending (r : Ring) : Bool := ringEn r.cfg && r.tail != r.head

/-- Refuse a write to a ring's group (R459). -/
def State.refuseRing (s : State) (n : Fin 8) (reason : BitVec 3) : State :=
  (s.setRing n { s.ringAt n with err := true, reason := reason }).respond 2 0

/-! ### Pre-emption requests (R364) -/

/-- FLAGS bits 1 to 4 of a descriptor (R356). -/
def degradedOk (d : BitVec 2048) : Bool := bit d 17
def preemptible (d : BitVec 2048) : Bool := bit d 18
def resumes (d : BitVec 2048) : Bool := bit d 19

/-- NTASKS of a descriptor. -/
def numTasks (d : BitVec 2048) : Nat := (fld d 32 8).toNat

/-- Every task of the job has ended. -/
def State.tasksEnded (s : State) : Bool :=
  (List.finRange 4).all fun t => numTasks s.job.desc ≤ t.1 || !s.running t

/-- Request the pre-emption of the running job: ignored unless it is preemptible. PREEMPT_REQ pends (R364). A job runs from the read of its
descriptor on (R462): a request that comes before the descriptor's checks have passed is kept until then (log entry 136). -/
def State.requestPreempt (s : State) : State :=
  if s.job.st == .reading then s.withJob { s.job with asked := true }
  else if s.job.st == .running && preemptible s.job.desc && !s.job.preempt then
    (s.withJob { s.job with preempt := true, preemptAt := s.cycle }).latchEvent 11
  else s

/-- Replace a ring's indices or configuration. A ring of a higher class than the running job's that becomes pending requests
pre-emption (R364). -/
def State.updateRing (s : State) (n : Fin 8) (r : Ring) : State :=
  let s1 := s.setRing n r
  if !(s.ringAt n).isPending && r.isPending && s.job.cls < ringClass r.cfg then s1.requestPreempt else s1

end Sys2Proof.Machine
end

