-- ==== Sys2Proof/Machine/Packet.lean ====
section
/-! DEFINITION. Packets of the fabric (R308, R310, R311): the header unit, the packets of a run, messages in header format (R312,
R319), and the packets that wait at a port for its origin positions (R315). -/

namespace Sys2Proof.Machine

/-- A unit of a fabric link: 16 bytes (R309). -/
abbrev FabUnit := BitVec 128

/-! ### The header unit (R310) -/

/-- OP codes of R310. -/
def opWrite : BitVec 4 := 1
def opReadReq : BitVec 4 := 2
def opReadData : BitVec 4 := 3
def opAck : BitVec 4 := 4
def opRefuse : BitVec 4 := 5
def opNotify : BitVec 4 := 6
def opMcast : BitVec 4 := 7
def opMreport : BitVec 4 := 8
def opBarrier : BitVec 4 := 9
def opCtrl : BitVec 4 := 10

/-- The fields of a header unit (R310): ADDR as bits [63:8] of a global address. -/
structure PacketHead where
  op : BitVec 4
  len : BitVec 5
  lastw : Bool
  addr : BitVec 56
  first : BitVec 8
  last : BitVec 8
  chip : BitVec 20
  core : BitVec 3
  agent : BitVec 4
  deriving DecidableEq, Repr

/-- The header unit of its fields (R310). -/
def PacketHead.toUnit (h : PacketHead) : FabUnit :=
  h.op.setWidth 128 ||| (h.len.setWidth 128 <<< 4) ||| ((if h.lastw then 1#128 else 0) <<< 9) ||| (h.addr.setWidth 128 <<< 16) |||
    (h.first.setWidth 128 <<< 72) ||| (h.last.setWidth 128 <<< 80) ||| (h.chip.setWidth 128 <<< 88) |||
    (h.core.setWidth 128 <<< 108) ||| (h.agent.setWidth 128 <<< 111)

/-- The fields of a header unit. -/
def headOf (u : FabUnit) : PacketHead :=
  ⟨fld u 0 4, fld u 4 5, bit u 9, fld u 16 56, fld u 72 8, fld u 80 8, fld u 88 20, fld u 108 3, fld u 111 4⟩

/-- A padding unit (R310). -/
def isPadding (u : FabUnit) : Bool := fld u 0 4 == 0#4

/-- A header has a reserved OP or a non-zero RsvZ field (R310). -/
def headBad (u : FabUnit) : Bool := 10 < (fld u 0 4 : BitVec 4).toNat || fld u 10 6 != 0#6 || fld u 115 13 != 0#13

/-- CHIP of a header's address (R304). -/
def PacketHead.dest (h : PacketHead) : BitVec 20 := fld h.addr 36 20

/-- A response of R308 and R315: its address is the run's, so it names no chip that it travels to. -/
def PacketHead.isResponse (h : PacketHead) : Bool := h.op == opReadData || h.op == opAck || h.op == opRefuse || h.op == opMreport

/-! ### The packets of a transfer (R311) -/

/-- The 16 bytes of a unit, byte 0 in its low bits (R5). -/
def unitOf (bs : List Byte) : FabUnit := BitVec.ofNat 128 (leNat bs)

/-- The data units of a run: the 16-byte-aligned units of the window that it touches. Bytes outside the run are carried as zero
(log entry 100). -/
def runUnits (rd : Nat → Byte) (start n : Nat) : List FabUnit :=
  (List.range ((start + n - 1) / 16 - start / 16 + 1)).map fun k =>
    unitOf ((List.range 16).map fun j =>
      let a := 16 * (start / 16 + k) + j
      if start ≤ a && a < start + n then rd a else 0)

/-- Who sends a packet (R288, R310). -/
structure Sender where
  chip : BitVec 20
  core : BitVec 3
  agent : Nat
  deriving DecidableEq, Repr

/-- The packet of one run (R310, R311): its header, and the data units of one that carries data. -/
def runPacket (w : Sender) (op : BitVec 4) (lastw : Bool) (addr : W64) (n : Nat) (data : List FabUnit) : List FabUnit :=
  (⟨op, BitVec.ofNat 5 data.length, lastw, fld addr 8 56, fld addr 0 8, fld addr 0 8 + BitVec.ofNat 8 (n - 1), w.chip, w.core,
    BitVec.ofNat 4 w.agent⟩ : PacketHead).toUnit :: data

/-- The address of a chip and kind with zero offset bits. -/
def kindBase (a : W64) : W64 := (a >>> 40) <<< 40

/-- A NOTIFY packet: the counter in FIRST, the increment in LAST (R310). -/
def notifyPacket (w : Sender) (far : W64) (ec : BitVec 6) (inc : BitVec 8) : List FabUnit :=
  [(⟨opNotify, 0, false, fld (kindBase far) 8 56, ec.setWidth 8, inc, w.chip, w.core, BitVec.ofNat 4 w.agent⟩ : PacketHead).toUnit]

/-- The bytes of a packet's run: of its data units those from FIRST to LAST, the others being carried but ignored; none where it carries no
data (R311). -/
def packetRun (us : List FabUnit) : List Byte :=
  let h := headOf (us.headD 0)
  let first := h.first.toNat
  let all := (us.drop 1).flatMap fun u => leBytes u.toNat 16
  if h.len = 0#5 then [] else (all.drop (first % 16)).take (h.last.toNat + 1 - first)

/-- The packets of the runs of a transfer to another chip, of which `bs` are the bytes that it writes by global address (R311): for
each run, first byte and length, a packet, the last one with LASTW. -/
def runPackets (w : Sender) (op : BitVec 4) (bs : List (Nat × Byte)) (rs : List (W64 × Nat)) : List (List FabUnit) :=
  let m : Store 8 := bs.foldl (fun m p => Store.set m p.1 p.2) []
  rs.zipIdx.map fun r =>
    runPacket w op (r.2 + 1 == rs.length) r.1.1 r.1.2
      (if op == opReadReq then [] else runUnits (fun a => m.get a) r.1.1.toNat r.1.2)

/-! ### Messages in header format (R312, R319, R346) -/

/-- A BARRIER or CTRL message as a unit of a control flit. -/
def FabMsg.toUnit : FabMsg → FabUnit
  | .barrier d ec inc =>
    (⟨opBarrier, 0, false, fld (kindBase d.dest) 8 56, ec.setWidth 8, inc, fld d.src 0 20, fld d.src 20 3, fld d.src 23 4⟩ :
      PacketHead).toUnit
  | .ctrl _ p => p

/-- The message that a unit of a control flit carries, if it carries one. -/
def msgOf (u : FabUnit) : Option FabMsg :=
  let h := headOf u
  if h.op == opBarrier then some (.barrier ⟨h.addr.setWidth 64 <<< 8, fld u 88 27⟩ (h.first.setWidth 6) h.last)
  else if h.op == opCtrl then some (.ctrl h.dest u)
  else none

/-! ### What waits at a port (R315) -/

/-- Queue packets of an owner at a port of this core for its origin positions there. -/
def State.queueUnits (s : State) (p : Fin 8) (q : OutPacket) : State :=
  s.setPort p { s.port p with queue := (s.port p).queue ++ [q] }

/-- Send packets of an agent of this core toward port `q` of the chip: to its origin positions, or over the mesh to the core that
has the port (R315, R318). `task` and `dpi` name the command that sends them. -/
def State.sendPackets (s : State) (q agent : Nat) (task : Fin 4) (dpi : W64) (ps : List (List FabUnit)) : State :=
  ps.foldl (fun s us =>
    let o : OutPacket := ⟨s.id.core, agent, task, dpi, false, us⟩
    if q / 8 = s.id.core.toNat then s.queueUnits ⟨q % 8, Nat.mod_lt _ (by decide)⟩ o else s.emit (.toPort q o)) s

/-- Take back the packets of a command that no frame has begun to carry (R326). -/
def State.unsend (s : State) (task : Fin 4) (dpi : W64) : State :=
  s.withFp (mapVec (fun x : Port => { x with
    queue := x.queue.filter fun o => o.begun || !(o.core == s.id.core && o.task == task && o.dpi == dpi) }) s.fp)

/-- A unit of an owner's packets, the command it belongs to, and what waits then (R315). -/
def popUnit (core : BitVec 3) (agent : Nat) : List OutPacket → Option (FabUnit × OutPacket × List OutPacket)
  | [] => none
  | o :: rest =>
    if o.core == core && o.agent == agent then
      match o.units with
      | [] => (popUnit core agent rest)
      | [u] => some (u, o, rest)
      | u :: us => some (u, o, { o with begun := true, units := us } :: rest)
    else (popUnit core agent rest).map fun r => (r.1, r.2.1, o :: r.2.2)

end Sys2Proof.Machine
end

