-- ==== Sys2Proof/Machine/Aes.lean ====
section
/-! DEFINITION. AES-256-GCM, which protects the frames of a link (R328): the cipher, counter mode and the tag as the published standards
have them (FIPS 197 and NIST SP 800-38D; log entry 101). The bytes of a number are in little-endian order (R5). -/

namespace Sys2Proof.Machine

/-! ### The block cipher -/

/-- Twice a field element, modulo x⁸ + x⁴ + x³ + x + 1. -/
def aesDouble (a : Byte) : Byte := if a.getLsbD 7 then (a <<< 1) ^^^ 0x1B#8 else a <<< 1

/-- The product of field elements, over the low `n` bits of the second. -/
def aesMulN : Nat → Byte → Byte → Byte
  | 0, _, _ => 0
  | n + 1, a, b => (if b.getLsbD 0 then a else 0) ^^^ aesMulN n (aesDouble a) (b >>> 1)

/-- The inverse of a field element, as its 254th power; 0 for 0. -/
def aesInv (a : Byte) : Byte :=
  ((List.range 7).foldl (fun (p : Byte × Byte) _ =>
    let q := aesMulN 8 p.1 p.1
    (q, aesMulN 8 p.2 q)) (a, 1)).2

/-- SubBytes of a byte. -/
def aesSub (a : Byte) : Byte :=
  let b := aesInv a
  b ^^^ b.rotateLeft 1 ^^^ b.rotateLeft 2 ^^^ b.rotateLeft 3 ^^^ b.rotateLeft 4 ^^^ 0x63#8

/-- Bytes combined place by place. -/
def xorBytes (a b : List Byte) : List Byte := List.zipWith (· ^^^ ·) a b

/-- The round constant of step k of the key schedule. -/
def aesRcon (k : Nat) : Byte := (List.range (k - 1)).foldl (fun a _ => aesDouble a) 1

/-- One word more of a key schedule. -/
def aesNextWord (ws : List (List Byte)) : List (List Byte) :=
  let i := ws.length
  let t := ws.getD (i - 1) []
  let u := if i % 8 = 0 then xorBytes ((t.drop 1 ++ t.take 1).map aesSub) [aesRcon (i / 8), 0, 0, 0]
    else if i % 8 = 4 then t.map aesSub else t
  ws ++ [xorBytes (ws.getD (i - 8) []) u]

/-- The 60 words of the key schedule of a 256-bit key. -/
def aesSchedule (key : BitVec 256) : List (List Byte) :=
  (List.range 52).foldl (fun ws _ => aesNextWord ws)
    ((List.range 8).map fun w => (List.range 4).map fun b => fld key (32 * w + 8 * b) 8)

/-- The 16 bytes of round key r. -/
def aesRoundKey (ws : List (List Byte)) (r : Nat) : List Byte := ((ws.drop (4 * r)).take 4).flatten

/-- ShiftRows on 16 bytes in column order. -/
def aesShift (x : List Byte) : List Byte := (List.range 16).map fun i => x.getD ((i + 4 * (i % 4)) % 16) 0

/-- MixColumns. -/
def aesMix (x : List Byte) : List Byte :=
  (List.range 16).map fun i =>
    let at_ (k : Nat) : Byte := x.getD (4 * (i / 4) + (i + k) % 4) 0
    aesDouble (at_ 0) ^^^ aesDouble (at_ 1) ^^^ at_ 1 ^^^ at_ 2 ^^^ at_ 3

/-- Encrypt a block of 16 bytes. -/
def aesBlock (ws : List (List Byte)) (x : List Byte) : List Byte :=
  let y := (List.range 13).foldl (fun y r => xorBytes (aesMix (aesShift (y.map aesSub))) (aesRoundKey ws (r + 1)))
    (xorBytes x (aesRoundKey ws 0))
  xorBytes (aesShift (y.map aesSub)) (aesRoundKey ws 14)

/-! ### Counter mode -/

/-- The key stream's block of a counter under a nonce: the nonce, then the counter with its high byte first. -/
def gcmBlock (ws : List (List Byte)) (nonce : BitVec 96) (ctr : Nat) : FabUnit :=
  unitOf (aesBlock ws (leBytes nonce.toNat 12 ++ (leBytes ctr 4).reverse))

/-- Encrypt or decrypt the units of a frame: counters start at 2. -/
def cryptUnits (key : BitVec 256) (nonce : BitVec 96) (us : List FabUnit) : List FabUnit :=
  let ws := aesSchedule key
  us.zipIdx.map fun q => q.1 ^^^ gcmBlock ws nonce (q.2 + 2)

/-! ### The tag -/

/-- A unit with its byte 0 as the high byte, which is the order of the field of the tag. -/
def swapUnit (u : FabUnit) : FabUnit := unitOf (leBytes u.toNat 16).reverse

/-- Step of the product of two elements of the tag's field: the sum so far, and the second factor times the next power of x. -/
def gcmStep (x : FabUnit) (p : FabUnit × FabUnit) (i : Nat) : FabUnit × FabUnit :=
  (if x.getLsbD (127 - i) then p.1 ^^^ p.2 else p.1,
   if p.2.getLsbD 0 then (p.2 >>> 1) ^^^ (0xE1#128 <<< 120) else p.2 >>> 1)

/-- The product, modulo x¹²⁸ + x⁷ + x² + x + 1, of elements whose high bit is the coefficient of 1. -/
def gcmMul (x y : FabUnit) : FabUnit := ((List.range 128).foldl (gcmStep x) (0, y)).1

/-- The tag over the ten bytes of additional data and the ciphertext. -/
def gcmTag (key : BitVec 256) (nonce : BitVec 96) (aad : BitVec 80) (us : List FabUnit) : FabUnit :=
  let ws := aesSchedule key
  let h := swapUnit (unitOf (aesBlock ws (List.replicate 16 0)))
  let blocks := swapUnit (aad.setWidth 128) :: us.map swapUnit ++ [(80#128 <<< 64) ||| BitVec.ofNat 128 (128 * us.length)]
  swapUnit (blocks.foldl (fun y b => gcmMul (y ^^^ b) h) 0) ^^^ gcmBlock ws nonce 1

end Sys2Proof.Machine
end

