-- ==== Sys2Proof/Machine/Frames.lean ====
section
/-! DEFINITION. Frames of a fabric link (R309, R312, R313): flits and units, the control flit, its CRC and tag (R328), the units that a
port's schedule puts into a frame (R315), the positions of an arriving one, and the pattern generator (R329). -/

namespace Sys2Proof.Machine

/-! ### Flits (R309) -/

/-- Four units as a data flit: unit u in bytes 16u to 16u + 15. -/
def flitOf (us : List FabUnit) : BitVec 512 :=
  (us.getD 0 0).setWidth 512 ||| ((us.getD 1 0).setWidth 512 <<< 128) ||| ((us.getD 2 0).setWidth 512 <<< 256) |||
    ((us.getD 3 0).setWidth 512 <<< 384)

/-- The units of a data flit. -/
def flitUnits (f : BitVec 512) : List FabUnit := [fld f 0 128, fld f 128 128, fld f 256 128, fld f 384 128]

/-- The 15 data flits of 60 units: unit 4f + u is unit u of flit f. -/
def dataFlits (us : List FabUnit) : List (BitVec 512) := (List.range 15).map fun f => flitOf (us.drop (4 * f))

/-- Bytes of a flit. -/
def flitBytes (f : BitVec 512) : List Byte := (List.range 64).map fun i => fld f (8 * i) 8

/-! ### The CRC (R312) -/

/-- One bit of the CRC-32 of IEEE 802.3, in its reflected form. -/
def crcBit (c : W32) : W32 := if c.getLsbD 0 then (c >>> 1) ^^^ 0xEDB88320#32 else c >>> 1

/-- One byte of the CRC. -/
def crcByte (c : W32) (b : Byte) : W32 :=
  crcBit (crcBit (crcBit (crcBit (crcBit (crcBit (crcBit (crcBit (c ^^^ b.setWidth 32))))))))

/-- CRC-32 of bytes (log entry 102). -/
def crc32 (bs : List Byte) : W32 := ~~~(bs.foldl crcByte 0xFFFFFFFF#32)

/-- The CRC of a frame: its data flits and control bytes 0 to 3 and 8 to 63 (R312). -/
def frameCrc (fs : List (BitVec 512)) (ctl : BitVec 512) : W32 :=
  crc32 ((fs.take 15).flatMap flitBytes ++ (flitBytes ctl).take 4 ++ (flitBytes ctl).drop 8)

/-! ### The control flit (R312) -/

/-- What a control flit carries in the clear. -/
structure CtlFields where
  fseq : BitVec 12
  ackSeq : BitVec 12
  nak : Bool
  aEpoch : Bool
  idle : BitVec 8
  hb : BitVec 8
  epoch : Bool
  deriving DecidableEq, Repr

/-- A bit at a place of a flit. -/
def flitBit (b : Bool) (i : Nat) : BitVec 512 := if b then 1#512 <<< i else 0

/-- LINK_STATE. -/
def CtlFields.link (c : CtlFields) : W64 :=
  c.idle.setWidth 64 ||| (c.hb.setWidth 64 <<< 8) ||| ((if c.epoch then 1#64 else 0) <<< 16)

/-- The control flit of its fields, CRC, tag and two message units. -/
def CtlFields.flit (c : CtlFields) (crc : W32) (tag m0 m1 : FabUnit) : BitVec 512 :=
  c.fseq.setWidth 512 ||| (c.ackSeq.setWidth 512 <<< 16) ||| flitBit c.nak 28 ||| flitBit c.aEpoch 29 ||| (crc.setWidth 512 <<< 32) |||
    (c.link.setWidth 512 <<< 64) ||| (tag.setWidth 512 <<< 128) ||| (m0.setWidth 512 <<< 256) ||| (m1.setWidth 512 <<< 384)

/-- The additional data of a frame's tag: FSEQ and LINK_STATE (R328). -/
def CtlFields.aad (c : CtlFields) : BitVec 80 := c.fseq.setWidth 80 ||| (c.link.setWidth 80 <<< 16)

/-! ### Encryption (R328) -/

/-- The nonce of a frame: SALT above FCOUNT. -/
def nonceOf (salt : W32) (fcount : W64) : BitVec 96 := (salt.setWidth 96 <<< 64) ||| fcount.setWidth 96

/-- The sixteen flits of 60 data units and two message units under a control flit's fields: encrypted where the port encrypts, with the
tag, and with the CRC over what is sent (R312, R328). -/
def Port.sealFrame (x : Port) (c : CtlFields) (us : List FabUnit) (m0 m1 : FabUnit) : List (BitVec 512) :=
  let key := if c.epoch then x.keys[1] else x.keys[0]
  let nonce := nonceOf x.salts[0] x.fcount
  let on := encTx x.applied.ctrl
  let all := if on then cryptUnits key nonce (us ++ [m0, m1]) else us ++ [m0, m1]
  let tag : FabUnit := if on then gcmTag key nonce c.aad all else 0
  let data := dataFlits (all.take 60)
  let n0 := all.getD 60 0
  let n1 := all.getD 61 0
  data ++ [c.flit (frameCrc data (c.flit 0 tag n0 n1)) tag n0 n1]

/-! ### What a port's schedule puts into a frame (R313, R315) -/

/-- The units of a frame as they are filled, and what then waits. -/
structure Filling where
  queue : List OutPacket
  egress : List (Nat × List FabUnit)
  units : List FabUnit
  keys : List (Fin 4 × W64)

/-- Unit v of a link period lies in position v / 17: an origin position takes its owner's next unit, a transit position the next of
the units held for it; every other unit is padding. -/
def fillUnit (sched : List W64) (core : BitVec 3) (v : Nat) (a : Filling) : Filling :=
  let w := schedEntry sched (v / 17)
  if fld w 0 2 == 1#2 then
    match popUnit (fld w 2 3) (fld w 5 4 : BitVec 4).toNat a.queue with
    | none => { a with units := a.units ++ [0] }
    | some (u, o, rest) =>
      { a with queue := rest, units := a.units ++ [u], keys := if o.core == core then a.keys ++ [(o.task, o.dpi)] else a.keys }
  else if fld w 0 2 == 2#2 then
    match a.egress.find? fun e => e.1 == v / 17 with
    | some (q, u :: us) =>
      { a with egress := (q, us) :: a.egress.filter (fun e => !(e.1 == q)), units := a.units ++ [u] }
    | _ => { a with units := a.units ++ [0] }
  else { a with units := a.units ++ [0] }

/-- The frame of the link period that FCOUNT names (log entry 103). -/
def periodFrame (fcount : W64) : Nat := fcount.toNat % 17

/-- The 60 units of a port's next frame. -/
def Port.fill (x : Port) (core : BitVec 3) : Filling :=
  (List.range 60).foldl (fun a u => fillUnit x.sched core (60 * periodFrame x.fcount + u) a) ⟨x.queue, x.egress, [], []⟩

/-! ### The pattern generator (R329) -/

/-- The next bit of a pattern from its last bits, bit 0 the newest: x⁷ + x⁶ + 1, x¹⁵ + x¹⁴ + 1 or x³¹ + x²⁸ + 1. -/
def prbsBit (pattern : Nat) (r : BitVec 31) : Bool :=
  match pattern with
  | 1 => r.getLsbD 6 ^^ r.getLsbD 5
  | 2 => r.getLsbD 14 ^^ r.getLsbD 13
  | _ => r.getLsbD 30 ^^ r.getLsbD 27

/-- `n` bits of a pattern as a number, the first lowest, and the generator's last bits after them. -/
def prbsBits (pattern : Nat) : Nat → BitVec 31 → Nat × BitVec 31
  | 0, r => (0, r)
  | n + 1, r =>
    let b := prbsBit pattern r
    let q := prbsBits pattern n ((r <<< 1) ||| (if b then 1 else 0))
    (2 * q.1 + (if b then 1 else 0), q.2)

/-- Flits of the generator: stream bit k is bit k mod 512 of flit k / 512 (R329). -/
def prbsFlits (pattern : Nat) : Nat → BitVec 31 → List (BitVec 512) × BitVec 31
  | 0, r => ([], r)
  | n + 1, r =>
    let a := prbsBits pattern 512 r
    let q := prbsFlits pattern n a.2
    (BitVec.ofNat 512 a.1 :: q.1, q.2)

/-! ### The positions of an arriving frame (R313, R315) -/

/-- What the walk over a position's units has found: the open packet of its owner, the units to pass on, the packets for this chip,
and the packets it discards. -/
structure Walk where
  cur : Option OpenPacket
  on : List FabUnit
  here : List (List FabUnit)
  bad : Nat

/-- A packet takes a unit more. -/
def Walk.take (w : Walk) (p : OpenPacket) (u : FabUnit) : Walk :=
  let us := p.units ++ [u]
  let w1 := { w with on := w.on ++ [if p.on then u else 0] }
  if p.need = 0 then { w1 with cur := none, here := if p.here then w.here ++ [us] else w.here }
  else { w1 with cur := some { p with units := us, need := p.need - 1 } }

/-- One unit of a position (R310, R315): padding carries nothing; a bad packet is discarded; a packet for this chip is delivered, a
response where no egress position takes the position on (log entry 104); a multicast is delivered and passed on; any other packet is
passed on. -/
def Walk.unit (w : Walk) (owner : Nat) (chip : BitVec 20) (named : Bool) (u : FabUnit) : Walk :=
  match w.cur with
  | some p => w.take p u
  | none =>
    if isPadding u then { w with on := w.on ++ [0] }
    else
      let h := headOf u
      let n := h.len.toNat
      if headBad u then { w with bad := w.bad + 1 }.take ⟨owner, false, false, [], n⟩ u
      else if h.op == opMcast then w.take ⟨owner, true, true, [], n⟩ u
      else
        let mine := if h.isResponse then !named else h.dest == chip
        w.take ⟨owner, mine, !mine, [], n⟩ u

/-- The headers of the packets that begin in a position, after `skip` units of an earlier one. -/
def headsIn : Nat → List FabUnit → List FabUnit
  | _, [] => []
  | n + 1, _ :: us => headsIn n us
  | 0, u :: us => if isPadding u then headsIn 0 us else u :: headsIn (headOf u).len.toNat us

/-- A packet without data that answers the packet of a header: it keeps LASTW, ADDR and LAST, and FIRST is given (R310, R311; log entry
128). -/
def answerHead (w : Sender) (op : BitVec 4) (h : PacketHead) (first : BitVec 8) : FabUnit :=
  (⟨op, 0, h.lastw, h.addr, first, h.last, w.chip, w.core, BitVec.ofNat 4 w.agent⟩ : PacketHead).toUnit

/-- The refusal of a packet for a down port: REFUSE with cause 5 of R308 (R325). -/
def pathDownRefusal (w : Sender) (u : FabUnit) : FabUnit := answerHead w opRefuse (headOf u) 5

/-- The first position of a port that passes on units from an ingress port: a reverse position of a path from this port to that one (R315,
R325). -/
def Port.reversePos (x : Port) (down : Nat) : Option Nat :=
  (List.range 60).find? fun e => let w := schedEntry x.sched e
    fld w 0 2 == 2#2 && (fld w 2 6 : BitVec 6).toNat == down

/-- Put a unit more into a position that passes units on. -/
def Port.addEgress (x : Port) (e : Nat) (u : FabUnit) : Port :=
  let old := match x.egress.find? fun q => q.1 == e with | some q => q.2 | none => []
  { x with egress := (e, old ++ [u]) :: x.egress.filter fun q => !(q.1 == e) }

end Sys2Proof.Machine

namespace Sys2Proof

/-! ### Fields of an arriving frame (R312) -/

def Frame.ctl (f : Frame) : BitVec 512 := f.flits.getD 15 0
def Frame.fseq (f : Frame) : BitVec 12 := fld f.ctl 0 12
def Frame.ackSeq (f : Frame) : BitVec 12 := fld f.ctl 16 12
def Frame.nak (f : Frame) : Bool := bit f.ctl 28
def Frame.aEpoch (f : Frame) : Bool := bit f.ctl 29
def Frame.crc (f : Frame) : W32 := fld f.ctl 32 32
def Frame.idle (f : Frame) : BitVec 8 := fld f.ctl 64 8
def Frame.hb (f : Frame) : BitVec 8 := fld f.ctl 72 8
def Frame.keyEpoch (f : Frame) : Bool := bit f.ctl 80
def Frame.tag (f : Frame) : BitVec 128 := fld f.ctl 128 128

/-- Its 60 data units and two message units as they arrive. -/
def Frame.rawUnits (f : Frame) : List (BitVec 128) :=
  (f.flits.take 15).flatMap Machine.flitUnits ++ [fld f.ctl 256 128, fld f.ctl 384 128]

/-- LINK_STATE and FSEQ as the tag covers them (R328). -/
def Frame.aad (f : Frame) : BitVec 80 := (fld f.ctl 0 16 : BitVec 16).setWidth 80 ||| ((fld f.ctl 64 64 : W64).setWidth 80 <<< 16)

/-- The CRC of a frame fails (R312, R321). -/
def Frame.crcBad (f : Frame) : Bool := f.crc != Machine.frameCrc f.flits f.ctl

end Sys2Proof
end

