-- ==== Sys2Proof/Machine/Flags.lean ====
section
/-! DEFINITION. The conditions a command waits on or is predicated on: counter comparisons (R39), predicates (R43), watch
slots (R341) and the interrupt sources they raise (R342). -/

namespace Sys2Proof.Machine

/-- A comparison of R39 of counter value `a` with threshold `t`: 0 always, 1 GE, 2 LT, 3 EQ, modulo 2^16 half-range. -/
def cmpHolds (cmp : BitVec 2) (a t : BitVec 16) : Bool :=
  match cmp.toNat with
  | 0 => true
  | 1 => (a - t).toNat < 0x8000
  | 2 => 0x8000 ≤ (a - t).toNat
  | _ => a == t

/-- The iteration index of the innermost enclosing loop, 0 outside any loop (R39). -/
def Ctx.inner (iters : List Nat) : Nat := iters.getLast?.getD 0

/-- The effective threshold of a wait (R39). -/
def waitThr (w : Wait) (iters : List Nat) : BitVec 16 := w.thr + BitVec.ofNat 16 (w.tstep.toNat * Ctx.inner iters)

/-- A wait is met (R39). -/
def State.waitMet (s : State) (w : Wait) (iters : List Nat) : Bool := cmpHolds w.cmp (s.ec w.ec) (waitThr w iters)

/-- Both waits of a command are met (R39, R45). -/
def State.waitsMet (s : State) (h : Header) (iters : List Nat) : Bool := s.waitMet h.waitA iters && s.waitMet h.waitB iters

/-- A command executes: it is not predicated, or its predicate has the sense it names (R43). -/
def State.predicated (s : State) (h : Header) : Bool := !h.pen || s.pd h.psel == h.psense

/-- A watch slot is met (R341). -/
def State.watchMet (s : State) (w : Watch) : Bool := w.cmp != 0#2 && cmpHolds w.cmp (s.ec w.ec) w.thr

/-- Bits 16 to 29 of mip (R342): watch slots, JOB_START, JOB_END, INJ_READY, PREEMPT_REQ, ERRLOG, MSG_READY. -/
def State.localIrqs (s : State) : BitVec 14 :=
  let b (x : Bool) (i : Nat) : BitVec 14 := if x then 1#14 <<< i else 0
  (List.range 8).foldl (fun v i => v ||| b (s.watchMet (s.cc.watch.toList.getD i ⟨0, 0, 0⟩)) i) 0 |||
  b (s.cc.evpend.getLsbD 8) 8 ||| b (s.cc.evpend.getLsbD 9) 9 ||| b (!s.cc.injBusy) 10 |||
  b (s.cc.evpend.getLsbD 11) 11 ||| b (s.cc.evpend.getLsbD 12) 12 ||| b (s.cc.msgQ.length < 8) 13

/-- mip of the control core: MTIP (bit 7) while MTIME is at or above MTIMECMP (R340), and the local interrupts. -/
def State.mip (s : State) : W64 :=
  (if s.cc.mtimecmp ≤ s.mtime then 1#64 <<< 7 else 0) ||| (s.localIrqs.setWidth 64 <<< 16)

end Sys2Proof.Machine
end

