-- ==== Sys2Proof/Machine/Operands.lean ====
section
/-! DEFINITION. Operand forms: resolving a tile view at issue with the checks of R31 in the order of R479, binding to the
Almanac (R125), reading an element of a view (R90 to R97, R126), and writing converted elements (R98 to R108). -/

namespace Sys2Proof.Machine

/-! ### Binding to the Almanac -/

/-- The valid Almanac entry that holds a tensor identity (R117, R125). -/
def State.almEntry (s : State) (tensor : W32) : Option AlmEntry :=
  (s.alm.entries.find? fun e => e.2.1.tensor == tensor).map fun e => e.2.1

/-- The format and scale exponent a view of a region resolves to: bound when the entry's FMT is the view's FORMAT, or CHOOSE
is set and the view is BF16 (R125); otherwise literal. -/
def State.bindView (s : State) (tensor : W32) (fmt : BitVec 4) : Bool × BitVec 4 × Int :=
  match s.almEntry tensor with
  | some e =>
    if e.fmt = fmt.setWidth 8 ∨ (e.choose ∧ fmt = 2#4) then (true, e.fmt.setWidth 4, e.q.toInt) else (false, fmt, 0)
  | none => (false, fmt, 0)

/-! ### Resolving a view -/

/-- How a command uses one of its views: its position in `Issued.views`, its direction, its row count (R162 for MM_OS),
whether it is the versioned read, and whether it can be bound (R125). -/
structure Use where
  pos  : Nat
  view : View
  src  : Bool
  out  : Bool
  rows : Nat
  versioned : Bool
  binds : Bool
  deriving DecidableEq, Repr

/-- A source view. -/
def Use.source (pos : Nat) (v : View) : Use := ⟨pos, v, true, false, v.rows.toNat, false, true⟩

/-- An output view. -/
def Use.output (pos : Nat) (v : View) : Use := ⟨pos, v, false, true, v.rows.toNat, false, true⟩

/-- Effective start from the base of the half, in 64-byte units (R31). -/
def startUnits (v : View) (iters : List Nat) : Nat := v.offset.toNat + v.lstep.toNat * 64 * loopIdx v iters

/-- Resolve a view (R31, R68, R125): `ref` is the half fixed at decode of a versioned read (R248). -/
def State.resolve (s : State) (e : Entry) (u : Use) : RView :=
  let g := s.region u.view.region
  let half := match u.versioned, e.ref with
    | true, some h => h.2
    | _, _ => g.physical u.view.half
  let st := startUnits u.view e.x.iters
  let (bound, fmt, q) := if u.binds then s.bindView g.tensor u.view.format else (false, u.view.format, 0)
  { region := u.view.region, halfB := half, addr := g.halfBase half + 64 * st, start := st, rows := u.rows,
    cols := u.view.cols.toNat, stride := 64 * u.view.stride.toNat, fmt := fmt, q := q, bound := bound, tensor := g.tensor }

/-- The view has an extent (R31). -/
def RView.hasExtent (v : RView) : Bool := v.rows != 0 && v.cols != 0

/-- One past the last byte of the view, from the base of its half. -/
def RView.endOff (v : RView) : Nat := 64 * v.start + (v.rows - 1) * v.stride + v.rowBytes

/-- Row `k` of the table of R31, then FROZEN_WRITE and VERSION_HELD (R479), on one view. A chain view that is written, at position 6
and up, is an output for FROZEN_WRITE only (R210). -/
def State.viewFails (s : State) (e : Entry) (k : Nat) (u : Use) : Bool :=
  let g := s.region u.view.region
  let v := s.resolve e u
  match k with
  | 0 => !g.valid || g.size == 0#16
  | 1 => u.view.half && !g.split
  | 2 => e.x.iters.length < u.view.lsel.toNat
  | 3 => v.hasExtent && g.halfLen < v.endOff
  | 4 => u.out && u.pos < 6 && v.stride < v.rowBytes
  | 5 => u.src && g.poisoned v.halfB
  | 6 => u.out && g.frozen && v.hasExtent
  | _ => u.out && u.pos < 6 && g.refs v.halfB != 0

/-- The faults of those rows. -/
def viewFaultCode (k : Nat) : Code :=
  match k with
  | 0 => Code.badRegion
  | 1 => Code.badRegion
  | 2 => Code.illegalCommand
  | 3 => Code.bounds
  | 4 => Code.illegalCommand
  | 5 => Code.poisonedRead
  | 6 => Code.frozenWrite
  | _ => Code.versionHeld

/-- The first failing check over all views in ascending position, rows first (R479), with the view's position. -/
def State.viewsFault (s : State) (e : Entry) (us : List Use) : Option (Code × Nat) :=
  (List.range 8).findSome? fun k => us.findSome? fun u => if s.viewFails e k u then some (viewFaultCode k, u.pos) else none

/-- The resolved views by position, `n` of them. -/
def State.resolveAll (s : State) (e : Entry) (us : List Use) (n : Nat) : List (Option RView) :=
  (List.range n).map fun k => (us.find? fun u => u.pos == k).map (s.resolve e)

/-! ### Reading -/

/-- The stored encoding of element `j` of a row of `n` elements whose bytes `rd` gives by offset, and its scale code
(R90, R91, R95, R97). -/
def rawElem (f : Fmt) (rd : Nat → Byte) (n j : Nat) : Nat × Nat :=
  let le (a k : Nat) : Nat := leNat ((List.range k).map fun i => rd (a + i))
  match f with
  | .sf16 => (le (516 * (j / 256) + 4 + 2 * (j % 256)) 2, (rd (516 * (j / 256))).toNat)
  | .mx8e4 | .mx8e5 | .mx6e3 | .mx6e2 | .mx4 | .mxi8 =>
    let w := f.bits
    let bit0 := w * (j % 32)
    let v := le (4 * w * (j / 32) + bit0 / 8) 2
    (v / 2 ^ (bit0 % 8) % 2 ^ w, (rd (4 * w * ((n + 31) / 32) + j / 32)).toNat)
  | f => (le (f.bits / 8 * j) (f.bits / 8), 0)

/-- The stored encoding and scale of element [r, c] of a view. -/
def State.rawAt (s : State) (v : RView) (r c : Nat) : Nat × Nat :=
  rawElem v.format (fun o => s.byte (v.addr + r * v.stride + o)) v.cols c

/-- The value of element [r, c] of a view; a bound view divides by its scale (R126). -/
def State.elem (s : State) (v : RView) (r c : Nat) : Num :=
  let (w, sc) := s.rawAt v r c
  (v.format.value sc w).scale (-v.q)

/-- The two's-complement value of an INT32 or INT8 element (R99). -/
def State.elemInt (s : State) (v : RView) (r c : Nat) : Int :=
  (BitVec.ofNat v.format.bits (s.rawAt v r c).1).toInt

/-- Words with an uncorrectable error in some row of a view (R64). -/
def State.badInView (s : State) (v : RView) : List Nat :=
  if s.spad.bad.isEmpty || !v.hasExtent then []
  else (List.range v.rows).flatMap fun r => s.spad.badIn (v.addr + r * v.stride) v.rowBytes

/-- Byte runs of an element in a row of `n` elements, its scale included (R95). -/
def elemBytes (f : Fmt) (n j : Nat) : List (Nat × Nat) :=
  if f = .sf16 then [(516 * (j / 256), 1), (516 * (j / 256) + 4 + 2 * (j % 256), 2)]
  else if f.blocked then
    [(4 * f.bits * (j / 32) + f.bits * (j % 32) / 8, (f.bits * (j % 32) % 8 + f.bits + 7) / 8),
     (4 * f.bits * ((n + 31) / 32) + j / 32, 1)]
  else [(f.bits / 8 * j, f.bits / 8)]

/-- The words that hold the given elements of a view. -/
def elemWords (v : RView) (els : List (Nat × Nat)) : List Nat :=
  els.flatMap fun q => (elemBytes v.format v.cols q.2).flatMap fun x => wordsOf (v.addr + q.1 * v.stride + x.1) x.2

/-! ### Writing -/

/-- Seed and step of the job (R356). -/
def Job.seed (j : Job) : W64 := fld j.desc 64 64
def Job.step (j : Job) : W64 := fld j.desc 128 64

/-- The stochastic-rounding key of a destination view (R107). -/
def State.srKey (s : State) (v : RView) : CgKey := ⟨s.job.seed, s.job.step, v.tensor, 1, BitVec.ofNat 32 v.start⟩

/-- Bytes of element encodings packed into a block of `bytes` bytes (R95). -/
def packBlock (w bytes : Nat) (ws : List (Nat × Nat)) : List Byte :=
  leBytes (ws.foldl (fun acc p => acc + p.2 * 2 ^ (w * p.1)) 0) bytes

/-- Place bytes from an address. -/
def placeBytes (a : Nat) (bs : List Byte) : Bytes := bs.zipIdx.map fun p => (a + p.2, p.1)

/-- The draw of one destination element: taken only under SR (R107, R108). -/
def srDraw (key : CgKey) (cvt : BitVec 8) (r c : Nat) : Nat := if cvtMode cvt = .sr then key.draw16 r c else 0

/-- Convert and write the given (column, value) pairs of row `r` of an output view: the bytes and the observations. `pre` is
the pre-scale exponent (R100, R126). An element of a written block that is not among the pairs keeps its bits. -/
def writeRow (s : State) (v : RView) (cvt : BitVec 8) (pre : Int) (r : Nat) (xs : List (Nat × Num)) :
    Bytes × List Obs :=
  let key := s.srKey v
  let f := v.format
  let row := v.addr + r * v.stride
  let obs (c : Nat) (x : Num) (ev : Event) : Obs := ⟨r, c, x, x.scale pre, ev⟩
  if f.blocked then
    let bl := f.block
    let nb := (v.cols + bl - 1) / bl
    (List.range nb).foldl (fun (acc : Bytes × List Obs) i =>
      let ys := xs.filter fun p => p.1 / bl == i
      if ys.isEmpty then acc
      else
        let (sc, cs) := f.convBlock cvt (ys.map fun p => p.2.scale pre) (ys.map fun p => srDraw key cvt r p.1)
        let kept := (List.range (min bl (v.cols - bl * i))).filter fun k => !ys.any fun p => p.1 % bl == k
        let enc := (ys.zip cs).map (fun p => (p.1.1 % bl, p.2.1)) ++ kept.map fun k => (k, (s.rawAt v r (bl * i + k)).1)
        let bytes :=
          if f = .sf16 then placeBytes (row + 516 * i) (BitVec.ofNat 8 sc :: [0, 0, 0] ++ packBlock 16 512 enc)
          else placeBytes (row + 4 * f.bits * i) (packBlock f.bits (4 * f.bits) enc) ++
            [(row + 4 * f.bits * nb + i, BitVec.ofNat 8 sc)]
        (acc.1 ++ bytes, acc.2 ++ (ys.zip cs).map fun p => obs p.1.1 p.1.2 p.2.2)) ([], [])
  else
    let e := f.bits / 8
    let cs := xs.map fun p => (p, f.convElem (cvtMode cvt) (cvtOvf cvt) (srDraw key cvt r p.1) (p.2.scale pre))
    (cs.flatMap fun p => placeBytes (row + e * p.1.1) (leBytes p.2.bits e), cs.map fun p => obs p.1.1 p.1.2 p.2.ev)

/-- Write several rows. -/
def writeRows (s : State) (v : RView) (cvt : BitVec 8) (pre : Int) (rows : List (Nat × List (Nat × Num))) :
    Bytes × List Obs :=
  rows.foldl (fun acc p => let w := writeRow s v cvt pre p.1 p.2; (acc.1 ++ w.1, acc.2 ++ w.2)) ([], [])

end Sys2Proof.Machine
end

