-- ==== Sys2Proof/Machine/Assay.lean ====
section
/-! DEFINITION. Assay: what a conversion's observations add to tensor records, the local finite state and the tile-record
queue (R112 to R121), and the record layouts (R115, R118). -/

namespace Sys2Proof.Machine

/-- ⌊log₂ |x|⌋ of a finite non-zero value. -/
def Num.log2 : Num → Option Int
  | .fin _ m e => if m = 0 then none else some (e + (Nat.log2 m : Int))
  | _ => none

/-- The histogram bin of a source after its pre-scale (R114). -/
def histBin (x : Num) : Option Nat := x.log2.map fun e => (min (max (e + 48) 0) 63).toNat

/-- A magnitude as FP32 rounded toward +∞ (R113). -/
def amaxBits (x : Num) : W32 := BitVec.ofNat 32 (fp32.convert .rup true 0 x.abs).bits

/-- The amax of a list of observations (R113). -/
def obsAmax (os : List Obs) : W32 := amaxBits (amaxOf (os.map Obs.src))

/-- OFF_CLASS of an offending event (R118, R119); none for the others. -/
def offClass : Event → Option (BitVec 8)
  | .nonfiniteIn => some 1
  | .nanOut => some 2
  | .overflowInf => some 3
  | _ => none

/-- Comparison of lists of numbers, the first difference deciding. -/
def lexBefore : List Nat → List Nat → Bool
  | [], _ => false
  | _ :: _, [] => false
  | a :: as, b :: bs => a < b || (a == b && lexBefore as bs)

/-- The order of R119: DPI, row, column; of two equal ones, which commands of two tasks can show, the lower start, class and source, so
that no interleaving decides (R120; log entry 94). -/
def offBefore (a b : Offender) : Bool :=
  let key (o : Offender) : List Nat := [o.dpi.toNat, o.row.toNat, o.col.toNat, o.start.toNat, o.cls.toNat, o.source.toNat]
  lexBefore (key a) (key b)

/-- The earlier of two offenders. -/
def firstOffender (a b : Option Offender) : Option Offender :=
  match a, b with
  | none, y => y
  | x, none => x
  | some x, some y => if offBefore y x then some y else some x

/-- The offender a single observation is, if any. -/
def obsOffender (dpi : W64) (start : Nat) (source : BitVec 8) (o : Obs) : Option Offender :=
  (offClass o.ev).map fun c =>
    ⟨dpi, BitVec.ofNat 32 start, BitVec.ofNat 16 o.row, BitVec.ofNat 16 o.col, c, source⟩

/-- Saturating additions of R117. -/
def sat64 (a b : Nat) : Nat := min (a + b) (2 ^ 64 - 1)
def sat32 (a b : Nat) : Nat := min (a + b) (2 ^ 32 - 1)

/-- Observations of one event. -/
def countEv (os : List Obs) (ev : Event) : Nat := (os.filter fun o => o.ev == ev).length

/-- Add to a histogram bin. -/
def addBin (cap : Nat) (h : List Nat) (b : Nat) : List Nat := h.set b (min (h.getD b 0 + 1) cap)

/-- Fold observations into a tensor record (R117). -/
def foldRec (t : TensorRec) (dpi : W64) (start : Nat) (source : BitVec 8) (os : List Obs) (empty : Nat) : TensorRec :=
  let a := obsAmax os
  { t with
    amax := if t.amax < a then a else t.amax,
    elements := sat64 t.elements os.length,
    zero := sat64 t.zero (os.filter fun o => o.src.isZero).length,
    nonfiniteIn := sat64 t.nonfiniteIn (countEv os .nonfiniteIn),
    nanOut := sat64 t.nanOut (countEv os .nanOut),
    saturation := sat64 t.saturation (countEv os .saturation),
    overflowInf := sat64 t.overflowInf (countEv os .overflowInf),
    underflow := sat64 t.underflow (countEv os .underflow),
    emptyRow := sat64 t.emptyRow empty,
    offender := os.foldl (fun f o => firstOffender f (obsOffender dpi start source o)) t.offender,
    hist := os.foldl (fun h o => match histBin o.scaled with | some b => addBin (2 ^ 32 - 1) h b | none => h) t.hist }

/-- Fields of a record as (byte offset, value). -/
def packFields (w : Nat) (fs : List (Nat × Nat)) : BitVec w :=
  fs.foldl (fun acc p => acc ||| BitVec.ofNat w (p.2 <<< (8 * p.1))) 0

/-- A tile record (R115). -/
def tileRecord (dpi : W64) (h : Header) (source : BitVec 8) (v : RView) (pre : Int) (tr tc : Nat) (os : List Obs)
    (empty : Nat) : BitVec 1536 :=
  let hist := os.foldl (fun h o => match histBin o.scaled with | some b => addBin 0xFFFF h b | none => h)
    (List.replicate 64 0)
  packFields 1536 ([(0, dpi.toNat), (8, v.tensor.toNat), (0xC, tr), (0xE, tc), (0x10, source.toNat), (0x11, v.fmt.toNat),
    (0x12, h.mbatch.toNat), (0x13, h.vstage.toNat), (0x14, (BitVec.ofInt 8 pre).toNat), (0x18, (obsAmax os).toNat),
    (0x1C, os.length), (0x20, (os.filter fun o => o.src.isZero).length), (0x24, countEv os .nonfiniteIn),
    (0x28, countEv os .nanOut), (0x2C, countEv os .saturation), (0x30, countEv os .overflowInf),
    (0x34, countEv os .underflow), (0x38, empty)] ++ hist.zipIdx.map fun p => (0x40 + 2 * p.2, p.1))

/-- ASSAY_BUF and ASSAY_LEN of the job (R356). -/
def Job.assayBuf (j : Job) : W64 := fld j.desc (8 * 0x50) 64
def Job.assayLen (j : Job) : Nat := (fld j.desc (8 * 0x58) 64 : W64).toNat

/-- Queue one tile record, or discard it when the queue is full or the buffer has no room (R116): the state and whether it
was discarded. -/
def State.queueTile (s : State) (r : BitVec 1536) : State × Bool :=
  let room := s.job.assayBuf != 0#64 && 192 * (s.alm.tileCount + s.alm.tiles.length + 1) ≤ s.job.assayLen
  if s.alm.tiles.length < 64 && room then
    (s.withAlm { s.alm with tiles := s.alm.tiles ++ [r], tileAge := s.alm.tileAge ++ [s.tick10] }, false)
  else (s, true)

/-- Update the tensor record of the valid entry that holds a tensor, or the unbound record (R117). -/
def Alm.updateRec (a : Alm) (tensor : W32) (f : TensorRec → TensorRec) : Alm :=
  if a.entries.any fun e => e.2.1.tensor == tensor then
    { a with entries := a.entries.map fun e => if e.2.1.tensor == tensor then (e.1, e.2.1, f e.2.2) else e }
  else { a with unbound := f a.unbound }

/-- The tiles of a view in which an observation lies (R115). -/
def tilesOf (os : List Obs) : List (Nat × Nat) :=
  os.foldl (fun ts o => let k := (o.row / 256, o.col / 256); if ts.contains k then ts else ts ++ [k]) []

/-- Fold the observations of one output view of a completing command (R115 to R121). `empty` lists the rows of empty-row
events, which the tile at tile column 0 counts (log entry 93). -/
def State.assay (s : State) (dpi : W64) (h : Header) (source : BitVec 8) (v : RView) (pre : Int) (os : List Obs)
    (empty : List Nat) : State :=
  let entry := s.almEntry v.tensor
  let s1 := s.withAlm (s.alm.updateRec v.tensor fun t => foldRec t dpi v.start source os empty.length)
  let bad := os.any fun o => (offClass o.ev).isSome
  let s2 := match entry with
    | some e => if e.finiteFlag && bad then s1.withAlm { s1.alm with finite := false } else s1
    | none => s1
  match entry with
  | some e =>
    if e.tileLog then
      (tilesOf os).foldl (fun s k =>
        let mine := os.filter fun o => (o.row / 256, o.col / 256) == k
        let em := (empty.filter fun r => r / 256 == k.1 && k.2 == 0).length
        let (s', lost) := s.queueTile (tileRecord dpi h source v pre k.1 k.2 mine em)
        if lost then s'.withAlm (s'.alm.updateRec v.tensor fun t => { t with lost := sat32 t.lost 1 }) else s') s2
    else s2
  | none => s2

/-- SOURCE of a unit (R115): logical array and partition, VX 4, CU 5, which is also that of a VX command that runs on Crucible (log
entry 95). -/
def sourceByte : UnitId → BitVec 8
  | .mx n p => BitVec.ofNat 8 (n.1 + 8 * p.1)
  | .vx => 4
  | .cu => 5
  | .tu _ => 0

/-- The 384 bytes of a tensor record (R118). OFF_NODE names the recording core always (R119); the other fields of an offender are zero
where there is none (log entry 119). -/
def recordBits (s : State) (t : TensorRec) (tensor : W32) (fmt q : BitVec 8) (partial_ : Bool) : BitVec 3072 :=
  let off : Offender := t.offender.getD ⟨0, 0, 0, 0, 0, 0⟩
  let flags := (if t.elements > 0 then 1 else 0) + (if partial_ then 2 else 0) + (if t.offender.isSome then 4 else 0)
  packFields 3072 ([(0, tensor.toNat), (4, flags), (5, fmt.toNat), (6, q.toNat), (8, s.job.step.toNat),
    (0x10, t.amax.toNat), (0x14, t.lost), (0x18, t.elements), (0x20, t.zero), (0x28, t.nonfiniteIn), (0x30, t.nanOut),
    (0x38, t.saturation), (0x40, t.overflowInf), (0x48, t.underflow), (0x50, t.emptyRow),
    (0x60, s.id.chip.toNat + s.id.core.toNat * 2 ^ 20)] ++
    (if t.offender.isSome then
      [(0x58, off.dpi.toNat), (0x64, off.start.toNat),
       (0x68, off.row.toNat), (0x6A, off.col.toNat), (0x6C, off.cls.toNat), (0x6D, off.source.toNat)] else []) ++
    t.hist.zipIdx.map fun p => (0x80 + 4 * p.2, p.1))

end Sys2Proof.Machine
end

