-- ==== Sys2Proof/Machine/Effect.lean ====
section
/-! DEFINITION. What an engine's command does to the state when it completes: the engine's own change, the bytes it writes,
the conversions Assay observes (R112), and what it sends. -/

namespace Sys2Proof.Machine

/-- The effect of a completing command before its signals: the state with the engine's own change, bytes for the
scratchpad, observations, and bytes for a peer at global addresses (R231). -/
structure Run where
  s : State
  bytes : Bytes
  seen : List Seen
  peer : Bytes

/-- A command that changes nothing. -/
def Run.none_ (s : State) : Run := ⟨s, [], [], []⟩

/-- Put what a command has changed and written into the state. -/
def Run.land (r : Run) : State := r.s.withSpad (r.s.spad.write r.bytes)

/-- A command that ran on unit `u` and completes folds what Assay has seen of it (R112, R117). -/
def State.foldSeen (s : State) (i : Issued) (u : UnitId) (l : List Seen) : State :=
  l.foldl (fun s o => s.assay i.e.x.dpi i.e.cmd.h (sourceByte u) o.view o.pre o.obs o.empty) s

/-- The uncorrectable words that the source views of an issued command cover (R64). -/
def State.badSources (s : State) (i : Issued) (us : List Use) : List Nat :=
  us.flatMap fun u => if u.src then (match i.views.getD u.pos none with | some v => s.badInView v | none => []) else []

end Sys2Proof.Machine
end

