-- ==== Sys2Proof/Machine/Almanac.lean ====
section
/-! DEFINITION. The Almanac: entry layout and checks (R123, R124), the end-of-step rule (R128, R129) and the image-out
(R130). -/

namespace Sys2Proof.Machine

/-- An entry from its 128 bytes; none when VALID is 0 (R124). -/
def almParse (b : BitVec 1024) : Option AlmEntry :=
  if !bit b 32 then none
  else some ⟨fld b 0 32, bit b 33, bit b 34, bit b 35, fld b 40 8, fld b 48 8, fld b 56 8, fld b 64 8, fld b 72 8, fld b 80 8,
    fld b 88 8, fld b 96 16, (List.range 16).map (fun k => fld b (128 + 32 * k) 32), fld b 640 64⟩

/-- The 128 bytes of an entry (R124). -/
def almBits (e : AlmEntry) : BitVec 1024 :=
  packFields 1024 ([(0, e.tensor.toNat),
    (4, 1 + (if e.choose then 2 else 0) + (if e.finiteFlag then 4 else 0) + (if e.tileLog then 8 else 0)),
    (5, e.fmt.toNat), (6, e.margin.toNat), (7, e.q.toNat), (8, e.cand.toNat), (9, e.candRun.toNat), (0xA, e.histCount.toNat),
    (0xB, e.histHead.toNat), (0xC, e.ufLimit.toNat), (0x50, e.lastStep.toNat)] ++
    e.history.zipIdx.map fun p => (0x10 + 4 * p.2, p.1.toNat))

/-- The slots that hold valid history values (R124). -/
def histSlots (count head : Nat) : List Nat := (List.range count).map fun k => (head + 16 - (k + 1)) % 16

/-- The rules of R124 on one entry's bytes. -/
def almOk (b : BitVec 1024) : Bool :=
  match almParse b with
  | none => b == 0#1024
  | some e =>
    let f := e.fmt.toNat
    let q := e.q.toInt
    let hs := histSlots e.histCount.toNat e.histHead.toNat
    fld b 36 4 == 0#4 && fld b 112 16 == 0#16 && fld b 704 320 == 0#320 &&
    (if e.choose then f == 2 || f == 4 || f == 5 else 2 ≤ f && f ≤ 5) &&
    e.margin.toNat ≤ 15 && -48 ≤ q && q ≤ 48 && (f != 2 || q == 0) && e.candRun.toNat ≤ 3 &&
    (if e.candRun == 0#8 then e.cand == e.fmt
     else e.choose && (e.cand == 2#8 || e.cand == 4#8 || e.cand == 5#8) && e.cand != e.fmt) &&
    e.histCount.toNat ≤ 16 && e.histHead.toNat ≤ 15 &&
    (List.range 16).all fun k =>
      let h := e.history.getD k 0
      if hs.contains k then h.toNat < 0x7F800000 else h == 0#32

/-- Entry `i` of an image (R124). -/
def almImageEntry (img : Bytes) (i : Nat) : BitVec 1024 := BitVec.ofNat 1024 (imgBytesNat img (128 * i) 128)
where
  /-- `n` bytes from byte `a`, little-endian; unlisted bytes are zero. -/
  imgBytesNat (img : Bytes) (a n : Nat) : Nat :=
    img.foldl (fun acc p => if a ≤ p.1 && p.1 < a + n then acc + p.2.toNat * 256 ^ (p.1 - a) else acc) 0

/-- Indices of the entries an image lists any byte of. -/
def almTouched (img : Bytes) : List Nat :=
  (img.foldl (fun ks p => let k := p.1 / 128; if k < 1024 && !ks.contains k then ks ++ [k] else ks) [])

/-- The valid entries of an image in ascending index. -/
def almEntries (img : Bytes) : List (Nat × AlmEntry) :=
  (List.range 1024).filterMap fun i =>
    if (almTouched img).contains i then (almParse (almImageEntry img i)).map fun e => (i, e) else none

/-- BAD_ALMANAC (R123): an entry breaks a rule, or two valid entries hold one TENSOR_ID. -/
def almImageOk (img : Bytes) : Bool :=
  (almTouched img).all (fun i => almOk (almImageEntry img i)) &&
  (almEntries img).all fun e => ((almEntries img).filter fun d => d.2.tensor == e.2.tensor).length ≤ 1

/-- Load the entries, each with a fresh tensor record (R123). -/
def almLoad (es : List (Nat × AlmEntry)) : List (Nat × AlmEntry × TensorRec) := es.map fun e => (e.1, e.2, TensorRec.zero_)

/-! ### The end-of-step rule -/

/-- M of a format code for qfor (R98, R128). -/
def almM (f : BitVec 8) : Nat × Int :=
  match f.toNat with
  | 2 => Fmt.maxM .bf
  | 3 => Fmt.maxM .f16
  | 4 => Fmt.maxM .e4
  | _ => Fmt.maxM .e5

/-- The largest q from −48 to 48 with h × 2^q at most m × 2^−margin, −48 when there is none (R128). -/
def qfor (f : BitVec 8) (h : Num) (margin : Nat) : Int :=
  if f = 2#8 then 0
  else
    match h with
    | .fin _ m e =>
      let M := almM f
      ((List.range 97).foldl (fun (acc : Int) (i : Nat) =>
        let q : Int := (i : Int) - 48
        if magLe m (e + q) M.1 (M.2 - margin) then q else acc) (-48))
    | _ => -48

/-- The candidate test of R129. -/
def candidatePasses (e : AlmEntry) (t : TensorRec) (h : Num) (f : BitVec 8) : Bool :=
  let d := qfor f h e.margin.toNat - e.q.toInt
  let sf : Int := if f = 4#8 then -9 else if f = 5#8 then -16 else -133
  let n := t.hist.zipIdx.foldl (fun acc p => if (p.2 : Int) - 48 + d < sf then acc + p.1 else acc) 0
  let total := t.hist.foldl (· + ·) 0
  let l := if e.ufLimit = 0#16 then 64 else e.ufLimit.toNat
  n * 65536 ≤ l * total

/-- preferred(e, t, h) of R129. -/
def preferred (e : AlmEntry) (t : TensorRec) (h : Num) : BitVec 8 :=
  if candidatePasses e t h 4 then 4 else if candidatePasses e t h 5 then 5 else 2

/-- The update of one entry from its record (R128). -/
def almUpdate (step : W64) (e : AlmEntry) (t : TensorRec) : AlmEntry :=
  if t.elements = 0 then e
  else if t.nonfiniteIn + t.nanOut + t.overflowInf > 0 ∨ t.amax = 0x7F800000#32 then
    { e with
      q := if e.fmt = 2#8 then e.q else BitVec.ofInt 8 (max (e.q.toInt - 1) (-48)),
      cand := e.fmt, candRun := 0, lastStep := step }
  else
    let head := e.histHead.toNat % 16
    let e1 := { e with
      history := e.history.set head t.amax, histHead := BitVec.ofNat 8 ((head + 1) % 16),
      histCount := BitVec.ofNat 8 (min (e.histCount.toNat + 1) 16) }
    let h := (histSlots e1.histCount.toNat e1.histHead.toNat).foldl (fun (m : W32) k =>
      if m < e1.history.getD k 0 then e1.history.getD k 0 else m) 0
    let e2 :=
      if h = 0#32 then e1
      else
        let hv := ofF32 h
        let e3 :=
          if e1.choose then
            let p := preferred e1 t hv
            let e4 :=
              if p = e1.fmt then { e1 with cand := e1.fmt, candRun := 0 }
              else if p = e1.cand then { e1 with candRun := e1.candRun + 1 }
              else { e1 with cand := p, candRun := 1 }
            if e4.candRun = 4#8 then { e4 with fmt := e4.cand, candRun := 0 } else e4
          else e1
        { e3 with q := BitVec.ofInt 8 (qfor e3.fmt hv e3.margin.toNat) }
    { e2 with lastStep := step }

/-- Apply the end-of-step rule to every valid entry (R128). -/
def State.almanacStep (s : State) : State :=
  s.withAlm { s.alm with entries := s.alm.entries.map fun e => (e.1, almUpdate s.job.step e.2.1 e.2.2, e.2.2) }

/-- Bytes of a wide word from an address, zero bytes left out. -/
def wordBytes {w : Nat} (a n : Nat) (x : BitVec w) : Bytes :=
  ((leBytes x.toNat n).zipIdx.map fun p => (a + p.2, p.1)).filter fun p => p.2 != 0#8

/-- The image-out from byte offset `a`: entries, tensor records and the unbound record (R130). `fin` says the update was
applied; otherwise the entries are those of the image-in and the records carry PARTIAL. The unbound record's FMT and SCALE_EXP are 0 (log
entry 120). -/
def State.almImageOut (s : State) (a : Nat) (fin : Bool) : Bytes :=
  let inOf (i : Nat) : Option AlmEntry := (s.alm.imageIn.find? fun e => e.1 == i).map fun e => e.2
  (s.alm.entries.flatMap fun e => wordBytes (a + 128 * e.1) 128 (almBits (if fin then e.2.1 else (inOf e.1).getD e.2.1))) ++
  (s.alm.entries.flatMap fun e =>
    let was := (inOf e.1).getD e.2.1
    wordBytes (a + 131072 + 384 * e.1) 384 (recordBits s e.2.2 e.2.1.tensor was.fmt was.q (!fin))) ++
  wordBytes (a + 524288) 384 (recordBits s s.alm.unbound 0 0 0 (!fin))

end Sys2Proof.Machine
end

