-- ==== Sys2Proof/Machine/Calendar.lean ====
section
/-! DEFINITION. Calendar images: layout (R286 to R289), checks (R290, R292) and the grants admission counts (R293). A part is
held with the period in slots after which it repeats, which divides 4,096. -/

namespace Sys2Proof.Machine

/-! ### Units present (R2, R22, R23, R52) -/

/-- An array that the build and GRADE contain. -/
def Ident.hasArray (id : Ident) (n : Nat) : Bool := n < id.build.arrays && id.grade.getLsbD n

/-- Lane groups present: the 1 bits of VX_GROUP_PRESENT that the build contains (R21, R23). -/
def Ident.laneGroups (id : Ident) : Nat := (List.range 16).countP fun g => g < id.build.vxGroups && id.grade.getLsbD (8 + g)

/-- VX has a lane group (R52). -/
def Ident.hasVx (id : Ident) : Bool := id.laneGroups != 0

/-- A fabric port that the build and GRADE contain. -/
def Ident.hasPort (id : Ident) (p : Nat) : Bool := p < id.build.ports && id.grade.getLsbD (24 + p)

/-- A port that is not known to be absent: before the first GRADE item every port of the build (R12, R23; log entry 79). -/
def Ident.mayHavePort (id : Ident) (p : Nat) : Bool := id.hasPort p || (!id.graded && p < id.build.ports)

/-! ### Slots -/

/-- A slot of a router part. -/
def RouterPart.slot (r : RouterPart) (s : Nat) : BitVec 256 := r.slots.get (if r.period = 0 then 0 else s % r.period)

/-- A slot of a bank part. -/
def BankPart.slot (b : BankPart) (c : Nat) : BitVec 256 := b.slots.get (if b.period = 0 then 0 else c % b.period)

/-- Input selector of output `o` (R287). -/
def osel (w : BitVec 256) (o : Nat) : Nat := (fld w (4 * o) 4).toNat

/-- Owner of injection port k (R287). -/
def injOwner (w : BitVec 256) (k : Nat) : BitVec 16 := fld w (32 + 16 * k) 16

/-- Owner of ejection port k (R287). -/
def ejOwner (w : BitVec 256) (k : Nat) : BitVec 16 := fld w (96 + 16 * k) 16

/-- SHARE of an owner field (R288). -/
def ownerShare (o : BitVec 16) : Nat := (fld o 4 3).toNat

/-- An owner field's own encoding, and that its agent is present (R288, R290). -/
def ownerOk (id : Ident) (o : BitVec 16) : Bool :=
  if ownerShare o = 0 then o == 0#16
  else
    let a := (fld o 0 4).toNat
    ownerShare o ≤ 5 && !bit o 7 && (fld o 8 4).toNat ≤ 8 && fld o 12 4 == 0#4 &&
    (if 8 ≤ a && a ≤ 11 then id.hasArray (a - 8) else if a = 12 then id.hasVx else true)

/-- A byte of a bank slot (R289, R290). -/
def bankByteOk (id : Ident) (b : BitVec 8) : Bool :=
  let a := (fld b 0 7).toNat
  if a = 0 then b == 0#8
  else (1 ≤ a && a ≤ 8) || (0x10 ≤ a && a ≤ 0x1F && id.hasArray ((a - 0x10) / 4)) || (a == 0x20 && id.hasVx) || a == 0x21 ||
    (0x24 ≤ a && a ≤ 0x28) || a == 0x30

/-- The rules of R290 on one router slot. -/
def routerSlotOk (id : Ident) (s : Nat) (w : BitVec 256) : Bool :=
  let outs := List.range 8
  fld w 160 96 == 0#96 &&
  outs.all (fun o => osel w o ≤ 8 && (4 ≤ o || osel w o != o + 1) && (o < 4 || osel w o < 5)) &&
  (List.range 4).all (fun k =>
    let i := injOwner w k
    let e := ejOwner w k
    let named := outs.any fun o => osel w o == 5 + k
    ownerOk id i && ownerOk id e && ((ownerShare i != 0) == named) && ((ownerShare e != 0) == (osel w (4 + k) != 0)) &&
    (if s % 64 = 63 then (ownerShare i == 0 || ownerShare i == 5) && (ownerShare e == 0 || ownerShare e == 5)
     else ownerShare i != 5 && ownerShare e != 5) &&
    ownerShare i != 1 && ownerShare e != 2)

/-- The shares of a job: read, write, remote sixteenths (R83). -/
structure Shares where
  read : Nat
  write : Nat
  remote : Nat
  deriving DecidableEq, Repr

/-- SH_READ, SH_WRITE and SH_REMOTE of a descriptor, 8, 5 and 3 when all are 0 (R83). -/
def sharesOf (d : BitVec 2048) : Shares :=
  let r := (fld d 40 4).toNat
  let w := (fld d 44 4).toNat
  let m := (fld d 48 4).toNat
  if r = 0 ∧ w = 0 ∧ m = 0 then ⟨8, 5, 3⟩ else ⟨r, w, m⟩

/-- R83's conditions. -/
def Shares.ok (h : Shares) : Bool :=
  1 ≤ h.read && 1 ≤ h.write && 1 ≤ h.remote && h.read + h.remote ≤ 16 && h.write + h.remote ≤ 16

/-- Sixteenths of a share in a direction (R83). -/
def Shares.sixteenths (h : Shares) (inbound : Bool) (share : Nat) : Nat :=
  match share with
  | 1 => if inbound then h.read else 16
  | 2 => if inbound then 16 else h.write
  | 3 => h.remote
  | 4 => if inbound then 16 - h.read - h.remote else 16 - h.write - h.remote
  | _ => 16

/-- Port-slots of a share in a direction over the whole period. -/
def RouterPart.count (r : RouterPart) (inbound : Bool) (share : Nat) : Nat :=
  let per := if r.period = 0 then 1 else r.period
  ((List.range per).foldl (fun n s =>
    (List.range 4).foldl (fun n k =>
      if ownerShare (if inbound then ejOwner (r.slot s) k else injOwner (r.slot s) k) = share then n + 1 else n) n) 0) *
    (4096 / per)

/-- The share check of R290. -/
def RouterPart.sharesOk (r : RouterPart) (h : Shares) : Bool :=
  [1, 2, 3, 4].all fun sh => r.count true sh ≤ 252 * 4 * h.sixteenths true sh && r.count false sh ≤ 252 * 4 * h.sixteenths false sh

/-- The rules of R290 on a router part other than the share counts. -/
def RouterPart.ok (r : RouterPart) (id : Ident) : Bool :=
  (List.range (if r.period = 0 then 64 else max r.period 64)).all fun s => routerSlotOk id s (r.slot s)

/-- The rules of R290 on a bank part. -/
def BankPart.ok (b : BankPart) (id : Ident) : Bool :=
  (List.range (if b.period = 0 then 1 else b.period)).all fun c =>
    (List.range 32).all fun q => bankByteOk id (fld (b.slot c) (8 * q) 8)

/-! ### Images -/

/-- A field of an image (R5): `n` bytes from byte `a`. -/
def imgNat (img : Bytes) (a n : Nat) : Nat := leNat ((List.range n).map fun i => Store.get img (a + i))

/-- The 4,096 slots of 32 bytes of a part that begins at byte `base` of an image. -/
def imgSlots (img : Bytes) (base : Nat) : Array (BitVec 256) :=
  img.foldl (fun (m : Array (BitVec 256)) (p : Nat × Byte) =>
    if base ≤ p.1 && p.1 < base + 131072 then
      m.modify ((p.1 - base) / 32) fun w => w ||| (p.2.setWidth 256).shiftLeft (8 * ((p.1 - base) % 32))
    else m) (Array.replicate 4096 0)

/-- The smallest power of two after which the slots repeat. -/
def periodOf (m : Array (BitVec 256)) : Nat :=
  (((List.range 12).map (2 ^ ·)).find? fun d => (List.range 4096).all fun i => m.getD i 0 == m.getD (i % d) 0).getD 4096

/-- One period of the slots. -/
def onePeriod (m : Array (BitVec 256)) : Store 256 :=
  (List.range (periodOf m)).filterMap fun i => if m.getD i 0 == 0#256 then none else some (i, m.getD i 0)

/-- The router part of an image (R286). -/
def imgRouter (img : Bytes) : RouterPart :=
  let m := imgSlots img 64
  ⟨onePeriod m, BitVec.ofNat 32 (imgNat img 4 4), BitVec.ofNat 32 (imgNat img 8 4), BitVec.ofNat 8 (imgNat img 12 1),
   BitVec.ofNat 8 (imgNat img 13 1), periodOf m⟩

/-- The bank part of an image (R286). -/
def imgBank (img : Bytes) : BankPart :=
  let m := imgSlots img 131136
  ⟨onePeriod m, BitVec.ofNat 32 (imgNat img 4 4), periodOf m⟩

/-- The header rules of R286. -/
def imgHeaderOk (img : Bytes) : Bool :=
  imgNat img 0 2 == 1 && imgNat img 2 2 == 0 && imgNat img 8 4 != 0 && imgNat img 12 1 ≤ 14 &&
  (imgNat img 13 1 ≤ 7 || imgNat img 13 1 == 0xFF) && img.all (fun p => p.1 < 14 || 64 ≤ p.1 || p.2 == 0#8)

/-- R290 on a whole image under a job's shares. -/
def imageOk (id : Ident) (h : Shares) (img : Bytes) : Bool :=
  imgHeaderOk img && (imgRouter img).ok id && (imgRouter img).sharesOk h && (imgBank img).ok id

/-- The last rule of R290: slots of other chips' traffic and of inbound service are as ACTIVE has them. -/
def keepsOthers (a : Cal) (r : RouterPart) (b : BankPart) : Bool :=
  let foreign (o : BitVec 16) := ownerShare o == 3 || ownerShare o == 4
  (List.range (max (max r.period a.router.period) 1)).all (fun s =>
    (List.range 4).all fun k =>
      let x := r.slot s
      let y := a.router.slot s
      (injOwner x k == injOwner y k || !(foreign (injOwner x k) || foreign (injOwner y k))) &&
      (ejOwner x k == ejOwner y k || !(foreign (ejOwner x k) || foreign (ejOwner y k)))) &&
  (List.range (max (max b.period a.bank.period) 1)).all (fun c =>
    (List.range 32).all fun q =>
      let x : BitVec 8 := fld (b.slot c) (8 * q) 8
      let y : BitVec 8 := fld (a.bank.slot c) (8 * q) 8
      x == y || !(fld x 0 7 == 0x28#7 || fld y 0 7 == 0x28#7))

/-! ### Grants (R293) -/

/-- Ports of a bank slot that give an agent a direction. -/
def bankPorts (w : BitVec 256) (agent : BitVec 8) (write : Bool) : Nat :=
  (List.range 32).foldl (fun n q =>
    let b : BitVec 8 := fld w (8 * q) 8
    if fld b 0 7 == fld agent 0 7 && bit b 7 == write && agent != 0#8 then n + 1 else n) 0

/-- The per-cycle grant of an agent: the smallest number of ports over the bank slots (R293). -/
def BankPart.grant (b : BankPart) (agent : BitVec 8) (write : Bool) : Nat :=
  (List.range (b.period - 1)).foldl (fun m c => min m (bankPorts (b.slot (c + 1)) agent write)) (bankPorts (b.slot 0) agent write)

/-- The grant of a unit in the active bank part. -/
def State.grant (s : State) (agent : BitVec 8) (write : Bool) : Nat := s.cal.bank.grant agent write

/-- A stream engine has a bank slot in a direction (R293). -/
def BankPart.anySlot (b : BankPart) (agent : BitVec 8) (write : Bool) : Bool :=
  (List.range (max b.period 1)).any fun c => bankPorts (b.slot c) agent write != 0

/-- A stream engine has a router slot in a share toward a destination: injection for outbound, ejection for inbound. -/
def RouterPart.anySlot (r : RouterPart) (inbound : Bool) (engine share dest : Nat) : Bool :=
  (List.range (max r.period 1)).any fun s => (List.range 4).any fun k =>
    let o := if inbound then ejOwner (r.slot s) k else injOwner (r.slot s) k
    (fld o 0 4).toNat == engine && ownerShare o == share && (fld o 8 4).toNat == dest

end Sys2Proof.Machine
end

