-- ==== Sys2Proof/Machine/Array.lean ====
section
/-! DEFINITION. Inside an array: partitions (R148), masks (R145), plane and register words (R131, R132), output-stationary and
stationary products (R135 to R138, R166, R167), the element-wise path (R146) and the plane and register state checks (R133,
R134, R167). -/

namespace Sys2Proof.Machine

/-- The logical PEs of a partition (R148): first row and column, rows and columns. -/
structure Geom where
  row0 : Nat
  col0 : Nat
  rows : Nat
  cols : Nat
  deriving DecidableEq, Repr

/-- Partitions of a mode (R148). -/
def partCount (mode : BitVec 2) : Nat := match mode.toNat with | 0 => 1 | 1 => 2 | _ => 4

/-- The PEs of partition `p` under a mode (R148). -/
def geom (mode : BitVec 2) (p : Nat) : Geom :=
  match mode.toNat with
  | 0 => ⟨0, 0, 256, 256⟩
  | 1 => ⟨0, 128 * (p % 2), 256, 128⟩
  | _ => ⟨128 * (p / 2), 128 * (p % 2), 128, 128⟩

/-- Index of a partition-local PE in a plane or register. -/
def Geom.idx (g : Geom) (r c : Nat) : Nat := (g.row0 + r) * 256 + g.col0 + c

/-- Whether an index lies in a partition. -/
def Geom.has (g : Geom) (k : Nat) : Bool :=
  g.row0 ≤ k / 256 && k / 256 < g.row0 + g.rows && g.col0 ≤ k % 256 && k % 256 < g.col0 + g.cols

/-- Queue direction: backward queues are odd (R32). -/
def isBack (h : Header) : Bool := bit h.queue 0

/-- The masks of a queue (R171): forward queues first, by partition. -/
def Array_.maskOf (a : Array_) (back : Bool) (p : Fin 4) : Masks :=
  a.masks.toList.getD ((if back then 4 else 0) + p.1) Masks.ones

/-- Replace the masks of a queue. -/
def Array_.setMask (a : Array_) (back : Bool) (p : Fin 4) (m : Masks) : Array_ :=
  { a with masks := if back then a.masks.set (4 + p.1) m (by omega) else a.masks.set p.1 m (by omega) }

/-- Bits of a mask outside a partition's extent (R145, R171). -/
def masksOutside (g : Geom) (m : Masks) : Bool :=
  (List.range 256).any (fun r => g.rows ≤ r && m.row.getLsbD r) ||
  (List.range 64).any fun b => (g.rows ≤ 32 * (b / 8) || g.cols ≤ 32 * (b % 8)) && m.block.getLsbD b

/-- EN of a partition-local PE (R145, R171): only the masks the command enables apply. -/
def enabled (m : Masks) (p : MxParams) (r c : Nat) : Bool :=
  (!p.rmask || m.row.getLsbD r) && (!p.bmask || m.block.getLsbD (8 * (r / 32) + c / 32))

/-! ### Planes and registers -/

/-- A plane of an array. -/
def Array_.plane (a : Array_) (pl : Bool) : Store 40 := if pl then a.acc1 else a.acc0

/-- Replace a plane. -/
def Array_.setPlane (a : Array_) (pl : Bool) (m : Store 40) : Array_ :=
  if pl then { a with acc1 := m } else { a with acc0 := m }

/-- A stationary register of an array. -/
def Array_.st (a : Array_) (r : Bool) : Store 32 := if r then a.st1 else a.st0

/-- Replace a register's words. -/
def Array_.setSt (a : Array_) (r : Bool) (m : Store 32) : Array_ :=
  if r then { a with st1 := m } else { a with st0 := m }

/-- State of a plane. -/
def Part.plane (k : Part) (pl : Bool) : PlaneState := if pl then k.plane1 else k.plane0

/-- Replace a plane's state. -/
def Part.setPlane (k : Part) (pl : Bool) (x : PlaneState) : Part :=
  if pl then { k with plane1 := x } else { k with plane0 := x }

/-- State of a register; none is EMPTY. -/
def Part.reg (k : Part) (r : Bool) : Option Loaded := if r then k.reg1 else k.reg0

/-- Replace a register's state. -/
def Part.setReg (k : Part) (r : Bool) (x : Option Loaded) : Part := if r then { k with reg1 := x } else { k with reg0 := x }

/-- Replace a partition's state. -/
def Array_.setPart (a : Array_) (p : Fin 4) (k : Part) : Array_ := { a with parts := a.parts.set p.1 k p.2 }

/-- A partition's state. -/
def Array_.part (a : Array_) (p : Fin 4) : Part := a.parts[p.1]

/-- An array of the state. -/
def State.array (s : State) (n : Fin 4) : Array_ := s.mx[n.1]

/-- Replace an array. -/
def State.setArray (s : State) (n : Fin 4) (a : Array_) : State := s.withMx (s.mx.set n.1 a n.2)

/-- The FP40 value of a plane word. -/
def accAt (m : Store 40) (g : Geom) (r c : Nat) : Num := ofF40 (Store.get m (g.idx r c))

/-- The value of a register word under a format tag (R132), with a bound view's scale removed (R126). -/
def stValue (l : Loaded) (w : W32) : Num :=
  let f := (Fmt.ofCode l.tag).getD .f32
  (f.value (if f.blocked then (w >>> 24).toNat else 0) (w.toNat % 2 ^ f.bits)).scale (-l.q)

/-- The register word of a stored element (R132). -/
def stWord (f : Fmt) (raw scale : Nat) : W32 :=
  BitVec.ofNat 32 (if f.blocked then raw + scale * 2 ^ 24 else raw)

/-- A product of two operands: rounded once when an operand is FP32, exact otherwise (R109, R110). -/
def prod (fa fb : Fmt) (a b : Num) : Num := if fa = .f32 ∨ fb = .f32 then product32 a b else product a b

/-! ### Trees -/

/-- One level of a balanced tree. -/
def treeLevel (op : Num → Num → Num) : List Num → List Num
  | a :: b :: rest => op a b :: treeLevel op rest
  | l => l

/-- A balanced tree over a list whose length is at most 2^n. -/
def treeRed (op : Num → Num → Num) : Nat → List Num → Num
  | 0, l => l.headD .zero
  | n + 1, l => if l.length ≤ 1 then l.headD .zero else treeRed op n (treeLevel op l)

/-! ### Products -/

/-- R135 for one PE: `k` steps in ascending order from `c0`. -/
def osChain (fa fb : Fmt) (a b : Nat → Num) (k : Nat) (c0 : Num) : Num :=
  (List.range k).foldl (fun c i => add40 c (prod fa fb (a i) (b i))) c0

/-- All positions of an `m` × `n` extent, row by row. -/
def extent (m n : Nat) : List (Nat × Nat) := (List.range m).flatMap fun r => (List.range n).map fun c => (r, c)

/-- Words of a plane outside a partition, or the whole plane when the start is CONTINUE (R135, R166). -/
def startPlane (m : Store 40) (g : Geom) (cont : Bool) : Store 40 := if cont then m else m.filter fun p => !g.has p.1

/-- R135 and R166: the plane after an MM_OS. -/
def osPlane (s : State) (i : Issued) (p : MxParams) (g : Geom) (m0 : Store 40) (va vb : RView) : Store 40 :=
  let m1 := startPlane m0 g p.start
  (extent p.m.toNat p.n.toNat).foldl (fun m rc =>
    if enabled i.masks p rc.1 rc.2 then
      Store.set m (g.idx rc.1 rc.2)
        (toF40 (osChain va.format vb.format (fun k => s.elem va k rc.1) (fun k => s.elem vb k rc.2) p.k.toNat
          (accAt m1 g rc.1 rc.2)))
    else m) m1

/-- SMODE: reduction along ROW (R161). -/
def stRow (p : MxParams) : Bool := bit p.smode 0

/-- SMODE: input-stationary (R161). -/
def stIs (p : MxParams) : Bool := bit p.smode 1

/-- Reduction length L of R138. -/
def redLen (g : Geom) (p : MxParams) : Nat := if stRow p then g.cols else g.rows

/-- Stationary tiles of MM_ST (R162). -/
def tiles (g : Geom) (p : MxParams) : Nat := if p.k = 0#17 then 1 else (p.k.toNat + redLen g p - 1) / redLen g p

/-- The register that tile `t` uses (R167). -/
def tileReg (p : MxParams) (t : Nat) : Bool := p.sreg != (t % 2 == 1)

/-- The words of a register loaded with tile `t` of view 1 (R132, R137, R167): a load replaces the whole register, and
the words outside the tile become 0 (log entry 97). -/
def loadTile (s : State) (p : MxParams) (g : Geom) (v : RView) (t : Nat) (m : Store 32) : Store 32 :=
  let l := redLen g p
  let clear := m.filter fun q => !g.has q.1
  let span := min l (p.k.toNat - t * l)
  let cells := if stRow p then extent p.n.toNat span else extent span p.n.toNat
  cells.foldl (fun m rc =>
    let w := if stRow p then s.rawAt v rc.1 (t * l + rc.2) else s.rawAt v (t * l + rc.1) rc.2
    Store.set m (g.idx rc.1 rc.2) (stWord v.format w.1 w.2)) clear

/-- The element u_r[j] of R137 for one tile: a balanced tree over L positions; disabled PEs and positions at or beyond K
enter as +0 (R138, R145, R167). -/
def stDot (s : State) (i : Issued) (p : MxParams) (g : Geom) (vv : RView) (l : Loaded) (reg : Store 32) (t r j : Nat) : Num :=
  let len := redLen g p
  let sf := (Fmt.ofCode l.tag).getD .f32
  treeRed add40 8 ((List.range len).map fun x =>
    let (pr, pc) := if stRow p then (j, x) else (x, j)
    if t * len + x < p.k.toNat && enabled i.masks p pr pc then
      prod vv.format sf (s.elem vv r (t * len + x)) (stValue l (Store.get reg (g.idx pr pc)))
    else .zero)

/-- One tile over the streamed rows in ascending order (R137, R138, R167). -/
def stTile (s : State) (i : Issued) (p : MxParams) (g : Geom) (vv : RView) (l : Loaded) (reg : Store 32) (t : Nat)
    (m : Store 40) : Store 40 :=
  (extent p.m.toNat p.n.toNat).foldl (fun m rj =>
    let (pr, pc) := if stIs p then (rj.2, rj.1) else (rj.1, rj.2)
    if enabled i.masks p pr pc then
      Store.set m (g.idx pr pc) (toF40 (add40 (accAt m g pr pc) (stDot s i p g vv l reg t rj.1 rj.2)))
    else m) m

/-- The load record of a load from view 1 (R167): it holds the header's VERSION bit, also where VTAG_VALID is 0 (log entry 98). -/
def loadRecord (i : Issued) (v : RView) : Loaded := ⟨v.fmt, v.region, v.halfB, i.e.cmd.h.version, true, v.q⟩

/-- MM_ST on an array: tiles in order, each loaded first when SLOAD is 1 (R167). With K = 0 nothing steps and nothing loads
(R175). -/
def stRun (s : State) (i : Issued) (p : MxParams) (n pt : Fin 4) (vv : RView) (v1 : Option RView) : Array_ :=
  let a := s.array n
  let g := geom a.mode pt.1
  let a0 := a.setPlane p.plane (startPlane (a.plane p.plane) g p.start)
  if p.k = 0#17 then a0
  else
    (List.range (tiles g p)).foldl (fun a t =>
      let r := tileReg p t
      let a1 := match p.sload, v1 with
        | true, some v =>
          (a.setSt r (loadTile s p g v t (a.st r))).setPart pt ((a.part pt).setReg r (some (loadRecord i v)))
        | _, _ => a
      match (a1.part pt).reg r with
      | some l => a1.setPlane p.plane (stTile s i p g vv l (a1.st r) t (a1.plane p.plane))
      | none => a1) a0

/-! ### The element-wise path (R146) -/

/-- One element-wise operation: 0 SCALE, 1 ADD, 2 MAX. -/
def ewOp (op : BitVec 2) (acc x : Num) : Num :=
  match op.toNat with
  | 0 => mul40 acc x
  | 1 => add40 acc x
  | _ => acc.max x

/-- The operand of element [r, c] (R146). -/
def ewOperand (s : State) (i : Issued) (p : MxParams) (v : Option RView) (r c : Nat) : Num :=
  match p.opnd.toNat, v with
  | 0, _ => ofF32 ((i.sf[p.osf.toNat]'(p.osf.isLt)).setWidth 32)
  | 1, some v => s.elem v 0 c
  | 2, some v => s.elem v 0 r
  | _, some v => s.elem v r c
  | _, none => .zero

/-- The plane after an MM_EW (R146, R169). -/
def ewPlane (s : State) (i : Issued) (p : MxParams) (g : Geom) (m0 : Store 40) (v : Option RView) : Store 40 :=
  (extent p.m.toNat p.n.toNat).foldl (fun m rc =>
    if enabled i.masks p rc.1 rc.2 then
      Store.set m (g.idx rc.1 rc.2) (toF40 (ewOp p.op (accAt m g rc.1 rc.2) (ewOperand s i p v rc.1 rc.2)))
    else m) m0

/-! ### State checks (R133, R134, R167) -/

/-- A matrix command edits, continues or drains a held plane: MM_EW, MM_DRAIN, or START = CONTINUE. -/
def usesHeld (op : Op) : Bool :=
  match op with
  | .mmOs b | .mmSt b => b.p.start
  | .mmEw _ | .mmDrain _ => true
  | _ => false

/-- The plane state blocks issue: a ZERO start waits while the plane drains or is built by a command that drains (R133). -/
def planeWaits (op : Op) (st : PlaneState) : Bool :=
  !usesHeld op && match st with | .draining => true | .building _ hold => !hold | _ => false

/-- The plane state refuses the command at execution start (R133). -/
def planeBad (op : Op) (back : Bool) (st : PlaneState) : Bool :=
  if usesHeld op then
    match st with
    | .held b => b != back
    | .building b hold => b != back || !hold
    | _ => true
  else
    match st with
    | .held _ => true
    | .building _ hold => hold
    | _ => false

/-- The register refuses an MM_ST with SLOAD = 0 (R134, R167, R221). -/
def regBad (h : Header) (p : MxParams) (k : Part) : Bool :=
  if p.sload then false
  else
    match k.reg p.sreg with
    | none => true
    | some l => l.tag != p.sfmt || (h.vtag && (!l.sourced || l.version != h.version))

/-- ARRAY_STATE at execution start (R133, R134, R165, R167). -/
def arrayStateBad (c : Cmd) (k : Part) : Bool :=
  match c.op with
  | .mmOs b | .mmEw b | .mmDrain b => planeBad c.op (isBack c.h) (k.plane b.p.plane)
  | .mmSt b => planeBad c.op (isBack c.h) (k.plane b.p.plane) || regBad c.h b.p k
  | _ => false

end Sys2Proof.Machine
end

