-- ==== Sys2Proof/Machine/Segment.lean ====
section
/-! DEFINITION. Element programs and function tables: layouts and checks (R180 to R185, R407, R408), segment lookup (R186,
R187), exponent scale (R188), the stage operations (R178, R179) and the evaluation of a program on one element. -/

namespace Sys2Proof.Machine

/-! ### Segment lookup -/

/-- What a SEG stage yields: r, the coefficients C0 to C3 and SEGK (R181, R186). -/
structure Seg where
  r : Num
  c : List Num
  k : Num
  deriving DecidableEq, Repr

/-- The outcome of a NaN operand (R186, R187). -/
def Seg.nan : Seg := ⟨.nan, [.nan, .nan, .nan, .nan], .nan⟩

/-- The parameters of a table's header (R185). -/
structure TableHdr where
  mant   : Bool
  signed : Bool
  negNan : Bool
  emin   : Int
  ne     : Nat
  mbits  : Nat
  ebits  : Nat
  kmul   : Nat
  entries : Nat
  deriving DecidableEq, Repr

/-- The header's fields (R185). -/
def tableHdr (b : BitVec 128) : TableHdr :=
  ⟨bit b 0, bit b 2, bit b 3, (fld b 8 8 : BitVec 8).toInt, (fld b 16 5).toNat, (fld b 24 3).toNat, (fld b 27 2).toNat,
   (fld b 29 2).toNat, (fld b 32 16).toNat⟩

/-- Entries of one half (R185). -/
def TableHdr.half (h : TableHdr) : Nat := if h.mant then 1 + 2 ^ (h.ebits + h.mbits) else 1 + h.ne * 2 ^ h.mbits

/-- The image check of R185 on a header. -/
def tableHdrOk (b : BitVec 128) : Bool :=
  let h := tableHdr b
  !bit b 1 && fld b 4 4 == 0#4 && fld b 21 3 == 0#3 && !bit b 31 && fld b 48 80 == 0#80 &&
  h.entries == h.half * (if h.signed then 2 else 1) && h.entries ≤ 2048 &&
  (if h.mant then fld b 8 8 == 0#8 && fld b 16 5 == 0#5 && h.ebits ≤ 2 && (h.kmul < 2 || 1 ≤ h.ebits)
   else !h.negNan && 1 ≤ h.ne && h.ne ≤ 16 && h.ebits == 0 && h.kmul == 0)

/-- Exponent and leading fraction bits of a finite non-zero magnitude: x = 2^E × (1 + lead × 2^−mbits + …). -/
def leadBits (m : Nat) (e : Int) (mbits : Nat) : Int × Nat :=
  let ex := e + (Nat.log2 m : Int)
  let k := Nat.log2 m
  (ex, (if mbits ≤ k then m >>> (k - mbits) else m <<< (mbits - k)) - 2 ^ mbits)

/-- SEG in DIRECT mode (R186); `entry` gives the coefficients of an entry index. -/
def segDirect (h : TableHdr) (entry : Nat → List Num) (x : Num) : Seg :=
  let neg := h.signed && x.sign
  let hp := if neg then h.half else 0
  let v := if h.signed then x else x.abs
  let sub (b : Num) (idx : Nat) : Seg := ⟨rne32 (v.sub b), entry (hp + idx), .zero⟩
  let top := sub (.fin neg 1 (h.emin + h.ne)) (h.half - 1)
  match x with
  | .nan => Seg.nan
  | .inf _ => top
  | .fin _ m e =>
    if m = 0 || !magLe 1 h.emin m e then sub .zero 0
    else if magLe 1 (h.emin + h.ne) m e then top
    else
      let (ex, lead) := leadBits m e h.mbits
      sub (.fin neg (2 ^ h.mbits + lead) (ex - h.mbits)) (1 + (ex - h.emin).toNat * 2 ^ h.mbits + lead)

/-- SEGK under KMUL (R185, R187): E′, −E′, E′/2, −E′/2. E′ is an integer, so its zero has no sign. -/
def kmulValue (kmul : Nat) (e : Num) : Num :=
  let a := if kmul % 2 = 1 then e.neg else e
  if a.isZero then Num.zero else if kmul < 2 then a else a.scale (-1)

/-- An integer as a value. -/
def intNum (v : Int) : Num := .fin (v < 0) v.natAbs 0

/-- SEG in MANT mode (R187). -/
def segMant (h : TableHdr) (entry : Nat → List Num) (x : Num) : Seg :=
  let hp := if h.signed && x.sign then h.half else 0
  let c0 := entry hp
  let edge (k : Num) : Seg :=
    ⟨.zero, if !h.signed && x.sign && x.isZero then c0.map Num.neg else c0, kmulValue h.kmul k⟩
  match x with
  | .nan => Seg.nan
  | .inf s => if h.negNan && s then Seg.nan else edge (.inf false)
  | .fin s m e =>
    if m = 0 then edge (.inf true)
    else if h.negNan && s then Seg.nan
    else
      let (ex, lead) := leadBits m e h.mbits
      let j := (ex % (2 ^ h.ebits : Nat)).toNat
      let e' := ex - j
      let w : Num := .fin false m (e - ex + j)
      let base : Num := .fin false (2 ^ h.mbits + lead) ((j : Int) - h.mbits)
      ⟨rne32 (w.sub base), entry (hp + 1 + j * 2 ^ h.mbits + lead), kmulValue h.kmul (intNum e')⟩

/-- SEG under a header (R186, R187). -/
def segLookup (h : TableHdr) (entry : Nat → List Num) (x : Num) : Seg :=
  if h.mant then segMant h entry x else segDirect h entry x

/-- The coefficients of an entry of a loaded table (R185). -/
def FnTable.entry (t : FnTable) (e : Nat) : List Num :=
  let w := t.entries.getD e 0
  (List.range 4).map fun k => ofF32 (fld w (32 * k) 32)

/-! ### Stage operations -/

/-- ⌊n⌋ of a finite value, clamped to −512 to 512 (R188). -/
def floorClamp (s : Bool) (m : Nat) (e : Int) : Int :=
  let q : Int := if 0 ≤ e then (m <<< (min e.toNat 20) : Nat) else (m >>> (-e).toNat : Nat)
  let exact := 0 ≤ e || m % 2 ^ (-e).toNat == 0
  let v : Int := if s then (if exact then -q else -q - 1) else q
  if 0 < e && m != 0 && 20 < e then (if s then -512 else 512) else max (-512) (min 512 v)

/-- EXPSCALE (R188). -/
def expScale (a n : Num) : Num :=
  match n with
  | .nan => .nan
  | .inf false => .inf a.sign
  | .inf true => .fin a.sign 0 0
  | .fin s m e => rne32 (a.scale (floorClamp s m e))

/-- The condition of CMP (R179). -/
def cmpCond (cc : Nat) (x y : Num) : Bool :=
  match x.cmp y, cc with
  | none, 1 => true
  | none, 6 => true
  | none, _ => false
  | some .eq, 0 => true
  | some .eq, 3 => true
  | some .eq, 5 => true
  | some .eq, _ => false
  | some .lt, 1 => true
  | some .lt, 2 => true
  | some .lt, 3 => true
  | some .lt, _ => false
  | some .gt, 1 => true
  | some .gt, 4 => true
  | some .gt, 5 => true
  | some .gt, _ => false

/-- A stage operation other than SEG (R178, R179). -/
def stageOp (op cc : Nat) (x y z : Num) : Num :=
  match op with
  | 0 => x
  | 1 => add32 x y
  | 2 => mul32 x y
  | 3 => fma32 x y z
  | 4 => if cmpCond cc x y then .one else .zero
  | 5 => if y.truth then x else z
  | 6 => x.min y
  | 7 => x.max y
  | _ => expScale x y

/-! ### Programs -/

/-- A stage word (R182). -/
structure Stage where
  op : Nat
  sx : Nat
  nx : Bool
  sy : Nat
  ny : Bool
  sz : Nat
  nz : Bool
  cc : Nat
  ft : Nat
  rest : Bool
  deriving DecidableEq, Repr

/-- The fields of a stage word (R182). -/
def stageOf (w : BitVec 64) : Stage :=
  ⟨(fld w 0 4).toNat, (fld w 4 6).toNat, bit w 10, (fld w 11 6).toNat, bit w 17, (fld w 18 6).toNat, bit w 24,
   (fld w 25 3).toNat, (fld w 28 3).toNat, fld w 31 33 != 0#33⟩

/-- NSTAGES of a program (R180). -/
def progStages (p : BitVec 1024) : Nat := (fld p 0 4).toNat

/-- INPUTS of a program (R180). -/
def progInputs (p : BitVec 1024) : BitVec 3 := fld p 8 3

/-- OUTSRC of a program (R180). -/
def progOut (p : BitVec 1024) : Nat := (fld p 16 6).toNat

/-- CU_KERNEL of a program (R180). -/
def progKernel (p : BitVec 1024) : Nat := (fld p 24 8).toNat

/-- Stage s of a program, from 1. -/
def progStage (p : BitVec 1024) (s : Nat) : Stage := stageOf (fld p (8 * (8 + 8 * s)) 64)

/-- The stages a program uses. -/
def progList (p : BitVec 1024) : List Stage := (List.range (progStages p)).map fun i => progStage p (i + 1)

/-- Operands an operation uses (R182). -/
def opUses (op : Nat) : Bool × Bool :=
  match op with
  | 0 | 8 => (false, false)
  | 3 | 5 => (true, true)
  | _ => (true, false)

/-- Selectors a stage's operation uses. -/
def Stage.sels (g : Stage) : List Nat :=
  g.sx :: ((if (opUses g.op).1 then [g.sy] else []) ++ (if (opUses g.op).2 then [g.sz] else []))

/-- A selector that stage `s` may name: no reserved code, no stage at or after `s` or above NSTAGES, no SEG value without an
earlier SEG (R183). OUTSRC counts as a stage after the last. -/
def selOk (n s : Nat) (segBefore : Bool) (x : Nat) : Bool :=
  x < 36 && (!(4 ≤ x && x ≤ 11) || (x - 3 < s && x - 3 ≤ n)) && (!(28 ≤ x && x ≤ 32) || segBefore)

/-- The fixed fields of a kernel (R407): INPUTS, OUTSRC and the stages without CC and FT. -/
def kernel (k : Nat) : Option (Nat × Nat × List (Nat × Nat × Nat × Nat × Bool)) :=
  match k with
  | 1 => some (3, 4, [(1, 1, 2, 0, false)])
  | 2 => some (1, 4, [(2, 1, 20, 0, false)])
  | 3 => some (1, 4, [(2, 1, 1, 0, false)])
  | 4 => some (1, 4, [(4, 1, 12, 0, false)])
  | 5 => some (3, 6, [(4, 1, 12, 0, false), (4, 2, 13, 0, false), (2, 4, 5, 0, false)])
  | 6 => some (3, 5, [(2, 2, 21, 0, false), (3, 1, 20, 4, false)])
  | 7 => some (3, 6, [(2, 2, 2, 0, false), (2, 4, 21, 0, false), (3, 1, 20, 5, false)])
  | 8 => some (3, 5, [(3, 1, 21, 2, false), (3, 4, 20, 1, true)])
  | 9 => some (3, 10, [(1, 2, 12, 0, false), (8, 4, 0, 0, false), (3, 31, 5, 30, false), (3, 6, 5, 29, false),
      (3, 7, 5, 28, false), (9, 8, 32, 0, false), (2, 1, 9, 0, false)])
  | 10 => some (1, 1, [])
  | _ => none

/-- A program matches the kernel it names (R408). -/
def matchesKernel (p : BitVec 1024) : Bool :=
  match kernel (progKernel p) with
  | none => false
  | some (inp, out, ss) =>
    (progInputs p).toNat == inp && progOut p == out &&
    (progList p).map (fun g => (g.op, g.sx, g.sy, g.sz, g.ny)) == ss && (progList p).all fun g => !g.nx && !g.nz

/-- Selectors named by a program. -/
def progSels (p : BitVec 1024) : List Nat := progOut p :: (progList p).flatMap Stage.sels

/-- VX_PROG's check of one program (R183, R184, R408). -/
def progOk (p : BitVec 1024) : Bool :=
  let n := progStages p
  let gs := (progList p).zipIdx
  let seg (k : Nat) : Bool := gs.any fun q => q.2 + 1 < k && q.1.op == 8
  n ≤ 8 && fld p 4 4 == 0#4 && fld p 11 5 == 0#5 && fld p 22 2 == 0#2 && fld p 32 96 == 0#96 && fld p 896 128 == 0#128 &&
  (List.range 8).all (fun i => i < n || (fld p (8 * (16 + 8 * i)) 64 : BitVec 64) == 0#64) &&
  gs.all (fun q =>
    let g := q.1
    g.op ≤ 9 && !g.rest && (if g.op == 4 then g.cc != 7 else g.cc == 0) && (g.op == 8 || g.ft == 0) &&
    ((opUses g.op).1 || (g.sy == 0 && !g.ny)) && ((opUses g.op).2 || (g.sz == 0 && !g.nz)) &&
    g.sels.all (selOk n (q.2 + 1) (seg (q.2 + 1)))) &&
  selOk n (n + 1) (seg (n + 1)) (progOut p) &&
  (List.range 3).all (fun i => (progInputs p).getLsbD i == (progSels p).contains (i + 1)) &&
  (progKernel p == 0 || matchesKernel p)

/-- Tables that a program's SEG stages name. -/
def progTables (p : BitVec 1024) : List Nat := (progList p).filterMap fun g => if g.op == 8 then some g.ft else none

/-- What one element's evaluation reads (R181). -/
structure Env where
  a : Num
  b : Num
  c : Num
  scalars : List W32
  row : Nat
  col : Nat
  key : CgKey

/-- The running values of a chain: stage outputs in order and the latest SEG. -/
structure Chain where
  outs : List Num
  seg : Seg

/-- The value a selector names (R181). -/
def selValue (p : BitVec 1024) (env : Env) (ch : Chain) (x : Nat) : Num :=
  if x = 0 then .zero
  else if x = 1 then env.a
  else if x = 2 then env.b
  else if x = 3 then env.c
  else if x ≤ 11 then ch.outs.getD (x - 4) .zero
  else if x ≤ 19 then ofF32 (fld p (8 * (80 + 4 * (x - 12))) 32)
  else if x ≤ 27 then ofF32 (env.scalars.getD (x - 20) 0)
  else if x ≤ 31 then ch.seg.c.getD (x - 28) .zero
  else if x = 32 then ch.seg.k
  else if x = 33 then rne32 (intNum env.row)
  else if x = 34 then rne32 (intNum env.col)
  else env.key.rand env.row env.col

/-- A negated operand (R182). -/
def negIf (n : Bool) (v : Num) : Num := if n then v.neg else v

/-- One stage (R178, R182): the chain with its output appended. -/
def runStage (p : BitVec 1024) (tables : Nat → Option FnTable) (env : Env) (ch : Chain) (g : Stage) : Chain :=
  let x := negIf g.nx (selValue p env ch g.sx)
  if g.op = 8 then
    match tables g.ft with
    | some t =>
      let sg := segLookup (tableHdr t.header) t.entry x
      ⟨ch.outs ++ [sg.r], sg⟩
    | none => ⟨ch.outs ++ [.zero], ch.seg⟩
  else
    ⟨ch.outs ++ [stageOp g.op g.cc x (negIf g.ny (selValue p env ch g.sy)) (negIf g.nz (selValue p env ch g.sz))], ch.seg⟩

/-- The element result of a program (R177 to R184). -/
def runProg (p : BitVec 1024) (tables : Nat → Option FnTable) (env : Env) : Num :=
  let ch := (progList p).foldl (runStage p tables env) ⟨[], ⟨.zero, [], .zero⟩⟩
  selValue p env ch (progOut p)

/-! ### expref (R206, R219) -/

/-- ln 2 times 2^192, truncated. -/
def ln2Fix : Int := 4350955369971217654477563090224794165364344896676135745069

/-- Bits of the fixed point below. -/
def fixBits : Nat := 192

/-- 2^(n/4096) times 2^192 by the exponential series, for |n| at most 4,096. -/
def exp2Fix (n : Int) : Int :=
  let y := n * ln2Fix / 4096
  let sh : Int := (2 ^ fixBits : Nat)
  ((List.range 48).foldl (fun (acc : Int × Int) (k : Nat) =>
    let t := acc.2 * y / (sh * ((k : Int) + 1))
    (acc.1 + t, t)) (sh, sh)).1

/-- Coefficient k of the Taylor series of 2^x about n/4096, rounded once to FP32 (R206). -/
def exp2Coef (n : Int) (k : Nat) : Num :=
  let sh : Int := (2 ^ fixBits : Nat)
  let v := (List.range k).foldl (fun (v : Int) (i : Nat) => v * ln2Fix / (sh * ((i : Int) + 1))) (exp2Fix n)
  rne32 (.fin false v.toNat (-(fixBits : Int)))

/-- The header of the 2^x table: DIRECT, SIGNED, EMIN −7, NE 7, MBITS 5, 450 entries (R206). -/
def exp2Hdr : TableHdr := ⟨false, true, false, -7, 7, 5, 0, 0, 450⟩

/-- An entry of the 2^x table: entry 0 of a half about 0, the top entry the limit value, the others about the segment's base
in units of 1/4096 (R206). -/
def exp2Entry (e : Nat) : List Num :=
  let half := exp2Hdr.half
  let neg := half ≤ e
  let i := if neg then e - half else e
  if i = half - 1 then [if neg then .zero else .inf false, .zero, .zero, .zero]
  else
    let n : Int := if i = 0 then 0 else ((32 + (i - 1) % 32) * 2 ^ ((i - 1) / 32) : Nat)
    (List.range 4).map (exp2Coef (if neg then -n else n))

/-- expref(d) (R219): the eˣ program of the vector-engine chapter, stage by stage. -/
def expref (d : Num) : Num :=
  let k0 := ofF32 0x4B400000
  let k1 := ofF32 0x3FB8AA3B
  let k2 := ofF32 0x32A57060
  let s1 := fma32 d k1 k0
  let s2 := add32 s1 k0.neg
  let s3 := fma32 d k1 s2.neg
  let s4 := fma32 d k2 s3
  let sg := segDirect exp2Hdr exp2Entry s4
  let s6 := fma32 (sg.c.getD 2 .zero) sg.r (sg.c.getD 1 .zero)
  let s7 := fma32 s6 sg.r (sg.c.getD 0 .zero)
  expScale s7 s2

/-- rcp(l) (R219). -/
def rcp (l : Num) : Num := rcp32 (rne32 l)

end Sys2Proof.Machine
end

