-- ==== Sys2Proof/Machine/Fused.lean ====
section
/-! DEFINITION. The fused menu (R208 to R232): the chain block and its checks, the straight chains and the row-wise chains of
the arrays. What a chain does is a tile of values before conversion, the bytes of its chain views, and the array's registers
and companion plane. -/

namespace Sys2Proof.Machine

/-! ### The chain block (R209) -/

def Issued.cs0 (i : Issued) : Num := ofF32 (fld (i.sfAt 48) 0 32)
def Issued.cs1 (i : Issued) : Num := ofF32 (fld (i.sfAt 48) 32 32)
def Issued.key32 (i : Issued) : W32 := fld (i.sfAt 49) 0 32
def Issued.k16 (i : Issued) : Nat := (fld (i.sfAt 49) 32 16).toNat
def Issued.act (i : Issued) : Nat := (fld (i.sfAt 49) 48 3).toNat
def Issued.dropEn (i : Issued) : Bool := bit (i.sfAt 49) 51
def Issued.clsel (i : Issued) : Nat := (fld (i.sfAt 49) 52 3).toNat
def Issued.rreg (i : Issued) : Bool := bit (i.sfAt 49) 55
def Issued.rfmt (i : Issued) : BitVec 4 := fld (i.sfAt 49) 56 4
def Issued.fixed (i : Issued) : Bool := bit (i.sfAt 49) 60
def Issued.dropStart (i : Issued) : W32 := fld (i.sfAt 50) 0 32
def Issued.peerEc (i : Issued) : BitVec 6 := fld (i.sfAt 50) 48 6
def Issued.peerInc (i : Issued) : BitVec 8 := fld (i.sfAt 50) 54 8

/-- The 96 bits of chain view Xx in a snapshot. -/
def chainViewBits (sf : Vector W64 64) (x : Nat) : BitVec 96 :=
  let l := sf.toList
  ((l.getD (53 + 2 * x) 0).setWidth 32 ++ l.getD (52 + 2 * x) 0)

/-- Chain view Xx in a snapshot: none when all zero (R210). -/
def chainView (sf : Vector W64 64) (x : Nat) : Option View :=
  let b := chainViewBits sf x
  if b = 0#96 then none else parseView b

/-- Which fields of the chain block an entry uses, beyond its views (R209). -/
structure ChainUse where
  cs0 : Bool
  cs1 : Bool
  key : Bool
  act : Bool
  cls : Bool
  reg : Bool
  fixed : Bool
  drop : Bool
  peer : Bool
  deriving DecidableEq, Repr

/-- The fields an entry uses (R208, R209, R213 to R231). -/
def chainUse (fuse : Nat) : ChainUse :=
  match fuse with
  | 0x01 | 0x03 => ⟨true, true, true, true, false, false, false, true, true⟩
  | 0x02 | 0x04 | 0x11 | 0x21 => ⟨false, false, false, false, false, false, false, false, true⟩
  | 0x10 => ⟨true, false, false, false, false, true, true, false, false⟩
  | 0x12 => ⟨true, false, false, false, false, false, false, false, false⟩
  | 0x14 => ⟨true, false, false, false, false, true, false, false, false⟩
  | 0x15 => ⟨true, false, false, false, false, true, false, false, true⟩
  | 0x18 => ⟨true, false, true, false, true, false, true, false, false⟩
  | 0x19 => ⟨true, true, true, false, true, false, false, false, true⟩
  | 0x1A => ⟨true, false, false, false, false, false, true, false, false⟩
  | 0x1B => ⟨true, true, false, false, false, false, false, false, true⟩
  | _ => ⟨true, false, false, false, false, false, false, false, true⟩

/-- Chain views of an entry as (x, required, rows, columns) for an `m` × `n` extent (R208). -/
def chainMenu (fuse m n : Nat) : List (Nat × Bool × List (Nat × Nat)) :=
  let epi := [(0, false, [(1, n)]), (1, false, [(m, 1)]), (2, false, [(1, n)]), (3, false, [(m, n)])]
  let mask := (0, false, [(m, (n + 7) / 8)])
  match fuse with
  | 0x01 => epi
  | 0x02 => [(4, true, [(1, 1)])]
  | 0x03 => epi ++ [(5, true, [(m, 2)])]
  | 0x04 => [(0, true, [(m, 1)]), (1, true, [(m, 1)]), (2, true, [(1, n)])]
  | 0x10 => [mask, (5, true, [(m, 4)])]
  | 0x11 => [(5, true, [(m, 4)])]
  | 0x12 => [mask, (3, false, [(m, n)]), (5, true, [(m, 4), (m, 5)])]
  | 0x14 => [mask, (5, true, [(m, 4)])]
  | 0x15 => [(5, true, [(m, 4)])]
  | 0x18 | 0x19 => [(1, true, [(m, 1)]), (5, true, [(m, 4)])]
  | 0x1A | 0x1B => [(3, true, [(m, n)]), (5, true, [(m, 5)])]
  | 0x20 => [(5, false, [(m, 3)])]
  | _ => []

/-- The format a chain view may have (R210). -/
def chainFmtOk (fuse x : Nat) (f : BitVec 4) : Bool :=
  if x = 5 then f == 1#4
  else if x = 4 then f == 12#4
  else if x = 0 && 0x10 ≤ fuse then f == 12#4
  else if x = 1 && (fuse = 0x18 || fuse = 0x19) then f == 13#4
  else f == 0#4 || f == 1#4 || f == 2#4

/-- ILLEGAL_COMMAND of R210 and R231 on the chain block of a command with extent `m` × `n`. -/
def chainBad (fuse m n : Nat) (sf : Vector W64 64) : Bool :=
  let l := sf.toList
  let w (k : Nat) : W64 := l.getD k 0
  let u := chainUse fuse
  let menu := chainMenu fuse m n
  let peerKind : BitVec 4 := fld (w 51) 40 4
  (!u.cs0 && fld (w 48) 0 32 != 0#32) || (!u.cs1 && fld (w 48) 32 32 != 0#32) ||
  (!u.key && fld (w 49) 0 48 != 0#48) || (if u.act then bit (w 49) 50 else fld (w 49) 48 3 != 0#3) ||
  (!u.drop && bit (w 49) 51) || (if u.cls then 4 < (fld (w 49) 52 3 : BitVec 3).toNat else fld (w 49) 52 3 != 0#3) ||
  (if u.reg then !(2 ≤ (fld (w 49) 56 4 : BitVec 4).toNat && (fld (w 49) 56 4 : BitVec 4).toNat ≤ 5)
   else fld (w 49) 55 5 != 0#5) ||
  (!u.fixed && bit (w 49) 60) || fld (w 49) 61 3 != 0#3 || (!u.drop && fld (w 50) 0 32 != 0#32) ||
  (!u.peer && (fld (w 50) 32 31 != 0#31 || w 51 != 0#64)) || bit (w 50) 63 ||
  (u.peer && bit (w 50) 62 && !(1 ≤ peerKind.toNat && peerKind.toNat ≤ 8)) ||
  (List.range 6).any fun x =>
    fld (w (53 + 2 * x)) 32 32 != 0#32 ||
    (match menu.find? (fun e => e.1 == x), chainViewBits sf x == 0#96 with
      | none, z => !z
      | some e, true => e.2.1
      | some e, false => match chainView sf x with
        | none => true
        | some v => !v.ok || !(e.2.2.contains (v.rows.toNat, v.cols.toNat)))

/-- The chain views present, with their uses: every one is a source, X4 and X5 are outputs too where the entry writes them
(R210). -/
def chainUses (fuse : BitVec 8) (sf : Vector W64 64) : List Use :=
  if fuse = 0#8 then []
  else (List.range 6).filterMap fun x => (chainView sf x).map fun v =>
    { Use.source (6 + x) v with out := (fuseWrites fuse).contains (6 + x) }

/-! ### Reductions (R200) -/

/-- rowred of R200 with operator `op` and identity `ident`. -/
def rowRed (op : Num → Num → Num) (ident : Num) (xs : List Num) : Num :=
  (List.range ((xs.length + 255) / 256)).foldl (fun acc c =>
    let chunk := (xs.drop (256 * c)).take 256
    op acc (treeRed op 8 (chunk ++ List.replicate (256 - chunk.length) ident))) ident

/-- The sum of a row in the order of R200. -/
def rowSum (xs : List Num) : Num := rowRed add40 .zero xs

/-! ### Drains -/

/-- What a drain reads (R142, R173, R210): the state, the command, the extent, the array as its steps left it, and the output
view. -/
structure Drain where
  s : State
  i : Issued
  p : MxParams
  m : Nat
  n : Nat
  g : Geom
  pt : Fin 4
  a : Array_
  v2 : Option RView

/-- What a drain writes: rows of (column, value) before conversion, an extra pre-scale, bytes of chain views, the array, and
the rows of empty-row events. -/
structure Drained where
  rows : List (Nat × List (Nat × Num))
  pre : Int
  bytes : Bytes
  a : Array_
  empty : List Nat

/-- A plane word of the drained plane. -/
def Drain.c (d : Drain) (r c : Nat) : Num := accAt (d.a.plane d.p.plane) d.g r c

/-- Chain view Xx. -/
def Drain.x (d : Drain) (k : Nat) : Option RView := d.i.views.getD (6 + k) none

/-- An element of a chain view as it stands before the drain, or a default where it is absent (log entry 132). -/
def Drain.xAt (d : Drain) (k r c : Nat) (dflt : Num) : Num :=
  match d.x k with
  | some v => d.s.elem v r c
  | none => dflt

/-- Positions enabled by the command's masks (R145). -/
def Drain.en (d : Drain) (r c : Nat) : Bool := enabled d.i.masks d.p r c

/-- Enabled columns of a row. -/
def Drain.cols (d : Drain) (r : Nat) : List Nat := (List.range d.n).filter (d.en r)

/-- OUTMODE = 1 adds the element already in the output view (R173). -/
def Drain.onto (d : Drain) (r c : Nat) (t : Num) : Num :=
  match d.p.outmode, d.v2 with
  | true, some v => add40 t (d.s.elem v r c)
  | _, _ => t

/-- Tile rows from a function of the element. -/
def Drain.tile (d : Drain) (f : Nat → Nat → Num) : List (Nat × List (Nat × Num)) :=
  (List.range d.m).map fun r => (r, (d.cols r).map fun c => (c, f r c))

/-- A plain drain (R173). -/
def drainPlain (d : Drain) : Drained := ⟨d.tile fun r c => d.onto r c (d.c r c), 0, [], d.a, []⟩

/-- keep(i, j) of R214. -/
def Drain.keep (d : Drain) (r c : Nat) : Bool :=
  let tensor := if d.i.key32 = 0#32 then (match d.v2 with | some v => v.tensor | none => 0) else d.i.key32
  let start := d.i.dropStart + BitVec.ofNat 32 (loopShift d.i.e (cmdView2 d.i.e.cmd))
  let key : CgKey := ⟨d.s.job.seed, d.s.job.step, tensor, 2, start⟩
  d.i.k16 ≤ key.draw16 r c

/-- EPI on one element (R213). -/
def Drain.epi (d : Drain) (r c : Nat) : Num :=
  let t0 := d.c r c
  let t1 := if (d.x 0).isSome then mul40 t0 (d.xAt 0 0 c .zero) else t0
  let t2 := if (d.x 1).isSome then mul40 t1 (d.xAt 1 r 0 .zero) else t1
  let t3 := if (d.x 2).isSome then add40 t2 (d.xAt 2 0 c .zero) else t2
  let t4 := match d.i.act with
    | 1 => t3.max .zero
    | 2 => (t3.max d.i.cs1.neg).min d.i.cs1
    | 3 => if t3.lt .zero then mul40 t3 d.i.cs1 else t3
    | _ => t3
  let t5 := if (d.x 3).isSome then add40 t4 (d.xAt 3 r c .zero) else t4
  let t6 := if d.i.dropEn then mul40 t5 (if d.keep r c then d.i.cs0 else .zero) else t5
  d.onto r c t6

/-- EPI (R213). -/
def drainEpi (d : Drain) : Drained := ⟨d.tile d.epi, 0, [], d.a, []⟩

/-- Bytes of one FP40 element of a statistics view. -/
def Drain.stat (d : Drain) (r c : Nat) (v : Num) : Bytes :=
  match d.x 5 with
  | some x => placeBytes (x.addr + r * x.stride + 5 * c) (leBytes (toF40 v).toNat 5)
  | none => []

/-- QTILE (R215): the tile exponent from the enabled extent. -/
def drainQtile (d : Drain) : Drained :=
  let all := (List.range d.m).flatMap fun r => (d.cols r).map (d.c r)
  let x := match d.v2 with
    | some v => blockExp v.format.maxM (amaxOf all)
    | none => 0
  let sc := match d.x 4 with
    | some v => [(v.addr, BitVec.ofNat 8 (x + 127).toNat)]
    | none => []
  ⟨d.tile d.c, -x, sc, d.a, []⟩

/-- ROWSTAT (R216). -/
def drainRowstat (d : Drain) : Drained :=
  let row (r : Nat) : List Num := (List.range d.n).map fun c => if d.en r c then d.epi r c else .zero
  let sq (v : Num) : Num := mul40 v v
  let bytes := (List.range d.m).flatMap fun r =>
    d.stat r 0 (add40 (d.xAt 5 r 0 .zero) (rowSum (row r))) ++
    d.stat r 1 (add40 (d.xAt 5 r 1 .zero) (rowSum ((row r).map sq)))
  ⟨d.tile d.epi, 0, bytes, d.a, []⟩

/-- g_j of AFFINE: the reduced operand's column summed in ascending index (R217). -/
def Drain.affineG (d : Drain) (c : Nat) : Num :=
  match d.i.views.getD 1 none with
  | some v => (List.range d.p.k.toNat).foldl (fun g k => add40 g (d.s.elem v k c)) .zero
  | none => .zero

/-- AFFINE (R217). -/
def drainAffine (d : Drain) : Drained :=
  let f (r c : Nat) : Num :=
    let x1 := d.xAt 1 r 0 .zero
    let t := mul40 (d.c r c) x1
    let u := mul40 (mul40 (d.xAt 0 r 0 .zero) x1) (d.affineG c)
    d.onto r c (add40 (add40 t u.neg) (d.xAt 2 0 c .zero))
  ⟨d.tile f, 0, [], d.a, []⟩

/-! ### Row-wise chains -/

/-- A bit of an INT8 mask view (R197): 1 is active; an absent mask masks nothing. -/
def maskBit (s : State) (v : Option RView) (r c : Nat) : Bool :=
  match v with
  | some x => (s.byte (x.addr + r * x.stride + c / 8)).getLsbD (c % 8)
  | none => true

/-- A position is active under X0. -/
def Drain.active (d : Drain) (r c : Nat) : Bool := maskBit d.s (d.x 0) r c

/-- z of R220: masked positions take −∞. -/
def Drain.z (d : Drain) (masked : Bool) (r c : Nat) : Num :=
  if masked && !d.active r c then .inf true else mul32 d.i.cs0 (rne32 (d.c r c))

/-- Largest of a list, NaN when any is NaN, −∞ when empty (R220). -/
def maxOf (xs : List Num) : Num := xs.foldl Num.max (.inf true)

/-- pval of R220. -/
def pval (z mm : Num) : Num :=
  match mm with
  | .inf true => .zero
  | .inf false => if z = .inf false then .one else .zero
  | _ => expref (rne32 (z.sub mm))

/-- The online update of R220 on one row: new m, alpha and the p of each position, from m, `fixed` and the z values. -/
def onlineRow (fixed : Bool) (m : Num) (zs : List Num) : Num × Num × List Num :=
  let t := maxOf zs
  if m.isNan || t.isNan then (.nan, .nan, zs.map fun _ => .nan)
  else if fixed then (m, .one, zs.map fun z => pval z m)
  else
    let mn := m.max t
    let alpha := match mn with
      | .inf true => .one
      | .inf false => if m = .inf false then .one else .zero
      | _ => expref (rne32 (m.sub mn))
    (mn, alpha, zs.map fun z => pval z mn)

/-- l of R220: masked positions enter the tree as +0. -/
def onlineL (alpha l : Num) (ps : List Num) (active : List Bool) : Num :=
  add40 (mul40 alpha l) (rowSum ((ps.zip active).map fun q => if q.2 then q.1 else .zero))

/-- The element encoding of a value written into a register under RFMT, rounded to nearest even with saturation (R221). -/
def regWord (rfmt : BitVec 4) (v : Num) : W32 :=
  let f := (Fmt.ofCode rfmt).getD .bf
  stWord f (f.convElem .rne false 0 v).bits 0

/-- The record of a register that a chain writes: no source region (R221). -/
def Issued.chainRecord (i : Issued) : Loaded := ⟨i.rfmt, 0, false, false, false, 0⟩

/-- Write the whole register RREG: the extent's values, encoding 0 elsewhere, LOADED with no source region (R221). -/
def Drain.writeReg (d : Drain) (a : Array_) (vals : List (Nat × List (Nat × Num))) : Array_ :=
  let m0 := (a.st d.i.rreg).filter fun q => !d.g.has q.1
  let m1 := vals.foldl (fun m row => row.2.foldl (fun m q =>
    Store.set m (d.g.idx row.1 q.1) (regWord d.i.rfmt q.2)) m) m0
  (a.setSt d.i.rreg m1).setPart d.pt ((a.part d.pt).setReg d.i.rreg (some d.i.chainRecord))

/-- Column `k` of row r of the statistics view. -/
def Drain.x5 (d : Drain) (r k : Nat) : Num := d.xAt 5 r k .zero

/-- ATTN_FWD (R220 to R222). On an EMPTY companion plane l starts as +0, and m as −∞ unless the pass is FIXED (R218); words of it outside
the extent become +0 (log entry 125). -/
def drainAttnFwd (d : Drain) : Drained :=
  let comp := !d.p.plane
  let fresh := d.i.fresh
  let row (r : Nat) : Num × Num × Num × List Num :=
    let m := if fresh && !d.i.fixed then .inf true else d.x5 r 0
    let l := if fresh then .zero else d.x5 r 1
    let cols := List.range d.n
    let (mn, alpha, ps) := onlineRow d.i.fixed m (cols.map (d.z true r))
    (mn, onlineL alpha l ps (cols.map (d.active r)), alpha, ps)
  let rows := (List.range d.m).map fun r => (r, row r)
  let bytes := rows.flatMap fun q => d.stat q.1 0 q.2.1 ++ d.stat q.1 1 q.2.2.1
  let m0 := if fresh then startPlane (d.a.plane comp) d.g false else d.a.plane comp
  let m1 := rows.foldl (fun m q => (List.range d.g.cols).foldl (fun m c =>
    Store.set m (d.g.idx q.1 c) (toF40 (mul40 (accAt m d.g q.1 c) q.2.2.2.1))) m) m0
  let a1 := d.a.setPlane comp m1
  let a2 := a1.setPart d.pt ((a1.part d.pt).setPlane comp (.held (isBack d.i.e.cmd.h)))
  ⟨[], 0, bytes, d.writeReg a2 (rows.map fun q => (q.1, q.2.2.2.2.zipIdx.map fun z => (z.2, z.1))), []⟩

/-- w of R223 from m and l. -/
def weight (m l : Num) : Num := if l.isNan || m.isNan then .nan else if l.isZero then .zero else rcp l

/-- The row's soft maximum from statistics columns `k` and `k + 1` is empty (R223, R224). -/
def Drain.emptyRow (d : Drain) (k r : Nat) : Bool := !(d.x5 r k).isNan && (d.x5 r (k + 1)).isZero

/-- ATTN_END (R223): an empty row drains as +0 in every column, whatever the plane holds. -/
def drainAttnEnd (d : Drain) : Drained :=
  let w (r : Nat) : Num := weight (d.x5 r 0) (d.x5 r 1)
  ⟨d.tile fun r c => if d.emptyRow 0 r then .zero else mul40 (d.c r c) (w r), 0,
   (List.range d.m).flatMap fun r => d.stat r 2 (w r), d.a, (List.range d.m).filter (d.emptyRow 0)⟩

/-- The probability of R225. -/
def prob (m w z : Num) : Num :=
  if m.isNan || w.isNan || z.isNan then .nan
  else if w.isZero then .zero
  else if m = .inf false then (if z = .inf false then w else .zero)
  else mul32 (expref (rne32 (z.sub m))) w

/-- ATTN_BWD_P (R225). -/
def drainAttnBwdP (d : Drain) : Drained :=
  let vals := (List.range d.m).map fun r =>
    (r, (List.range d.n).map fun c => (c, prob (d.x5 r 0) (d.x5 r 2) (d.z true r c)))
  ⟨[], 0, [], d.writeReg d.a vals, []⟩

/-- The value of the other register at a position (R225). -/
def Drain.otherReg (d : Drain) (r c : Nat) : Num :=
  match (d.a.part d.pt).reg (!d.i.rreg) with
  | some l => stValue l (Store.get (d.a.st (!d.i.rreg)) (d.g.idx r c))
  | none => .zero

/-- ATTN_BWD_DS (R225); a row with w = +0 gives +0 in every column. -/
def drainAttnBwdDs (d : Drain) : Drained :=
  let f (r c : Nat) : Num :=
    if (d.x5 r 2).isZero then .zero
    else
    let ds := mul32 (d.otherReg r c) (rne32 ((rne32 (d.c r c)).sub (d.x5 r 3)))
    mul32 d.i.cs0 ds
  let rows := d.tile f
  ⟨rows, 0, [], d.writeReg d.a rows, []⟩

/-- colbase′ of R226. A CLSEL deeper than the loops the command stands in takes index 0 (log entry 140). -/
def Drain.colbase (d : Drain) : Int :=
  let i := if d.i.clsel = 0 then 0 else d.i.e.x.iters.getD (d.i.clsel - 1) 0
  (d.i.key32.toNat + d.i.k16 * i : Nat)

/-- The target of a row (R226). -/
def Drain.target (d : Drain) (r : Nat) : Int := match d.x 1 with | some v => d.s.elemInt v r 0 | none => -1

/-- LOSS_FWD (R226). -/
def drainLossFwd (d : Drain) : Drained :=
  let bytes := (List.range d.m).flatMap fun r =>
    let zs := (List.range d.n).map (d.z false r)
    let (mn, alpha, ps) := onlineRow d.i.fixed (d.x5 r 0) zs
    let k := d.target r - d.colbase
    d.stat r 0 mn ++ d.stat r 1 (onlineL alpha (d.x5 r 1) ps (ps.map fun _ => true)) ++
    (if 0 ≤ d.target r && 0 ≤ k && k < d.n then
      d.stat r 2 (zs.getD k.toNat .zero) ++ d.stat r 3 (add40 (d.x5 r 3) .one) else [])
  ⟨[], 0, bytes, d.a, []⟩

/-- The probability of R226: pval, which is +0 for m = −∞, scaled by w as R225 scales. -/
def lossProb (m w z : Num) : Num := if m = .inf true && !w.isNan && !z.isNan then .zero else prob m w z

/-- LOSS_BWD (R226), with an event for each row whose soft maximum is empty (R224; log entry 126). -/
def drainLossBwd (d : Drain) : Drained :=
  let f (r c : Nat) : Num :=
    let p := lossProb (d.x5 r 0) (weight (d.x5 r 0) (d.x5 r 1)) (d.z false r c)
    if d.target r < 0 then .zero
    else mul32 d.i.cs1 (rne32 (p.sub (if d.colbase + c = d.target r then .one else .zero)))
  ⟨d.tile f, 0, [], d.a, (List.range d.m).filter (d.emptyRow 0)⟩

/-- z_t of R227. -/
def Drain.zt (d : Drain) (r c : Nat) : Num := mul32 d.i.cs0 (rne32 (d.xAt 3 r c .zero))

/-- DISTILL_FWD (R227). -/
def drainDistillFwd (d : Drain) : Drained :=
  let bytes := (List.range d.m).flatMap fun r =>
    let cols := List.range d.n
    let zs := cols.map (d.z false r)
    let zt := cols.map (d.zt r)
    let (ms, as_, ps) := onlineRow d.i.fixed (d.x5 r 0) zs
    let (mt, at_, pt) := onlineRow d.i.fixed (d.x5 r 2) zt
    let on := cols.map fun _ => true
    let term := cols.map fun c =>
      let e := pt.getD c .zero
      if e.isZero then .zero else mul32 e (rne32 ((zt.getD c .zero).sub (zs.getD c .zero)))
    d.stat r 0 ms ++ d.stat r 1 (onlineL as_ (d.x5 r 1) ps on) ++ d.stat r 2 mt ++
    d.stat r 3 (onlineL at_ (d.x5 r 3) pt on) ++ d.stat r 4 (add40 (mul40 at_ (d.x5 r 4)) (rowSum term))
  ⟨[], 0, bytes, d.a, []⟩

/-- DISTILL_BWD (R227), with an event for each of the row's two soft maxima that is empty (R224; log entry 85). -/
def drainDistillBwd (d : Drain) : Drained :=
  let f (r c : Nat) : Num :=
    let ps := prob (d.x5 r 0) (weight (d.x5 r 0) (d.x5 r 1)) (d.z false r c)
    let pt := prob (d.x5 r 2) (weight (d.x5 r 2) (d.x5 r 3)) (d.zt r c)
    mul32 d.i.cs1 (rne32 (ps.sub pt))
  ⟨d.tile f, 0, [], d.a, (List.range d.m).filter (d.emptyRow 0) ++ (List.range d.m).filter (d.emptyRow 2)⟩

/-- ROWMAX (R228). -/
def drainRowmax (d : Drain) : Drained :=
  let cols := List.range d.n
  let bytes := (List.range d.m).flatMap fun r =>
    d.stat r 0 ((d.x5 r 0).max (maxOf (cols.map (d.z true r)))) ++
    (if (d.x 3).isSome then d.stat r 2 ((d.x5 r 2).max (maxOf (cols.map (d.zt r)))) else [])
  ⟨[], 0, bytes, d.a, []⟩

/-- The drain of an identity of the menu; 0 is a plain drain (R208). -/
def drainOf (fuse : Nat) (d : Drain) : Drained :=
  match fuse with
  | 0x01 => drainEpi d
  | 0x02 => drainQtile d
  | 0x03 => drainRowstat d
  | 0x04 => drainAffine d
  | 0x10 => drainAttnFwd d
  | 0x11 => drainAttnEnd d
  | 0x12 => drainRowmax d
  | 0x14 => drainAttnBwdP d
  | 0x15 => drainAttnBwdDs d
  | 0x18 => drainLossFwd d
  | 0x19 => drainLossBwd d
  | 0x1A => drainDistillFwd d
  | 0x1B => drainDistillBwd d
  | _ => drainPlain d

/-- ATTN_FWD whose companion plane was EMPTY at its start does not read X5 with FIXED = 0 (R222). -/
def Issued.skipsX5 (i : Issued) : Bool := i.e.cmd.h.fuse == 0x10#8 && !i.fixed && i.fresh

/-- ATTN_FWD finds its companion plane EMPTY at its start (R222). -/
def findsFresh (i : Issued) (plane : Bool) (k : Part) : Bool := i.e.cmd.h.fuse == 0x10#8 && k.plane (!plane) == .empty

/-- The drain of a chain writes register RREG (R221, R225). -/
def Issued.writesReg (i : Issued) : Bool :=
  i.e.cmd.h.fuse == 0x10#8 || i.e.cmd.h.fuse == 0x14#8 || i.e.cmd.h.fuse == 0x15#8

/-- ARRAY_STATE of a chain: the companion plane of ATTN_FWD (R222) and the register ATTN_BWD_DS reads (R134, R225). -/
def chainStateBad (i : Issued) (plane : Bool) (k : Part) : Bool :=
  match i.e.cmd.h.fuse.toNat with
  | 0x10 =>
    (match k.plane (!plane) with
      | .empty => false
      | .held b => b != isBack i.e.cmd.h
      | .building b hold => b != isBack i.e.cmd.h || !hold
      | .draining => true)
  | 0x15 => (k.reg (!i.rreg)).isNone
  | _ => false

/-- Bytes exported to the peer, at global addresses (R231): the tile's rows at the peer's row addresses, QTILE's scale byte at the
address of row M. -/
def exportBytes (i : Issued) (v2 : RView) (m : Nat) (tile chain : Bytes) : Bytes :=
  if !i.sends then []
  else
    let rowOf (a : Nat) : Nat := if v2.stride = 0 then 0 else (a - v2.addr) / v2.stride
    let moved := tile.map fun p => (i.peerRow (rowOf p.1) + (p.1 - (v2.addr + rowOf p.1 * v2.stride)), p.2)
    moved ++ (if i.e.cmd.h.fuse = 2#8 then chain.map fun p => (i.peerRow m, p.2) else [])

end Sys2Proof.Machine
end

