-- ==== Sys2Proof/Machine/Matrix.lean ====
section
/-! DEFINITION. Matrix commands: the views they use (R160, R162, R246), the issue checks after the view checks (R33, R140,
R163 to R165, R210, R215), the grants they need (R140, R143, R174, R293), and what they do (R166 to R175, R211 to R232). -/

namespace Sys2Proof.Machine

/-- The array and partition that a matrix command names (R32, R33). -/
def mxArray (h : Header) : Fin 4 := ⟨(h.queue.toNat / 2) % 4, Nat.mod_lt _ (by decide)⟩
def mxPart (h : Header) : Fin 4 := ⟨h.part.toNat, h.part.isLt⟩

/-- The command drains a tile into view 2. -/
def mxHasOut (b : MxBody) (h : Header) : Bool := !b.p.hold && !fuseNoTile h.fuse

/-- View 2 as an output; with OUTMODE = 1 it is a source too (R173). -/
def mxOut (b : MxBody) (h : Header) : List Use :=
  if mxHasOut b h then [{ Use.output 2 b.v2 with src := b.p.outmode }] else []

/-- The views of a matrix command, chain views last (R160, R162, R210, R246). P and Q of MM_OS have K rows. -/
def mxUses (c : Cmd) (sf : Vector W64 64) : List Use :=
  (match c.op with
    | .mmOs b =>
      [{ Use.source 0 b.v0 with rows := b.p.k.toNat },
       { Use.source 1 b.v1 with rows := b.p.k.toNat, versioned := c.h.vtag }] ++ mxOut b c.h
    | .mmSt b =>
      Use.source 0 b.v0 :: (if b.p.sload then [{ Use.source 1 b.v1 with versioned := c.h.vtag }] else []) ++ mxOut b c.h
    | .mmEw b => (if b.p.opnd = 0#2 then [] else [{ Use.source 0 b.v0 with versioned := c.h.vtag }]) ++ mxOut b c.h
    | .mmDrain b => mxOut b c.h
    | _ => []) ++ chainUses c.h.fuse sf

/-- The plane extent a command touches (R162). -/
def mxExtent (op : Op) : Nat × Nat :=
  match op with
  | .mmSt b => if stIs b.p then (b.p.n.toNat, b.p.m.toNat) else (b.p.m.toNat, b.p.n.toNat)
  | .mmOs b | .mmEw b | .mmDrain b => (b.p.m.toNat, b.p.n.toNat)
  | _ => (0, 0)

/-- The command has an extent: M and N are both non-zero (R175). -/
def mxNonEmpty (b : MxBody) : Bool := b.p.m != 0#12 && b.p.n != 0#12

/-- Twice the step time by resolved formats; none for a pair that R163 refuses. -/
def mxStep2 (c : Cmd) (vs : List (Option RView)) : Option Nat :=
  match c.op, viewAt vs 0, viewAt vs 1 with
  | .mmOs _, some a, some b => pairTime2 a.format b.format
  | .mmSt b, some a, _ => (Fmt.ofCode b.p.sfmt).bind fun f => pairTimeSt2 a.format f
  | .mmOs _, _, _ => none
  | .mmSt _, _, _ => none
  | _, _, _ => some 2

/-- Read port slots per cycle that the feeders need (R139, R140; log entry 13): a product's feeder bytes over a step of `c2`
half cycles, one slot for a view operand of MM_EW. -/
def mxReadNeed (c : Cmd) (g : Geom) (vs : List (Option RView)) (c2 : Nat) : Nat :=
  match c.op, viewAt vs 0, viewAt vs 1 with
  | .mmOs _, some a, some b =>
    (2 * (a.format.rowBytes g.rows + b.format.rowBytes g.cols) + 256 * c2 - 1) / (256 * c2)
  | .mmSt b, some a, _ => (2 * a.format.rowBytes (redLen g b.p) + 256 * c2 - 1) / (256 * c2)
  | .mmEw _, some _, _ => 1
  | _, _, _ => 0

/-- Twice c′ under a read grant (R140). -/
def slowed2 (c2 need g : Nat) : Nat := if g = 0 ∨ need ≤ g then c2 else c2 * ((need + g - 1) / g)

/-- Steps of a command: K, or M for each of T stationary tiles. -/
def mxSteps (c : Cmd) (g : Geom) : Nat :=
  match c.op with
  | .mmOs b => b.p.k.toNat
  | .mmSt b => b.p.m.toNat * tiles g b.p
  | _ => 0

/-- Formats as resolved at issue (R125, R146, R163, R164). -/
def mxFormatBad (c : Cmd) (b : MxBody) (vs : List (Option RView)) : Bool :=
  let fmt (k : Nat) : Option Fmt := (viewAt vs k).map RView.format
  let int8 : Bool := match c.op with
    | .mmOs _ => fmt 0 == some .i8 && fmt 1 == some .i8
    | .mmSt _ => fmt 0 == some .i8 && b.p.sfmt == 12#4
    | _ => true
  (mxStep2 c vs).isNone ||
  (match c.op with
    | .mmSt b => b.p.sload && (viewAt vs 1).map RView.fmt != some b.p.sfmt
    | .mmEw b => b.p.opnd != 0#2 && !(fmt 0 == some .f32 || fmt 0 == some .bf || fmt 0 == some .f40)
    | _ => false) ||
  (mxHasOut b c.h && match fmt 2 with | some f => !outFmtOk b.p.outmode int8 f | none => false)

/-- The plane extent or the stationary tile leaves the partition (R162). -/
def mxOutside (c : Cmd) (g : Geom) : Bool :=
  let e := mxExtent c.op
  g.rows < e.1 || g.cols < e.2 ||
  match c.op with
  | .mmSt b => if stRow b.p then g.rows < b.p.n.toNat else g.cols < b.p.n.toNat
  | _ => false

/-- A chain's checks at issue: the block and its shapes, then a bound QTILE output, then the formats of its views (R210,
R215, R231). -/
def chainFault (c : Cmd) (m n : Nat) (sf : Vector W64 64) (vs : List (Option RView)) : Option Code :=
  if c.h.fuse = 0#8 then none
  else
    let f := c.h.fuse.toNat
    firstFault [
      (chainBad f m n sf, Code.illegalCommand),
      ((List.range 6).any fun x => match viewAt vs (6 + x) with
        | some v => !chainFmtOk f x v.fmt
        | none => false, Code.badFormat),
      (f = 2 && (match viewAt vs 2 with | some v => v.bound | none => false), Code.illegalCommand)]

/-- The issue checks of a matrix command after the view checks, in the order of R165. -/
def mxIssueFault (s : State) (c : Cmd) (b : MxBody) (sf : Vector W64 64) (vs : List (Option RView)) : Option Code :=
  let n := mxArray c.h
  let p := mxPart c.h
  let mode := (s.array n).mode
  let g := geom mode p.1
  let c2 := (mxStep2 c vs).getD 2
  let e := mxExtent c.op
  orFault (firstFault [
    (partCount mode ≤ p.1, Code.badPartition),
    (mxFormatBad c b vs, Code.badFormat),
    (mxOutside c g, Code.illegalCommand),
    (2 * 65536 < mxSteps c g * slowed2 c2 (mxReadNeed c g vs c2) (s.grant (unitCode (.mx (s.physMx n) p)) false),
      Code.illegalCommand)])
    (chainFault c e.1 e.2 sf vs)

/-- A direction in which the command needs port slots has grant 0, so it does not issue (R140, R143, R174, R293), also where
its M, N or K leaves it nothing to read or write there (log entry 122). -/
def mxUngranted (s : State) (c : Cmd) (b : MxBody) (vs : List (Option RView)) : Bool :=
  let u := unitCode (.mx (s.physMx (mxArray c.h)) (mxPart c.h))
  let chain := (List.range 6).any fun x => (viewAt vs (6 + x)).isSome
  let reads := (match c.op with
      | .mmOs _ | .mmSt _ => true
      | .mmEw b => b.p.opnd != 0#2
      | _ => false) || chain || (mxHasOut b c.h && b.p.outmode)
  let writes := mxHasOut b c.h || !(fuseWrites c.h.fuse).isEmpty
  (reads && s.grant u false == 0) || (writes && s.grant u true == 0)

/-- A command that writes nothing and reads nothing: K = 0 from ZERO, accumulated onto its view (R175); also a fused one
(log entry 133). -/
def mxNoWrite (c : Cmd) (b : MxBody) : Bool :=
  match c.op with
  | .mmOs _ | .mmSt _ => b.p.k == 0#17 && !b.p.start && b.p.outmode && !b.p.hold
  | _ => false

/-- A matrix command that has an extent and drains its result at its end (R133). -/
def Issued.drains (i : Issued) : Bool :=
  match i.e.cmd.op.mx? with
  | some b => mxNonEmpty b && !b.p.hold
  | none => false

/-- The held state of a partition after a command that executes there (R134, R167, R221): the registers that its tiles, or its chain, load.
The states of planes follow its start (R133). -/
def Issued.regsAfter (i : Issued) (g : Geom) (k : Part) : Part :=
  let loaded := match i.e.cmd.op, viewAt i.views 1 with
    | .mmSt b, some v => if b.p.sload && b.p.k != 0#17 && mxNonEmpty b then
        (List.range (tiles g b.p)).foldl (fun k t => k.setReg (tileReg b.p t) (some (loadRecord i v))) k
      else k
    | _, _ => k
  match i.e.cmd.op.mx? with
  | some b => if i.drains && i.writesReg && !mxNoWrite i.e.cmd b then loaded.setReg i.rreg (some i.chainRecord) else loaded
  | none => k

/-- The held state of a partition as the commands that execute there leave it, to which a command that starts behind them comes (R133, R134,
R144). -/
def State.partAhead (s : State) (n p : Fin 4) : Part :=
  (s.iu.onUnit (.mx n p)).foldl (fun k x => x.2.regsAfter (geom (s.array n).mode p.1) k) ((s.array n).part p)

/-- The array after a command's steps or element-wise rows (R166, R167, R169, R170). -/
def mxStepped (s : State) (i : Issued) (b : MxBody) : Array_ :=
  let n := mxArray i.e.cmd.h
  let p := mxPart i.e.cmd.h
  let a := s.array n
  let g := geom a.mode p.1
  if i.stepped then a else
  match i.e.cmd.op, viewAt i.views 0, viewAt i.views 1 with
  | .mmOs _, some va, some vb => a.setPlane b.p.plane (osPlane s i b.p g (a.plane b.p.plane) va vb)
  | .mmSt _, some vv, v1 => stRun s i b.p n p vv v1
  | .mmEw _, v, _ => a.setPlane b.p.plane (ewPlane s i b.p g (a.plane b.p.plane) v)
  | _, _, _ => a

/-- The plane's state when a command ends (R133). -/
def mxEnd (b : MxBody) (h : Header) : PlaneState := if b.p.hold then .held (isBack h) else .empty

/-- Another command that executes on a partition names the same plane: it continues what this one leaves (R133). -/
def State.planeTaken (s : State) (i : Issued) (b : MxBody) : Bool :=
  (s.iu.onUnit (.mx (mxArray i.e.cmd.h) (mxPart i.e.cmd.h))).any fun x =>
    !(x.2.e.x.task == i.e.x.task && x.2.e.x.dpi == i.e.x.dpi) && (match x.2.e.cmd.op.mx? with
      | some c => mxNonEmpty c && c.p.plane == b.p.plane
      | none => false)

/-- What a matrix command does when it completes (R166 to R175, R211, R231, R232). -/
def mxRun (s : State) (i : Issued) (b : MxBody) : Run :=
  let h := i.e.cmd.h
  let n := mxArray h
  let p := mxPart h
  if !mxNonEmpty b then Run.none_ s
  else
    let a := mxStepped s i b
    let close (a : Array_) : Array_ :=
      if s.planeTaken i b then a else a.setPart p ((a.part p).setPlane b.p.plane (mxEnd b h))
    if b.p.hold || mxNoWrite i.e.cmd b then ⟨s.setArray n (close a), [], [], []⟩
    else
      let e := mxExtent i.e.cmd.op
      let v2 := viewAt i.views 2
      let d := drainOf h.fuse.toNat ⟨s, i, b.p, e.1, e.2, geom a.mode p.1, p, a, v2⟩
      let s1 := s.setArray n (close d.a)
      match v2 with
      | some v =>
        let w := writeRows s v b.p.cvt (v.q + d.pre) d.rows
        ⟨s1, w.1 ++ d.bytes, [⟨v, v.q + d.pre, w.2, d.empty⟩], exportBytes i v e.1 w.1 d.bytes⟩
      | none => ⟨s1, d.bytes, [], []⟩

/-- The uncorrectable words that the feeders of a matrix command read (R64; log entry 86). -/
def mxStepReads (s : State) (i : Issued) (b : MxBody) : List Nat :=
  if !mxNonEmpty b || mxNoWrite i.e.cmd b || i.stepped then []
  else s.badSources i ((mxUses i.e.cmd i.sf).filter fun u => u.pos < 2)

/-- The uncorrectable words that the drain of a matrix command reads: of the output view with OUTMODE = 1 those of its enabled elements
(R173), no word of an X5 that it does not read (R222), and every word of its other chain views (R64; log entry 86). -/
def mxDrainReads (s : State) (i : Issued) (b : MxBody) : List Nat :=
  if !mxNonEmpty b || mxNoWrite i.e.cmd b || s.spad.bad.isEmpty then []
  else
    let e := mxExtent i.e.cmd.op
    let tile := match viewAt i.views 2 with
      | some v =>
        if b.p.outmode then elemWords v ((extent e.1 e.2).filter fun q => enabled i.masks b.p q.1 q.2) else []
      | none => []
    s.badSources i ((mxUses i.e.cmd i.sf).filter fun u => 2 < u.pos && !(u.pos == 11 && i.skipsX5)) ++ s.spad.bad.filter tile.contains

/-- The uncorrectable words that a matrix command still reads: none when it reads nothing (R64, R175). -/
def mxBadReads (s : State) (i : Issued) (b : MxBody) : List Nat := mxStepReads s i b ++ mxDrainReads s i b

end Sys2Proof.Machine
end

