-- ==== Sys2Proof/Machine/Replay.lean ====
section
/-! DEFINITION. The replay log (R59, R359): reading its records, appending to it, and the records of samples and drops. -/

namespace Sys2Proof.Machine

/-- LOG and LOG_LEN of the job (R356). -/
def Job.logAddr (j : Job) : W64 := fld j.desc (8 * 0x60) 64
def Job.logLen (j : Job) : Nat := (fld j.desc (8 * 0x68) 64 : W64).toNat

/-- The job keeps or reads a replay log. -/
def Job.logs (j : Job) : Bool := j.logAddr != 0#64

/-- The job runs in replay mode (R59). -/
def Job.replays (j : Job) : Bool := bit j.desc 16

/-- A record of the log: its offset, header fields and padded length with the header (R359). -/
structure LogRec where
  pos  : Nat
  kind : Nat
  task : Nat
  aux  : Nat
  len  : Nat
  key  : W64
  deriving DecidableEq, Repr

/-- Bytes of a record, payload padded to a multiple of 16. -/
def LogRec.size (r : LogRec) : Nat := 16 + (r.len + 15) / 16 * 16

/-- The record at an offset of a log image. -/
def logRecAt (img : Bytes) (pos : Nat) : LogRec :=
  ⟨pos, imgNat img pos 1, imgNat img (pos + 1) 1 % 4, imgNat img (pos + 2) 1, imgNat img (pos + 4) 2,
   BitVec.ofNat 64 (imgNat img (pos + 8) 8)⟩

/-- The records from an offset on, up to LOG_LEN or the first header of KIND 0 or reserved (R359). -/
def logRecsFrom (img : Bytes) (len : Nat) : Nat → Nat → List LogRec
  | 0, _ => []
  | fuel + 1, pos =>
    let r := logRecAt img pos
    if len < pos + 16 || r.kind = 0 || 6 < r.kind || len < pos + r.size then []
    else r :: logRecsFrom img len fuel (pos + r.size)

/-- The records of the job's log. Each has a byte other than zero, so the listed bytes bound their number. -/
def Job.logRecs (j : Job) : List LogRec := logRecsFrom j.log j.logLen (j.log.length + 1) 0

/-- The header of a record (R359). -/
def logHeader (kind task aux len : Nat) (key : W64) : List Byte :=
  leBytes kind 1 ++ leBytes task 1 ++ leBytes aux 1 ++ [0] ++ leBytes len 2 ++ [0, 0] ++ leBytes key.toNat 8

/-- A record fits before LOG_LEN. -/
def Job.logRoom (j : Job) (payload : Nat) : Bool := j.logPos + 16 + (payload + 15) / 16 * 16 ≤ j.logLen

/-- Append a record; `false` says that it does not fit. A job without a log records nothing (R359). -/
def Job.append (j : Job) (kind task aux : Nat) (key : W64) (payload : List Byte) : Job × Bool :=
  if !j.logs then (j, true)
  else if !j.logRoom payload.length then (j, false)
  else
    let bs := logHeader kind task aux payload.length key ++ payload
    ({ j with
        log := bs.zipIdx.foldl (fun (m : Store 8) p => Store.set m (j.logPos + p.2) p.1) j.log,
        logPos := j.logPos + 16 + (payload.length + 15) / 16 * 16 }, true)

/-- Find a record and note how far the log has been read (R360, LOG_BYTES). -/
def Job.lookup (j : Job) (p : LogRec → Bool) : Option (LogRec × Job) :=
  (j.logRecs.find? p).map fun r => (r, { j with logFar := max j.logFar (r.pos + r.size) })

/-- The logged sample of a task at a DPI (R265). -/
def Job.loggedSample (j : Job) (t : Fin 4) (dpi : W64) : Option (Bool × Job) :=
  (j.lookup fun r => r.kind == 2 && r.task == t.1 && r.key == dpi).map fun q => (q.1.aux != 0, q.2)

/-- The command logged as injected at a DPI of a task (R345). -/
def Job.loggedInject (j : Job) (t : Fin 4) (dpi : W64) : Option (CmdWord × Job) :=
  (j.lookup fun r => r.kind == 5 && r.task == t.1 && r.key == dpi).map fun q =>
    (BitVec.ofNat 512 (imgNat j.log (q.1.pos + 16) 64), q.2)

/-- KEY of an MDROP record (R359). -/
def mdropKey (group : BitVec 12) (chip : BitVec 20) (core : BitVec 3) (seq : BitVec 16) : W64 :=
  group.setWidth 64 ||| (chip.setWidth 64 <<< 12) ||| (core.setWidth 64 <<< 32) ||| (seq.setWidth 64 <<< 35)

end Sys2Proof.Machine
end

