-- ==== Sys2Proof/Machine/Stream.lean ====
section
/-! DEFINITION. Stream transfers and transposes: the far pattern (R76 to R80, R84, R86, R311), routes (R305, R316, R317),
multicast groups (R297), the checks at issue (R79, R479), the slots a calendar must grant (R81, R82, R293, R318), admission,
copying, and TRANSPOSE (R87 to R89). -/

namespace Sys2Proof.Machine

/-! ### The far pattern (R77) -/

/-- DETAIL of a REMOTE_REFUSED: chip and core of the responder at a global address, and the cause (R308, R394). -/
def refusedBy (a : W64) (cause : BitVec 8) : W64 := peerDetail (chipOf a) (BitVec.ofNat 3 (kindOf a - 1)) cause

/-- OFFSET of a global address (R304). -/
def offsetOf (a : W64) : Nat := (fld a 0 40).toNat

/-- The global address of an offset in the chip and kind of another address. -/
def globalAt (a : W64) (off : Nat) : W64 := (a &&& ~~~(0xFFFFFFFFFF#64)) ||| BitVec.ofNat 64 (off % 2 ^ 40)

/-- The global address of this core's scratchpad. -/
def State.ownBase (s : State) : W64 :=
  (s.id.chip.setWidth 64 <<< 44) ||| (BitVec.ofNat 64 (1 + s.id.core.toNat) <<< 40)

/-- An element of a transfer: its position on the dense local side and its far byte offset; `hi` says a 4-bit element lies in
bits [7:4] of that byte. -/
structure Elem where
  pos : Nat
  far : Nat
  hi : Bool
  deriving DecidableEq, Repr

/-- The five indices of every element in order, outermost first (R77). -/
def indexList (cs : List Nat) : List (List Nat) :=
  cs.foldr (fun c acc => (List.range c).flatMap fun i => acc.map fun xs => i :: xs) [[]]

/-- The elements of a transfer in ascending order (R77, R86). The lists run from dimension 4 to dimension 0. -/
def streamElems (b : StreamBody) : List Elem :=
  let n0 := b.count0.toNat
  let n1 := b.count1.toNat
  if b.total = 0 then []
  else (indexList b.counts.reverse).zipIdx.map fun q =>
    let i0 := q.1.getD 4 0
    let i1 := q.1.getD 3 0
    let off := (q.1.zip b.strides.reverse).foldl (fun (a : Int) p => a + p.1 * p.2) (offsetOf b.far : Int)
    let rep := if n0 * n1 = 0 then 0 else q.2 / (n0 * n1)
    { pos := if b.trans then rep * (n0 * n1) + i0 * n1 + i1 else q.2,
      far := off.toNat + (if b.ebits = 4 then i0 / 2 else 0),
      hi := b.ebits = 4 && i0 % 2 == 1 }

/-- Far bytes of an element. -/
def elemFar (b : StreamBody) (e : Elem) : List Nat := (List.range b.ebytes).map (e.far + ·)

/-- The windows that the elements touch in order, counted once per visit, each with its lowest and highest byte (R84). -/
def windowVisits (b : StreamBody) (es : List Elem) : List (Nat × Nat × Nat) :=
  (es.foldl (fun (acc : List (Nat × Nat × Nat)) e =>
    let w := e.far / 256
    let last := e.far + b.ebytes - 1
    match acc with
    | (v, lo, hi) :: rest => if v = w then (v, min lo e.far, max hi last) :: rest else (w, e.far, last) :: acc
    | [] => [(w, e.far, last)]) []).reverse

/-- The windows in which bytes at ascending or descending places travel, counted once per visit, each with its lowest and highest
byte (R84). -/
def byteVisits (l : List Nat) : List (Nat × Nat) :=
  ((l.foldl (fun (acc : List (Nat × Nat × Nat)) a =>
    match acc with
    | (w, lo, hi) :: rest => if a / 256 = w then (w, min lo a, max hi a) :: rest else (a / 256, a, a) :: acc
    | [] => [(a / 256, a, a)]) []).reverse).map fun w => (w.2.1, w.2.2 - w.2.1 + 1)

/-- Runs of consecutive values inside one window (R311) from an ascending list: start and length. -/
def splitRuns : List Nat → List (Nat × Nat)
  | [] => []
  | a :: rest =>
    match splitRuns rest with
    | (c, n) :: more => if c = a + 1 && a % 256 != 255 then (a, n + 1) :: more else (a, 1) :: (c, n) :: more
    | [] => [(a, 1)]

/-- The runs of a transfer in ascending order (R311). -/
def farRuns (b : StreamBody) (es : List Elem) : List (Nat × Nat) :=
  splitRuns ((es.flatMap (elemFar b)).foldl (fun (m : Store 1) a => Store.set m a 1) [] |>.map Prod.fst)

/-! ### Copying -/

/-- Bits of an element from a byte reader. -/
def nibble (x : Byte) (hi : Bool) : Byte := if hi then x >>> 4 else x &&& 0xF

/-- Replace one nibble of a byte. -/
def setNibble (x v : Byte) (hi : Bool) : Byte := if hi then (x &&& 0xF) ||| (v <<< 4) else (x &&& 0xF0) ||| (v &&& 0xF)

/-- Local writes of a load: the far bytes that `rd` gives. `base` is the local address of element 0. -/
def loadBytes (s : State) (b : StreamBody) (base : Nat) (es : List Elem) (rd : Nat → Option Byte) : Bytes :=
  if b.ebits = 4 then
    es.foldl (fun (acc : Bytes) e =>
      match rd e.far with
      | none => acc
      | some x =>
        let a := base + e.pos / 2
        let old := match acc.reverse.find? fun p => p.1 == a with | some p => p.2 | none => s.byte a
        acc ++ [(a, setNibble old (nibble x e.hi) (e.pos % 2 == 1))]) []
  else
    es.flatMap fun e => (List.range b.ebytes).filterMap fun k =>
      (rd (e.far + k)).map fun x => (base + b.ebytes * e.pos + k, x)

/-- The byte a store writes at each far offset, in ascending order of the element; a later entry prevails (R77). -/
def storeBytes (s : State) (b : StreamBody) (base : Nat) (es : List Elem) : Bytes :=
  if b.ebits = 4 then
    es.foldl (fun (acc : Bytes) e =>
      let x := nibble (s.byte (base + e.pos / 2)) (e.pos % 2 == 1)
      if e.hi then
        (match acc.reverse with
          | p :: rest => ((p.1, setNibble p.2 x true) :: rest).reverse
          | [] => [(e.far, setNibble 0 x true)])
      else acc ++ [(e.far, x)]) []
  else es.flatMap fun e => placeBytes e.far (s.bytes (base + b.ebytes * e.pos) b.ebytes)

/-! ### Routes (R316, R317, R325) -/

/-- Fields of a unicast route entry. -/
def routeValid (e : BitVec 128) : Bool := bit e 0
def routeMcast (e : BitVec 128) : Bool := bit e 1

/-- Paths 1 and 2 are paths when their bits say so; path 0 always is. -/
def routeHas (e : BitVec 128) (k : Nat) : Bool := match k with | 0 => true | 1 => bit e 66 | 2 => bit e 67 | _ => false

/-- First egress port of a path, as 8 × core number + port number. -/
def routePort (e : BitVec 128) (k : Nat) : Nat := (fld e (48 + 6 * k) 6).toNat

/-- The lowest-index valid unicast entry that serves a chip (R317). -/
def State.routeFor (s : State) (chip : BitVec 20) : Option (Nat × BitVec 128) :=
  s.fa.route.find? fun p =>
    routeValid p.2 && !routeMcast p.2 && (fld p.2 8 20).toNat ≤ chip.toNat && chip.toNat ≤ (fld p.2 28 20).toNat

/-- SEL of an entry: 0 to 2, or 3 for DEAD; 0, the reset value of ROUTE_SEL, where the job selected nothing (R475). -/
def State.routeSel (s : State) (k : Nat) : BitVec 2 :=
  match s.fa.sel.find? fun p => p.1 == k with
  | some p => p.2
  | none => 0

/-- A port of the chip is live (R317): one of this core when its link is up, one of another core unless it has been announced
down. -/
def State.portLive (s : State) (p : Nat) : Bool :=
  if p / 8 = s.id.core.toNat then (match s.fp.toList[p % 8]? with | some x => x.up | none => false)
  else s.fa.portLive.getLsbD p

/-- The first path from `k` on that is a path with a live first port, else DEAD (R317, R325). -/
def State.pathFrom (s : State) (e : BitVec 128) (k : Nat) : BitVec 2 :=
  match (List.range 3).find? fun j => k ≤ j && routeHas e j && s.portLive (routePort e j) with
  | some j => BitVec.ofNat 2 j
  | none => 3

/-- The selection that a job start makes of an entry (R317); one that serves no chip keeps 0 (R475; log entry 80). -/
def State.routePick (s : State) (e : BitVec 128) : BitVec 2 :=
  if routeValid e && !routeMcast e then s.pathFrom e 0 else 0

/-! ### Multicast groups (R297) -/

/-- A group of the job: an entry never read is all zero. -/
def Job.group (j : Job) (g : BitVec 12) : McastGroup :=
  match j.mcast.find? fun p => p.1 == g.toNat with
  | some p => p.2
  | none => McastGroup.ofEntry 0

/-- Replace a group. -/
def Job.setGroup (j : Job) (g : BitVec 12) (m : McastGroup) : Job :=
  { j with mcast := (g.toNat, m) :: j.mcast.filter fun p => !(p.1 == g.toNat) }

def McastGroup.rxCores (m : McastGroup) : BitVec 8 := fld m.entry 0 8
def McastGroup.remote (m : McastGroup) : Bool := bit m.entry 8
def McastGroup.relEc (m : McastGroup) : BitVec 6 := fld m.entry 16 6
def McastGroup.rlateEc (m : McastGroup) : BitVec 6 := fld m.entry 24 6
def McastGroup.slateEc (m : McastGroup) : BitVec 6 := fld m.entry 32 6
def McastGroup.mroute (m : McastGroup) : BitVec 12 := fld m.entry 64 12
def McastGroup.rcount (m : McastGroup) : Nat := (fld m.entry 80 16).toNat

/-- Number of set bits. -/
def popcount {w : Nat} (x : BitVec w) : Nat := (List.range w).foldl (fun n i => if x.getLsbD i then n + 1 else n) 0

/-- Receivers that report (R298, R306). -/
def McastGroup.receivers (m : McastGroup) : Nat := popcount m.rxCores + if m.remote then m.rcount else 0

/-! ### Checks at issue (R79, R80, R297, R317, R479) -/

/-- The physical half a STREAM resolves its local side to (R68, R248). -/
def streamHalf (s : State) (e : Entry) (b : StreamBody) : Bool :=
  match e.ref with
  | some h => h.2
  | none => (s.region b.region).physical b.half

/-- Local address of element 0. -/
def streamBase (s : State) (e : Entry) (b : StreamBody) : Nat :=
  (s.region b.region).halfBase (streamHalf s e b) + 64 * b.offset.toNat

/-- Every far byte of a transfer in this core's own scratchpad. -/
def ownFarBytes (s : State) (b : StreamBody) : List Nat :=
  if s.isOwn b.far && !b.mcast then (streamElems b).flatMap (elemFar b) else []

/-- The view checks of a STREAM in the order of R479, the far side after the local side in each row. -/
def streamViewsFault (s : State) (e : Entry) (b : StreamBody) : Option Code :=
  let g := s.region b.region
  let half := streamHalf s e b
  let far := ownFarBytes s b
  let farIn (p : Region → Bool → Bool) : Bool := far.any fun a => match s.locate a with
    | some h => p (s.region h.1) h.2
    | none => false
  let some_ := b.total != 0
  firstFault [
    (!g.valid || g.size == 0#16, Code.badRegion),
    (b.half && !g.split, Code.badRegion),
    (some_ && (g.halfLen < 64 * b.offset.toNat + b.localBytes || far.any fun a => (s.locate a).isNone), Code.bounds),
    (some_ && ((b.dir && g.poisoned half) || (!b.dir && farIn fun r h => r.poisoned h)), Code.poisonedRead),
    (some_ && ((!b.dir && g.frozen) || (b.dir && farIn fun r _ => r.frozen)), Code.frozenWrite),
    (!b.dir && g.refs half != 0, Code.versionHeld)]

/-- BAD_DESCRIPTOR of a multicast, and BAD_ROUTE and LINK_DOWN (R297, R317). A zero count reaches no far side. -/
def streamRouteFault (s : State) (b : StreamBody) : Option Code :=
  let m := s.job.group b.group
  let none_ := b.total == 0
  if b.mcast then
    firstFault [
      (m.rxCores.getLsbD s.id.core.toNat || (m.rxCores == 0#8 && !m.remote), Code.badDescriptor),
      (!none_ && m.remote && (let e := s.fa.route.get m.mroute.toNat; !routeValid e || !routeMcast e), Code.badRoute)]
  else if none_ || chipOf b.far == s.id.chip then none
  else
    match s.routeFor (chipOf b.far) with
    | none => some Code.badRoute
    | some p => if s.routeSel p.1 = 3#2 then some Code.linkDown else none

/-! ### Slots of the calendar (R74, R83, R293, R318) -/

/-- The share that serves a far side (R83): the remote share for another chip, else the write or the read share. The host bridge of the
core's own chip has no row of its own and takes the shares of its chip's memory (log entry 89). -/
def State.shareTo (s : State) (far : W64) (store : Bool) : Nat :=
  if chipOf far != s.id.chip then 3 else if store then 2 else 1

/-- The share of a transfer (R74, R83). -/
def streamShare (s : State) (b : StreamBody) : Nat :=
  if (s.region b.region).background then 5
  else if b.mcast then 2 else s.shareTo b.far b.dir

/-- DEST of an on-chip far side (R288, R305). -/
def onChipDest (a : W64) : Nat := let k := kindOf a; if 1 ≤ k && k ≤ 8 then k - 1 else 8

/-- An applied schedule of a port gives an agent of this core an origin position (R314). -/
def State.originSlot (s : State) (port : Nat) (agent : Nat) : Bool :=
  match s.fp.toList[port]? with
  | none => false
  | some p => (List.range 60).any fun k =>
      let w : W64 := p.applied.sched.getD (k / 4) 0
      let e : BitVec 16 := fld w (16 * (k % 4)) 16
      fld e 0 2 == 1#2 && (fld e 2 3).toNat == s.id.core.toNat && (fld e 5 4).toNat == agent

/-- An agent has slots toward port `q` of the chip (R293, R318): origin positions there when it is a port of this core, else router
slots to the core that has it. -/
def State.portGranted (s : State) (agent : Nat) (inbound : Bool) (share q : Nat) : Bool :=
  if q / 8 == s.id.core.toNat then s.originSlot (q % 8) agent else s.cal.router.anySlot inbound agent share (q / 8)

/-- An agent has slots toward a far side in a share (R293, R318): on the chip router slots, beyond it those of the first egress port.
Its own scratchpad needs none. -/
def State.farGranted (s : State) (agent : Nat) (inbound : Bool) (share : Nat) (far : W64) : Bool :=
  if s.isOwn far then true
  else if chipOf far == s.id.chip then s.cal.router.anySlot inbound agent share (onChipDest far)
  else match s.routeFor (chipOf far) with
    | none => true
    | some p => s.portGranted agent inbound share (routePort p.2 (s.routeSel p.1).toNat)

/-- The ports onto which the origin replicates a multicast (R316, R317). -/
def State.mcastPorts (s : State) (m : McastGroup) : List Nat :=
  (List.range 64).filter fun k => bit (s.fa.route.get m.mroute.toNat) (16 + k)

/-- A multicast has slots toward its far sides (R293, R318): a router slot whose DEST is one of its receivers on the chip, and slots
toward every port of its route, in the remote share or, from a BACKGROUND region, in the background share (R74, R83). -/
def State.mcastGranted (s : State) (e share : Nat) (m : McastGroup) : Bool :=
  (m.rxCores == 0#8 || (List.range 8).any fun c => m.rxCores.getLsbD c && s.cal.router.anySlot false e share c) &&
  (!m.remote || (s.mcastPorts m).all fun q => s.portGranted e false (if share = 5 then 5 else 3) q)

/-- The transfer has the slots it needs (R293, R318): bank slots in its direction, and slots in its share toward its far side. -/
def streamGranted (s : State) (e : Fin 8) (b : StreamBody) : Bool :=
  s.cal.bank.anySlot (BitVec.ofNat 8 (1 + e.1)) (!b.dir) &&
  (if b.mcast then s.mcastGranted e.1 (streamShare s b) (s.job.group b.group)
    else s.farGranted e.1 (!b.dir) (streamShare s b) b.far)

/-! ### Admission (R81, R82, R85) -/

/-- Slot index of an engine's slot. -/
def slotIdx (e : Fin 8) (k : Fin 4) : Fin 32 := ⟨4 * e.1 + k.1, by omega⟩

/-- A slot of a stream engine. -/
def State.slot (s : State) (e : Fin 8) (k : Fin 4) : Slot := s.se.slots[(slotIdx e k).1]'((slotIdx e k).2)

/-- Replace a slot. -/
def State.setSlot (s : State) (e : Fin 8) (k : Fin 4) (x : Slot) : State :=
  s.withSe { s.se with slots := s.se.slots.set (slotIdx e k).1 x (slotIdx e k).2 }

/-- The local side of a STREAM as it resolves at issue: its half and the address of element 0 (R68). -/
def streamView (s : State) (e : Entry) (b : StreamBody) : RView :=
  { region := b.region, halfB := streamHalf s e b, addr := streamBase s e b, start := b.offset.toNat, rows := 0, cols := 0,
    stride := 0, fmt := 0, q := 0, bound := false, tensor := 0 }

/-- The half and the base address of an issued STREAM. -/
def Issued.localHalf (i : Issued) : Ref := match viewAt i.views 0 with | some v => (v.region, v.halfB) | none => (0, false)
def Issued.localBase (i : Issued) : Nat := match viewAt i.views 0 with | some v => v.addr | none => 0

/-- Runs or windows of a transfer in the order in which it sends them: first byte and length (R84, R311). -/
def streamUnits (s : State) (b : StreamBody) : List (Nat × Nat) :=
  let es := streamElems b
  if chipOf b.far != s.id.chip then farRuns b es else (windowVisits b es).map fun w => (w.2.1, w.2.2 - w.2.1 + 1)

/-- The core as the sender of packets for one of its agents. -/
def State.sender (s : State) (agent : Nat) : Sender := ⟨s.id.chip, s.id.core, agent⟩

/-- The bytes that a store writes, by global address, as its scratchpad holds them. -/
def farImage (s : State) (i : Issued) (b : StreamBody) : Bytes :=
  (storeBytes s b i.localBase (streamElems b)).map fun p => ((globalAt b.far p.1).toNat, p.2)

/-- First egress port of a route entry's path. -/
def State.egressPort (s : State) (r : Nat) (path : BitVec 2) : Nat := routePort (s.fa.route.get r) path.toNat

/-- Send runs or windows of a transfer (R85, R305, R311): packets on the path of its route entry, or on the chip the bytes `bs` of a store
and the requests of a load. -/
def State.sendRuns (s : State) (e : Fin 8) (i : Issued) (b : StreamBody) (bs : Bytes) (route : Option Nat) (path : BitVec 2)
    (us : List (Nat × Nat)) : State :=
  match route with
  | some r => s.sendPackets (s.egressPort r path) e.1 i.e.x.task i.e.x.dpi
      (runPackets (s.sender e.1) (if b.dir then opWrite else opReadReq) bs (us.map fun u => (globalAt b.far u.1, u.2)))
  | none =>
    if us.isEmpty then s
    else if b.dir then
      s.emit (.memWrite (bs.filter fun p => us.any fun u => u.1 ≤ p.1 % 2 ^ 40 && p.1 % 2 ^ 40 < u.1 + u.2))
    else us.foldl (fun s u => s.emit (.memRead (globalAt b.far u.1) u.2)) s

/-- Send a notify of an agent: a packet on the path of its route entry, or a message on the chip (R261, R310). -/
def State.sendNotify (s : State) (agent : Nat) (x : Ctx) (route : Option Nat) (path : BitVec 2) (far : W64) (ec : BitVec 6)
    (inc : BitVec 8) : State :=
  match route with
  | some r => s.sendPackets (s.egressPort r path) agent x.task x.dpi [notifyPacket (s.sender agent) far ec inc]
  | none => s.emit (.notify far ec inc)

/-- A multicast transfer of number `seq` to receivers of its group on the chip (R298, R306). -/
def mcastMsg (b : StreamBody) (bs : Bytes) (dests : BitVec 8) (seq : BitVec 16) : Msg :=
  .mcast dests b.group seq b.far bs (if b.notify then some (b.notifyEc, b.notifyInc) else none)

/-- The packets of a multicast for other chips (R306, R311; log entry 105). -/
def mcastPackets (s : State) (e : Fin 8) (b : StreamBody) (bs : Bytes) : List (List FabUnit) :=
  runPackets (s.sender e.1) opMcast bs
      ((farRuns b (streamElems b)).map fun u => (globalAt b.far u.1, u.2)) ++
    if b.notify then [notifyPacket (s.sender e.1) b.far b.notifyEc b.notifyInc] else []

/-- Send a multicast transfer (R298, R306, R317): to the receivers on the chip, and onto every port of its route. -/
def State.sendMcast (s : State) (e : Fin 8) (i : Issued) (b : StreamBody) (bs : Bytes) (seq : BitVec 16) : State :=
  let m := s.job.group b.group
  let s1 := if m.rxCores == 0#8 then s else s.emit (mcastMsg b bs m.rxCores seq)
  if m.remote then
    (s.mcastPorts m).foldl (fun s1 q => s1.sendPackets q e.1 i.e.x.task i.e.x.dpi (mcastPackets s e b bs)) s1
  else s1

/-- A receiver's log records its drop of the next transfer of this core to a group, as its notices tell (R299; log entry 48). -/
def State.dropsNext (s : State) (g : BitVec 12) (r : BitVec 20 × BitVec 3) : Bool :=
  let m := s.job.group g
  m.drops.contains (r.1, r.2, mdropKey g s.id.chip s.id.core m.sent)

/-- Note that a transfer to a group is admitted: SEQ counts it (R297). It uses up the notices of the receivers that take it (R299); a
zero-count one reaches none. -/
def State.countSent (s : State) (g : BitVec 12) (reaches : Bool) : State :=
  let m := s.job.group g
  s.withJob (s.job.setGroup g { m with
    sent := m.sent + 1, notices := if reaches then m.notices.filter (s.dropsNext g) else m.notices })

/-- Count an admitted transfer. -/
def State.countAdmitted (s : State) : State := s.withSe { s.se with next := s.se.next + 1 }

/-- Admit a transfer into an idle slot: its requests or data leave (R81, R298, R306, R317). A multicast waits for a report
from every receiver. -/
def State.enterSlot (s : State) (e : Fin 8) (k : Fin 4) (i : Issued) (b : StreamBody) : State :=
  let half := i.localHalf.2
  let back := if (s.region b.region).background then some s.tick10 else none
  let sh := (s.slot e k).shadow
  if b.mcast then
    let m := s.job.group b.group
    let n := if b.total = 0 then 0 else m.receivers
    let bs := farImage s i b
    let t : Transfer := ⟨i, half, false, 0, n, 0, 0, none, 0, false, false, back, [], s.se.next, bs, m.sent, []⟩
    let s1 := ((s.setSlot e k ⟨some t, sh⟩).countAdmitted).countSent b.group (b.total != 0)
    if b.total = 0 then s1
    else s1.sendMcast e i b bs m.sent
  else
    let route := if b.total = 0 || chipOf b.far == s.id.chip then none else (s.routeFor (chipOf b.far)).map fun p => p.1
    let path := match route with | some r => s.routeSel r | none => 0
    let us := if b.total = 0 || s.isOwn b.far then [] else streamUnits s b
    let bs := if b.dir && !us.isEmpty then farImage s i b else []
    let t : Transfer := ⟨i, half, false, us.length, 0, 0, 0, route, path, false, false, back, [], s.se.next, bs, 0, []⟩
    (s.setSlot e k ⟨some t, sh⟩).countAdmitted.sendRuns e i b bs route path us

/-! ### TRANSPOSE (R87, R88) -/

/-- The views of a TRANSPOSE: never bound to the Almanac. -/
def transposeUses (c : Cmd) (b : TransposeBody) : List Use :=
  [{ Use.source 0 b.v0 with versioned := c.h.vtag, binds := false }, { Use.output 1 b.v1 with binds := false }]

/-- Two views share a byte. -/
def viewsOverlap (a b : RView) : Bool :=
  a.spans.any fun x => b.spans.any fun y => x.1 < y.1 + y.2 && y.1 < x.1 + x.2

/-- Source and destination overlap (R87). -/
def transposeFault (vs : List (Option RView)) : Option Code :=
  match viewAt vs 0, viewAt vs 1 with
  | some a, some b => if viewsOverlap a b then some Code.illegalCommand else none
  | _, _ => none

/-- The transpose unit of a queue. -/
def tuIndex (h : Header) : Fin 4 := ⟨(h.queue.toNat - 18) % 4, Nat.mod_lt _ (by decide)⟩

/-- A bank direction that a TRANSPOSE with an extent needs has grant 0 (R87, R293). -/
def transposeUngranted (s : State) (n : Fin 4) (b : TransposeBody) : Bool :=
  b.v0.rows != 0#16 && b.v0.cols != 0#16 &&
    (s.grant (unitCode (.tu n)) false == 0 || s.grant (unitCode (.tu n)) true == 0)

/-- Copy view 0 into view 1 transposed (R87). -/
def transposeRun (s : State) (i : Issued) : Run :=
  match viewAt i.views 0, viewAt i.views 1 with
  | some a, some b =>
    let n := a.format.bits / 8
    ⟨s, (extent a.rows a.cols).flatMap fun q =>
      placeBytes (b.addr + q.2 * b.stride + n * q.1) (s.bytes (a.addr + q.1 * a.stride + n * q.2) n), [], []⟩
  | _, _ => Run.none_ s

/-- Take or free a transpose unit (R89). -/
def State.setTu (s : State) (n : Fin 4) (h : Option (Fin 4 × W64)) : State := s.withTu ⟨s.tu.holder.set n.1 h n.2⟩

/-- A transpose unit is free. -/
def State.tuFree (s : State) (n : Fin 4) : Bool := (s.tu.holder[n.1]).isNone

/-- The transpose unit that a STREAM names. -/
def streamTu (b : StreamBody) : Fin 4 := ⟨b.tu.toNat, b.tu.isLt⟩

end Sys2Proof.Machine
end

