-- ==== Sys2Proof/Machine/View.lean ====
section
/-! DEFINITION. What each setup register reads as (R8, R22, R23, R371, R390, R396, R412, R426, R458, R461 to R478). No command
of the table reads one but CC_MDATA_READ; telemetry (R467) and the TAP (R435) carry some of these values. -/

namespace Sys2Proof.Machine

/-- Fields at bit positions, joined into one register. -/
def regFields (fs : List (Nat × Nat)) : W64 := fs.foldl (fun v p => v ||| BitVec.ofNat 64 (p.2 <<< p.1)) 0

/-- A bit as a number. -/
def bit01 (b : Bool) : Nat := if b then 1 else 0

/-- CAPABILITY (R22). -/
def State.capability (s : State) : W64 :=
  let b := s.id.build
  regFields [(0, b.vxGroups), (8, b.arrays), (16, b.spadMib), (24, b.ports), (28, bit01 b.crypto), (32, 8), (36, 4), (40, 32),
    (48, 2)]

/-- CORE_ID (R461). -/
def State.coreId (s : State) : W64 :=
  regFields [(0, s.id.chip.toNat), (20, s.id.core.toNat), (23, s.id.mfr.toNat), (34, s.id.memNom.toNat),
    (48, s.id.hbNom.toNat)]

/-- The core is in test hold (R436): phase 1 has ended with the latch set. -/
def State.inTestHold (s : State) : Bool := s.powered && !s.bring.held && s.bring.zeroOk && s.bring.testHold

/-- BRINGUP_REPORT (R426). -/
def State.report (s : State) : W64 :=
  let b := s.bring
  regFields [(0, b.phase.toNat), (4, b.cause.toNat), (8, b.unit.toNat), (16, b.loc.toNat), (48, bit01 b.katSkipped),
    (49, bit01 b.unlocked), (50, bit01 s.inTestHold)]

/-- CORE_STATUS (R462). -/
def State.coreStatus (s : State) : W64 :=
  regFields [(0, 1), (1, bit01 (s.job.st != .idle)), (2, s.job.ring.1), (5, bit01 s.job.preempt), (6, bit01 s.job.degraded),
    (8, bit01 s.su.werr), (9, s.su.wreason.toNat)]

/-- REMAP_STATUS (R462): the remap of the running or last job, and the identity for a job that holds none, one that is still checked or that
was refused among them. -/
def State.remapStatus (s : State) : W64 :=
  let s := if s.job.degraded then s else s.withJob { s.job with remap := identityCodes, vxOnCu := false }
  regFields (((List.range 4).map fun n => (2 * n, s.phys (2 * n) / 2 % 4)) ++ [(8, bit01 s.job.vxOnCu)] ++
    ((List.range 8).map fun n => (3 * n + 32, (s.phys (10 + n) - 10) % 8)) ++
    (List.range 4).map fun n => (2 * n + 56, (s.phys (18 + n) - 18) % 4))

/-- A group's STATUS register (R371). -/
def groupStatus (err : Bool) (reason : BitVec 3) : W64 := regFields [(0, bit01 err), (1, reason.toNat)]

/-- EQ_STATE (R390). -/
def State.eqState (s : State) : W64 :=
  let e := s.eq
  regFields [(0, (e.pw.getLastD 0 + e.ballast / 10) % 4096), (12, e.sp / 10 % 4096), (24, e.ballast / 40 % 256), (32, e.throttle % 16),
    (36, e.stretch % 16), (40, bit01 e.fc), (41, bit01 (e.sth != 0)), (42, bit01 (e.spw != 0)),
    (43, bit01 !e.clamps.isEmpty), (44, e.temps.foldl max 0 % 4096)]

/-- BG_STATE (R412). -/
def State.bgState (s : State) : W64 :=
  regFields (s.bg.level.toList.zipIdx.map fun p => (2 * p.2, p.1.toNat))

/-- ERRLOG_STATE (R396). -/
def State.errlogState (s : State) : W64 :=
  regFields [(0, s.err.log.length), (16, s.err.lostMinor.toNat), (32, s.err.lostMajor.toNat)]

/-- The 32 bytes of a log entry (R394). -/
def LogEntry.toBits (e : LogEntry) : BitVec 256 :=
  packFields 256 [(0, e.code.toNat + e.cls.toNat * 4096 + e.task.toNat * 16384), (2, e.count), (4, e.unit.toNat),
    (5, e.sub.toNat), (8, e.loc.toNat), (0x10, e.time.toNat), (0x18, e.dpi.toNat)]

/-- ERRLOG_HEADn (R396). -/
def State.errlogHead (s : State) (n : Nat) : W64 :=
  match s.err.log with
  | e :: _ => fld e.toBits (64 * n) 64
  | [] => 0

/-- ERRLOG_SEQ (R469). -/
def State.errlogSeq (s : State) : W64 := (match s.err.log with | e :: _ => e.num | [] => s.err.seq).setWidth 64

/-- ASSAY_STATE (R468). -/
def State.assayState (s : State) : W64 := regFields [(0, s.alm.tileCount % 2 ^ 32), (32, s.alm.tiles.length)]

/-- A calendar's CAL_ID and SCHED_ID as CAL_DEFAULT and CAL_STANDBY show them (R471). -/
def calIds (c : Option Calendar) : W64 :=
  match c with
  | some c => regFields [(0, c.bank.calId.toNat), (32, match c.router with | some r => r.schedId.toNat | none => 0)]
  | none => 0

/-- The STANDBY image, its parts empty where there is none. -/
def Cal.standbyParts (c : Cal) : Calendar := c.standbyImg.getD ⟨none, BankPart.empty⟩

/-- The calendars as CAL_SCHED and CAL_STANDBY show them: a Solstice swap changes both in the cycle in which its later part takes
effect, so a part that has swapped ahead of the other still shows as it stood before. A detour that took the router in between shows at once
in CAL_SCHED alone (R471). -/
def Cal.shown (c : Cal) : Cal :=
  let i := c.standbyParts
  if (c.routerSwaps + c.bankSwaps) % 2 = 0 then c
  else if c.bankSwaps < c.routerSwaps then { c with bank := i.bank, standbyImg := some { i with bank := c.bank } }
  else match i.router, c.ahead with
    | some r, some q => { c with router := if c.router == q then r else c.router, standbyImg := some { i with router := some q } }
    | _, _ => c

/-- CAL_SCHED (R471). -/
def State.calSched (s : State) : W64 :=
  let r := s.cal.shown.router
  regFields [(0, r.schedId.toNat), (32, r.hmax.toNat), (40, r.detourFor.toNat),
    (48, match s.cal.standby with | .invalid => 0 | .loading => 1 | .valid => 2)]

/-- KEY_STATE (R472). An absent port holds no key (R3). -/
def State.keyState (s : State) : W64 :=
  if !s.id.build.crypto then 0
  else regFields (s.fp.toList.zipIdx.flatMap fun p =>
    if s.id.mayHavePort p.2 then [(4 * p.2, p.1.keyFull.toNat), (32 + 2 * p.2, p.1.saltFull.toNat)] else [])

/-- PATTERN in force: a port that is set to one enters pattern mode at the next link period (R473, R474). -/
def Port.pattern (p : Port) : Nat := p.pat.toNat

/-- FP_LINK (R473). -/
def Port.link (p : Port) : W64 :=
  regFields [(0, bit01 p.up), (1, bit01 p.phyUp), (2, bit01 (p.pattern != 0)), (3, bit01 p.locked), (4, bit01 p.txEpoch),
    (5, bit01 p.absent)]

/-- ROUTE_SEL of the indexed entry: what the running job holds, or what a job start would select (R476). -/
def State.routeSelNow (s : State) : W64 :=
  let k := s.fa.idx.toNat
  let e := s.fa.route.get k
  regFields [(0, (if s.job.st == .running then s.routeSel k else s.routePick e).toNat)]

end Sys2Proof.Machine
end

