-- ==== Sys2Proof/Machine/Registers.lean ====
section
/-! DEFINITION. Writes of the setup window (R8 to R10, R353, R371, R372, R390, R396, R430, R431, R457 to R478): the commit checks
and effects of every group, and the outcome of a write to any offset. -/

namespace Sys2Proof.Machine

/-! ### Commits -/

/-- Take a write of a COMMIT register (R371): a RsvZ bit refuses it, 0 commits nothing, 1 commits. -/
def commitWrite (v : W64) (refuse : BitVec 3 → State) (none_ : State) (commit : State) : State :=
  if v >>> 1 != 0#64 then refuse 1 else if bit v 0 then commit else none_

/-- Write a STATUS register (R371): RsvZ bits from `rsv` on refuse it; bit 0 clears ERR. -/
def statusWrite (v : W64) (rsv : Nat) (refuse : BitVec 3 → State) (none_ : State) (clear : State) : State :=
  if v >>> rsv != 0#64 then refuse 1 else if bit v 0 then clear else none_

/-! ### Rings (R352, R372, R465) -/

/-- A RINGn commit: the refusal's REASON, if any. -/
def State.ringRefusal (s : State) (n : Fin 8) : Option (BitVec 3) :=
  let r := s.ringAt n
  let k := (fld r.baseS 40 4 : BitVec 4).toNat
  let moved := r.baseS != r.base || ringLog2 r.cfgS != ringLog2 r.cfg
  if r.baseS.toNat % 256 != 0 || !(k == 0 || k == 9) || ringLog2 r.cfgS == 0 || 12 < ringLog2 r.cfgS then some 2
  else if moved && (r.tail != r.head || (s.job.st != .idle && s.job.ring == n)) then some 3
  else none

/-- Commit a ring (R352, R372). -/
def State.ringCommit (s : State) (n : Fin 8) : State :=
  let r := s.ringAt n
  match s.ringRefusal n with
  | some k => s.refuseRing n k
  | none =>
    let moved := r.baseS != r.base || ringLog2 r.cfgS != ringLog2 r.cfg
    (s.updateRing n { r with
      base := r.baseS, cfg := r.cfgS, tail := if moved then 0 else r.tail, head := if moved then 0 else r.head,
      done := if moved then 0 else r.done }).ok

/-- RING_COMMIT. -/
def execRingCommit (ring : Fin 8) (value : W64) (s : State) : Host.Outcome State Fault Refusal :=
  .next (s.served fun s => commitWrite value (s.refuseRing ring) s.ok (s.ringCommit ring))

/-- A write at an offset of a ring's block (R465). -/
def State.ringWrite (s : State) (n : Fin 8) (o : Nat) (v : W64) : State :=
  let r := s.ringAt n
  match o with
  | 0x00 => (s.setRing n { r with baseS := v }).ok
  | 0x08 => if v >>> 7 != 0#64 then s.refuseRing n 1 else (s.setRing n { r with cfgS := v }).ok
  | 0x10 => commitWrite v (s.refuseRing n) s.ok (s.ringCommit n)
  | 0x18 => statusWrite v 4 (s.refuseRing n) s.ok (s.setRing n { r with err := false }).ok
  | 0x28 => s.ok
  | _ => s.respond 3 0

/-! ### Equinox (R372, R390) -/

/-- A band that the EQUINOX checks of R372 refuse. -/
def bandBad (b : W64) : Bool :=
  bandCeiling b < bandFloor b || bandFloor b < 40 || 240 < bandCeiling b || bandRamp b == 0 || 150 < bandBallast b

/-- Refuse a write to the EQUINOX group. -/
def State.refuseEq (s : State) (k : BitVec 3) : State := (s.withEq { s.eq with err := true, reason := k }).respond 2 0

/-- Commit the EQUINOX group (R372). It takes effect at the next tick (R375). -/
def State.eqCommit (s : State) : State :=
  if bandBad s.eq.stagedBand then s.refuseEq 2 else (s.withEq { s.eq with band := s.eq.stagedBand }).ok

/-- EQ_COMMIT (R390). -/
def execEqCommit (value : W64) (s : State) : Host.Outcome State Fault Refusal :=
  .next (s.served fun s => commitWrite value s.refuseEq s.ok s.eqCommit)

/-- A write at an offset of the Equinox block (R390). -/
def State.eqWrite (s : State) (o : Nat) (v : W64) : State :=
  let trip := (fld v 40 8 : BitVec 8).toNat
  match o with
  | 0x00 =>
    if fld v 35 5 != 0#5 || v >>> 48 != 0#64 || trip < 100 || 108 < trip then s.refuseEq 1
    else (s.withEq { s.eq with stagedBand := v }).ok
  | 0x08 => commitWrite v s.refuseEq s.ok s.eqCommit
  | 0x10 => statusWrite v 4 s.refuseEq s.ok (s.withEq { s.eq with err := false }).ok
  | 0x20 =>
    if v >>> 5 != 0#64 then s.refuseEq 1
    else (s.withEq { s.eq with events := s.eq.events &&& ~~~(v.setWidth 5) }).ok
  | 0x18 | 0x28 | 0x30 | 0x38 | 0x40 => s.ok
  | _ => s.respond 3 0

/-! ### Background (R412, R466) -/

/-- Refuse a write to the BACKGROUND group. -/
def State.refuseBg (s : State) (k : BitVec 3) : State := (s.withBg { s.bg with err := true, reason := k }).respond 2 0

/-- Commit the BACKGROUND group: a deadline of 0 refuses it (R372). The telemetry period counts from here (R467). -/
def State.bgCommit (s : State) : State :=
  let z (d : W64) : Bool := fld d 0 32 == 0#32 || fld d 32 32 == 0#32
  if z s.bg.d0S || z s.bg.d1S then s.refuseBg 2
  else (s.withBg { s.bg with
    d0 := s.bg.d0S, d1 := s.bg.d1S, telem := s.bg.telemS, teleDue := s.tick10 + 100 * s.bg.telemS.toNat }).ok

/-- BG_COMMIT (R466). -/
def execBgCommit (value : W64) (s : State) : Host.Outcome State Fault Refusal :=
  .next (s.served fun s => commitWrite value s.refuseBg s.ok s.bgCommit)

/-- A write at an offset of the background block (R466). -/
def State.bgWrite (s : State) (o : Nat) (v : W64) : State :=
  match o with
  | 0x00 => (s.withBg { s.bg with d0S := v }).ok
  | 0x08 => (s.withBg { s.bg with d1S := v }).ok
  | 0x10 => if v >>> 16 != 0#64 then s.refuseBg 1 else (s.withBg { s.bg with telemS := v }).ok
  | 0x18 => commitWrite v s.refuseBg s.ok s.bgCommit
  | 0x20 => statusWrite v 4 s.refuseBg s.ok (s.withBg { s.bg with err := false }).ok
  | 0x28 => s.ok
  | _ => s.respond 3 0

/-! ### Error log (R396) -/

/-- A write of ERRLOG_POP: POP removes the oldest entry, CLR_LOST clears the lost counts. -/
def State.errlogPop (s : State) (v : W64) : State :=
  if v >>> 2 != 0#64 then s.refuseImm 1
  else
    let e := s.err
    let e1 := if bit v 0 then (match e.log with
      | _ :: rest => { e with log := rest }
      | [] => e) else e
    (s.withErr (if bit v 1 then { e1 with lostMinor := 0, lostMajor := 0 } else e1)).ok

/-- ERRLOG_POP (R396). -/
def execErrlogPop (value : W64) (s : State) : Host.Outcome State Fault Refusal := .next (s.served fun s => s.errlogPop value)

/-- CLR_LOST (R396): the same register. -/
def execClrLost (value : W64) (s : State) : Host.Outcome State Fault Refusal := .next (s.served fun s => s.errlogPop value)

/-! ### Fabric ports (R314, R372, R430, R473, R474) -/

/-- Refuse a write to a port's group. -/
def State.refusePort (s : State) (p : Fin 8) (k : BitVec 3) : State :=
  (s.setPort p { s.port p with err := true, reason := k }).respond 2 0

/-- An entry's own rules (R314): a unit named on this core must be present. -/
def schedEntryOk (id : Ident) (e : BitVec 16) : Bool :=
  match (fld e 0 2 : BitVec 2).toNat with
  | 0 => e == 0#16
  | 1 =>
    let a := (fld e 5 4 : BitVec 4).toNat
    fld e 9 7 == 0#7 && a ≤ 13 && (fld e 2 3 != id.core || (if 8 ≤ a && a ≤ 11 then id.hasArray (a - 8)
      else if a = 12 then id.hasVx else true))
  | 2 =>
    let q := (fld e 2 6 : BitVec 6).toNat
    fld e 14 2 == 0#2 && (fld e 8 6 : BitVec 6).toNat < 60 && (q / 8 != id.core.toNat || id.hasPort (q % 8))
  | _ => false

/-- The lifecycle refuses link encryption and keys: in RETURN, and in PRODUCTION once unlocked (R430). -/
def State.keysRefused (s : State) : Bool := s.id.lifecycle == 4#3 || (s.id.lifecycle == 3#3 && s.bring.unlocked)

/-- The refusal's REASON of a FABRICp commit on a present port, if any (R474). -/
def State.portRefusal (s : State) (p : Fin 8) : Option (BitVec 3) :=
  let x := s.port p
  let c := x.staged.ctrl
  let a := x.applied.ctrl
  let enc := encTx c || encRx c
  if (List.range 60).any (fun e => !schedEntryOk s.id (schedEntry x.staged.sched e)) || (patternOf c != 0 && enc) ||
      (encTx c && !x.keyFull.getLsbD (if epochOf c then 1 else 0)) ||
      (encRx c && !x.keyFull.getLsbD 2 && !x.keyFull.getLsbD 3) then some 2
  else if x.up && (encTx c != encTx a || encRx c != encRx a || patternOf c != patternOf a) then some 3
  else if enc && s.keysRefused then some 4
  else none

/-- Commit a port's group (R474): leaving or entering pattern mode starts anew with training or an unlocked checker. A return to PATTERN 0
starts training at once; any other PATTERN waits for the next link period. -/
def State.portCommit (s : State) (p : Fin 8) : State :=
  if !s.id.hasPort p.1 then s.refusePort p 1
  else
    match s.portRefusal p with
    | some k => s.refusePort p k
    | none =>
      let x := s.port p
      let turn := patternOf x.staged.ctrl != patternOf x.applied.ctrl
      (s.setPort p { x with
        applied := x.staged, locked := x.locked && !turn, good := if turn then 0 else x.good, chk := if turn then 0 else x.chk,
        pat := if patternOf x.staged.ctrl = 0 then 0 else x.pat }).ok

/-- FP_COMMIT (R474). A commit register of an absent port refuses every write (R458). -/
def State.portCommitWrite (s : State) (p : Fin 8) (v : W64) : State :=
  if !s.id.hasPort p.1 then s.refusePort p 1 else commitWrite v (s.refusePort p) s.ok (s.portCommit p)

/-- FP_COMMIT. -/
def execFpCommit (port : Fin 8) (value : W64) (s : State) : Host.Outcome State Fault Refusal :=
  .next (s.served fun s => s.portCommitWrite port value)

/-- A write of FP_CLR (R473). -/
def State.portClear (s : State) (p : Fin 8) (v : W64) : State :=
  if v >>> 2 != 0#64 || !s.id.hasPort p.1 then s.refusePort p 1
  else
    let x := s.port p
    let x1 := if bit v 0 then { x with prbs := 0 } else x
    (s.setPort p (if bit v 1 then { x1 with resent := 0, rejected := 0 } else x1)).ok

/-- CLR_PRBS (R473). -/
def execClrPrbs (port : Fin 8) (value : W64) (s : State) : Host.Outcome State Fault Refusal :=
  .next (s.served fun s => s.portClear port value)

/-- CLR_REPLAY (R473): the same register. -/
def execClrReplay (port : Fin 8) (value : W64) (s : State) : Host.Outcome State Fault Refusal :=
  .next (s.served fun s => s.portClear port value)

/-- A write at an offset of a port's block (R473). -/
def State.portWrite (s : State) (p : Fin 8) (o : Nat) (v : W64) : State :=
  let x := s.port p
  match o with
  | 0x00 =>
    if v >>> 5 != 0#64 then s.refusePort p 1 else (s.setPort p { x with staged := { x.staged with ctrl := v } }).ok
  | 0x08 => s.portCommitWrite p v
  | 0x10 => statusWrite v 4 (s.refusePort p) s.ok (s.setPort p { x with err := false }).ok
  | 0x18 | 0x20 | 0x28 => s.ok
  | 0x30 => s.portClear p v
  | o =>
    if 0x100 ≤ o && o < 0x178 then
      (s.setPort p { x with staged := { x.staged with sched := x.staged.sched.set ((o - 0x100) / 8) v } }).ok
    else s.respond 3 0

/-! ### Route table (R316, R372, R475, R476) -/

/-- A first port that an entry names is not absent from this core. -/
def pathPortOk (id : Ident) (q : Nat) : Bool := q / 8 != id.core.toNat || id.hasPort (q % 8)

/-- A staged entry meets R316 and R372. -/
def routeEntryOk (id : Ident) (e : BitVec 128) : Bool :=
  fld e 2 6 == 0#6 &&
  (if routeMcast e then fld e 92 36 == 0#36 else fld e 104 24 == 0#24) &&
  (if routeMcast e then (List.range 8).all fun p => !bit e (16 + 8 * id.core.toNat + p) || id.hasPort p
   else (fld e 8 20 : BitVec 20) ≤ fld e 28 20 &&
     (List.range 3).all fun k => !routeHas e k || pathPortOk id (routePort e k))

/-- Indices of staged entries that break a check: ANY_BAD and FIRST_BAD (R475). -/
def State.badRoutes (s : State) : List Nat := (s.fa.staged.filter fun p => !routeEntryOk s.id p.2).map Prod.fst

/-- ROUTE_STATUS (R475). -/
def State.routeStatus (s : State) : W64 :=
  groupStatus s.fa.err s.fa.reason ||| regFields [(4, s.badRoutes.headD 0), (16, bit01 (!s.badRoutes.isEmpty))]

/-- Refuse a write to the ROUTE group. -/
def State.refuseRoute (s : State) (k : BitVec 3) : State := (s.withFa { s.fa with err := true, reason := k }).respond 2 0

/-- Commit the route table (R476). -/
def State.routeCommit (s : State) : State :=
  if !s.badRoutes.isEmpty then s.refuseRoute 2
  else if s.job.st != .idle then s.refuseRoute 3
  else (s.withFa { s.fa with route := s.fa.staged }).ok

/-- ROUTE_COMMIT (R476). -/
def execRouteCommit (value : W64) (s : State) : Host.Outcome State Fault Refusal :=
  .next (s.served fun s => commitWrite value s.refuseRoute s.ok s.routeCommit)

/-- Replace half of the staged entry at INDEX. -/
def State.stageRoute (s : State) (hi : Bool) (v : W64) : State :=
  let k := s.fa.idx.toNat
  let e := s.fa.staged.get k
  let e1 : BitVec 128 := if hi then v ++ (fld e 0 64 : BitVec 64) else (fld e 64 64 : BitVec 64) ++ v
  s.withFa { s.fa with staged := s.fa.staged.set k e1, idx := if hi then s.fa.idx + 1 else s.fa.idx }

/-- ROUTE_ENT_HI (R475): the upper half, and INDEX advances. -/
def execRouteEntHi (value : W64) (s : State) : Host.Outcome State Fault Refusal :=
  .next (s.served fun s => (s.stageRoute true value).ok)

/-- A write at an offset of the route window (R475). -/
def State.routeWrite (s : State) (o : Nat) (v : W64) : State :=
  match o with
  | 0x00 => if v >>> 12 != 0#64 then s.refuseRoute 1 else (s.withFa { s.fa with idx := v.setWidth 12 }).ok
  | 0x08 => (s.stageRoute false v).ok
  | 0x10 => (s.stageRoute true v).ok
  | 0x18 => commitWrite v s.refuseRoute s.ok s.routeCommit
  | 0x20 => statusWrite v 17 s.refuseRoute s.ok (s.withFa { s.fa with err := false }).ok
  | 0x28 => s.ok
  | _ => s.respond 3 0

/-! ### Observation multiplexer (R431, R477, R478) -/

/-- The lock of R431: in PRODUCTION until an unlock whose zeroise is verified (R430, R432); before any lifecycle state has been
delivered it holds as well (log entry 18). -/
def State.locked (s : State) : Bool :=
  !(s.id.lifecycle == 1#3 || s.id.lifecycle == 2#3 || s.id.lifecycle == 4#3) && !(s.bring.unlocked && s.bring.zeroOk)

/-- A selector of a word. -/
def obsSel (w : W64) (i : Nat) : BitVec 16 := fld w (16 * i) 16

/-- A selector whose RsvZ bit is clear and whose island is not reserved. -/
def obsSelOk (e : BitVec 16) : Bool := !bit e 3 && (fld e 0 3 : BitVec 3).toNat < 6

/-- Selector of output i in the staged words. -/
def State.obsStaged (s : State) (i : Nat) : BitVec 16 := obsSel (s.su.obsS.toList.getD (i / 4) 0) (i % 4)

/-- A staged selector names a signal (R478). -/
def State.obsNames (s : State) (i : Nat) : Bool :=
  let e := s.obsStaged i
  let isl (x : BitVec 16) : Nat := (fld x 0 3 : BitVec 3).toNat
  (fld e 4 12 : BitVec 12).toNat < s.su.obsCount.getD (isl e) 0 && isl e == isl (s.obsStaged (i / 8 * 8))

/-- Refuse a write to the OBSMUX group. -/
def State.refuseObs (s : State) (k : BitVec 3) : State :=
  (s.withSu { s.su with obsErr := true, obsReason := k }).respond 2 0

/-- Commit the OBSMUX group (R478). -/
def State.obsCommit (s : State) : State :=
  if (List.range 64).all fun i => s.obsNames i then (s.withSu { s.su with obs := s.su.obsS }).ok else s.refuseObs 2

/-- A write at an offset of the OBSMUX block (R431, R477). -/
def State.obsWrite (s : State) (o : Nat) (v : W64) : State :=
  if s.locked then s.respond 4 0
  else
    match o with
    | 0x80 => commitWrite v s.refuseObs s.ok s.obsCommit
    | 0x88 => statusWrite v 4 s.refuseObs s.ok (s.withSu { s.su with obsErr := false }).ok
    | 0x90 | 0x98 => s.ok
    | o =>
      if h : o / 8 < 16 then
        if (List.range 4).all fun i => obsSelOk (obsSel v i) then (s.withSu { s.su with obsS := s.su.obsS.set (o / 8) v h }).ok
        else s.refuseObs 1
      else s.respond 3 0

/-- OBS_COMMIT (R478). -/
def execObsCommit (value : W64) (s : State) : Host.Outcome State Fault Refusal :=
  .next (s.served fun s => s.obsWrite 0x80 value)

/-! ### Control core (R335, R347, R463, R464) -/

/-- The control core starts in its boot state (R347). -/
def State.ccBoot (s : State) : State :=
  s.withCc { s.cc with run := true, halted := false, restart := false, hart := Hart.boot, wdLimit := 0, wdStart := s.cycle }

/-- A write of CC_CTRL (R463). -/
def State.ccCtrl (s : State) (v : W64) : State :=
  if v >>> 1 != 0#64 then s.refuseImm 1
  else if bit v 0 == s.cc.run then s.ok
  else if !bit v 0 then (s.withCc { s.cc with run := false, restart := false }).ok
  else if s.cc.halted then s.ccBoot.ok
  else (s.withCc { s.cc with run := true, restart := true }).ok

/-- CC_CTRL (R463). -/
def execCcCtrl (value : W64) (s : State) : Host.Outcome State Fault Refusal := .next (s.served fun s => s.ccCtrl value)

/-- The control core halts at an instruction boundary: HALTED rises, and a restart written meanwhile starts it anew (R463). -/
def State.ccHalt (s : State) : State :=
  if s.cc.halted then s
  else if s.cc.restart then s.ccBoot
  else if s.cc.run then s
  else s.withCc { s.cc with halted := true }

/-- CC_HALT (R463). -/
def execCcHalt (s : State) : Host.Outcome State Fault Refusal := .next s.ccHalt

/-- Where CC_MADDR points: offset in IMEM (`false`) or DMEM (`true`) (R335). -/
def ccWord (a : Nat) : Option (Bool × Nat) :=
  if a < 0x20000 then some (false, a) else if 0x100000 ≤ a && a < 0x140000 then some (true, a - 0x100000) else none

/-- Advance CC_MADDR by 8 inside its field [20:3]. -/
def State.ccStep (s : State) : State := s.withCc { s.cc with maddr := (s.cc.maddr + 8) &&& 0x1FFFF8 }

/-- Check an access of CC_MDATA (R464): REASON 3 while the core runs, 2 outside the memories. -/
def State.ccAccess (s : State) : Except (BitVec 3) (Bool × Nat) :=
  if !s.cc.halted then .error 3
  else match ccWord s.cc.maddr.toNat with
    | some x => .ok x
    | none => .error 2

/-- A read of a word of IMEM or DMEM corrects a single-bit error, writes the word back and logs it (R336). `w` is the word's address over
8; the memories hold what a read of it returns. -/
def State.ccFix (s : State) (w : Nat) : State :=
  if s.cc.flips.contains w then
    (s.withCc { s.cc with flips := s.cc.flips.filter (· != w) }).note Code.eccCorrected 0x41 0 0 noDpi 0
  else s

/-- An upset of a word of IMEM or DMEM (R336; log entry 117). -/
def State.ccUpset (s : State) (w : Nat) (double : Bool) : State :=
  if (ccWord (8 * w)).isNone then s
  else if double then s.withCc { s.cc with badWords := w :: s.cc.badWords.filter (· != w), flips := s.cc.flips.filter (· != w) }
  else s.withCc { s.cc with flips := w :: s.cc.flips.filter (· != w) }

/-- Read the word at CC_MADDR (R336, R464). -/
def State.ccRead (s : State) : State :=
  match s.ccAccess with
  | .error k => s.refuseImm k
  | .ok (d, o) =>
    let w := s.cc.maddr.toNat / 8
    if s.cc.badWords.contains w then s.ccStep.refuseImm 2
    else (s.ccFix w).ccStep.respond 0 (BitVec.ofNat 64 (leNat ((List.range 8).map fun i => (if d then s.cc.dmem else s.cc.imem).get (o + i))))

/-- CC_MDATA_READ (R336, R464). -/
def execCcMdataRead (s : State) : Host.Outcome State Fault Refusal := .next (s.served State.ccRead)

/-- Write the word at CC_MADDR with new check bits (R464). -/
def State.ccWrite (s : State) (v : W64) : State :=
  match s.ccAccess with
  | .error k => s.refuseImm k
  | .ok (d, o) =>
    let put (m : Store 8) : Store 8 := (leBytes v.toNat 8).zipIdx.foldl (fun (m : Store 8) p => Store.set m (o + p.2) p.1) m
    let w := s.cc.maddr.toNat / 8
    let c := { s.cc with badWords := s.cc.badWords.filter (· != w), flips := s.cc.flips.filter (· != w) }
    (s.withCc (if d then { c with dmem := put c.dmem } else { c with imem := put c.imem })).ccStep.ok

/-- CC_MDATA_WRITE (R464). -/
def execCcMdataWrite (value : W64) (s : State) : Host.Outcome State Fault Refusal := .next (s.served fun s => s.ccWrite value)

/-! ### Any register -/

/-- A write of the control and status block (R462). -/
def State.ctrlWrite (s : State) (o : Nat) (v : W64) : State :=
  match o with
  | 0x00 =>
    if bit v 7 || v >>> 12 != 0#64 then s.refuseImm 1
    else (if bit v 8 then s.withSu { s.su with werr := false } else s).ok
  | 0x08 => if v >>> 1 != 0#64 then s.refuseImm 1 else (if bit v 0 then s.requestPreempt else s).ok
  | 0x10 | 0x18 | 0x28 => s.ok
  | 0x20 => s.ccCtrl v
  | 0x30 => if fld v 0 3 != 0#3 || v >>> 21 != 0#64 then s.refuseImm 1 else (s.withCc { s.cc with maddr := v }).ok
  | 0x38 => s.ccWrite v
  | _ => s.respond 3 0

/-- A doorbell after READY (R353, R465). -/
def State.doorbell (s : State) (n : Fin 8) (v : W64) : State :=
  let r := s.ringAt n
  let t : W32 := v.setWidth 32
  if v >>> 32 != 0#64 then s.refuseRing n 1
  else if !ringEn r.cfg then s.refuseRing n 3
  else if t = r.tail then s.ok
  else if 2 ^ ringLog2 r.cfg < (t - r.head).toNat || 2 ^ 31 ≤ (t - r.tail).toNat then s.refuseRing n 2
  else (s.updateRing n { r with tail := t }).ok

/-- DOORBELL (R353). -/
def execDoorbell (ring : Fin 8) (value : W64) (s : State) : Host.Outcome State Fault Refusal :=
  .next (s.served fun s => s.doorbell ring value)

/-- PREEMPT (R364, R462). -/
def execPreempt (value : W64) (s : State) : Host.Outcome State Fault Refusal := .next (s.served fun s => s.ctrlWrite 8 value)

/-- A write after READY at an offset of the window (R457, R458). -/
def State.writeRegister (s : State) (off : Nat) (v : W64) : State :=
  if off ≤ 0x20 then s.ok
  else if 0x100 ≤ off && off < 0x140 then s.ctrlWrite (off - 0x100) v
  else if 0x200 ≤ off && off < 0x400 then
    let n : Fin 8 := ⟨(off - 0x200) / 64 % 8, Nat.mod_lt _ (by decide)⟩
    if off % 64 = 0x20 then s.doorbell n v else s.ringWrite n (off % 64) v
  else if 0x400 ≤ off && off < 0x448 then s.eqWrite (off - 0x400) v
  else if 0x480 ≤ off && off < 0x4B0 then s.bgWrite (off - 0x480) v
  else if 0x500 ≤ off && off < 0x540 then (if off = 0x530 then s.errlogPop v else s.ok)
  else if off = 0x580 || (0x600 ≤ off && off < 0x628) || off = 0x680 || off = 0x688 then s.ok
  else if 0x1000 ≤ off && off < 0x2000 then
    s.portWrite ⟨(off - 0x1000) / 512 % 8, Nat.mod_lt _ (by decide)⟩ (off % 512) v
  else if 0x2000 ≤ off && off < 0x2030 then s.routeWrite (off - 0x2000) v
  else if 0x3000 ≤ off && off < 0x30A0 then s.obsWrite (off - 0x3000) v
  else s.respond 3 0

/-- REGISTER_WRITE (R9, R458). An access names a 64-bit word: the low three bits of the offset do not exist (R442). -/
def execRegisterWrite (offset : BitVec 16) (value : W64) (s : State) : Host.Outcome State Fault Refusal :=
  .next (s.served fun s => s.writeRegister (offset.toNat / 8 * 8) value)

end Sys2Proof.Machine
end

