-- ==== Sys2Proof/Machine/Messages.lean ====
section
/-! DEFINITION. Fabric messages (R306, R319, R320, R346): routing by the route table, and the control core's message
port. -/

namespace Sys2Proof.Machine

/-- Destination chip of a message. -/
def FabMsg.chip : FabMsg → BitVec 20
  | .barrier d _ _ => chipOf d.dest
  | .ctrl c _ => c

/-- A BARRIER message, which goes first in a control slot (R319). -/
def FabMsg.isBarrier : FabMsg → Bool
  | .barrier .. => true
  | .ctrl .. => false

/-- The selection of a route entry in force now: the job's, or what a job start would select (R317, R476). -/
def State.selNow (s : State) (k : Nat) (e : BitVec 128) : BitVec 2 :=
  if s.job.st == .running then s.routeSel k else s.routePick e

/-- Log a discarded message (R320). -/
def State.discardMsg (s : State) : State := s.note Code.msgDiscarded 0x43 0 0 noDpi 0

/-- Deliver or pass on a message at its destination chip (R320, R346): a BARRIER adds its increment to the counter of the core
that its kind names. One for a core of the chip that is absent, fenced or not ready, which the membership leaves out (R300), is
discarded (log entry 90); this core logs nothing of one for itself while it is fenced. -/
def State.deliverMsg (s : State) (m : FabMsg) : State :=
  match m with
  | .ctrl .. => s.emit (.toMgmt m)
  | .barrier d ec inc =>
    let k := kindOf d.dest
    if k = 1 + s.id.core.toNat then (if s.rep.coreFenced then s else s.addEc ec (inc.setWidth 16))
    else if 1 ≤ k ∧ k ≤ 8 ∧ s.sol.memb.getLsbD (k - 1) then s.emit (.routeMsg (k - 1) m)
    else s.discardMsg

/-- Route a message (R320): to this chip, to the control slot of its egress port here, or to the egress port's core. One that
no live path serves is discarded and logged. -/
def State.routeMsg (s : State) (m : FabMsg) : State :=
  if m.chip == s.id.chip then s.deliverMsg m
  else
    match s.routeFor m.chip with
    | none => s.discardMsg
    | some p =>
      let sel := s.selNow p.1 p.2
      if sel = 3#2 then s.discardMsg
      else
        let q := routePort p.2 sel.toNat
        if q / 8 = s.id.core.toNat then
          let n : Fin 8 := ⟨q % 8, Nat.mod_lt _ (by decide)⟩
          s.setPort n { s.port n with msgs := (s.port n).msgs ++ [m] }
        else s.emit (.routeMsg (q / 8) m)

/-- The fabric agent and inbound service work: READY has risen, and a fenced core has not withdrawn its admissions yet, which it does
once its admitted transfers have finished (R284, R398, R428). -/
def State.live (s : State) : Bool := s.bring.ready && !s.cal.withdrawn

/-- The core takes part in bring-up items and repairs: READY has risen and it is not fenced (R398, R428). -/
def State.works (s : State) : Bool := s.bring.ready && !s.rep.coreFenced

/-- A BARRIER message from the fabric (R320). -/
def execBarrierMessage (head : BarrierHead) (ec : BitVec 6) (inc : BitVec 8) (s : State) : Host.Outcome State Fault Refusal :=
  .next (if s.live then s.routeMsg (.barrier head ec inc) else s)

/-- A CTRL message of the management block, passed on without change (R306, R320). -/
def execCtrlMessage (payload : BitVec 128) (chip : BitVec 20) (s : State) : Host.Outcome State Fault Refusal :=
  .next (if s.live then s.routeMsg (.ctrl chip payload) else s)

/-! ### The message port (R346) -/

/-- A message leaves the message port for the fabric agent. -/
def State.passMessage (s : State) : State :=
  match s.cc.msgQ with
  | [] => s
  | m :: rest => if s.live then (s.withCc { s.cc with msgQ := rest }).routeMsg m else s

/-- Every waiting message leaves the message port. -/
def State.passMessages (s : State) : State := s.cc.msgQ.foldl (fun s _ => s.passMessage) s

/-- This core as the sender of a message; the control core has no agent code, and SRC_AGENT is 0 (log entry 128). -/
def State.messageSrc (s : State) : BitVec 27 := s.id.chip.setWidth 27 ||| (s.id.core.setWidth 27 <<< 20)

/-- Queue a message from MSG_DEST and MSG_ARG, or set LOST (R346). -/
def State.queueMessage (s : State) : State :=
  let c := s.cc
  let k := kindOf c.msgDest
  let inc : BitVec 8 := fld c.msgArg 8 8
  if 8 ≤ c.msgQ.length || k == 0 || 8 < k || offsetOf c.msgDest != 0 || inc == 0#8 then s.withCc { c with msgLost := true }
  else s.withCc { c with msgQ := c.msgQ ++ [.barrier ⟨c.msgDest, s.messageSrc⟩ (fld c.msgArg 0 6) inc] }

/-- A store to the message port that R335 lets through (R346). -/
def State.messageStore (s : State) (o : Nat) (v : W64) : State :=
  match o with
  | 0x00 => s.withCc { s.cc with msgDest := v }
  | 0x08 => s.withCc { s.cc with msgArg := v }
  | 0x10 => s.queueMessage
  | _ => if bit v 4 then s.withCc { s.cc with msgLost := false } else s

end Sys2Proof.Machine
end

