-- ==== Sys2Proof/Machine/Clock.lean ====
section
/-! DEFINITION. The passing of time (log entry 2). -/

namespace Sys2Proof.Machine

/-- Time passes up to cycle `c`, if it lies ahead (log entry 2); no command that an abort abandoned faults any more (R56), and
CSR writes of the scalar file have landed (R338). -/
def State.advanceTo (s : State) (c : Nat) : State :=
  if s.cycle < c then
    (s.landSf.withCycle c).withIu { s.landSf.iu with quiet := s.iu.quiet + (c - s.cycle), dropped := [], late := [] }
  else s

end Sys2Proof.Machine
end

