-- ==== Sys2Proof/Machine/Control.lean ====
section
/-! DEFINITION. CTL commands (R35 to R38, R48 to R51, R69 to R71, R265, R291, R300, R301, R303): for each its checks at
issue, when it issues, and its effect in the issue cycle. -/

namespace Sys2Proof.Machine

/-- SF bits [63:32] of a LOOP's count must be zero (R49). -/
def loopFault (s : State) (b : LoopBody) : Option Code :=
  if b.countSrc && (s.sf b.countSf) >>> 32 != 0#64 then some Code.illegalCommand else none

/-- The count that a LOOP latches (R49). -/
def loopCount (s : State) (b : LoopBody) : Nat :=
  if b.countSrc then ((s.sf b.countSf).setWidth 32).toNat else b.countImm.toNat

/-- The count that a LOOP has when it is evaluated now: 0 where its predicate skips it (R43, R48). -/
def countNow (s : State) (c : Cmd) (b : LoopBody) : Nat := if s.predicated c.h then loopCount s b else 0

/-- Leave every body whose end the fetch position has reached: replay it, or go on after it (R50). -/
def Task.wrap : Nat → Task → Task
  | 0, k => k
  | fuel + 1, k =>
    match k.loops.getLast? with
    | none => { k with buffer := [] }
    | some l =>
      if k.pos < l.start + l.len then k
      else if l.idx + 1 < l.count then
        { k with pos := l.start, loops := k.loops.dropLast ++ [{ l with idx := l.idx + 1 }] }
      else Task.wrap fuel { k with loops := k.loops.dropLast }

/-- Enter a body of `len` commands at the fetch position `n` times; a count of zero passes it (R50). -/
def Task.enter (k : Task) (len n : Nat) : Task :=
  if n = 0 then ({ k with pos := k.pos + len } : Task).wrap 5
  else { k with loops := k.loops ++ [⟨k.pos, len, n, 0⟩] }

/-- Keep a mark; those of DPIs below `low` have served (R368). -/
def Task.mark (k : Task) (low : W64) (m : Mark) : Task :=
  { k with marks := (k.marks.filter fun x => low ≤ x.dpi && x.dpi != m.dpi) ++ [m] }

/-- The fetch state after a command at DPI `d` has left fetch (R26, R48 to R50, R172, R193, R247). -/
def Task.passed (k : Task) (d : W64) (c : Cmd) : Task :=
  let k1 := { k with dpi := if k.dpi ≤ d then d + 1 else k.dpi, pos := k.pos + 1, aux := none }
  let held := { k1 with holds := k.holds ++ [d] }
  match c.op with
  | .loop b => if b.countSrc || c.h.pen then held else k1.enter b.bodyLen.toNat b.countImm.toNat
  | .regionSet _ | .regionSwap _ | .arrayMode _ => held.wrap 5
  | .vxAux b => { k1 with aux := some (d, b) }
  | .fin => { k1 with fetchEnded := true }
  | _ => k1.wrap 5

/-- A LOOP whose body would cross the end of the enclosing body, and a VX_AUX placed last in a body (R51, R193). -/
def placeFault (k : Task) (op : Op) : Option Code :=
  match k.loops.getLast?, op with
  | some l, .loop b => if l.start + l.len < k.pos + 1 + b.bodyLen.toNat then some Code.loopNest else none
  | some l, .vxAux _ => if l.start + l.len ≤ k.pos + 1 then some Code.illegalCommand else none
  | _, _ => none

/-- SET_EC (R36). -/
def setEcRun (s : State) (b : SetEcBody) : State := if b.mode then s.addEc b.ec b.value else s.setEc b.ec b.value

/-- ARRIVAL_EC of the job (R356). -/
def Job.arrivalEc (j : Job) : W64 := fld j.desc (8 * 0x48) 64

/-- The SET_PD is an arrival sample (R265). -/
def isSample (s : State) (b : SetPdBody) : Bool :=
  (b.src == 2#2 && s.job.arrivalEc.getLsbD b.ecIdx.toNat) || (b.src == 1#2 && b.sfIdx == 47#6 && b.sfBit == 63#6)

/-- The value a SET_PD finds (R37). -/
def setPdValue (s : State) (b : SetPdBody) : Bool :=
  match b.src.toNat with
  | 0 => b.imm
  | 1 => (s.sf b.sfIdx).getLsbD b.sfBit.toNat
  | _ => cmpHolds b.cmp (s.ec b.ecIdx) b.thr

/-- A sample that the log does not give, or for which the log has no room (R265, R359). -/
def setPdFault (s : State) (x : Ctx) (b : SetPdBody) : Option Code :=
  if !isSample s b then none
  else if s.job.replays then (if (s.job.loggedSample x.task x.dpi).isNone then some Code.replayDiverged else none)
  else if (s.job.append 2 x.task.1 0 x.dpi []).2 then none else some Code.replayLogFull

/-- A sample on a counter that the log gives as 1 waits until its comparison holds (R265). -/
def setPdReady (s : State) (x : Ctx) (b : SetPdBody) : Bool :=
  if isSample s b && s.job.replays && b.src == 2#2 then
    (match s.job.loggedSample x.task x.dpi with
      | some (true, _) => setPdValue s b
      | _ => true)
  else true

/-- SET_PD (R37, R265). -/
def setPdRun (s : State) (x : Ctx) (b : SetPdBody) : State :=
  if !isSample s b then s.setPd b.pd (setPdValue s b)
  else if s.job.replays then
    match s.job.loggedSample x.task x.dpi with
    | some (v, j) => (s.withJob j).setPd b.pd v
    | none => s
  else
    let v := setPdValue s b
    (s.withJob (s.job.append 2 x.task.1 (if v then 1 else 0) x.dpi []).1).setPd b.pd v

/-! ### BARRIER and CAL_LOAD -/

/-- SCHED_ID and DETOUR_FOR of STANDBY. -/
def Cal.standbySched (c : Cal) : W32 := match c.standbyImg.bind Calendar.router with | some r => r.schedId | none => 0
def Cal.standbyDetour (c : Cal) : BitVec 8 := match c.standbyImg.bind Calendar.router with | some r => r.detourFor | none => 0xFF

/-- A swap to a STANDBY that is not loaded, or that is not built for the detour in force (R301, R303), which DETOUR_FOR of the ACTIVE router
part names (log entry 142). -/
def barrierFault (s : State) (b : BarrierBody) : Option Code :=
  if !b.calSwap then none
  else if s.cal.standby = .invalid then some Code.badCalendar
  else if s.cal.standby = .valid && s.cal.router.detourFor != 0xFF#8 && s.cal.standbyDetour != s.cal.router.detourFor then
    some Code.badCalendar
  else none

/-- A swap of calendars pends, from the issue of its BARRIER until both parts have swapped: nothing that needs admission issues
(R303). -/
def State.swapPends (s : State) : Bool := s.cal.routerSwaps != 0 || s.cal.bankSwaps != 0 || s.sol.out.any Arrived.calSwap

/-- Whether any stream slot or shadow of the core is occupied. -/
def State.anySlot (s : State) : Bool := s.se.slots.toList.any fun k => k.run.isSome || k.shadow.isSome

/-- When a BARRIER issues (R301). -/
def barrierReady (s : State) (b : BarrierBody) : Bool :=
  s.sol.out.length < 2 &&
  (!b.calSwap || (s.cal.standby = .valid && s.iu.staged.isEmpty && s.iu.exec.isEmpty && !s.anySlot))

/-- Present an arrival on SY_OUT (R301, R446). -/
def State.present (s : State) (a : Arrived) : State := s.emit (.arrival a.members a.calSwap a.parity a.sched)

/-- BARRIER (R300, R301): the arrival is presented at once, or when the older one is released. -/
def barrierRun (s : State) (x : Ctx) (b : BarrierBody) : State :=
  let a : Arrived := ⟨x.task, x.dpi, b.members, b.relEc, b.relInc, b.calSwap, s.sol.sent % 2 == 1,
    s.cal.standbySched.setWidth 16⟩
  let s1 := s.withSol { s.sol with out := s.sol.out ++ [a], sent := s.sol.sent + 1 }
  if s.sol.out.isEmpty then s1.present a else s1

/-- Bytes of a calendar image (R286). -/
def calImageLen : Nat := 262208

/-- The source of a CAL_LOAD under R31 (R291). -/
def calLoadFault (s : State) (b : CalLoadBody) : Option Code :=
  let g := s.region b.region
  firstFault [
    (!g.valid || g.size == 0#16, Code.badRegion),
    (b.half && !g.split, Code.badRegion),
    (g.halfLen < 64 * b.offset.toNat + calImageLen, Code.bounds),
    (g.poisoned (g.physical b.half), Code.poisonedRead)]

/-- When a CAL_LOAD issues (R291). -/
def calLoadReady (s : State) : Bool := s.cal.standby != .loading && !s.swapPends

/-- CAL_LOAD (R291): STANDBY becomes LOADING. -/
def calLoadRun (s : State) (x : Ctx) (b : CalLoadBody) : State :=
  let g := s.region b.region
  let half := g.physical b.half
  s.withCal { s.cal with
    standby := .loading, standbyImg := none,
    loading := some ⟨x.task, x.dpi, g.halfBase half + 64 * b.offset.toNat, b.region, half, false, s.tick10⟩ }

/-! ### Region commands -/

/-- A transfer, in its slot or shadow. -/
def Slot.issued (k : Slot) : List Issued := (k.run.map Transfer.i).toList ++ k.shadow.toList

/-- The STREAM of an issued transfer. -/
def Issued.streamBody (i : Issued) : Option StreamBody := match i.e.cmd.op with | .stream b => some b | _ => none

/-- Whether the far side of a transfer lies in a region of this core. -/
def farIn (s : State) (b : StreamBody) (r : BitVec 6) : Bool :=
  (ownFarBytes s b).any fun a => (s.region r).contains a

/-- Whether an issued command exports to rows that lie in a region of this core (R231). -/
def exportsInto (s : State) (r : BitVec 6) (i : Issued) : Bool :=
  (s.ownPeerSpans i).any fun q => (s.halvesIn q).any fun h => h.1 == r

/-- An issued, uncompleted command names or touches a region (R69). -/
def regionBusy (s : State) (r : BitVec 6) : Bool :=
  ((s.iu.staged ++ s.iu.exec).any fun u =>
    exportsInto s r u.2 || u.2.views.any fun v => match v with | some v => v.region == r | none => false) ||
  s.se.slots.toList.any fun k => k.issued.any fun i => match i.streamBody with
    | some b => b.region == r || farIn s b r
    | none => false

/-- An issued, uncompleted command writes a region (R71). -/
def regionWritten (s : State) (r : BitVec 6) : Bool :=
  ((s.iu.staged ++ s.iu.exec).any fun u => (s.outHalves u.2).any fun h => h.1 == r) ||
  s.se.slots.toList.any fun k => k.issued.any fun i => match i.streamBody with
    | some b => if b.dir then farIn s b r else b.region == r
    | none => false

/-- REGION_SET refuses an entry that is not well formed (R67, R69). -/
def regionSetFault (s : State) (b : RegionSetBody) : Option Code :=
  if regionOk (s.id.build.spadMib * 256) s.rg.tab b.region b.entry then none else some Code.badRegion

/-- When a REGION_SET issues (R69). -/
def regionSetReady (s : State) (b : RegionSetBody) : Bool :=
  !regionBusy s b.region && (s.region b.region).refsA == 0 && (s.region b.region).refsB == 0

/-- REGION_SET (R69). -/
def regionSetRun (s : State) (b : RegionSetBody) : State := s.setRegion b.region (Region.ofBits b.entry)

/-- REGION_SWAP on an unsplit or frozen region (R70). -/
def regionSwapFault (s : State) (r : BitVec 6) : Option Code :=
  firstFault [(!(s.region r).split, Code.badRegion), ((s.region r).frozen, Code.frozenWrite)]

/-- REGION_SWAP (R70): pending, and in effect at once when no reference is held on the retiring half. -/
def regionSwapRun (s : State) (r : BitVec 6) : State :=
  s.setRegion r ({ s.region r with swapPending := true } : Region).swapEffect

/-- When a REGION_ATTR issues (R71). -/
def regionAttrReady (s : State) (b : RegionAttrBody) : Bool :=
  !(b.setFrozen || b.setBg || b.clrBg) || !regionWritten s b.region

/-- REGION_ATTR (R71). -/
def regionAttrRun (s : State) (b : RegionAttrBody) : State :=
  let g := s.region b.region
  let g1 := { g with
    frozen := (g.frozen || b.setFrozen) && !b.clrFrozen, background := (g.background || b.setBg) && !b.clrBg }
  let g2 := if b.clrPoisonCur then g1.setPoison (g.physical false) false else g1
  s.setRegion b.region (if b.clrPoisonNext then g2.setPoison (g.physical true) false else g2)

/-! ### END -/

/-- Every other queue of the task is empty and nothing of it runs (R38). -/
def endReady (s : State) (x : Ctx) : Bool :=
  !(s.iu.queued.any fun e => e.x.task = x.task ∧ e.cmd.h.q ≠ 22) &&
  !((s.iu.staged ++ s.iu.exec).any fun u => u.2.e.x.task = x.task) &&
  !(s.se.slots.toList.any fun k => k.issued.any fun i => i.e.x.task = x.task)

/-- END (R38): the task ends DONE and its fetch stops. -/
def endRun (s : State) (x : Ctx) : State :=
  s.setTask x.task { s.task x.task with st := .ended 0, fetchEnded := true }

end Sys2Proof.Machine
end

