-- ==== Sys2Proof/Machine/Vector.lean ====
section
/-! DEFINITION. Vector commands of VX and Crucible: the views they use (R189, R194, R195), the duration limit and the grants
(R203, R293, R410), masks, gather and scatter (R197 to R199), maps and reductions (R191, R200 to R202), SOFTMAX and its
derivative (R229, R230), and the image loads (R195, R408, R409). -/

namespace Sys2Proof.Machine

/-! ### The parts of a command -/

/-- The VX_AUX of a pair (R193). -/
def Entry.auxBody (e : Entry) : Option AuxBody := e.aux.map fun a => a.2

/-- IDXMODE of a pair, 0 without a VX_AUX. -/
def idxMode (aux : Option AuxBody) : Nat := match aux with | some a => a.idxMode.toNat | none => 0

/-- The command is an ADD scatter (R199). -/
def scatAdd (aux : Option AuxBody) : Bool := match aux with | some a => 3 ≤ a.idxMode.toNat && a.scatOp | none => false

/-- The views of a VX_AUX: C, mask and index at positions 3 to 5 (R194). -/
def auxUses (aux : Option AuxBody) : List Use :=
  match aux with
  | none => []
  | some a =>
    (if a.v0.isZero then [] else [Use.source 3 a.v0]) ++ (if a.v1.isZero then [] else [Use.source 4 a.v1]) ++
    (if a.v2.isZero then [] else [Use.source 5 a.v2])

/-- The views of a vector command (R189, R193, R195, R246). -/
def vxUses (c : Cmd) (aux : Option AuxBody) (sf : Vector W64 64) : List Use :=
  match c.op with
  | .vxMap b | .cuMap b =>
    (if b.v0.isZero then [] else [{ Use.source 0 b.v0 with versioned := c.h.vtag }]) ++
    (if b.v1.isZero then [] else [Use.source 1 b.v1]) ++
    [{ Use.output 2 b.v2 with src := scatAdd aux }] ++ auxUses aux ++ chainUses c.h.fuse sf
  | .vxReduce b | .cuReduce b =>
    (if b.v0.isZero then [] else [{ Use.source 0 b.v0 with versioned := c.h.vtag }]) ++
    (if b.v1.isZero then [] else [Use.source 1 b.v1]) ++
    (if b.v2.isZero then [] else [Use.output 2 b.v2]) ++ auxUses aux
  | .vxProg b | .vxTable b | .cuProg b | .cuTable b => [Use.source 0 b.v0]
  | _ => []

/-- The domain of an issued computing command (R191, R199). -/
def Issued.domain (i : Issued) (b : VxBody) (red : Bool) : Nat × Nat := vxDomain b red i.e.auxBody

/-! ### Duration and grants (R84, R203, R204, R293, R410) -/

/-- 256-byte windows of one row of a view (R84). -/
def rowWindows (v : RView) (r : Nat) : Nat :=
  let a := v.addr + r * v.stride
  if v.rowBytes = 0 then 0 else (a + v.rowBytes - 1) / 256 - a / 256 + 1

/-- Windows of the rows of a view in order, counted once per visit: rows that follow one another in one window take it once (R84,
R203). -/
def viewWindows (v : RView) : Nat :=
  ((List.range v.rows).foldl (fun (acc : Nat × Option Nat) r =>
    if v.rowBytes = 0 then acc
    else
      let a := v.addr + r * v.stride
      (acc.1 + rowWindows v r - (if acc.2 == some (a / 256) then 1 else 0), some ((a + v.rowBytes - 1) / 256))) (0, none)).1

/-- The most windows a row of a view takes: what a row named by an index takes at most, and is counted as (log
entry 124). -/
def maxWindows (v : RView) : Nat := (List.range v.rows).foldl (fun n r => max n (rowWindows v r)) 0

/-- Windows of an input in an `m`-row domain: a view of one row is read again for every domain row (R203), and one
of one column is not (log entry 139). -/
def inputWindows (m : Nat) (v : Option RView) : Nat :=
  match v with
  | some v => if v.rows = 1 then m * viewWindows v else viewWindows v
  | none => 0

/-- Windows read and written by a computing command (R203, R229, R230). -/
def vxWindows (c : Cmd) (aux : Option AuxBody) (m n : Nat) (vs : List (Option RView)) : Nat × Nat :=
  let w (k : Nat) : Nat := match viewAt vs k with | some v => viewWindows v | none => 0
  let mx (k : Nat) : Nat := match viewAt vs k with | some v => maxWindows v | none => 0
  let im := idxMode aux
  let a := if im = 1 then m * mx 0 else if im = 2 then m * n else inputWindows m (viewAt vs 0)
  let b := inputWindows m (viewAt vs 1)
  let times := match c.h.fuse.toNat with | 0x20 => (3, 1) | 0x21 => (2, 2) | _ => (1, 1)
  let out := if im = 4 then m * n else if im = 3 then m * mx 2 else w 2
  (times.1 * a + times.2 * b + inputWindows m (viewAt vs 3) + w 4 + w 5 + (if scatAdd aux then out else 0), out + w 11)

/-- Lanes of the unit (R203, R410). -/
def State.lanes (s : State) (cu : Bool) : Nat := if cu then 64 else 256 * s.id.laneGroups

/-- Tc of R203. -/
def passes (lanes m n : Nat) : Nat :=
  if n = 0 ∨ lanes = 0 then 0 else if lanes < n then m * ((n + lanes - 1) / lanes) else (m + lanes / n - 1) / (lanes / n)

/-- D′ of R203 under the grants; a direction that streams nothing drops out. -/
def vxDuration (tc rd wr gr gw : Nat) : Nat :=
  let part (w g : Nat) : Nat := if w = 0 ∨ g = 0 then 0 else (w + g - 1) / g
  max tc (max (part rd gr) (part wr gw))

/-- The command runs on Crucible: a CU queue, or a VX fenced in a degraded job (R53, R409). -/
def State.onCu (s : State) (c : Cmd) : Bool := c.h.queue == 9#5 || s.job.vxOnCu

/-- The unit that runs a vector command. -/
def State.vxUnit (s : State) (c : Cmd) : UnitId := if s.onCu c then .cu else .vx

/-- A direction that the command streams has grant 0, so it does not issue (R293). -/
def vxUngranted (s : State) (c : Cmd) (aux : Option AuxBody) (vs : List (Option RView)) : Bool :=
  let u := unitCode (s.vxUnit c)
  let rw : Nat × Nat := match c.op.vx? with
    | some (b, red) =>
      let d := vxDomain b red aux
      if d.1 = 0 ∨ d.2 = 0 then (0, if red then (match viewAt vs 2 with | some v => viewWindows v | none => 0) else 0)
      else vxWindows c aux d.1 d.2 vs
    | none => ((match viewAt vs 0 with | some v => viewWindows v | none => 0), 0)
  (rw.1 != 0 && s.grant u false == 0) || (rw.2 != 0 && s.grant u true == 0)

/-- The issue checks of a vector command after the view checks (R125, R196, R199, R203, R210). -/
def vxIssueFault (s : State) (c : Cmd) (aux : Option AuxBody) (sf : Vector W64 64) (vs : List (Option RView)) :
    Option Code :=
  match c.op.vx? with
  | none => none
  | some (b, red) =>
    let d := vxDomain b red aux
    let fmt (k : Nat) : Option Fmt := (viewAt vs k).map RView.format
    let blocked (k : Nat) : Bool := match fmt k with | some f => f.blocked | none => false
    let isAny (k : Nat) (fs : List Fmt) : Bool := match fmt k with | some f => fs.contains f | none => true
    let im := idxMode aux
    let w := vxWindows c aux d.1 d.2 vs
    let u := unitCode (s.vxUnit c)
    let dur := vxDuration (passes (s.lanes (s.onCu c)) d.1 d.2) w.1 w.2 (s.grant u false) (s.grant u true)
    orFault (firstFault [
      ((red && !isAny 2 [.f32, .f40, .bf]) || (im = 4 && blocked 2) || (im = 2 && blocked 0) ||
        (scatAdd aux && !isAny 2 [.f32, .f40]), Code.badFormat),
      (d.1 != 0 && d.2 != 0 && 65536 < dur, Code.illegalCommand)])
      (chainFault c d.1 d.2 sf vs)

/-! ### Execution start (R196, R409) -/

/-- The slots and tables of the unit that runs a command. -/
def State.vecOf (s : State) (cu : Bool) : VecState := if cu then s.cu else s.vx

/-- A program slot. -/
def VecState.prog (v : VecState) (k : BitVec 5) : Option (BitVec 1024) := v.progs[k.toNat]'(k.isLt)

/-- A function table. -/
def VecState.table (v : VecState) (k : Nat) : Option FnTable := v.tables.toList.getD k none

/-- VX_PROGRAM and the kernel check of degraded running at execution start. A chain uses no program. -/
def vxStartFault (s : State) (i : Issued) : Option Code :=
  match i.e.cmd.op.vx? with
  | none => none
  | some (b, _) =>
    if i.e.cmd.h.fuse ≠ 0#8 then none
    else
      let cu := s.onCu i.e.cmd
      let v := s.vecOf cu
      match v.prog b.p.prog with
      | none => some Code.vxProgram
      | some p =>
        let has (k : Nat) : Bool := (viewAt i.views k).isSome
        firstFault [
          ((progTables p).any (fun t => (v.table t).isNone) ||
            [0, 1, 3].zipIdx.any (fun q => has q.1 != (progInputs p).getLsbD q.2), Code.vxProgram),
          (s.job.vxOnCu && progKernel p == 0, Code.fencedEngine)]

/-! ### Masks and inputs (R191, R197) -/

/-- A bit of the mask view: the element's under ELEM, its row's under ROW; 1 is active. -/
def vxActive (s : State) (i : Issued) (r j : Nat) : Bool :=
  match i.e.auxBody, viewAt i.views 4 with
  | some a, some v =>
    if a.maskMode = 1#2 then maskBit s (some v) r j
    else if a.maskMode = 2#2 then maskBit s (some v) 0 r
    else true
  | _, _ => true

/-- The element of an input view that serves domain position [r, j]: one row or one column repeats. -/
def RView.repeated (v : RView) (r j : Nat) : Nat × Nat := (if v.rows = 1 then 0 else r, if v.cols = 1 then 0 else j)

/-- The index of an element (R199). -/
def vxIndex (s : State) (i : Issued) (r j : Nat) : Int :=
  match viewAt i.views 5 with
  | some v => s.elemInt v r (if v.cols = 1 then 0 else j)
  | none => 0

/-- The target view's rows, or its elements, that an index may name (R199). -/
def indexLimit (i : Issued) : Nat :=
  let im := idxMode i.e.auxBody
  match viewAt i.views (if im = 1 ∨ im = 2 then 0 else 2) with
  | some v => if im = 1 ∨ im = 3 then v.rows else v.rows * v.cols
  | none => 0

/-- The element of view A that serves [r, j]: by index in the gather modes (R199). -/
def vxSourceA (s : State) (i : Issued) (v : RView) (r j : Nat) : Nat × Nat :=
  match idxMode i.e.auxBody with
  | 1 => ((vxIndex s i r 0).toNat, j)
  | 2 => ((vxIndex s i r j).toNat / v.cols, (vxIndex s i r j).toNat % v.cols)
  | _ => v.repeated r j

/-- Input `k` (0 A, 1 B, 3 C) at [r, j], converted once to FP32 (R191). -/
def vxInput (s : State) (i : Issued) (k r j : Nat) : Num :=
  match viewAt i.views k with
  | some v =>
    let q := if k = 0 then vxSourceA s i v r j else v.repeated r j
    rne32 (s.elem v q.1 q.2)
  | none => .zero

/-- S0 to S7 (R192). -/
def vxScalars (i : Issued) (b : VxBody) : List W32 :=
  (List.range 8).map fun k => (i.sfAt (b.p.sfbase.toNat + k)).setWidth 32

/-- The RAND key of a command (R241). -/
def vxKey (s : State) (i : Issued) (b : VxBody) : CgKey :=
  let out := !b.v2.isZero
  let t : W32 := fld (i.sfAt b.p.sfbase.toNat) 32 32
  let tensor := if t ≠ 0#32 then t else match viewAt i.views (if out then 2 else 0) with | some v => v.tensor | none => 0
  let start : W32 := fld (i.sfAt (b.p.sfbase.toNat + 1)) 32 32
  ⟨s.job.seed, s.job.step, tensor, 3, start + BitVec.ofNat 32 (loopShift i.e (if out then b.v2 else b.v0))⟩

/-- The element result of the command's program (R177). -/
def vxElem (s : State) (i : Issued) (b : VxBody) (p : BitVec 1024) (r j : Nat) : Num :=
  let v := s.vecOf (s.onCu i.e.cmd)
  runProg p v.table ⟨vxInput s i 0 r j, vxInput s i 1 r j, vxInput s i 3 r j, vxScalars i b, r, j, vxKey s i b⟩

/-! ### Faults of the data (R64, R198, R199) -/

/-- Domain positions that are active. -/
def activeAt (s : State) (i : Issued) (m n : Nat) : List (Nat × Nat) :=
  (extent m n).filter fun q => vxActive s i q.1 q.2

/-- An index outside its range on an active element (R199). -/
def indexBad (s : State) (i : Issued) (m n : Nat) : Bool :=
  let im := idxMode i.e.auxBody
  im != 0 && (activeAt s i m n).any fun q =>
    let x := vxIndex s i q.1 (if im = 1 ∨ im = 3 then 0 else q.2)
    x < 0 || (indexLimit i : Int) ≤ x

/-- The elements of the view at position `k` that active elements of the domain use. -/
def usedElems (s : State) (i : Issued) (m n k : Nat) (v : RView) : List (Nat × Nat) :=
  (activeAt s i m n).map fun q =>
    if k = 0 then vxSourceA s i v q.1 q.2
    else if k = 2 then
      (match idxMode i.e.auxBody with
        | 3 => ((vxIndex s i q.1 0).toNat, q.2)
        | _ => ((vxIndex s i q.1 q.2).toNat / v.cols, (vxIndex s i q.1 q.2).toNat % v.cols))
    else v.repeated q.1 q.2

/-- Uncorrectable words that an active element uses, at a position (R64). A mask is used as a whole. -/
def vxFatalWords (s : State) (i : Issued) (m n k : Nat) : List Nat :=
  match viewAt i.views k with
  | none => []
  | some v =>
    if k = 4 then s.badInView v
    else
      let need := elemWords v (usedElems s i m n k v)
      s.spad.bad.filter need.contains

/-- The rows of the view at position `k` that a command reads whole: none that serves only domain rows masked under ROW (R197), and
of a gathered A the rows that the index of a row with an active element names. The elements of an element-wise gather are read by
themselves. -/
def readRows (s : State) (i : Issued) (m n k : Nat) (v : RView) : List Nat :=
  let on := (List.range m).filter fun r => match i.e.auxBody with
    | some a => a.maskMode != 2#2 || vxActive s i r 0
    | none => true
  if k = 0 && idxMode i.e.auxBody = 2 then []
  else if k = 0 && idxMode i.e.auxBody = 1 then
    (on.filter fun r => (List.range n).any (vxActive s i r)).map fun r => (vxIndex s i r 0).toNat
  else if v.rows = 1 then on.take 1 |>.map fun _ => 0
  else on

/-- Uncorrectable words of inputs A, B and C and of the index in which every element read is masked or padding (R198). -/
def vxQuietWords (s : State) (i : Issued) (m n : Nat) : List Nat :=
  if m = 0 ∨ n = 0 then []
  else
    s.spad.bad.filter fun w => [0, 1, 3, 5].any fun k =>
      match viewAt i.views k with
      | none => false
      | some v =>
        ((readRows s i m n k v).any fun r => (s.spad.badIn (v.addr + r * v.stride) v.rowBytes).contains w) &&
          !(vxFatalWords s i m n k).contains w

/-- An injected VX_MAP or VX_REDUCE relies on a VX_AUX when the program in its slot takes input C (R344; log entry 84). -/
def State.needsAux (s : State) (e : Entry) : Bool :=
  match e.cmd.op with
  | .vxMap b | .vxReduce b =>
    e.cmd.h.fuse == 0#8 && e.aux.isNone && (match (s.vecOf (s.onCu e.cmd)).prog b.p.prog with
      | some p => (progInputs p).getLsbD 2
      | none => false)
  | _ => false

/-- The DPI that the fault of an uncorrectable word carries: that of the VX_AUX when, of the views that are read, only one of its own
holds the word (R193). The output view is read by an ADD scatter only. -/
def Issued.wordDpi (i : Issued) (w : Nat) : W64 :=
  let inView (k : Nat) : Bool := match viewAt i.views k with
    | some v => v.spans.any fun q => q.2 != 0 && q.1 / 8 ≤ w && w ≤ (q.1 + q.2 - 1) / 8
    | none => false
  match i.e.aux with
  | some a => if [3, 4, 5].any inView && !(([0, 1] ++ if scatAdd i.e.auxBody then [2] else []).any inView) then a.1 else i.e.x.dpi
  | none => i.e.x.dpi

/-- The execution fault of a vector command's data, with the DPI of the command that carries the view (R193): an index out of range,
then an uncorrectable word in use; which of the two is reported is the model's choice (log entry 121). -/
def vxDataFault (s : State) (i : Issued) (b : VxBody) (red : Bool) : Option (Code × W64 × List Nat) :=
  let d := i.domain b red
  let auxDpi := (i.e.aux.map fun a => a.1).getD i.e.x.dpi
  if d.1 = 0 ∨ d.2 = 0 then none
  else if indexBad s i d.1 d.2 then some (Code.bounds, auxDpi, [])
  else if s.spad.bad.isEmpty then none
  else
    ([0, 1, 3, 4, 5] ++ if scatAdd i.e.auxBody then [2] else []).findSome? fun k =>
      let ws := vxFatalWords s i d.1 d.2 k
      if ws.isEmpty then none else some (Code.uncorrectable, if 3 ≤ k then auxDpi else i.e.x.dpi, ws)

/-! ### Maps (R191, R197, R199) -/

/-- The fill of masked elements: none when they are not written (R197). -/
def vxFill (i : Issued) (b : VxBody) : Option Num :=
  match i.e.auxBody with
  | some a =>
    if a.maskFill = 1#2 then some .zero else if a.maskFill = 2#2 then some (ofF32 ((vxScalars i b).getD 7 0)) else none
  | none => none

/-- Where the result of [r, j] goes: its own position, or the target its index names (R199). -/
def vxTarget (s : State) (i : Issued) (v : RView) (r j : Nat) : Nat × Nat :=
  match idxMode i.e.auxBody with
  | 3 => ((vxIndex s i r 0).toNat, j)
  | 4 => ((vxIndex s i r j).toNat / v.cols, (vxIndex s i r j).toNat % v.cols)
  | _ => (r, j)

/-- One row of results as (column, value): masked elements take the fill, or are left out. In the scatter modes they have
no output position. -/
def vxRow (s : State) (i : Issued) (b : VxBody) (n : Nat) (f : Nat → Nat → Num) (r : Nat) : List (Nat × Num) :=
  (List.range n).filterMap fun j =>
    if vxActive s i r j then some (j, f r j)
    else if 3 ≤ idxMode i.e.auxBody then none
    else (vxFill i b).map fun v => (j, v)

/-- The results of a scatter with their target elements, in ascending order of the source (R199). -/
def vxStores (s : State) (i : Issued) (b : VxBody) (v : RView) (m n : Nat) (f : Nat → Nat → Num) :
    List ((Nat × Nat) × Num) :=
  (List.range m).flatMap fun r => (vxRow s i b n f r).map fun x => (vxTarget s i v r x.1, x.2)

/-- The result that prevails at a target: the last one in order (R199). -/
def lastAt (xs : List ((Nat × Nat) × Num)) (t : Nat × Nat) : Option Num :=
  (xs.reverse.find? fun x => x.1 == t).map fun x => x.2

/-- The rows a map writes, as (column, value). In a STORE scatter each output element that some active element names takes
the result that prevails there, and is converted and observed once (R191, R199; DEDUCED). -/
def vxRows (s : State) (i : Issued) (b : VxBody) (v : RView) (m n : Nat) (f : Nat → Nat → Num) :
    List (Nat × List (Nat × Num)) :=
  if 3 ≤ idxMode i.e.auxBody then
    let stores := vxStores s i b v m n f
    (List.range v.rows).filterMap fun r =>
      let xs := (List.range v.cols).filterMap fun c => (lastAt stores (r, c)).map fun y => (c, y)
      if xs.isEmpty then none else some (r, xs)
  else (List.range m).map fun r => (r, vxRow s i b n f r)

/-- An ADD scatter: every active source element in order replaces its target by the rounded sum (R199). Each replacement is
an observation. -/
def vxScatterAdd (s : State) (i : Issued) (v : RView) (m n : Nat) (f : Nat → Nat → Num) : Bytes × List Obs :=
  let single := v.format == .f32
  let bytes := v.format.bits / 8
  let put (x : Num) : Nat := if single then (toF32 x).toNat else (toF40 x).toNat
  let go (acc : List ((Nat × Nat) × Num) × Bytes × List Obs) (q : Nat × Nat) :=
    let t := vxTarget s i v q.1 q.2
    let old := match acc.1.find? fun e => e.1 == t with | some e => e.2 | none => s.elem v t.1 t.2
    let sum := old.add (f q.1 q.2)
    let y := if single then rne32 sum else rne40 sum
    let c := v.format.convElem .rne true 0 y
    ((t, y) :: acc.1, acc.2.1 ++ placeBytes (v.addr + t.1 * v.stride + bytes * t.2) (leBytes (put y) bytes),
     acc.2.2 ++ [⟨t.1, t.2, y, y, c.ev⟩])
  ((activeAt s i m n).foldl go ([], [], [])).2

/-- A map from the value of each element, writing view 2 (R191, R199). -/
def vxMapRun (s : State) (i : Issued) (b : VxBody) (m n : Nat) (f : Nat → Nat → Num) (empty : List Nat) (chain : Bytes) :
    Run :=
  match viewAt i.views 2 with
  | none => Run.none_ s
  | some v =>
    let w := if scatAdd i.e.auxBody then vxScatterAdd s i v m n f else writeRows s v b.p.cvt v.q (vxRows s i b v m n f)
    ⟨s, w.1 ++ chain, [⟨v, v.q, w.2, empty⟩], exportBytes i v m w.1 []⟩

/-! ### SOFTMAX and SOFTMAX_BWD (R229, R230) -/

/-- One row of SOFTMAX: m, l, w and the values y. -/
def softmaxRow (zs : List Num) : Num × Num × Num × List Num :=
  let m := maxOf zs
  if m.isNan then (.nan, .nan, .nan, zs.map fun _ => .nan)
  else
    let es := zs.map fun z => pval z m
    let l := rowSum es
    let w := weight m l
    (m, l, w, (zs.zip es).map fun q =>
      if m = .inf false then (if q.1 = .inf false then w else .zero) else mul32 q.2 w)

/-- z of R229: masked positions take −∞. -/
def softmaxZ (s : State) (i : Issued) (r j : Nat) : Num :=
  if vxActive s i r j then mul32 i.cs0 (vxInput s i 0 r j) else .inf true

/-- Bytes of m, l and w of a row in the statistics view. -/
def softmaxStats (i : Issued) (r : Nat) (x : Num × Num × Num) : Bytes :=
  match viewAt i.views 11 with
  | none => []
  | some v =>
    [x.1, x.2.1, x.2.2].zipIdx.flatMap fun q => placeBytes (v.addr + r * v.stride + 5 * q.2) (leBytes (toF40 q.1).toNat 5)

/-- SOFTMAX (R229). -/
def softmaxRun (s : State) (i : Issued) (b : VxBody) (m n : Nat) : Run :=
  if m = 0 then Run.none_ s
  else if n = 0 then
    ⟨s, (List.range m).flatMap fun r => softmaxStats i r (.inf true, .zero, .zero), [], []⟩
  else
    let rows := (List.range m).map fun r => softmaxRow ((List.range n).map (softmaxZ s i r))
    let at_ (r : Nat) := rows.getD r (.zero, .zero, .zero, [])
    let empty := (List.range m).filter fun r => !(at_ r).1.isNan && (at_ r).2.1.isZero
    vxMapRun s i b m n (fun r j => (at_ r).2.2.2.getD j .zero) empty
      ((List.range m).flatMap fun r => softmaxStats i r ((at_ r).1, (at_ r).2.1, (at_ r).2.2.1))

/-- SOFTMAX_BWD (R230); an empty row of y, all of whose active elements are +0, gives +0. -/
def softmaxBwdRun (s : State) (i : Issued) (b : VxBody) (m n : Nat) : Run :=
  if m = 0 ∨ n = 0 then Run.none_ s
  else
    let g (r : Nat) : Num := rne32 (rowSum ((List.range n).map fun j =>
      if vxActive s i r j then mul32 (vxInput s i 0 r j) (vxInput s i 1 r j) else .zero))
    let gs := (List.range m).map g
    let empty := (List.range m).map fun r =>
      (List.range n).all fun j => !vxActive s i r j || (vxInput s i 0 r j).isZero
    vxMapRun s i b m n (fun r j => if empty.getD r false then .zero else mul32 (vxInput s i 0 r j) (rne32 ((vxInput s i 1 r j).sub (gs.getD r .zero)))) [] []

/-! ### Reductions (R200 to R202) -/

/-- The operator and identity of ROP. -/
def ropOp (rop : BitVec 2) : Num → Num → Num :=
  match rop.toNat with
  | 0 => add40
  | 1 => Num.max
  | _ => Num.min
def ropIdent (rop : BitVec 2) : Num :=
  match rop.toNat with
  | 0 => .zero
  | 1 => .inf true
  | _ => .inf false

/-- The results of a reduction as rows of (column, value), and the ALL result (R200, R202). -/
def vxReduced (s : State) (i : Issued) (b : VxBody) (m n : Nat) (y : Nat → Nat → Num) :
    List (Nat × List (Nat × Num)) × Num :=
  let op := ropOp b.p.rop
  let id := ropIdent b.p.rop
  let at_ (r j : Nat) : Num := if vxActive s i r j then y r j else id
  let col (j : Nat) : Num := (List.range m).foldl (fun acc r => op acc (at_ r j)) id
  match b.p.axis.toNat with
  | 1 => ((List.range m).map fun r => (r, [(0, rowRed op id ((List.range n).map (at_ r)))]), id)
  | 2 => if n = 0 then ([], id) else ([(0, (List.range n).map fun j => (j, col j))], id)
  | _ => let v := rowRed op id ((List.range n).map col); ([(0, [(0, v)])], v)

/-- The FP32 word of an SF write under CVT, drawing as element [0, 0] of view 2, or of view 0 without one (R201). -/
def sfwWord (s : State) (i : Issued) (b : VxBody) (v : Num) : W64 :=
  let d := match viewAt i.views (if b.v2.isZero then 0 else 2) with
    | some x => srDraw (s.srKey x) b.p.cvt 0 0
    | none => 0
  BitVec.ofNat 64 (fp32.convert (cvtMode b.p.cvt) (cvtOvf b.p.cvt) d v).bits

/-- VX_REDUCE (R200 to R202). -/
def vxReduceRun (s : State) (i : Issued) (b : VxBody) (m n : Nat) (y : Nat → Nat → Num) : Run :=
  let (rows, all) := vxReduced s i b m n y
  let zero := m = 0 ∨ n = 0
  let s1 := if b.p.pdEn then s.setPd b.p.pdIdx (!zero && all.truth) else s
  let s2 := if b.p.sfwEn then s1.setSf b.p.sfw (sfwWord s i b all) else s1
  match viewAt i.views 2 with
  | none => ⟨s2, [], [], []⟩
  | some v =>
    let w := writeRows s v b.p.cvt v.q rows
    ⟨s2, w.1, [⟨v, v.q, w.2, []⟩], []⟩

/-! ### The computing commands -/

/-- What a computing vector command does when it completes. -/
def vxRun (s : State) (i : Issued) (b : VxBody) (red : Bool) : Run :=
  let (m, n) := i.domain b red
  match i.e.cmd.h.fuse.toNat with
  | 0x20 => softmaxRun s i b m n
  | 0x21 => softmaxBwdRun s i b m n
  | _ =>
    match (s.vecOf (s.onCu i.e.cmd)).prog b.p.prog with
    | none => Run.none_ s
    | some p =>
      if red then vxReduceRun s i b m n (vxElem s i b p)
      else if m = 0 ∨ n = 0 then Run.none_ s
      else vxMapRun s i b m n (vxElem s i b p) [] []

/-! ### Image loads (R195, R408, R409) -/

/-- Replace the slots and tables of a unit. -/
def State.setVec (s : State) (cu : Bool) (v : VecState) : State := if cu then s.withCu v else s.withVx v

/-- The program images of a VX_PROG. -/
def progImages (s : State) (v : RView) : List (BitVec 1024) :=
  (List.range v.rows).map fun r => BitVec.ofNat 1024 (leNat (s.bytes (v.addr + r * v.stride) 128))

/-- The image check of a program load: CU_PROG also refuses a program of no kernel. -/
def progImageBad (c : Cmd) (ps : List (BitVec 1024)) : Bool :=
  ps.any fun p => !progOk p || (c.h.queue == 9#5 && progKernel p == 0)

/-- Write consecutive slots. -/
def VecState.load (v : VecState) (first : Nat) (ps : List (BitVec 1024)) : VecState :=
  { v with progs := ps.zipIdx.foldl (fun (t : Vector (Option (BitVec 1024)) 32) q =>
      if h : first + q.2 < 32 then t.set (first + q.2) (some q.1) h else t) v.progs }

/-- The table image of a VX_TABLE: its header, and its entries as 128-bit words. -/
def tableImage (s : State) (v : RView) : FnTable :=
  let w (k : Nat) : BitVec 128 := BitVec.ofNat 128 (leNat (s.bytes (v.addr + 16 * k) 16))
  ⟨w 0, (List.range (v.cols / 16 - 1)).map fun k => w (k + 1)⟩

/-- The image check of a table load (R185, R195). -/
def tableImageBad (t : FnTable) : Bool := !tableHdrOk t.header || t.entries.length != (tableHdr t.header).entries

/-- Write a table. -/
def VecState.loadTable (v : VecState) (k : Nat) (t : FnTable) : VecState :=
  { v with tables := if h : k < 8 then v.tables.set k (some t) h else v.tables }

/-- The image check of a load at its completion. -/
def vxLoadFault (s : State) (i : Issued) (table : Bool) : Option Code :=
  match viewAt i.views 0 with
  | none => none
  | some v =>
    if table then (if tableImageBad (tableImage s v) then some Code.vxProgram else none)
    else if progImageBad i.e.cmd (progImages s v) then some Code.vxProgram else none

/-- What an image load does when it completes. -/
def vxLoadRun (s : State) (i : Issued) (b : VxLoadBody) (table : Bool) : Run :=
  let cu := s.onCu i.e.cmd
  match viewAt i.views 0 with
  | none => Run.none_ s
  | some v =>
    let u := s.vecOf cu
    Run.none_ (s.setVec cu (if table then u.loadTable b.first.toNat (tableImage s v)
      else u.load b.first.toNat (progImages s v)))

end Sys2Proof.Machine
end

