-- ==== Sys2Proof/Machine/Export.lean ====
section
/-! DEFINITION. Exported tiles (R42, R231): their route and slots, the bytes that leave for the peer, and what a command that waits
for its peer still has to hear. -/

namespace Sys2Proof.Machine

/-- The agent of R288 that exports for a unit: 8 to 11 the physical arrays, 12 VX. -/
def State.exportAgent (s : State) : UnitId → Nat
  | .mx n _ => 8 + (s.physMx n).1
  | _ => 12

/-- The peer address of a command that exports (R231). -/
def peerOf (c : Cmd) (sf : Vector W64 64) : Option W64 :=
  if c.h.fuse != 0#8 && (chainUse c.h.fuse.toNat).peer && bit (sf[50]) 62 then some sf[51] else none

/-- BAD_ROUTE and LINK_DOWN of an export to another chip (R305, R317). -/
def exportFault (s : State) (c : Cmd) (sf : Vector W64 64) : Option Code :=
  match peerOf c sf with
  | none => none
  | some a =>
    if chipOf a == s.id.chip then none
    else match s.routeFor (chipOf a) with
      | none => some Code.badRoute
      | some p => if s.routeSel p.1 = 3#2 then some Code.linkDown else none

/-- A command that exports has no slots toward its peer in the share that the peer selects, so it does not issue (R231, R293). -/
def peerUngranted (s : State) (c : Cmd) (u : UnitId) (sf : Vector W64 64) : Bool :=
  match peerOf c sf with
  | none => false
  | some a => !s.farGranted (s.exportAgent u) false (s.shareTo a true) a

/-- The windows or runs in which bytes for a peer travel (R84, R311): of another chip the runs, else the windows. -/
def peerUnits (remote : Bool) (bs : Bytes) : List (Nat × Nat) :=
  if remote then splitRuns ((bs.foldl (fun (m : Store 1) p => Store.set m p.1 1) []).map Prod.fst) else byteVisits (bs.map Prod.fst)

/-- The bytes of an export that have not been acknowledged. -/
def Exporting.rest (p : Exporting) : Bytes := p.bytes.filter fun b => p.units.any fun u => u.1 ≤ b.1 && b.1 < u.1 + u.2

/-- What a command that sends bytes to a peer waits for. -/
def State.exportOf (s : State) (i : Issued) (bs : Bytes) (seen : List Seen) : Exporting :=
  let remote := chipOf i.peerAddr != s.id.chip
  let route := if remote then (s.routeFor (chipOf i.peerAddr)).map Prod.fst else none
  ⟨bs, peerUnits remote bs, false, route, match route with | some r => s.routeSel r | none => 0, seen⟩

/-- Two commands are the same issued one. -/
def sameCmd (a b : Issued) : Bool := a.e.x.task == b.e.x.task && a.e.x.dpi == b.e.x.dpi

/-- Keep a command among the uncompleted ones while it waits for its peer. -/
def State.putExport (s : State) (u : UnitId) (i : Issued) (p : Exporting) : State :=
  s.withIu { s.iu with
    exec := (s.iu.exec.filter fun x => !sameCmd x.2 i) ++ [(u, { i with exporting := some p })], quiet := 0 }

/-- Send what an export has not heard of yet: packets beyond the chip, a write on it (R231, R305, R311). -/
def State.sendExport (s : State) (u : UnitId) (i : Issued) (p : Exporting) : State :=
  match p.route with
  | some r => s.sendPackets (s.egressPort r p.path) (s.exportAgent u) i.e.x.task i.e.x.dpi
      (runPackets (s.sender (s.exportAgent u)) opWrite p.bytes (p.units.map fun q => (BitVec.ofNat 64 q.1, q.2)))
  | none => s.emit (.memWrite p.rest)

/-- The own scratchpad's bytes of an export, by local address. -/
def localBytes (bs : Bytes) : Bytes := bs.map fun p => (p.1 % 2 ^ 40, p.2)

end Sys2Proof.Machine
end

