-- ==== Sys2Proof/Machine/Issue.lean ====
section
/-! DEFINITION. The issue unit: the decode checks that read the state (R45 to R53, R149, R165, R171, R199, R246 to R248,
R344, R350), the issue rule (R31, R39, R43, R45, R46, R479), execution start, completion, skips and aborts. -/

namespace Sys2Proof.Machine

/-! ### Engines of a command -/

/-- The unit that runs a command of an engine queue: the physical transpose unit, Crucible for VX when it stands in. -/
def State.unitOf (s : State) (c : Cmd) : UnitId :=
  if c.h.q < 8 then .mx (mxArray c.h) (mxPart c.h)
  else if c.h.q < 10 then s.vxUnit c
  else .tu (s.physTu (tuIndex c.h))

/-- The queue a command waits in: MX queues by partition, CTL queues by task (R32, R33, R349). -/
def queueKey (x : Ctx) (h : Header) : Nat × Nat :=
  (h.q, if h.q < 8 then h.part.toNat else if h.q = 22 then x.task.1 else 0)

/-- Depth of a command's queue (R32). -/
def State.queueDepth (s : State) (h : Header) : Nat :=
  if h.q < 8 then (match partCount (s.array (mxArray h)).mode with | 1 => 16 | 2 => 8 | _ => 4)
  else if h.q = 8 then 32 else if h.q = 9 then 8 else if h.q ≤ 17 then 16 else if h.q ≤ 21 then 8 else 16

/-- A queue has no free entry. -/
def State.queueFull (s : State) (x : Ctx) (h : Header) : Bool :=
  s.queueDepth h ≤ (s.iu.queued.filter fun e => queueKey e.x e.cmd.h == queueKey x h).length

/-! ### Decode (R29, R51 to R53, R55) -/

/-- An engine that the build or GRADE lacks (R52). -/
def State.absent (s : State) (h : Header) : Bool :=
  (h.q < 8 && !s.id.hasArray (h.q / 2)) || (h.q == 8 && !s.id.hasVx)

/-- The task owns the queue a command names (R350). -/
def State.owns (s : State) (t : Fin 4) (c : Cmd) : Bool :=
  let k := s.task t
  if c.h.q < 8 then
    match c.op with
    | .arrayMode _ => (List.range 4).all fun p => k.ownsPart (c.h.q / 2) p
    | _ => k.ownsPart (c.h.q / 2) c.h.part.toNat
  else c.h.q = 22 || k.ownQ.getLsbD (c.h.q - 8)

/-- The FENCE bit of a physical queue (R402). -/
def State.fencedQ (s : State) (q : Nat) : Bool := s.rep.fence.getLsbD (if q < 8 then q / 2 else q - 4)

/-- A command that a fence refuses (R53, R400, R409). -/
def State.fenced (s : State) (c : Cmd) : Bool :=
  let standIn := c.h.q == 8 && s.job.vxOnCu
  c.h.q != 22 &&
  (s.fencedQ (if standIn then 9 else s.phys c.h.q) ||
   (standIn && (c.h.fuse != 0#8 || match c.op with | .vxAux _ => true | _ => false)) ||
   (match c.op with | .stream b => b.trans && s.fencedQ (s.phys (18 + b.tu.toNat)) | _ => false))

/-- The views of a command, those of its VX_AUX included. -/
def Entry.views (e : Entry) : List View :=
  (e.cmd.op.views e.cmd.h).1 ++ (match e.aux with | some a => [a.2.v0, a.2.v1, a.2.v2] | none => [])

/-- An injected command that stands inside a loop, or whose opcode may not be injected (R344). -/
def injectBad (e : Entry) : Bool :=
  e.injected &&
  (e.views.any (fun v => v.lsel != 0#3) || e.cmd.h.waitA.tstep != 0#4 || e.cmd.h.waitB.tstep != 0#4 ||
   match e.cmd.op with | .loop _ | .fin | .vxAux _ => true | _ => false)

/-- LOOP_NEST (R51): a fifth level, or an END in a body. -/
def nestBad (e : Entry) : Bool :=
  match e.cmd.op with
  | .loop _ => 4 ≤ e.x.iters.length
  | .fin => !e.x.iters.isEmpty
  | _ => false

/-- The half a versioned read refers to (R248): NEXT while a swap is pending, else CUR. -/
def State.versionRef (s : State) (c : Cmd) : Option Ref :=
  c.versioned.map fun v => (v.1, (s.region v.1).physical (s.region v.1).swapPending)

/-- TM1 and the limit of R141 for MM_ST under the partition mode in force (R161, R162, R165); T is 1 without SLOAD (R167). -/
def mmStDecodeBad (s : State) (h : Header) (b : MxBody) : Bool :=
  let t := tiles (geom (s.array (mxArray h)).mode h.part.toNat) b.p
  b.p.tm1.toNat + 1 != t || (!b.p.sload && b.p.tm1 != 0#3) ||
  match mxPairTime b.v0.format b.p.sfmt true with
  | some c2 => 65536 < stepsTime (b.p.m.toNat * t) c2
  | none => false

/-- The decode checks that read the state (R71, R149, R165, R171, R199, R246, R300). -/
def State.stateDecodeFault (s : State) (e : Entry) : Option Code :=
  let c := e.cmd
  let bad (b : Bool) : Option Code := if b then some Code.illegalCommand else none
  orFault (match c.op with
    | .mmSt b => bad (mmStDecodeBad s c.h b)
    | .maskSet b => bad (masksOutside (geom (s.array (mxArray c.h)).mode c.h.part.toNat) ⟨b.row, b.block⟩)
    | .regionAttr b => bad (b.clrPoisonNext && !(s.region b.region).split)
    | .barrier b => bad (b.members != 0#8 && !b.members.getLsbD s.id.core.toNat)
    | .vxMap b =>
      if scatAdd e.auxBody && !(s.bindView (s.region b.v2.region).tensor b.v2.format).1 &&
          !(b.v2.fmt? == some .f32 || b.v2.fmt? == some .f40) then some Code.badFormat
      else none
    | _ => none)
  (match c.versioned with
    | none => none
    | some v =>
      let g := s.region v.1
      firstFault [
        (!g.split || v.2, Code.illegalCommand),
        (g.vbit == c.h.version && g.swapPending || g.vbit != c.h.version && !g.swapPending, Code.staleVersion)])

/-- All decode checks of a command, with the DPI a fault carries (R55, R193). -/
def State.decodeFault (s : State) (e : Entry) : Option (Code × W64) :=
  let c := e.cmd
  let own (o : Option Code) : Option (Code × W64) := o.map fun k => (k, e.x.dpi)
  let early := orFault (headerFault c) (firstFault [
    (injectBad e || e.injected && (!s.owns e.x.task c || s.needsAux e), Code.illegalCommand),
    (nestBad e, Code.loopNest),
    (s.absent c.h, Code.absentEngine),
    (!s.owns e.x.task c, Code.notOwned),
    (s.fenced c, Code.fencedEngine)])
  match own early with
  | some f => some f
  | none =>
    match bodyFault c e.auxBody with
    | some (k, true) => some (k, (e.aux.map fun a => a.1).getD e.x.dpi)
    | some (k, false) => some (k, e.x.dpi)
    | none => own (s.stateDecodeFault e)

/-- Every pending swap whose retiring half holds no reference takes effect (R250). -/
def State.settleSwaps (s : State) : State := s.withRg ⟨mapVec Region.swapEffect s.rg.tab⟩

/-! ### Checks at issue (R31, R479) -/

/-- The views a command uses. -/
def usesOf (e : Entry) (sf : Vector W64 64) : List Use :=
  match e.cmd.op with
  | .mmOs _ | .mmSt _ | .mmEw _ | .mmDrain _ => mxUses e.cmd sf
  | .vxMap _ | .vxReduce _ | .cuMap _ | .cuReduce _ | .vxProg _ | .vxTable _ | .cuProg _ | .cuTable _ =>
    vxUses e.cmd e.auxBody sf
  | .transpose b => transposeUses e.cmd b
  | _ => []

/-- PART is not below the partition count (R33). -/
def State.partBad (s : State) (h : Header) : Bool := h.q < 8 && partCount (s.array (mxArray h)).mode ≤ h.part.toNat

/-- The remaining checks of the engine's chapter. -/
def State.engineFault (s : State) (e : Entry) (vs : List (Option RView)) : Option Code :=
  let c := e.cmd
  match c.op with
  | .mmOs b | .mmSt b | .mmEw b | .mmDrain b => orFault (mxIssueFault s c b s.sfSnapshot vs) (exportFault s c s.sfSnapshot)
  | .vxMap _ | .vxReduce _ | .cuMap _ | .cuReduce _ =>
    orFault (vxIssueFault s c e.auxBody s.sfSnapshot vs) (exportFault s c s.sfSnapshot)
  | .transpose _ => transposeFault vs
  | .loop b => loopFault s b
  | .setPd b => setPdFault s e.x b
  | .barrier b => barrierFault s b
  | .calLoad b => calLoadFault s b
  | .regionSet b => regionSetFault s b
  | .regionSwap r => regionSwapFault s r
  | .regionAttr b => if (s.region b.region).valid then none else some Code.badRegion
  | .stream b => streamRouteFault s b
  | .nop | .maskSet _ => if s.partBad c.h then some Code.badPartition else none
  | _ => none

/-- The issue fault of a command, with the DPI it carries (R193, R479). -/
def State.issueFault (s : State) (e : Entry) : Option (Code × W64) :=
  let us := usesOf e s.sfSnapshot
  let auxDpi := (e.aux.map fun a => a.1).getD e.x.dpi
  let view : Option (Code × W64) := match e.cmd.op with
    | .stream b => (streamViewsFault s e b).map fun k => (k, e.x.dpi)
    | _ => (s.viewsFault e us).map fun k => (k.1, if 3 ≤ k.2 && k.2 < 6 then auxDpi else e.x.dpi)
  match view with
  | some f => some f
  | none => (s.engineFault e (s.resolveAll e us 12)).map fun k => (k, e.x.dpi)

/-! ### When a command issues (R45) -/

/-- The array has nothing queued but this command, nothing staged or executing, and no draining plane (R149). -/
def State.arrayQuiet (s : State) (e : Entry) : Bool :=
  let n := e.cmd.h.q / 2
  let mine (h : Header) : Bool := h.q < 8 && h.q / 2 == n
  !(s.iu.queued.any fun x => mine x.cmd.h && !(x.x.task == e.x.task && x.x.dpi == e.x.dpi)) &&
  !((s.iu.staged ++ s.iu.exec).any fun u => mine u.2.e.cmd.h) &&
  (s.array (mxArray e.cmd.h)).parts.toList.all fun k => k.plane0 != .draining && k.plane1 != .draining

/-- A physical array runs one of the logical arrays it hosts (R54): no other one has a command there. -/
def State.arrayFree (s : State) (n : Fin 4) : Bool :=
  !((s.iu.staged ++ s.iu.busy).any fun u => match u.1 with
    | .mx m _ => m != n && s.physMx m == s.physMx n
    | _ => false)

/-- Condition 2 of R45: no issued command waits behind the executing one. `direct` asks for an idle unit. -/
def State.stageFree (s : State) (u : UnitId) (direct : Bool) : Bool :=
  !(s.iu.staged.any fun x => x.1 == u) && (!direct || !(s.iu.busy.any fun x => x.1 == u))

/-- A plane that the command starts from ZERO is still drained or built to be drained (R133). -/
def State.planeBusy (s : State) (c : Cmd) (b : MxBody) : Bool :=
  planeWaits c.op (((s.array (mxArray c.h)).part (mxPart c.h)).plane b.p.plane)

/-- The slot of a STREAM. -/
def streamSlot (b : StreamBody) : Fin 4 := ⟨b.slot.toNat, b.slot.isLt⟩

/-- Conditions 2 to 6 of R45 for a command whose checks have passed. While a swap of calendars pends every engine command waits, one
with a zero extent too (R303; log entry 92). -/
def State.ready (s : State) (e : Entry) (direct : Bool) : Bool :=
  let c := e.cmd
  let u := s.unitOf c
  let vs := s.resolveAll e (usesOf e s.sfSnapshot) 12
  let admits := !s.swapPends
  match c.op with
  | .loop _ | .setEc _ | .nop | .maskSet _ => true
  | .setPd b => setPdReady s e.x b
  | .barrier b => barrierReady s b
  | .calLoad _ => calLoadReady s
  | .regionSet b => regionSetReady s b
  | .regionSwap r => !(s.region r).swapPending
  | .regionAttr b => regionAttrReady s b
  | .fin => endReady s e.x
  | .arrayMode _ => s.arrayQuiet e
  | .mmOs b | .mmSt b | .mmEw b | .mmDrain b =>
    s.stageFree u direct && s.arrayFree (mxArray c.h) && admits && !s.planeBusy c b && !mxUngranted s c b vs &&
      !peerUngranted s c u s.sfSnapshot
  | .vxAux _ => false
  | .vxMap _ | .vxReduce _ | .cuMap _ | .cuReduce _ | .vxProg _ | .vxTable _ | .cuProg _ | .cuTable _ =>
    s.stageFree u direct && admits && !vxUngranted s c e.auxBody vs && !peerUngranted s c u s.sfSnapshot
  | .transpose b =>
    let n := s.physTu (tuIndex c.h)
    s.stageFree u direct && admits && s.tuFree n && !transposeUngranted s n b
  | .stream b =>
    let k := s.slot (s.physSe c.h) (streamSlot b)
    k.shadow.isNone && admits && (!b.trans || s.tuFree (s.physTu (streamTu b))) &&
      (b.total == 0 || streamGranted s (s.physSe c.h) b)

/-- The task and the core let a command issue: the task runs, no pre-emption pends, and the command, with the VX_AUX of its
pair, lies below STOP_COUNT (R57, R193, R364). -/
def State.mayIssue (s : State) (x : Ctx) : Bool :=
  let k := s.task x.task
  s.active x.task && !s.job.preempt && (k.stopCount == 0#64 || x.dpi < k.stopCount)

/-- What the issue unit finds for a queue head. -/
inductive Verdict where
  | hold
  | skip
  | fault (code : Code) (dpi : W64)
  | go
  deriving DecidableEq, Repr

/-- The issue rule (R39, R43, R45, R479): waits, then the predicate, then the checks, then the other conditions. -/
def State.verdict (s : State) (e : Entry) (direct : Bool) : Verdict :=
  if !s.mayIssue e.x then .hold
  else if !s.waitsMet e.cmd.h e.x.iters then .hold
  else if !s.predicated e.cmd.h then .skip
  else
    match s.issueFault e with
    | some f => .fault f.1 f.2
    | none => if s.ready e direct then .go else .hold

/-! ### Issue -/

/-- An issued command with its snapshots (R68, R125, R171, R192). -/
def State.issued (s : State) (e : Entry) : Issued :=
  let h := e.cmd.h
  { e := e, views := s.resolveAll e (usesOf e s.sfSnapshot) 12, sf := s.sfSnapshot,
    masks := if h.q < 8 then (s.array (mxArray h)).maskOf (isBack h) (mxPart h) else Masks.ones, replayed := false,
    exporting := none, stepped := false, fresh := false, noted := [] }

/-- Place a command in its queue, in the present control cycle. -/
def State.enqueue (s : State) (e : Entry) : State := s.withIu { s.iu with queued := s.iu.queued ++ [{ e with since := s.cycle }] }

/-- Remove a command from its queue. -/
def State.unqueue (s : State) (e : Entry) : State :=
  s.withIu { s.iu with
    queued := s.iu.queued.filter (fun q => !(q.x.task == e.x.task && q.x.dpi == e.x.dpi)), quiet := 0 }

/-- A held LOOP issues or is skipped: fetch enters its body `n` times, or passes it, and the count is kept for a resume (R368); any other
hold ends (R49, R172, R247). -/
def State.unhold (s : State) (e : Entry) (n : Option Nat) : State :=
  let k := s.task e.x.task
  let k1 : Task := { k with holds := k.holds.filter fun d => d != e.x.dpi }
  s.setTask e.x.task (match e.cmd.op, n with
    | .loop b, some c => (k1.mark (s.lowestDpi e.x.task) ⟨e.x.dpi, some c, some e.cmd⟩).enter b.bodyLen.toNat c
    | _, _ => k1)

/-- A completed or skipped command's version reference is released (R249). -/
def State.closeRef (s : State) (e : Entry) : State :=
  match e.ref with
  | none => s
  | some h => s.releaseRef (some h)

/-- A skipped command completes in its issue cycle (R43, R50). -/
def State.skipCmd (s : State) (e : Entry) (enters : Bool) : State :=
  let s1 := (s.unqueue e).unhold e (if enters then some 0 else none)
  (if e.cmd.h.silent then s1 else s1.signals e.cmd.h).closeRef e

/-- The commands that complete in their issue cycle: CTL commands, NOP, MASK_SET and ARRAY_MODE (R35, R149, R171). -/
def State.atIssue (s : State) (e : Entry) (enters : Bool) : Option State :=
  let h := e.cmd.h
  let done (s : State) : Option State := some (s.signals h)
  match e.cmd.op with
  | .loop b => some (s.unhold e (if enters then some (loopCount s b) else none))
  | .setEc b => done (setEcRun s b)
  | .setPd b => done (setPdRun s e.x b)
  | .barrier b => done (barrierRun s e.x b)
  | .calLoad b => done (calLoadRun s e.x b)
  | .regionSet b => done ((regionSetRun s b).unhold e none)
  | .regionSwap r => done ((regionSwapRun s r).unhold e none)
  | .regionAttr b => done (regionAttrRun s b)
  | .nop => done s
  | .fin => some (endRun s e.x)
  | .maskSet b =>
    let n := mxArray h
    done (s.setArray n ((s.array n).setMask (isBack h) (mxPart h) ⟨b.row, b.block⟩))
  | .arrayMode m => done (((s.dropBallast (agentOn (s.physMx (mxArray h)))).setArray (mxArray h) (Array_.empty m)).unhold e none)
  | _ => none

/-- Free the transpose unit of a TRANSPOSE (R89). -/
def State.freeTu (s : State) (i : Issued) : State :=
  match i.e.cmd.op with
  | .transpose _ => s.setTu (s.physTu (tuIndex i.e.cmd.h)) none
  | .stream b => if b.trans then s.setTu (s.physTu (streamTu b)) none else s
  | _ => s

/-- Uncorrectable words that a store reads when it is admitted (R64). A store into the core's own scratchpad reads when it
completes. -/
def storeBad (s : State) (i : Issued) (b : StreamBody) : List Nat :=
  if b.dir && (b.mcast || !s.isOwn b.far) then s.spad.badIn i.localBase b.localBytes else []

/-- Admit a transfer, or abort its task on an uncorrectable word (R64, R81). -/
def State.admitOrFault (s : State) (eng : Fin 8) (k : Fin 4) (i : Issued) (b : StreamBody) : State :=
  match storeBad s i b with
  | [] => s.enterSlot eng k i b
  | ws => (((s.poisonWords ws).freeTu i).closeRef i.e).abortTaskAt i.e.x.task Code.uncorrectable i.e.x.dpi
      ((slotSite eng k).of i.e.cmd.h) (wordDetail ws)

/-- In replay mode a multicast is not admitted before every receiver whose log does not record this transfer as dropped has sent a release
notice since the last one delivered to it (R299; log entry 48). -/
def State.noticesDue (s : State) (b : StreamBody) : Bool :=
  b.mcast && b.total != 0 && s.job.replays &&
  (let m := s.job.group b.group
   let key := mdropKey b.group s.id.chip s.id.core m.sent
   (m.notices.filter fun r => !s.dropsNext b.group r).length < m.receivers - (m.drops.filter fun d => d.2.2 == key).length)

/-- Arm a STREAM: it enters its idle slot and is admitted, or it enters the shadow (R81, R89); a multicast that waits for
release notices stays in the shadow (R299). -/
def State.armStream (s : State) (e : Entry) (b : StreamBody) : State :=
  let i := { s.issued e with views := [some (streamView s e b)] }
  let eng := s.physSe e.cmd.h
  let k := s.slot eng (streamSlot b)
  let s1 := if b.trans then s.setTu (s.physTu (streamTu b)) (some (e.x.task, e.x.dpi)) else s
  match k.run with
  | none =>
    if s1.noticesDue b then s1.setSlot eng (streamSlot b) { k with shadow := some i }
    else s1.admitOrFault eng (streamSlot b) i b
  | some _ => s1.setSlot eng (streamSlot b) { k with shadow := some i }

/-! ### Execution -/

/-- The faults that an engine raises when a command starts executing (R133, R134, R167, R196, R409). -/
def State.startFault (s : State) (i : Issued) : Option Code :=
  let c := i.e.cmd
  match c.op with
  | .mmOs b | .mmSt b | .mmEw b | .mmDrain b =>
    let k := s.partAhead (mxArray c.h) (mxPart c.h)
    if arrayStateBad c k || chainStateBad i b.p.plane k then some Code.arrayState else none
  | .vxMap _ | .vxReduce _ | .cuMap _ | .cuReduce _ => vxStartFault s i
  | _ => none

/-- What a computing command does when it completes. -/
def State.runOf (s : State) (i : Issued) : Run :=
  match i.e.cmd.op with
  | .mmOs b | .mmSt b | .mmEw b | .mmDrain b => mxRun s i b
  | .vxMap b | .cuMap b => vxRun s i b false
  | .vxReduce b | .cuReduce b => vxRun s i b true
  | .vxProg b | .cuProg b => vxLoadRun s i b false
  | .vxTable b | .cuTable b => vxLoadRun s i b true
  | .transpose _ => transposeRun s i
  | _ => Run.none_ s

/-- The faults of a command's data: code, DPI, the words to poison, and whether the command had begun to write. -/
def State.dataFault (s : State) (i : Issued) : Option (Code × W64 × List Nat × Bool) :=
  let c := i.e.cmd
  let words (ws : List Nat) : Option (Code × W64 × List Nat × Bool) :=
    if ws.isEmpty then none else some (Code.uncorrectable, i.e.x.dpi, ws, true)
  let load (t : Bool) : Option (Code × W64 × List Nat × Bool) :=
    match words (s.badSources i (usesOf i.e i.sf)) with
    | some f => some f
    | none => (vxLoadFault s i t).map fun k => (k, i.e.x.dpi, [], false)
  match c.op with
  | .mmOs b | .mmSt b | .mmEw b | .mmDrain b => words (mxBadReads s i b)
  | .vxMap b | .cuMap b => (vxDataFault s i b false).map fun f => (f.1, f.2.1, f.2.2, true)
  | .vxReduce b | .cuReduce b => (vxDataFault s i b true).map fun f => (f.1, f.2.1, f.2.2, true)
  | .vxProg _ | .cuProg _ => load false
  | .vxTable _ | .cuTable _ => load true
  | .transpose _ => words (s.badSources i (usesOf i.e i.sf))
  | _ => none

/-- Words that only masked elements read: logged as a notice and poisoned (R64, R198). -/
def State.quietWords (s : State) (i : Issued) : List Nat :=
  match i.e.cmd.op.vx? with
  | some (b, red) => if s.spad.bad.isEmpty then [] else
      (vxQuietWords s i (i.domain b red).1 (i.domain b red).2).filter fun w => !i.noted.contains w
  | none => []

/-- Log uncorrectable words as notices and poison their halves (R64). -/
def State.noteWords (s : State) (task : BitVec 2) (dpi : Nat → W64) (ws : List Nat) : State :=
  ws.foldl (fun s w =>
    (s.noteFor task Code.uncorrectable 0x47 0 (s.bankLoc (8 * w)) (dpi w) (wordDetail [w])).poisonWords [w]) s

/-- An execution fault (R55, R56): output halves poisoned, with free values where the command may have written, and the task
aborted. -/
def State.execFaultAt (s : State) (w : Site) (i : Issued) (code : Code) (dpi : W64) (ws : List Nat) (wrote : Bool) : State :=
  let s1 := if wrote then s.scramble i else s
  ((((s1.poisonOutputs i).poisonWords ws).freeTu i).closeRef i.e).abortTaskAt i.e.x.task code dpi (w.of i.e.cmd.h) (wordDetail ws)

/-- An execution fault of a command on its unit. -/
def State.execFault (s : State) (u : UnitId) (i : Issued) (code : Code) (dpi : W64) (ws : List Nat) (wrote : Bool) : State :=
  s.execFaultAt (s.unitSite u noLoc) i code dpi ws wrote

/-- A command completes: its signals land and its reference is released (R42, R249). -/
def State.closeCmd (s : State) (i : Issued) : State := ((s.signals i.e.cmd.h).closeRef i.e).touch

/-- The cause with which this core refuses what a command exports into its own scratchpad, with the words in error (R75, R231). -/
def State.ownRefusal (s : State) (i : Issued) (bs : Bytes) : Option (BitVec 8 × List Nat) :=
  if s.isOwn i.peerAddr then s.writeCause (localBytes bs) else none

/-- What a command has sent its peer (R231): bytes for the core's own scratchpad are checked as an inbound write and land, with the
notify, at once; into a frozen region they are refused, as by any peer, and not with FROZEN_WRITE at issue (log entry 112). Any others leave,
and the command completes when they are acknowledged. It folds what Assay has seen when it completes (R117). -/
def State.sendPeer (s : State) (u : UnitId) (i : Issued) (bs : Bytes) (seen : List Seen) : State :=
  if s.isOwn i.peerAddr then
    match s.ownRefusal i bs with
    | some (c, ws) =>
      ((s.poisonWords ws).poisonOutputs i).closeRef i.e |>.abortTaskAt i.e.x.task Code.remoteRefused i.e.x.dpi
        ((s.unitSite u noLoc).of i.e.cmd.h) (peerDetail s.id.chip s.id.core c)
    | none => (((s.foldSeen i u seen).withSpad (s.spad.write (localBytes bs))).signal ⟨i.peerEc, i.peerInc⟩).closeCmd i
  else (s.sendExport u i (s.exportOf i bs seen)).putExport u i (s.exportOf i bs seen)

/-- Complete a command on its unit (R42, R55, R64, R112, R249): a fault of its data aborts the task; otherwise its writes land, and, unless
it waits for a peer, Assay folds its observations, its signals land and its reference is released. An export of no byte sends no notify (log
entry 141). -/
def State.finishCmd (s : State) (u : UnitId) (i : Issued) : State :=
  match s.dataFault i with
  | some f => s.execFault u i f.1 f.2.1 f.2.2.1 f.2.2.2
  | none =>
    let r := s.runOf i
    match s.spad.narrow r.bytes with
    | w :: ws => s.execFault u i Code.uncorrectable i.e.x.dpi (w :: ws) true
    | [] =>
      let s1 := r.land.noteWords (BitVec.ofNat 2 i.e.x.task.1) i.wordDpi (s.quietWords i)
      if r.peer.isEmpty then ((s1.foldSeen i u r.seen).freeTu i).closeCmd i else s1.sendPeer u i r.peer r.seen

/-- The plane state while a matrix command executes (R133). -/
def buildState (c : Cmd) (b : MxBody) : PlaneState :=
  match c.op with
  | .mmDrain _ => .draining
  | _ => .building (isBack c.h) b.p.hold

/-- A command as it starts: ATTN_FWD finds its companion plane EMPTY, or not (R222). -/
def State.begin_ (s : State) (i : Issued) : Issued :=
  match i.e.cmd.op.mx? with
  | some b => { i with fresh := findsFresh i b.p.plane ((s.array (mxArray i.e.cmd.h)).part (mxPart i.e.cmd.h)) }
  | none => i

/-- A matrix command with an extent starts to build into, or to drain, its plane; the companion plane that ATTN_FWD finds EMPTY becomes HELD
(R222). -/
def State.startPlane (s : State) (i : Issued) : State :=
  let c := i.e.cmd
  match c.op.mx? with
  | none => s
  | some b =>
    let n := mxArray c.h
    let p := mxPart c.h
    let a := s.array n
    let k := (a.part p).setPlane b.p.plane (buildState c b)
    if mxNonEmpty b then s.setArray n (a.setPart p (if i.fresh then k.setPlane (!b.p.plane) (.held (isBack c.h)) else k)) else s

/-- Put a command in its place among the uncompleted ones. -/
def State.putExec (s : State) (i : Issued) : State :=
  s.withIu { s.iu with exec := s.iu.exec.map fun x => if sameCmd x.2 i then (x.1, i) else x }

/-- Take a command out of the uncompleted ones. -/
def State.dropExec (s : State) (i : Issued) : State := s.withIu { s.iu with exec := s.iu.exec.filter fun x => !sameCmd x.2 i }

/-- The last step of a matrix command that drains is over: its plane holds the result and is DRAINING (R133), unless its feeders read an
uncorrectable word (R64). -/
def State.endSteps (s : State) (u : UnitId) (i : Issued) : State :=
  match i.e.cmd.op.mx? with
  | none => s
  | some b =>
    if !i.drains || i.stepped then s
    else match mxStepReads s i b with
      | w :: ws => (s.dropExec i).execFault u i Code.uncorrectable i.e.x.dpi (w :: ws) true
      | [] =>
        let p := mxPart i.e.cmd.h
        let a := mxStepped s i b
        (s.setArray (mxArray i.e.cmd.h) (a.setPart p ((a.part p).setPlane b.p.plane .draining))).putExec { i with stepped := true }

/-- The steps of the `n` oldest commands of a unit are over (R144). -/
def State.endAhead (s : State) (u : UnitId) (n : Nat) : State :=
  ((s.iu.onUnit u).take n).foldl (fun s x => s.endSteps u x.2) s

/-- The logical array that runs on its physical array (R54). Ballast of the array's partitions under another logical array ends. -/
def State.noteArray (s : State) (u : UnitId) : State :=
  match u with
  | .mx n _ =>
    let s1 := if s.logicalOn (s.physMx n) == n then s else s.dropBallast (agentOn (s.physMx n))
    s1.withJob { s1.job with lastMx := s1.job.lastMx.set (s.physMx n).1 (some n) (s.physMx n).2 }
  | _ => s

/-- Take the transpose unit of a TRANSPOSE (R89). -/
def State.takeTu (s : State) (i : Issued) : State :=
  match i.e.cmd.op with
  | .transpose _ => s.setTu (s.physTu (tuIndex i.e.cmd.h)) (some (i.e.x.task, i.e.x.dpi))
  | _ => s

/-- Issue a command that runs on a unit: it enters the unit's staging slot. -/
def State.stage (s : State) (e : Entry) : State :=
  let u := s.unitOf e.cmd
  let i := s.issued e
  let s1 := (s.takeTu i).noteArray u
  s1.withIu { s1.iu with staged := s1.iu.staged ++ [(u, i)] }

/-- Issue, start and complete a command in one step, on an idle unit. -/
def State.runWhole (s : State) (e : Entry) : State :=
  let u := s.unitOf e.cmd
  let i := s.issued e
  let s1 := s.noteArray u
  match s1.startFault i with
  | some k => s1.execFault u i k e.x.dpi [] false
  | none => s1.finishCmd u (s1.begin_ i)

/-- Act on the verdict of a queue head. `direct` runs an engine command to its completion; `enters` lets a LOOP move its
task's fetch position. -/
def State.act (s : State) (e : Entry) (direct enters : Bool) : State :=
  match s.verdict e direct with
  | .hold => s
  | .skip => s.skipCmd e enters
  | .fault k d => s.abortTask e.x.task k d
  | .go =>
    let s1 := s.unqueue e
    match s1.atIssue e enters with
    | some s2 => s2.closeRef e
    | none =>
      match e.cmd.op with
      | .stream b => s1.armStream e b
      | _ => if direct then s1.runWhole e else s1.stage e

/-! ### Pairs -/

/-- The VX_AUX that waits for the command with the next DPI (R193). -/
def State.auxFor (s : State) (x : Ctx) (op : Op) : Option (W64 × AuxBody) :=
  match (s.task x.task).aux, op with
  | some a, .vxMap _ | some a, .vxReduce _ => if a.1 + 1 = x.dpi then some a else none
  | _, _ => none

end Sys2Proof.Machine
end

