-- ==== Sys2Proof/Machine/Forecast.lean ====
section
/-! DEFINITION. What Equinox does at a command's fetch, issue and completion: ballast that ends and starts between samples (R378),
the load-step forecast (R380) and the hold of issue (R381). Powers are in units of 0.025 W but for coefficients, estimates and
levels, which are in 0.25 W (R390). -/

namespace Sys2Proof.Machine

/-! ### Engines by agent code -/

/-- The opcode of a command (R34), which is its operation class. -/
def opCode : Op → BitVec 8
  | .loop _ => 0x01
  | .setEc _ => 0x02
  | .setPd _ => 0x03
  | .barrier _ => 0x04
  | .calLoad _ => 0x05
  | .regionSet _ => 0x06
  | .regionSwap _ => 0x07
  | .regionAttr _ => 0x08
  | .nop => 0x0E
  | .fin => 0x0F
  | .mmOs _ => 0x10
  | .mmSt _ => 0x11
  | .mmEw _ => 0x12
  | .mmDrain _ => 0x13
  | .maskSet _ => 0x14
  | .arrayMode _ => 0x15
  | .vxMap _ => 0x30
  | .vxReduce _ => 0x31
  | .vxAux _ => 0x32
  | .vxProg _ => 0x33
  | .vxTable _ => 0x34
  | .stream _ => 0x40
  | .transpose _ => 0x41
  | .cuMap _ => 0x50
  | .cuReduce _ => 0x51
  | .cuProg _ => 0x52
  | .cuTable _ => 0x53

/-- The engine or partition, by its agent code (R289), that serves a command's queue; none for a CTL command. -/
def State.agentOf (s : State) (c : Cmd) : Option (BitVec 8) :=
  if c.h.q < 8 then some (unitCode (.mx (s.physMx (mxArray c.h)) (mxPart c.h)))
  else if c.h.q < 10 then some (unitCode (s.vxUnit c))
  else if c.h.q < 18 then some (BitVec.ofNat 8 (1 + (s.physSe c.h).1))
  else if c.h.q < 22 then some (unitCode (.tu (s.physTu (tuIndex c.h))))
  else none

/-- An issued command of an engine. -/
def State.runsOn (s : State) (a : BitVec 8) (q : UnitId × Issued) : Bool := s.agentOf q.2.e.cmd == some a

/-- An engine has an executing or a staged command. -/
def State.agentBusy (s : State) (a : BitVec 8) : Bool := (s.iu.staged ++ s.iu.busy).any (s.runsOn a)

/-- The opcode that an engine executes now; of a stream engine, that of a running transfer. -/
def State.executing (s : State) (a : BitVec 8) : Option (BitVec 8) :=
  match s.iu.busy.find? (s.runsOn a) with
  | some q => some (opCode q.2.e.cmd.op)
  | none => if (List.finRange 8).any fun e => BitVec.ofNat 8 (1 + e.1) == a && (List.finRange 4).any fun k => (s.slot e k).run.isSome
      then some 0x40 else none

/-- The heads of the queues. -/
def State.heads (s : State) : List Entry :=
  (s.iu.queued.foldl (fun (acc : List Entry) e =>
    if acc.any fun q => queueKey q.x q.cmd.h == queueKey e.x e.cmd.h then acc else e :: acc) []).reverse

/-! ### Ballast between samples (R159, R377, R378) -/

/-- Ballast may run (R377). -/
def State.ballastOk (s : State) : Bool :=
  bit s.eq.inUse 32 && s.eq.stretch == 0 && !s.rep.coreFenced && s.bring.ready

/-- The power that a list gives an agent; 0 where it gives none. -/
def powerOf (l : List (BitVec 8 × Nat)) (a : BitVec 8) : Nat := match l.find? fun p => p.1 == a with | some p => p.2 | none => 0

/-- The ballast that runs on an engine. -/
def State.ballastOn (s : State) (a : BitVec 8) : Nat := if s.ballastOk then powerOf s.eq.partBallast a else 0

/-- Full ballast of a partition of `q` quadrants: 12 W for each at reference clocks (R377), slowed with the clock (R378, R382). -/
def State.fullBallast (s : State) (q : Nat) : Nat := 480 * q * 16 / (16 + s.eq.throttle)

/-- Whole sixteenths of a full ballast that a request covers (R377). -/
def wholeSteps (full req : Nat) : Nat := if full ≤ req then full else if full = 0 then 0 else 16 * req / full * full / 16

/-- The ballast on every partition that has a command now ends (R378). -/
def State.endBallast (s : State) : State := s.dropBallast s.agentBusy

/-- All ballast ends where none may run (R377). -/
def State.stopBallast (s : State) : State := if s.ballastOk then s else s.dropBallast fun _ => true

/-- A partition that has become idle starts ballast at the work power that the last sample attributed to it, within what
BALLAST_LIMIT still allows (R378). -/
def State.startBallast (s : State) (u : UnitId) : State :=
  match u with
  | .mx n p =>
    let m := s.physMx n
    let a := unitCode (.mx m p)
    let room := 40 * bandBallast s.eq.inUse - s.eq.partBallast.foldl (fun x q => x + q.2) 0
    let b := wholeSteps (s.fullBallast (4 / partCount (s.array (s.logicalOn m)).mode)) (min room (10 * powerOf s.eq.partWork a))
    if !s.ballastOk || s.rep.fence.getLsbD m.1 || s.agentBusy a || s.eq.partBallast.any (fun q => q.1 == a) || b = 0 then s
    else s.withEq { s.eq with partBallast := s.eq.partBallast ++ [(a, b)] }
  | _ => s

/-- A command that is dispatched to a partition and completes in one step: its ballast ends, and starts again (R378). -/
def State.reballast (s : State) (c : Cmd) (u : UnitId) : State :=
  match s.agentOf c, c.op.mx? with
  | some a, some _ => (s.dropBallast (· == a)).startBallast u
  | _, _ => s

/-! ### The forecast (R380) -/

/-- The draw of the latest sample in 0.25 W (R380, R390). -/
def Eqx.draw (e : Eqx) : Nat := e.pw.getLastD 0 + e.ballast / 10

/-- The coefficient of an engine and operation class. -/
def Eqx.coeff (e : Eqx) (a op : BitVec 8) : Nat := match e.coeffs.find? fun c => c.1 == a && c.2.1 == op with
  | some c => c.2.2
  | none => 0

/-- The agents that execute commands (R289). -/
def engineAgents : List (BitVec 8) := ((List.range 8).map (1 + ·) ++ (List.range 18).map (0x10 + ·) ++ (List.range 4).map (0x24 + ·)).map
  (BitVec.ofNat 8)

/-- The engines that execute a command, each with its opcode. -/
def State.runningNow (s : State) : List (BitVec 8 × BitVec 8) := engineAgents.filterMap fun a => (s.executing a).map fun o => (a, o)

/-- The power by the coefficients of the commands that engines run. -/
def Eqx.coeffSum (e : Eqx) (l : List (BitVec 8 × BitVec 8)) : Nat := l.foldl (fun x p => x + e.coeff p.1 p.2) 0

/-- The present draw in 0.025 W: that of the latest sample, with the commands that have started and ended and the ballast that has changed
since. -/
def State.drawNow (s : State) : Int :=
  10 * (s.eq.pw.getLastD 0 : Int) + 10 * (s.eq.coeffSum s.runningNow : Int) - 10 * (s.eq.coeffSum s.eq.ranAt : Int) +
    (if s.ballastOk then (s.eq.partBallast.foldl (fun x q => x + q.2) 0 : Nat) else 0 : Nat)

/-- The commands that contribute a step: of each idle engine the one in its staging slot, else the first at a queue head. -/
def State.waiting (s : State) : List (BitVec 8 × BitVec 8) :=
  ((s.iu.staged.map fun q => q.2.e) ++ s.heads).foldl (fun acc e => match s.agentOf e.cmd with
    | some a => if (s.executing a).isSome || acc.any (fun p => p.1 == a) then acc else acc ++ [(a, opCode e.cmd.op)]
    | none => acc) []

/-- The sum of the steps of those commands. -/
def State.stepSum (s : State) : Int :=
  s.waiting.foldl (fun (x : Int) p => x + 10 * (s.eq.coeff p.1 p.2 : Int) - s.ballastOn p.1) 0

/-- The forecast is raised when the predicted level exceeds the latest sample's draw by more than 20 W, and withdrawn when the draw comes
within 20 W of it or nothing contributes a step. While it stands, the cycles in which levels were forecast are kept (R381). -/
def State.forecast (s : State) : State :=
  let e := s.eq
  let steps := s.stepSum
  let lvl := ((10 * (e.draw : Int) + steps) / 10).toNat
  if bit e.inUse 33 && decide (800 < steps) && (!e.fc || e.fcLvl < lvl) then
    (s.withEq { e with fc := true, fcLvl := lvl, fcPast := e.fcPast ++ [(s.cycle, lvl)] }).emit (.forecast lvl)
  else if e.fc && (!bit e.inUse 33 || s.waiting.isEmpty || 10 * (e.fcLvl : Int) ≤ s.drawNow + 800) then
    (s.withEq { e with fc := false, fcLvl := 0, fcPast := [] }).emit (.forecast 0)
  else s

/-- What Equinox does when the work of the engines changes from that of `s` to that of `t`: every partition that became idle starts
ballast (R378), whether its command completed or was abandoned, and the forecast follows (R380). -/
def State.follow (s t : State) : State :=
  ((s.iu.staged ++ s.iu.busy).foldl (fun t q => if (t.iu.staged ++ t.iu.busy).any (fun p => p.1 == q.1) then t else t.startBallast q.1)
    t).forecast

/-! ### The hold of issue (R381) -/

/-- The control cycles of 2 µs (R6). -/
def holdCycles : Nat := 2400

/-- The highest level that was forecast at least 2 µs before cycle `c`, of the forecast that stands. -/
def Eqx.standing (e : Eqx) (c : Nat) : Nat :=
  (e.fcPast.filter fun p => p.1 + holdCycles ≤ c).foldl (fun x p => max x p.2) 0

/-- What the start of a command adds to the draw. -/
def State.rise (s : State) (a op : BitVec 8) : Int :=
  10 * (s.eq.coeff a op : Int) - s.ballastOn a - (match s.executing a with | some o => 10 * (s.eq.coeff a o : Int) | none => 0)

/-- Equinox holds the issue of a command whose start would raise the draw by more than 20 W above the level forecast 2 µs ago. A
hold lasts at most 2 µs, and a command that has waited in its queue for 2 µs is not held. -/
def State.holds (s : State) (e : Entry) : Bool :=
  bit s.eq.inUse 33 && !(e.since + holdCycles ≤ s.cycle) &&
  !(s.eq.held.any fun h => h.1 == e.x.task && h.2.1 == e.x.dpi && h.2.2 + holdCycles ≤ s.cycle) &&
  match s.agentOf e.cmd with
  | some a => decide (max s.drawNow (10 * (s.eq.standing s.cycle : Int)) + 800 < s.drawNow + s.rise a (opCode e.cmd.op))
  | none => false

/-- Set bits of EQ_EVENTS (R390). -/
def Eqx.event (e : Eqx) (b : Nat) : Eqx := { e with events := e.events ||| (1#5 <<< b) }

/-! ### The order of issue (R46, R54) -/

/-- Two queue entries are the same command. -/
def Entry.same (a b : Entry) : Bool := a.x.task == b.x.task && a.x.dpi == b.x.dpi

/-- A folded array goes on with the logical array it ran last while that array has a ready head (R54). -/
def State.foldedOut (s : State) (ready : List Entry) (e : Entry) : Bool :=
  if e.cmd.h.q < 8 then
    let n := mxArray e.cmd.h
    match s.job.lastMx[(s.physMx n).1] with
    | some m => m != n && s.physMx m == s.physMx n && ready.any fun r => r.cmd.h.q < 8 && mxArray r.cmd.h == m
    | none => false
  else false

/-- The order of issue: lowest DPI, then lowest task (R46, R351). -/
def issuesBefore (a b : Entry) : Bool := a.x.dpi < b.x.dpi || (a.x.dpi == b.x.dpi && a.x.task.1 < b.x.task.1)

/-- The heads that the issue rule does not hold. -/
def State.readyHeads (s : State) : List Entry := s.heads.filter fun e => s.verdict e false != .hold

/-- Equinox holds a head that would start a command (R381): one that is skipped or faults starts nothing. -/
def State.heldBack (s : State) (e : Entry) : Bool := s.verdict e false == .go && s.holds e

/-- A head may issue before every other ready one: no head that can issue has a lower DPI, and its array is not given to another logical
array (R46, R54). -/
def State.goesFirst (s : State) (e : Entry) : Bool :=
  let ready := s.readyHeads
  !s.foldedOut ready e && ready.all fun q => q.same e || s.foldedOut ready q || s.heldBack q || issuesBefore e q

/-- Queue heads that could issue but for the hold. -/
def State.heldHeads (s : State) : List Entry := s.heads.filter fun e => s.verdict e false == .go && s.holds e

/-- Set FCAST_HOLD for the commands that are held, and count their holds from now. -/
def State.noteHolds (s : State) (l : List Entry) : State :=
  if l.isEmpty then s
  else
    let new := l.filter fun (e : Entry) => !(s.eq.held.any fun h => h.1 == e.x.task && h.2.1 == e.x.dpi)
    s.withEq ({ s.eq with held := s.eq.held ++ new.map fun (e : Entry) => (e.x.task, e.x.dpi, s.cycle) }.event 4)

/-- The holds of the commands that still wait. -/
def State.heldNow (s : State) : List (Fin 4 × W64 × Nat) :=
  s.eq.held.filter fun h => s.iu.queued.any fun e => e.x.task == h.1 && e.x.dpi == h.2.1

end Sys2Proof.Machine
end

