-- ==== Sys2Proof/Machine/Images.lean ====
section
/-! DEFINITION. Images that the core reads and writes at global addresses (R304): those of the core's own scratchpad from the
state, every other from or to the outside. -/

namespace Sys2Proof.Machine

/-- CHIP and KIND of a global address name this core's scratchpad (R304). -/
def State.ownAddr (s : State) (a : W64) : Bool :=
  fld a 44 20 == s.id.chip && (fld a 40 4 : BitVec 4).toNat == 1 + s.id.core.toNat

/-- OFFSET of a global address (R304). -/
def addrOff (a : W64) : Nat := (fld a 0 40 : BitVec 40).toNat

/-- Entries of a byte map from `a` on, `n` bytes, by offset from `a`. -/
def sliceBytes (m : Bytes) (a n : Nat) : Bytes :=
  m.filterMap fun p => if a ≤ p.1 && p.1 < a + n then some (p.1 - a, p.2) else none

/-- `n` bytes at a global address: `ext` gives those outside this core by global address. -/
def State.getImage (s : State) (ext : Bytes) (a : W64) (n : Nat) : Bytes :=
  if s.ownAddr a then sliceBytes s.spad.mem (addrOff a) n else sliceBytes ext a.toNat n

/-- Replace `n` bytes of the scratchpad from `a` by an image. A word written whole is sound again; a word written in part that
holds an uncorrectable error keeps its bits, and its half is poisoned (R64). -/
def State.putOwn (s : State) (a n : Nat) (img : Bytes) : State :=
  let hi := min (a + n) s.spadBytes
  let inside (w : Nat) : Bool := a ≤ 8 * w && 8 * w + 8 ≤ hi
  let cut := s.spad.bad.filter fun w => a < 8 * w + 8 && 8 * w < hi && !inside w
  let mem0 := s.spad.mem.filter fun p => p.1 < a || hi ≤ p.1 || cut.contains (p.1 / 8)
  let mem1 := img.foldl (fun (m : Store 8) p =>
    let x := a + p.1
    if p.1 < n && x < hi && !cut.contains (x / 8) then Store.set m x p.2 else m) mem0
  (s.withSpad { s.spad with mem := mem1, bad := s.spad.bad.filter fun w => !inside w }).poisonWords cut

/-- Write an image of `n` bytes, unlisted ones zero, at a global address. -/
def State.putImage (s : State) (a : W64) (n : Nat) (img : Bytes) : State :=
  if s.ownAddr a then s.putOwn (addrOff a) n img else s.emit (.memImage a n img)

/-- Write consecutive bytes at a global address. -/
def State.putBytes (s : State) (a : W64) (bs : List Byte) : State :=
  if s.ownAddr a then s.putOwn (addrOff a) bs.length (placeBytes 0 bs) else s.emit (.memWrite (placeBytes a.toNat bs))

/-- A field of a descriptor (R356): `n` bytes at byte `off`. -/
def dNat (d : BitVec 2048) (off n : Nat) : Nat := (fld d (8 * off) (8 * n)).toNat

/-- An address field of a descriptor. -/
def dAddr (d : BitVec 2048) (off : Nat) : W64 := fld d (8 * off) 64

end Sys2Proof.Machine
end

