-- ==== Sys2Proof/Machine/Pipeline.lean ====
section
/-! DEFINITION. The steps of the issue unit and the engines: fetch with loop replay (R26, R27, R48 to R51, R351), issue (R45,
R46, R54), execution start (R133, R196), completion (R42), stream promotion and completion (R81, R82, R261, R298), pending
swaps (R250) and ISSUE_TIMEOUT (R27). -/

namespace Sys2Proof.Machine

/-! ### Fetch -/

/-- The next DPI of a task is one of a command that the control core injected before the save it resumes from (R368). -/
def Task.wasInjected (k : Task) : Bool := k.skip.contains k.dpi && k.marks.any fun m => m.dpi == k.dpi && m.count.isNone

/-- An injected command that the log or the save area names has a task's next DPI, and is placed or skipped before the task fetches
further (R345, R368). -/
def State.injectDue (s : State) (t : Fin 4) : Bool :=
  t = 0 && (s.task t).aux.isNone && ((s.task t).wasInjected || (s.job.loggedInject t (s.task t).dpi).isSome)

/-- Fetch for a task may go on (R26, R49, R172, R247, R345, R351). -/
def State.mayFetch (s : State) (t : Fin 4) : Bool :=
  let k := s.task t
  s.active t && !k.fetchEnded && k.holds.isEmpty && (k.dpi - s.lowestDpi t).toNat < 512 && !s.injectDue t

/-- The fetch buffer keeps the commands of a loop body for replay (R26, R51). -/
def Task.keep (k : Task) (w : CmdWord) : List (Nat × CmdWord) :=
  if k.loops.isEmpty then [] else if k.buffer.any (fun p => p.1 == k.pos) then k.buffer else k.buffer ++ [(k.pos, w)]

/-- The fetch state after a fetched command has its DPI. -/
def Task.advance (k : Task) (w : CmdWord) (c : Cmd) : Task := { k with buffer := k.keep w }.passed k.dpi c

/-- A task passes the next DPI, whose command had issued before the save that the job resumes from (R368). -/
def Task.pass (k : Task) : Task := { k with dpi := k.dpi + 1, skip := k.skip.filter fun d => d != k.dpi }

/-- The count that a LOOP had latched before the save: the one that the save area keeps, else what it finds now (R368; log entry 31). -/
def State.skipCount (s : State) (k : Task) (c : Cmd) (b : LoopBody) : Nat :=
  ((k.marks.find? fun m => m.dpi == k.dpi).bind Mark.count).getD (countNow s c b)

/-- Fetch passes a command that a resumed job skips, since it had issued before the save; a LOOP enters its body as it did then (R368). -/
def State.skipWord (s : State) (t : Fin 4) (w : CmdWord) (c : Cmd) : State :=
  let k := s.task t
  let k1 := { k.pass with pos := k.pos + 1, buffer := k.keep w }
  s.setTask t (match c.op with
    | .loop b =>
      let n := s.skipCount k c b
      (k1.mark (s.lowestDpi t) ⟨k.dpi, some n, some c⟩).enter b.bodyLen.toNat n
    | .vxAux _ => k1
    | _ => k1.wrap 5)

/-- Decode a fetched word and place the command in its queue (R26 to R29, R55, R193, R248). A full queue stalls. A VX_MAP or
VX_REDUCE after a VX_AUX forms the pair even where its own fields do not parse, so it carries its own DPI then (R193). -/
def State.placeWord (s : State) (t : Fin 4) (w : CmdWord) : State :=
  let k := s.task t
  let x : Ctx := ⟨t, k.dpi, k.loops.map Loop.idx⟩
  let auxBad : Option W64 := k.aux.map fun a => a.1
  let fail (code : Code) (dpi : W64) : State := s.abortTaskAt t code dpi (Site.iu.of (parseHeader w)) 0
  match parseCmd w with
  | .error code => match auxBad with
    | some d => if fld w 0 8 == 0x30#8 || fld w 0 8 == 0x31#8 then fail code k.dpi else fail Code.illegalCommand d
    | none => fail code k.dpi
  | .ok c =>
    if k.skip.contains k.dpi then s.skipWord t w c
    else match k.aux, s.auxFor x c.op with
    | some a, none => fail Code.illegalCommand a.1
    | _, aux =>
      let e : Entry := ⟨x, c, aux, none, false, k.pos, k.loops, s.cycle⟩
      match s.decodeFault e, placeFault k c.op with
      | some f, _ => fail f.1 f.2
      | none, some f => fail f k.dpi
      | none, none =>
        let isAux := match c.op with | .vxAux _ => true | _ => false
        if isAux then s.setTask t (k.advance w c)
        else if s.queueFull x c.h then s
        else
          let e1 := { e with ref := s.versionRef c }
          ((s.takeRef e1.ref).setTask t (k.advance w c)).enqueue e1

/-- Fetch or replay the next command of a task (R26): from the fetch buffer; from the core's own scratchpad, where an offset
beyond it lies in no region (R308) and an uncorrectable word is an uncorrectable read (R64; log entry 83); or `data`, which other
memory answers. -/
def State.fetch (s : State) (t : Fin 4) (data : Fetched) : State :=
  if !s.mayFetch t then s
  else
    let s1 := s.settleSwaps
    let k := s1.task t
    let a := addrOff k.prog + 64 * k.pos
    let refuse (cause : BitVec 8) : State := s1.abortTaskAt t Code.remoteRefused k.dpi Site.iu (refusedBy k.prog cause)
    match k.buffer.find? fun p => p.1 == k.pos with
    | some p => s1.placeWord t p.2
    | none =>
      if s1.ownAddr k.prog then
        if s1.spadBytes < a + 64 then refuse 1
        else match s1.spad.badIn a 64 with
          | [] => s1.placeWord t (BitVec.ofNat 512 (leNat (s1.bytes a 64)))
          | ws => (s1.poisonWords ws).abortTaskAt t Code.uncorrectable k.dpi Site.iu (wordDetail ws)
      else match data with
        | .refused cause => refuse cause
        | .word w => s1.placeWord t w

/-! ### Further faults in the control cycle of an abort (R56, R392) -/

/-- The state with a task that aborted in this control cycle as it was before. -/
def State.revive (s : State) (l : Late) : State :=
  let s1 := s.setTask l.task l.was
  ((s1.withIu { s1.iu with queued := s1.iu.queued ++ l.queued, staged := s1.iu.staged ++ l.staged }).withRg l.rg).withMx
    ⟨⟨(s.mx.toList.zip l.parts.toList).map fun p => { p.1 with parts := p.2 }⟩, by simp⟩

/-- What `f` does with a task that aborted in this control cycle, when that is a further fault: it goes to the error log, and to the
task's report when its DPI is lower. `close` updates what may still come. -/
def State.lateBy (s : State) (t : Fin 4) (close : Late → Late) (f : State → State) : State :=
  match s.iu.late.find? fun l => l.task == t with
  | none => s
  | some l =>
    let u := f (s.revive l)
    match (u.task t).fault with
    | none => s
    | some q =>
      let s1 := s.withIu { s.iu with late := s.iu.late.map fun x => if x.task == t then close x else x }
      let s2 := ((s1.withErr u.err).withCc { s1.cc with evpend := u.cc.evpend }).withJob { s1.job with more := true }
      s2.setTask t ((s.task t).lowerFault q.1 q.2 (u.task t).ftags)

/-- A fault of the fetch of a task that has ended may still come in the control cycle of its abort. -/
def State.lateFetch (s : State) (t : Fin 4) : Bool := !s.running t && s.iu.late.any fun l => l.task == t && l.fetch

/-- COMMAND_FETCH (R26, R27); a command that enters a queue may change the forecast (R380). -/
def execCommandFetch (t : Fin 4) (data : Fetched) (s : State) : Host.Outcome State Fault Refusal :=
  .next (s.follow (
    if s.lateFetch t then s.lateBy t (fun l => { l with fetch := false }) fun r => r.fetch t data else s.fetch t data))

/-! ### Issue -/

/-- The head that issues next, if any can (R43 to R46, R54, R381). -/
def State.pick (s : State) : Option Entry := s.readyHeads.find? fun e => !s.heldBack e && s.goesFirst e

/-- Issue, skip or fault the head that comes first (R43 to R46, R479). -/
def State.issueNext (s : State) : State :=
  let s1 := s.settleSwaps
  match s1.pick with
  | none => s
  | some e => s1.act e false ((s1.task e.x.task).holds.contains e.x.dpi)

/-- The issue of an aborted task that would have come first in this control cycle is a fault. -/
def State.issueLate (s : State) : Option Late :=
  s.iu.late.find? fun l => !s.running l.task && l.issue && match (s.revive l).settleSwaps.pick with
    | some e => e.x.task == l.task && (match (s.revive l).settleSwaps.verdict e false with | .fault _ _ => true | _ => false)
    | none => false

/-- One issue of the control cycle. -/
def State.issueCycle (s : State) : State :=
  match s.issueLate with
  | some l => s.lateBy l.task (fun x => { x with issue := false }) State.issueNext
  | none => s.issueNext

/-- COMMAND_ISSUE (R45, R46); a command held by Equinox sets FCAST_HOLD (R381), and ballast ends where a command is dispatched
(R378). -/
def execCommandIssue (s : State) : Host.Outcome State Fault Refusal :=
  .next (s.follow (s.issueCycle.noteHolds s.settleSwaps.heldHeads).endBallast)

/-! ### Execution and completion -/

/-- Take the oldest command of a unit out of a list. -/
def takeUnit (u : UnitId) (l : List (UnitId × Issued)) : Option (Issued × List (UnitId × Issued)) :=
  (l.find? (onUnit u)).map fun x => (x.2, l.eraseP (onUnit u))

/-- A unit may start its staged command: it is idle; or it is VX or Crucible and the last pass of every computing command that it runs has
entered stage 1 (R204, R410); or it is a partition in which the last command is in its last steps and those before it drain (R133, R144). -/
def State.mayStart (s : State) (u : UnitId) : Bool :=
  match u with
  | .mx _ _ => (s.iu.onUnit u).dropLast.all fun x => x.2.drains
  | _ => (s.iu.onUnit u).all fun x => x.2.e.cmd.op.vx?.isSome

/-- The unit as a command that starts finds it: the steps of all commands before the last are over (R144). -/
def State.unitAhead (s : State) (u : UnitId) : State := s.endAhead u ((s.iu.onUnit u).length - 1)

/-- A staged command starts on its unit, or meets an execution-start fault (R133, R134, R196). -/
def State.startUnit (s : State) (u : UnitId) : State :=
  if !s.mayStart u || (takeUnit u s.iu.staged).isNone then s
  else
    let s0 := s.unitAhead u
    match takeUnit u s0.iu.staged with
    | none => s0
    | some (i, rest) =>
      let s1 := s0.withIu { s0.iu with staged := rest }
      match s1.startFault i with
      | some k => s1.execFault u i k i.e.x.dpi [] false
      | none =>
        let j := s1.begin_ i
        let s2 := s1.startPlane j
        s2.withIu { s2.iu with exec := s2.iu.exec ++ [(u, j)] }

/-- The task, among those that aborted in this control cycle, of the command staged on a unit. -/
def State.lateStaged (s : State) (u : UnitId) : Option Late := s.iu.late.find? fun l => l.staged.any fun x => x.1 == u

/-- A unit's start in the present control cycle: that of its staged command, or of one that an abort has just taken from it. -/
def State.startCycle (s : State) (u : UnitId) : State :=
  if s.iu.staged.any fun x => x.1 == u then s.startUnit u
  else match s.lateStaged u with
    | some l => s.lateBy l.task (fun x => { x with staged := x.staged.filter fun q => q.1 != u }) fun r => r.startUnit u
    | none => s

/-- EXECUTION_START; the step of the command is no longer forecast (R380). -/
def execExecutionStart (u : UnitId) (s : State) : Host.Outcome State Fault Refusal := .next (s.follow (s.startCycle u))

/-- A fault, in the control cycle of its task's abort, of a command that the abort abandoned: it goes to the error log, and to the
record when its DPI is lower (R56, R392). -/
def State.lateFault (s : State) (u : UnitId) (i : Issued) (code : Code) (dpi : W64) (loc : PhysLoc) (detail : W64) : State :=
  (s.withIu { s.iu with dropped := s.iu.dropped.eraseP fun x => x.1 == u && sameCmd x.2 i }).abortTaskAt i.e.x.task code dpi
    ((s.unitSite u loc).of i.e.cmd.h) detail

/-- The fault that an abandoned command would have met at its completion: of its data, of a word that it writes in part, or of its export
into this core's own scratchpad (R56, R64, R231, R392). -/
def State.lateComplete (s : State) (u : UnitId) : State :=
  match takeUnit u s.iu.dropped with
  | none => s
  | some (i, _) =>
    let word (ws : List Nat) (dpi : W64) : State := (s.poisonWords ws).lateFault u i Code.uncorrectable dpi noLoc (wordDetail ws)
    match s.dataFault i with
    | some f => (s.poisonWords f.2.2.1).lateFault u i f.1 f.2.1 noLoc (wordDetail f.2.2.1)
    | none =>
      let r := s.runOf i
      match s.spad.narrow r.bytes with
      | w :: ws => word (w :: ws) i.e.x.dpi
      | [] => match s.ownRefusal i r.peer with
        | some (c, ws) => (s.poisonWords ws).lateFault u i Code.remoteRefused i.e.x.dpi noLoc (peerDetail s.id.chip s.id.core c)
        | none => s

/-- Which of the commands of a unit completes: the oldest; or the `n`-th behind it when it keeps its result, or has no extent, while those
before it drain what no chain still changes (R133, R142, R144, R221). -/
def completing (l : List (UnitId × Issued)) (n : Nat) : Nat :=
  match l[n]? with
  | some x => if !x.2.drains && (l.take n).all (fun y => y.2.drains && y.2.e.cmd.h.fuse == 0#8) then n else 0
  | none => 0

/-- An executing command of a unit completes, unless a fault of one ahead has just ended its task. -/
def State.completeUnit (s : State) (u : UnitId) (n : Nat) : State :=
  let k := completing (s.iu.onUnit u) n
  match (s.iu.onUnit u)[k]? with
  | none => s.lateComplete u
  | some (_, i) =>
    let s0 := s.endAhead u k
    if (s0.iu.onUnit u).any fun x => sameCmd x.2 i then (s0.dropExec i).finishCmd u i else s0

/-- COMMAND_COMPLETE (R42): of the command of a unit that is `nth` from the oldest, where it may complete. An idle partition starts ballast
(R378), and the forecast follows (R380). -/
def execCommandComplete (u : InFlight) (s : State) : Host.Outcome State Fault Refusal :=
  .next (s.follow (s.completeUnit u.unit u.nth))

/-! ### Streams -/

/-- A shadow moves into its idle slot and is admitted, once the calendar grants its slots (R82). -/
def State.promote (s : State) (e : Fin 8) (k : Fin 4) : State :=
  let q := s.slot e k
  match q.run, q.shadow with
  | none, some i =>
    match i.streamBody with
    | some b =>
      if (b.total == 0 || streamGranted s e b) && !s.noticesDue b then (s.setSlot e k Slot.idle).admitOrFault e k i b else s
    | none => s
  | _, _ => s

/-- SHADOW_PROMOTE (R82); an admission may abort a task, after which ballast and the forecast follow (R378, R380). -/
def execShadowPromote (e : Fin 8) (slot : Fin 4) (s : State) : Host.Outcome State Fault Refusal := .next (s.follow (s.promote e slot))

/-- An execution fault of a transfer (R72, R79, R82): the half that a load writes, and those that a store into the core's own
scratchpad writes, are poisoned and the task aborts; a transfer that outlives its task only logs. -/
def State.streamFault (s : State) (e : Fin 8) (k : Fin 4) (t : Transfer) (b : StreamBody) (code : Code) (ws : List Nat)
    (detail : W64) : State :=
  let s1 := if t.orphan then s
    else if b.dir then ((ownFarBytes s b).filterMap s.locate).foldl State.poison s
    else s.poison (b.region, t.halfB)
  ((s1.poisonWords ws).closeRef (if t.orphan then { t.i.e with ref := none } else t.i.e)).abortTaskAt t.i.e.x.task code
    t.i.e.x.dpi ((slotSite e k).of t.i.e.cmd.h) detail

/-- The byte that returned data holds at a far offset. -/
def gotByte (got : List (Nat × List Byte)) (o : Nat) : Option Byte :=
  got.findSome? fun g => if g.1 ≤ o then g.2[o - g.1]? else none

/-- What a transfer writes into the core's own scratchpad when it finishes, and the uncorrectable words it reads there or writes in part
(R14, R64, R77, R79): the returned data of a load, or the copy whose far side lies here too. -/
def ownCopy (s : State) (t : Transfer) (b : StreamBody) : Bytes × List Nat :=
  if b.mcast || b.total = 0 then ([], [])
  else if !s.isOwn b.far then
    let ws := if b.dir then [] else loadBytes s b t.i.localBase (streamElems b) (gotByte t.got)
    (ws, s.spad.narrow ws)
  else
    let es := streamElems b
    let base := t.i.localBase
    if b.dir then
      let ws := storeBytes s b base es
      (ws, s.spad.badIn base b.localBytes ++ s.spad.narrow ws)
    else
      let ws := loadBytes s b base es fun o => some (s.byte o)
      (ws, (s.spad.bad.filter fun w => es.any fun e => (elemFar b e).any fun a => a / 8 == w) ++ s.spad.narrow ws)

/-- The sender's end of a multicast (R297, R298): LATE_MASK and SEQ, the number of transfers sent, are written, and drops counted. -/
def State.endMcast (s : State) (t : Transfer) (b : StreamBody) : State :=
  let m := s.job.group b.group
  let seq := m.sent
  let keep : BitVec 128 := ~~~(((BitVec.allOnes 8).setWidth 128 <<< 40) ||| ((BitVec.allOnes 16).setWidth 128 <<< 48))
  let entry := (m.entry &&& keep) ||| (t.lateMask.setWidth 128 <<< 40) ||| (seq.setWidth 128 <<< 48)
  let s1 := s.withJob (s.job.setGroup b.group { m with entry := entry })
  let s2 := s1.putBytes (dAddr s.job.desc 0x40 + BitVec.ofNat 64 (16 * b.group.toNat + 5))
    (leBytes t.lateMask.toNat 1 ++ leBytes seq.toNat 2)
  if t.drops = 0 then s2 else s2.addEc m.slateEc (BitVec.ofNat 16 t.drops)

/-- A store has a notify for another core, which must be acknowledged before it finishes (R261, R306). -/
def farNotify (s : State) (b : StreamBody) : Bool := b.notify && !b.mcast && b.total != 0 && !s.isOwn b.far

/-- A transfer finishes (R80, R82, R261, R298): its slot and transpose unit are free, what it writes here becomes visible, a notify to
this core is delivered, and then its signals land, unless its task aborted. -/
def State.finishStream (s : State) (e : Fin 8) (k : Fin 4) : State :=
  match (s.slot e k).run with
  | none => s
  | some t =>
    match t.i.streamBody with
    | none => s
    | some b =>
      if t.left != 0 || t.reports != 0 || (farNotify s b && !t.notified && !t.faulted) then s
      else
        let s1 := ((s.setSlot e k { s.slot e k with run := none }).freeTu t.i).touch
        let c := ownCopy s t b
        match c.2 with
        | w :: ws => if t.faulted then s1.poisonWords (w :: ws)
          else s1.streamFault e k t b Code.uncorrectable (w :: ws) (wordDetail (w :: ws))
        | [] =>
          let s2 := s1.withSpad (s1.spad.write c.1)
          let s3 := if b.mcast && !t.faulted then s2.endMcast t b else s2
          let s4 := if b.notify && !b.mcast && b.total != 0 && s.isOwn b.far && !t.faulted then
              s3.signal ⟨b.notifyEc, b.notifyInc⟩
            else s3
          if t.orphan then s4 else (s4.signals t.i.e.cmd.h).closeRef t.i.e

/-- STREAM_COMPLETE (R82, R261, R298). -/
def execStreamComplete (e : Fin 8) (slot : Fin 4) (s : State) : Host.Outcome State Fault Refusal :=
  .next (s.follow (s.finishStream e slot))

/-! ### Pending swaps and the timeout -/

/-- SWAP_TAKES_EFFECT (R250): a pending swap whose retiring half holds no reference. -/
def execSwapTakesEffect (region : Fin 64) (s : State) : Host.Outcome State Fault Refusal :=
  let r := BitVec.ofNat 6 region.1
  .next (s.setRegion r (s.region r).swapEffect)

/-- Every running task aborts (R27, R351). -/
def State.timeoutTasks (s : State) : State :=
  (List.finRange 4).foldl (fun s t =>
    if s.running t then s.abortTask t Code.issueTimeout (s.lowestDpi t) else s) s

/-- ISSUE_TIMEOUT (R27): time passes until nothing has issued, completed or counted for 2^24 control cycles while a job runs. -/
def execIssueTimeout (s : State) : Host.Outcome State Fault Refusal :=
  .next (
    if s.job.st == .running && !s.rep.coreFenced then
      s.follow (s.advanceTo (s.cycle + (2 ^ 24 - s.iu.quiet))).timeoutTasks.touch
    else s)

end Sys2Proof.Machine
end

