-- ==== Sys2Proof/Machine/Arrivals.lean ====
section
/-! DEFINITION. What arrives at the core from other cores and chips: inbound accesses and their checks (R64, R75, R284, R308),
read data, acknowledgements and refusals of the core's own transfers (R79, R306, R308), notifies (R41, R261), multicast (R298,
R299), and the moves of routes that a port or a path going down brings about (R325, R326). -/

namespace Sys2Proof.Machine

/-! ### Inbound accesses -/

/-- Answer an access: on the chip with a message over the mesh; a requester on another chip with a packet in the origin positions of agent
13, the inbound service, at the port that leads back to it (R310, R315). -/
def State.answer (s : State) (req : Requester) (m : Msg) (us : List FabUnit) : State :=
  if req.chip == s.id.chip then s.emit m else s.sendPackets req.back.1 13 0 noDpi [us]

/-- The header of a run of this core's scratchpad, or of a NOTIFY to it, as the packet that is answered has it: ADDR of its window, FIRST
and LAST. -/
def State.runHead (s : State) (lastw : Bool) (addr len : Nat) : PacketHead :=
  let a := globalAt s.ownBase addr
  ⟨0, 0, lastw, fld a 8 56, fld a 0 8, fld a 0 8 + BitVec.ofNat 8 (len - 1), 0, 0, 0⟩

/-- Acknowledge a run or window (R306). -/
def State.ackRun (s : State) (req : Requester) (addr len : Nat) : State :=
  let h := s.runHead req.lastw addr len
  s.answer req (.ack req) [answerHead (s.sender 13) opAck h h.first]

/-- Refuse a run or window (R308). -/
def State.refuseRun (s : State) (req : Requester) (addr len : Nat) (cause : BitVec 8) : State :=
  s.answer req (.refuse req cause) [answerHead (s.sender 13) opRefuse (s.runHead req.lastw addr len) cause]

/-- Return the data of a run or window (R306, R311). -/
def State.dataRun (s : State) (req : Requester) (addr len : Nat) : State :=
  s.answer req (.readData req (s.bytes addr len))
    (runPacket (s.sender 13) opReadData req.lastw (globalAt s.ownBase addr) len (runUnits s.byte addr len))

/-- The header of a NOTIFY to this core (R310). -/
def State.notifyHead (s : State) (ec : BitVec 6) (inc : BitVec 8) : PacketHead :=
  ⟨0, 0, false, fld s.ownBase 8 56, ec.setWidth 8, inc, 0, 0, 0⟩

/-- Acknowledge or refuse a NOTIFY (R306, R308). -/
def State.ackNotify (s : State) (req : Requester) (ec : BitVec 6) (inc : BitVec 8) : State :=
  s.answer req (.ack req) [answerHead (s.sender 13) opAck (s.notifyHead ec inc) (ec.setWidth 8)]
def State.refuseNotify (s : State) (req : Requester) (ec : BitVec 6) (inc cause : BitVec 8) : State :=
  s.answer req (.refuse req cause) [answerHead (s.sender 13) opRefuse (s.notifyHead ec inc) cause]

/-- Refuse an inbound run or window and log it (R75). -/
def State.refuseInbound (s : State) (req : Requester) (addr len : Nat) (cause : BitVec 8) : State :=
  (s.note Code.inboundRefused 0x28 0 0 noDpi (peerDetail req.chip req.core cause)).refuseRun req addr len cause

/-- Poison the halves of uncorrectable words that an inbound access met, log them as notices, and refuse it (R64, R75). -/
def State.refuseWords (s : State) (req : Requester) (addr len : Nat) (ws : List Nat) (cause : BitVec 8) : State :=
  (s.noteWords 0 (fun _ => noDpi) ws).refuseInbound req addr len cause

/-- The writes of some runs: first byte and bytes of each. -/
def runWrites (rs : List (Nat × List Byte)) : Bytes := rs.flatMap fun r => placeBytes r.1 r.2

/-- The parts of a span of bytes that lie in one 256-byte window each (R84, R311): first byte and length. -/
def windowParts (addr n : Nat) : List (Nat × Nat) :=
  if n = 0 then []
  else (List.range ((addr + n - 1) / 256 - addr / 256 + 1)).map fun k =>
    let lo := max addr (256 * (addr / 256 + k))
    (lo, min (addr + n) (256 * (addr / 256 + k + 1)) - lo)

/-- An arriving run or window is written or refused whole (R75); a fenced core, or one not past bring-up, refuses it (R284,
R308). -/
def State.windowWrite (s : State) (req : Requester) (addr : Nat) (bytes : List Byte) : State :=
  if !s.live then s.refuseRun req addr bytes.length 4
  else match s.writeCause (placeBytes addr bytes) with
    | some (c, ws) => s.refuseWords req addr bytes.length ws c
    | none => (s.withSpad (s.spad.write (placeBytes addr bytes))).ackRun req addr bytes.length

/-- Each window of an arriving write is checked on its own (R75). -/
def State.inboundWrite (s : State) (req : Requester) (addr : Nat) (bytes : List Byte) : State :=
  (windowParts addr bytes.length).foldl (fun s p => s.windowWrite req p.1 ((bytes.drop (p.1 - addr)).take p.2)) s

/-- INBOUND_WRITE (R75). -/
def execInboundWrite (req : Requester) (addr : Nat) (bytes : List Byte) (s : State) : Host.Outcome State Fault Refusal :=
  .next (s.inboundWrite req addr bytes)

/-- A run or window of an arriving read request is answered with data or refused (R64, R75, R308). -/
def State.windowRead (s : State) (req : Requester) (addr len : Nat) : State :=
  if !s.live then s.refuseRun req addr len 4
  else if !s.allBytes addr len (fun _ _ => true) then s.refuseInbound req addr len 1
  else if !s.allBytes addr len (fun r h => !r.poisoned h) then s.refuseInbound req addr len 2
  else match s.spad.badIn addr len with
    | [] => s.dataRun req addr len
    | ws => s.refuseWords req addr len ws 2

/-- Each window of an arriving read request is checked on its own (R75). -/
def State.inboundRead (s : State) (req : Requester) (addr len : Nat) : State :=
  (windowParts addr len).foldl (fun s p => s.windowRead req p.1 p.2) s

/-- READ_REQ (R75); the banks correct the single-bit errors in words that it reads (R64). -/
def execReadReq (req : Requester) (addr : Nat) (run : ReadRun) (s : State) : Host.Outcome State Fault Refusal :=
  .next ((run.single.filter fun a => s.live && addr ≤ a && a < addr + run.len && s.allBytes a 1 (fun r h => !r.poisoned h)).foldl
    State.corrected (s.inboundRead req addr run.len))

/-- NOTIFY (R41, R261): the increment lands and is acknowledged. -/
def execNotify (req : Requester) (ec : BitVec 6) (inc : BitVec 8) (s : State) : Host.Outcome State Fault Refusal :=
  .next (if s.live then (s.signal ⟨ec, inc⟩).ackNotify req ec inc else s.refuseNotify req ec inc 4)

/-! ### Responses to the core's own transfers -/

/-- The running transfer of a slot with its body. -/
def State.transfer (s : State) (e : Fin 8) (k : Fin 4) : Option (Transfer × StreamBody) :=
  match (s.slot e k).run with
  | some t => t.i.streamBody.map fun b => (t, b)
  | none => none

/-- Replace the running transfer of a slot. -/
def State.setRun (s : State) (e : Fin 8) (k : Fin 4) (t : Transfer) : State :=
  s.setSlot e k { s.slot e k with run := some t }

/-- A transfer fails: it counts as one of an aborted task from now on, a load's destination is poisoned and the task aborts
(R79, R82). -/
def State.failTransfer (s : State) (e : Fin 8) (k : Fin 4) (t : Transfer) (b : StreamBody) (code : Code) (detail : W64)
    (ws : List Nat) : State :=
  (s.setRun e k { t with orphan := true, faulted := true }).streamFault e k t b code ws detail

/-- Returned data of one run or window is kept until the last one has returned, when all of it becomes visible (R14, R77, R306). -/
def State.landData (s : State) (e : Fin 8) (k : Fin 4) (addr : Nat) (bytes : List Byte) : State :=
  match s.transfer e k with
  | none => s
  | some (t, b) =>
    if b.dir || t.left = 0 || !(streamUnits s b).contains (addr, bytes.length) then s
    else s.setRun e k { t with left := t.left - 1, got := t.got ++ [(addr, bytes)] }

/-- READ_DATA (R306). -/
def execReadData (e : Fin 8) (slot : Fin 4) (addr : Nat) (bytes : List Byte) (s : State) :
    Host.Outcome State Fault Refusal := .next (s.landData e slot addr bytes)

/-- Acknowledgements of a store's runs or windows, or of its NOTIFY, which leaves once every run or window is acknowledged (R261,
R306). -/
def State.acknowledge (s : State) (e : Fin 8) (k : Fin 4) (n : Nat) : State :=
  match s.transfer e k with
  | none => s
  | some (t, b) =>
    if !b.dir || t.left = 0 then s
    else
      let t1 := { t with left := t.left - n }
      if t1.left = 0 && farNotify s b && !t.notified && !t.faulted then
        (s.setRun e k { t1 with left := 1, notified := true }).sendNotify e.1 t.i.e.x t.route t.path b.far b.notifyEc b.notifyInc
      else s.setRun e k t1

/-! ### Responses to exports (R231) -/

/-- A command exports as an agent and, on an array, from a partition (R288). -/
def State.exportsAs (s : State) (a k : Nat) (x : UnitId × Issued) : Bool :=
  s.exportAgent x.1 == a && match x.1 with | .mx _ q => q.1 == k | _ => true

/-- The command that waits for the peer of an export agent and, on an array, of a partition (R288). -/
def State.exporter (s : State) (a k : Nat) : Option (UnitId × Issued × Exporting) :=
  s.iu.exec.findSome? fun x => match x.2.exporting with
    | none => none
    | some p => if s.exportsAs a k x then some (x.1, x.2, p) else none

/-- A fault of an export whose task aborted in the present control cycle (R56, R392). -/
def State.lateExport (s : State) (a k : Nat) (code : Code) (detail : W64) : State :=
  match s.iu.dropped.find? fun x => x.2.exporting.isSome && s.exportsAs a k x with
  | some (u, i) => s.lateFault u i code i.e.x.dpi noLoc detail
  | none => s

/-- The last answer of a peer completes the command, which folds what Assay has seen of it (R42, R117). -/
def State.exportDone (s : State) (u : UnitId) (i : Issued) : State :=
  ((s.dropExec i).foldSeen i u (match i.exporting with | some p => p.seen | none => [])).closeCmd i

/-- Acknowledgements of exported windows or runs, then of the notify (R231). -/
def State.exportAck (s : State) (a k n : Nat) : State :=
  match s.exporter a k with
  | none => s
  | some (u, i, p) =>
    if n = 0 then s
    else if p.notified then s.exportDone u i
    else
      let rest := p.units.drop n
      if !rest.isEmpty then s.putExport u i { p with units := rest }
      else if i.peerInc = 0#8 then s.exportDone u i
      else (s.putExport u i { p with units := [], notified := true }).sendNotify (s.exportAgent u) i.e.x p.route p.path i.peerAddr
        i.peerEc i.peerInc

/-- An export fails: the halves that its command wrote are poisoned and its task aborts (R56, R231). -/
def State.exportFail (s : State) (u : UnitId) (i : Issued) (code : Code) (detail : W64) : State :=
  (((s.dropExec i).poisonOutputs i).closeRef i.e).abortTaskAt i.e.x.task code i.e.x.dpi ((s.unitSite u noLoc).of i.e.cmd.h) detail

/-- An export meets the new selection of its route entry, as a store does (R326). -/
def State.exportReroute (s : State) (k : Nat) (v : BitVec 2) (u : UnitId) (i : Issued) (p : Exporting) : State :=
  if p.route != some k then s
  else if v = 3#2 || p.notified then s.exportFail u i Code.linkDown 0
  else (((s.unsend i.e.x.task i.e.x.dpi).putExport u i { p with path := v }).sendExport u i { p with path := v }).noteFor
    (BitVec.ofNat 2 i.e.x.task.1) Code.routeChange 0x43 0 0 i.e.x.dpi 0

/-- Every export meets the new selection of a route entry. -/
def State.exportsReroute (s : State) (k : Nat) (v : BitVec 2) : State :=
  s.iu.exec.foldl (fun s x => match x.2.exporting with | some p => s.exportReroute k v x.1 x.2 p | none => s) s

/-- ACK (R306): agents 0 to 7 are stream engines, the others export (R288). -/
def execAck (e : Fin 13) (slot : Fin 4) (windows : Nat) (s : State) : Host.Outcome State Fault Refusal :=
  .next (s.follow (if h : e.1 < 8 then s.acknowledge ⟨e.1, h⟩ slot windows else s.exportAck e.1 slot.1 windows))

/-! ### Routes that change (R325, R326) -/

/-- Replace the selection of a route entry. -/
def State.setSel (s : State) (k : Nat) (v : BitVec 2) : State :=
  s.withFa { s.fa with sel := s.fa.sel.map fun p => if p.1 == k then (k, v) else p }

/-- The runs or windows of a transfer that have not been acknowledged, in their order: the last `left` of them (R307, R326, R285). -/
def restUnits (s : State) (t : Transfer) (b : StreamBody) : List (Nat × Nat) :=
  let us := streamUnits s b
  us.drop (us.length - t.left)

/-- The transfer of a slot meets the new selection of its route entry: it is sent again on the new path; it fails on a dead
entry, or with its NOTIFY unacknowledged (R326). A store sends the same bytes again (R14). The change of its bound is logged. -/
def State.reroute (s : State) (k : Nat) (v : BitVec 2) (e : Fin 8) (q : Fin 4) : State :=
  match s.transfer e q with
  | none => s
  | some (t, b) =>
    if t.route != some k || t.left = 0 then s
    else if v = 3#2 || t.notified then
      if t.faulted then s.setRun e q { t with left := 0 }
      else s.failTransfer e q { t with left := 0 } b Code.linkDown 0 []
    else
      (((s.unsend t.i.e.x.task t.i.e.x.dpi).setRun e q { t with path := v }).sendRuns e t.i b t.data t.route v (restUnits s t b)).noteFor
        (BitVec.ofNat 2 t.i.e.x.task.1) Code.routeChange 0x43 0 0 t.i.e.x.dpi 0

/-- Every slot of every stream engine. -/
def allSlots : List (Fin 8 × Fin 4) := (List.finRange 8).flatMap fun e => (List.finRange 4).map fun k => (e, k)

/-- The place of a slot's transfer in the order of admission. -/
def State.admitted (s : State) (q : Fin 8 × Fin 4) : Nat := match (s.slot q.1 q.2).run with | some t => t.seq | none => 0

/-- Insert a slot by the order of its transfer's admission. -/
def State.insertSlot (s : State) (q : Fin 8 × Fin 4) : List (Fin 8 × Fin 4) → List (Fin 8 × Fin 4)
  | [] => [q]
  | x :: rest => if s.admitted q < s.admitted x then q :: x :: rest else x :: s.insertSlot q rest

/-- The slots that run a transfer, in the order in which their transfers were admitted (R326). -/
def State.slotsInOrder (s : State) : List (Fin 8 × Fin 4) :=
  (allSlots.filter fun q => (s.slot q.1 q.2).run.isSome).foldl (fun acc q => s.insertSlot q acc) []

/-- Move the selection of a route entry to the next path after `from_` with a live first port, or to DEAD (R325). The change is
logged; an entry with no live path is reported (R326). -/
def State.moveSel (s : State) (k : Nat) (from_ : Nat) : State :=
  let en := s.fa.route.get k
  let v := s.pathFrom en (from_ + 1)
  let s1 := (s.setSel k v).note Code.routeChange 0x43 0 0 noDpi 0
  let s2 := if v = 3#2 then
      (s1.note Code.noPath 0x43 0 0 noDpi 0).emit (.noPath (fld en 8 20) (fld en 28 20))
    else s1
  (s2.slotsInOrder.foldl (fun s q => s.reroute k v q.1 q.2) s2).exportsReroute k v

/-- Unicast entries whose selected first egress port is port `q` of the chip. -/
def State.entriesOn (s : State) (q : Nat) : List (Nat × Nat) :=
  s.fa.sel.filterMap fun p =>
    let en := s.fa.route.get p.1
    if routeValid en && !routeMcast en && p.2 != 3#2 && routePort en p.2.toNat == q then some (p.1, p.2.toNat) else none

/-- A port of the chip is down: the selections that use it move forward (R325). Between jobs no entry has a selection. -/
def State.losePort (s : State) (q : Fin 64) : State :=
  let s1 := s.withFa { s.fa with portLive := s.fa.portLive &&& ~~~(1#64 <<< q.1) }
  if s1.job.st == .running then s.follow ((s1.entriesOn q.1).foldl (fun s p => s.moveSel p.1 p.2) s1) else s1

/-- PORT_DOWN_NOTICE (R325). -/
def execPortDownNotice (port : Fin 64) (s : State) : Host.Outcome State Fault Refusal :=
  .next (if s.live then s.losePort port else s)

/-- A refusal of a transfer's run, window or read (R79, R308): cause 5 moves its route forward, and fails only a multicast or a
transfer with no path left (R325, R326); every other cause fails it with REMOTE_REFUSED. -/
def State.refused (s : State) (e : Fin 8) (k : Fin 4) (cause : BitVec 8) (chip : BitVec 20) (core : BitVec 3) : State :=
  match s.transfer e k with
  | none => s
  | some (t, b) =>
    match t.route with
    | some r =>
      if cause = 5#8 then
        if t.left = 0 then s
        else if s.routeSel r = t.path then s.moveSel r t.path.toNat
        else s.reroute r (s.routeSel r) e k
      else if t.left = 0 then s
      else if t.faulted then s.setRun e k { t with left := t.left - 1 }
      else s.failTransfer e k { t with left := t.left - 1 } b Code.remoteRefused (peerDetail chip core cause) []
    | none =>
      if t.left = 0 && t.reports = 0 then s
      else
        let t1 := { t with left := t.left - 1, reports := if b.mcast then t.reports - 1 else t.reports }
        if t.faulted then s.setRun e k t1
        else if b.mcast && cause = 5#8 then s.failTransfer e k { t1 with reports := 0 } b Code.linkDown 0 []
        else s.failTransfer e k t1 b Code.remoteRefused (peerDetail chip core cause) []

/-- A refusal of an export: PATH_DOWN moves its route forward (R325, R326); every other cause fails the command (R231). -/
def State.exportRefused (s : State) (a k : Nat) (cause : BitVec 8) (chip : BitVec 20) (core : BitVec 3) : State :=
  match s.exporter a k with
  | none => if cause = 5#8 then s else s.lateExport a k Code.remoteRefused (peerDetail chip core cause)
  | some (u, i, p) => match p.route with
    | some r =>
      if cause = 5#8 then
        (if s.routeSel r = p.path then s.moveSel r p.path.toNat else s.exportReroute r (s.routeSel r) u i p)
      else s.exportFail u i Code.remoteRefused (peerDetail chip core cause)
    | none => s.exportFail u i Code.remoteRefused (peerDetail chip core cause)

/-- REFUSE (R308). -/
def execRefuse (e : Fin 13) (slot : Fin 4) (cause : BitVec 8) (chip : BitVec 20) (core : BitVec 3) (s : State) :
    Host.Outcome State Fault Refusal :=
  .next (s.follow (if h : e.1 < 8 then s.refused ⟨e.1, h⟩ slot cause chip core else s.exportRefused e.1 slot.1 cause chip core))

/-- A transfer whose responses do not return in time fails; it waits for nothing more (R296, R326). -/
def State.timeOut (s : State) (e : Fin 8) (k : Fin 4) (onDie : Bool) (code : Code) : State :=
  match s.transfer e k with
  | none => s
  | some (t, b) =>
    let far := t.route.isSome || (b.mcast && (s.job.group b.group).remote)
    if (t.left = 0 && t.reports = 0) || far == onDie then s
    else
      let t1 := { t with left := 0, reports := 0 }
      if t.faulted then s.setRun e k t1 else s.failTransfer e k t1 b code 0 []

/-- An export whose responses do not return in time fails its command. -/
def State.exportTimeOut (s : State) (a k : Nat) (onDie : Bool) (code : Code) : State :=
  match s.exporter a k with
  | none => s.lateExport a k code 0
  | some (u, i, p) => if p.route.isSome == onDie then s else s.exportFail u i code 0

/-- The timeout of an agent's transfer. -/
def State.agentTimeOut (s : State) (e : Fin 13) (k : Fin 4) (onDie : Bool) (code : Code) : State :=
  s.follow (if h : e.1 < 8 then s.timeOut ⟨e.1, h⟩ k onDie code else s.exportTimeOut e.1 k.1 onDie code)

/-- MESH_TIMEOUT (R296). -/
def execMeshTimeout (e : Fin 13) (slot : Fin 4) (s : State) : Host.Outcome State Fault Refusal :=
  .next (s.agentTimeOut e slot true Code.meshTimeout)

/-- FABRIC_TIMEOUT (R326). -/
def execFabricTimeout (e : Fin 13) (slot : Fin 4) (s : State) : Host.Outcome State Fault Refusal :=
  .next (s.agentTimeOut e slot false Code.fabricTimeout)

/-! ### Multicast (R298, R299) -/

/-- The release test of a receiver (R298). -/
def State.released (s : State) (m : McastGroup) : Bool := (s.ec m.relEc - m.delivered).toNat < 0x8000

/-- Report a multicast to its sender: on the chip with a message; on another chip with an MREPORT packet of agent 13, which has ADDR and LAST
of the transfer's first run (R298, R310, R315; log entry 128). -/
def State.reportMcast (s : State) (g : BitVec 12) (chip : BitVec 20) (core : BitVec 3) (seq : BitVec 16) (rs : List (Nat × List Byte))
    (back : Fin 64) (result : BitVec 2) : State :=
  let r := rs.headD (0, [])
  s.answer ⟨chip, core, back, true⟩ (.mreport g chip core seq result)
    [answerHead (s.sender 13) opMreport (s.runHead true r.1 r.2.length) (result.setWidth 8)]

/-- What became of a transfer that a receiver has taken before (R285, R298). -/
def McastGroup.took (m : McastGroup) (chip : BitVec 20) (core : BitVec 3) (seq : BitVec 16) : Option Bool :=
  (m.taken.find? fun t => t.chip == chip && t.core == core && t.seq == seq).map Taken.delivered

/-- Keep a transfer that has been taken, and of the same sender those at most 2^15 SEQs before it. -/
def McastGroup.take (m : McastGroup) (t : Taken) : McastGroup :=
  { m with taken := (m.taken.filter fun q => !(q.chip == t.chip && q.core == t.core && 0x8000#16 ≤ t.seq - q.seq)) ++ [t] }

/-- The receiver's log records this transfer as dropped, and how far the log has been read. -/
def State.loggedDrop (s : State) (key : W64) : Option Job := (s.job.lookup fun r => r.kind == 3 && r.key == key).map Prod.snd

/-- Drop a late transfer (R298). -/
def State.dropMcast (s : State) (m : McastGroup) (g : BitVec 12) (seq : BitVec 16) : State :=
  (s.addEc m.rlateEc 1).note Code.mcastDrop 0x28 0 0 noDpi (g.setWidth 64 ||| (seq.setWidth 64 <<< 12))

/-- A multicast transfer reaches this receiver (R75, R298, R299): refused, delivered or dropped. In replay mode the log decides
which it drops; otherwise a drop of a running job is logged. One that a detour switch sends again, and that the receiver has taken, is
reported again; delivered before, its bytes are written again, and nothing counts or notifies twice (R285). -/
def State.receiveMcast (s : State) (g : BitVec 12) (chip : BitVec 20) (core : BitVec 3) (seq : BitVec 16)
    (rs : List (Nat × List Byte)) (note : Option (BitVec 6 × BitVec 8)) (back : Fin 64) : State :=
  let tell (s : State) (result : BitVec 2) : State := s.reportMcast g chip core seq rs back result
  if !s.live then tell s 2
  else match s.writeCause (runWrites rs) with
    | some (c, ws) =>
      tell ((s.noteWords 0 (fun _ => noDpi) ws).note Code.inboundRefused 0x28 0 0 noDpi (peerDetail chip core c)) 2
    | none =>
      let m := s.job.group g
      let key := mdropKey g chip core seq
      let runs := s.job.st == .running
      let put (j : Job) (m : McastGroup) (d : Bool) : State := s.withJob (j.setGroup g (m.take ⟨chip, core, seq, d⟩))
      let deliver : State :=
        let s1 := put s.job { m with delivered := m.delivered + 1, owes := true } true
        let s2 := s1.withSpad (s1.spad.write (runWrites rs))
        let s3 := match note with | some n => s2.signal ⟨n.1, n.2⟩ | none => s2
        tell s3 0
      match m.took chip core seq with
      | some true => tell (s.withSpad (s.spad.write (runWrites rs))) 0
      | some false => tell s 1
      | none =>
        if runs && s.job.replays then
          match s.loggedDrop key with
          | some j => tell ((put j m false).dropMcast m g seq) 1
          | none => deliver
        else if s.released m then deliver
        else tell ((put (if runs then (s.job.append 3 0 0 key []).1 else s.job) m false).dropMcast m g seq) 1

/-- A multicast that arrives from the fabric at this core's ports (R317): the chip's multicast entry at index MROUTE delivers it to
LOCAL_CORES and replicates it onto PORTS. An index of no multicast entry is logged as units that no entry names (log entry 106). -/
def State.spreadMcast (s : State) (g : BitVec 12) (chip : BitVec 20) (core : BitVec 3) (seq : BitVec 16)
    (rs : List (Nat × List Byte)) (note : Option (BitVec 6 × BitVec 8)) (back : Fin 64) (r : BitVec 12) : State :=
  let e := s.fa.route.get r.toNat
  if !s.live then s
  else if !routeValid e || !routeMcast e then s.note Code.calMismatch 0x43 0 0 noDpi 0
  else
    let s1 := (List.range 8).foldl (fun s c =>
      if !bit e (8 + c) then s
      else if c = s.id.core.toNat then s.receiveMcast g chip core seq rs note back
      else s.emit (.mcastTo c g chip core seq rs note)) s
    (List.range 64).foldl (fun s q => if bit e (16 + q) then s.emit (.mcastOn q g chip core seq rs note) else s) s1

/-- MCAST_WRITE (R298): a transfer of the chip, or one from the fabric under the index MROUTE (R317). -/
def execMcastWrite (group : BitVec 12) (chip : BitVec 20) (core : BitVec 3) (seq : BitVec 16)
    (runs : List (Nat × List Byte)) (tail : McastTail) (s : State) : Host.Outcome State Fault Refusal :=
  .next (match tail.mroute with
    | none => s.receiveMcast group chip core seq runs tail.note tail.back
    | some r => s.spreadMcast group chip core seq runs tail.note tail.back r)

/-- A receiver's report reaches the sender (R298): a drop is counted, with its bit of LATE_MASK for a receiver on the chip. A
refusal fails the transfer; its cause is a free value where the report carries none. A receiver reports once: the report of a transfer
that was sent again adds nothing (R285). -/
def State.takeReport (s : State) (e : Fin 8) (k : Fin 4) (result : BitVec 2) (chip : BitVec 20) (core : BitVec 3) : State :=
  match s.transfer e k with
  | none => s
  | some (t, b) =>
    if !b.mcast || t.reports = 0 || t.told.contains (chip, core) then s
    else
      let t1 := { t with reports := t.reports - 1, told := t.told ++ [(chip, core)] }
      if result = 0#2 then s.setRun e k t1
      else if result = 1#2 then
        let late := if chip == s.id.chip then t.lateMask ||| (1#8 <<< core.toNat) else t.lateMask
        s.setRun e k { t1 with drops := t.drops + 1, lateMask := late }
      else if result = 2#2 && !t.faulted then
        (s.draw.2).failTransfer e k t1 b Code.remoteRefused (peerDetail chip core (s.draw.1.setWidth 8)) []
      else if result = 2#2 then s.setRun e k t1
      else s

/-- MREPORT (R298). -/
def execMreport (e : Fin 8) (slot : Fin 4) (result : BitVec 2) (chip : BitVec 20) (core : BitVec 3) (s : State) :
    Host.Outcome State Fault Refusal := .next (s.follow (s.takeReport e slot result chip core))

/-- RELEASE_NOTICE (R299): a receiver has released its buffer of a group, which counts once, and tells the keys of the drops that its log
records (log entry 48). -/
def execReleaseNotice (group : BitVec 12) (chip : BitVec 20) (notice : Notice) (s : State) : Host.Outcome State Fault Refusal :=
  let m := s.job.group group
  let core := notice.core
  let news := (notice.drops.map fun d => (chip, core, d)).filter fun d => !m.drops.contains d
  .next (if s.job.st == .running then
      s.withJob (s.job.setGroup group { m with
        notices := if m.notices.contains (chip, core) then m.notices else m.notices ++ [(chip, core)], drops := m.drops ++ news })
    else s)

/-- The keys of the drops that the log of a job records for a group (R359). -/
def Job.dropKeys (j : Job) (g : BitVec 12) : List W64 :=
  (j.logRecs.filter fun r => r.kind == 3 && fld r.key 0 12 == g).map LogRec.key

/-- A receiver in replay mode sends the release notices it owes, each once its group is released, with the drops of the group that its log
records (R299; log entry 49). -/
def State.sendReleases (s : State) : State :=
  if !s.job.replays || s.job.st != .running then s
  else s.job.mcast.foldl (fun s p =>
    let g := BitVec.ofNat 12 p.1
    if p.2.owes && s.released p.2 then
      (s.withJob (s.job.setGroup g { p.2 with owes := false })).emit (.release g (s.job.dropKeys g))
    else s) s

end Sys2Proof.Machine
end

