-- ==== Sys2Proof/Machine/Background.lean ====
section
/-! DEFINITION. Background work: class levels (R412, R413), scrub (R64), the drain of tile records (R116) and telemetry (R467). -/

namespace Sys2Proof.Machine

/-! ### Levels (R412, R413) -/

/-- Deadline of a class in µs. -/
def Background.deadline (b : Background) (c : Nat) : Nat :=
  let d : W64 := if c < 2 then b.d0 else b.d1
  (fld d (32 * (c % 2)) 32).toNat

/-- The level after a re-evaluation; the age is in 10 ns ticks. -/
def newLevel (old : BitVec 2) (age deadline : Nat) : BitVec 2 :=
  if 100 * deadline ≤ age then 2 else if 75 * deadline ≤ age then 1 else if age < 50 * deadline then 0 else old

/-- Re-evaluate a class; entering level 2 is logged. -/
def State.level (s : State) (c : Fin 4) (age : Nat) : State :=
  let old := s.bg.level[c.1]
  let v := newLevel old age (s.bg.deadline c.1)
  let s1 := s.withBg { s.bg with level := s.bg.level.set c.1 v c.2 }
  if v = 2#2 && old != 2#2 then s1.note Code.backgroundOverdue 0x30 0 0 noDpi 0 else s1

/-- The oldest of some ticks; the present one when there is none. -/
def State.oldest (s : State) (l : List Nat) : Nat := l.foldl min s.tick10

/-- The admissions of the unfinished transfers of class STREAM (R412): streams of BACKGROUND regions and the read of a CAL_LOAD. -/
def State.backStreams (s : State) : List Nat :=
  (s.se.slots.toList.filterMap fun k => k.run.bind fun t => t.back) ++ (s.cal.loading.map CalLoading.since).toList

/-- The age of a class in ticks (R412). -/
def State.classAge (s : State) (c : Fin 4) : Nat :=
  s.tick10 - (match c.1 with
    | 0 => s.bg.passStart
    | 1 => s.oldest s.alm.tileAge
    | 2 => s.oldest (s.bg.teleQ.map Prod.fst)
    | _ => s.oldest s.backStreams)

/-- Every class is evaluated again from its age. -/
def State.levels (s : State) : State := (List.finRange 4).foldl (fun t c => t.level c (s.classAge c)) s

/-- BACKGROUND_LEVEL (R413): the evaluation at microsecond `us` of the timebase, up to which time passes if it lies ahead (R340; log entry
2). -/
def execBackgroundLevel (us : Nat) (s : State) : Host.Outcome State Fault Refusal :=
  .next (if s.bring.ready then (s.advanceTo (1200 * us)).levels else s)

/-! ### Scrub (R64) -/

/-- The physical bank of a scrubbed word: at or above the capacity, lines alternate over the spare banks (log entry 113). -/
def State.scrubLoc (s : State) (addr : Nat) : W32 :=
  if addr < s.spadBytes then s.bankLoc addr else BitVec.ofNat 32 (s.spareBanks.getD (addr / 256 % 2) 0)

/-- A scrub read of a word (R64): a word of a spare bank has no local address to log and lies in no region. -/
def State.scrub (s : State) (addr : Nat) (found : EccKind) : State :=
  let w := addr / 8
  let at_ (s : State) (code : Code) : State :=
    s.note code 0x47 0 (s.scrubLoc addr) noDpi (if addr < s.spadBytes then wordDetail [w] else 0)
  let double (s : State) : State := (at_ s Code.uncorrectable).poisonWords [w]
  if s.spad.bad.contains w then double s
  else
    match found with
    | .clean => s
    | .single => at_ s Code.eccCorrected
    | .double => double (s.withSpad { s.spad with bad := s.spad.bad ++ [w] })

/-- Words of a scrub pass: every word of the 34 physical banks (R412; log entry 113). -/
def State.passLength (s : State) : Nat := 34 * (s.spadBytes / 256)

/-- A word of the pass has been read; after the last one the next pass begins (R412). -/
def State.passWord (s : State) : State :=
  if s.bg.passWords + 1 < s.passLength then s.withBg { s.bg with passWords := s.bg.passWords + 1 }
  else s.withBg { s.bg with passWords := 0, passStart := s.tick10 }

/-- SCRUB (R64). An address at or above the capacity stands for a word of a spare bank. -/
def execScrub (addr : Nat) (found : EccKind) (s : State) : Host.Outcome State Fault Refusal :=
  .next (if s.bring.ready then (s.scrub addr found).passWord else s)

/-! ### Tile records (R116) -/

/-- Write the oldest queued record to the Assay buffer, after the ones already there. -/
def State.drainTile (s : State) : State :=
  match s.alm.tiles with
  | [] => s
  | r :: rest =>
    let s1 := s.putBytes (s.job.assayBuf + BitVec.ofNat 64 (192 * s.alm.tileCount)) (leBytes r.toNat 192)
    s1.withAlm { s1.alm with tiles := rest, tileAge := s1.alm.tileAge.drop 1, tileCount := s1.alm.tileCount + 1 }

/-- TILE_RECORD_DRAIN (R116). -/
def execTileRecordDrain (s : State) : Host.Outcome State Fault Refusal := .next s.drainTile

/-! ### Telemetry (R467) -/

/-- The telemetry message. -/
def State.teleMessage (s : State) : BitVec 512 :=
  packFields 512 [(0, s.id.chip.toNat + s.id.core.toNat * 2 ^ 20), (4, s.bg.teleSeq.toNat), (8, s.eqState.toNat),
    (16, s.bgState.toNat), (24, s.errlogState.toNat), (32, s.rep.fence.toNat), (36, s.coreStatus.toNat % 4096),
    (40, s.mtime.toNat), (48, s.assayState.toNat)]

/-- Queue a message, or skip one that finds the queue full; both take a sequence number. The next is due a period later (log
entry 114). -/
def State.queueTele (s : State) : State :=
  let b := s.bg
  s.withBg { b with
    teleSeq := b.teleSeq + 1, teleQ := if b.teleQ.length < 4 then b.teleQ ++ [(s.tick10, s.teleMessage)] else b.teleQ,
    teleDue := b.teleDue + 100 * b.telem.toNat }

/-- TELEMETRY (R467): with a period set, time passes until the next message is due, and it is queued. -/
def execTelemetry (s : State) : Host.Outcome State Fault Refusal :=
  .next (if s.bring.ready && s.bg.telem != 0#64 then (s.advanceTo (12 * s.bg.teleDue)).queueTele else s)

/-- The oldest queued message leaves on the TELE channel (log entry 2). -/
def State.sendTele (s : State) : State :=
  match s.bg.teleQ with
  | [] => s
  | m :: rest => (s.withBg { s.bg with teleQ := rest }).emit (.tele m.2)

end Sys2Proof.Machine
end

