-- ==== Sys2Proof/Machine/RvFloat.lean ====
section
/-! DEFINITION. Floating-point arithmetic of the control core (R332): IEEE 754 binary32 and binary64 on exact values, under the five
RISC-V rounding modes, with the accrued exception flags. The published instruction set gives what the spec does not restate
(log entry 107). -/

namespace Sys2Proof.Machine

/-- FP64: the binary64 of the D extension. -/
def fp64 : FpSpec := ⟨11, 52, 1023, .ieee⟩

/-- A rounding mode of the F and D extensions. -/
inductive Rm where
  | rne
  | rtz
  | rdn
  | rup
  | rmm
  deriving DecidableEq, Repr

/-- The rounding mode of a code of the instruction or of frm. -/
def Rm.ofCode (c : Nat) : Option Rm :=
  match c with
  | 0 => some .rne
  | 1 => some .rtz
  | 2 => some .rdn
  | 3 => some .rup
  | 4 => some .rmm
  | _ => none

/-- Exception flags: NX, UF, OF, DZ, NV from bit 0. -/
abbrev FpFlags := BitVec 5

def flagNX : FpFlags := 1
def flagUF : FpFlags := 2
def flagOF : FpFlags := 4
def flagDZ : FpFlags := 8
def flagNV : FpFlags := 16

/-- The flags that a condition raises. -/
def raised (b : Bool) (f : FpFlags) : FpFlags := if b then f else 0

/-! ### Rounding -/

/-- Whether a magnitude with quotient `q` and discarded part `rem / 2^sh` rounds up. -/
def Rm.up (m : Rm) (neg : Bool) (q rem sh : Nat) : Bool :=
  match m with
  | .rne => 2 * rem > 2 ^ sh || (2 * rem == 2 ^ sh && q % 2 == 1)
  | .rtz => false
  | .rdn => neg && rem > 0
  | .rup => !neg && rem > 0
  | .rmm => 2 * rem ≥ 2 ^ sh

/-- Round `m × 2^e` to a multiple of `2^u`: the quotient, and whether the result is inexact. -/
def Rm.at (r : Rm) (neg : Bool) (m : Nat) (e u : Int) : Nat × Bool :=
  if u ≤ e then (m <<< (e - u).toNat, false)
  else
    let sh := (u - e).toNat
    let q := m >>> sh
    let rem := m % 2 ^ sh
    (if r.up neg q rem sh then q + 1 else q, rem != 0)

/-- The result of a finite overflow. -/
def FpSpec.rvOver (f : FpSpec) (r : Rm) (neg : Bool) : Nat :=
  let toInf := match r with | .rne | .rmm => true | .rtz => false | .rdn => neg | .rup => !neg
  f.signed neg (if toInf then f.infBits else f.maxBits)

/-- A value is tiny after rounding: below the least normal one when rounded with an unbounded exponent. -/
def FpSpec.tiny (f : FpSpec) (r : Rm) (neg : Bool) (m : Nat) (e : Int) : Bool :=
  let u := e + (Nat.log2 m : Int) - f.mbits
  u < f.minUnit && !(u + 1 == f.minUnit && (r.at neg m e u).1 == 2 ^ (f.mbits + 1))

/-- Round an exact value once; a NaN is the canonical one. -/
def FpSpec.rvRound (f : FpSpec) (r : Rm) : Num → Nat × FpFlags
  | .nan => (f.nanBits, 0)
  | .inf neg => (f.signed neg f.infBits, 0)
  | .fin neg m e =>
    if m = 0 then (f.signed neg 0, 0)
    else
      let u := f.unit m e
      let q := r.at neg m e u
      let bits := f.encodeMag q.1 u
      if f.infBits ≤ bits then (f.rvOver r neg, flagOF ||| flagNX)
      else (f.signed neg bits, raised q.2 flagNX ||| raised (q.2 && f.tiny r neg m e) flagUF)

/-! ### Operations -/

/-- A signaling NaN. -/
def FpSpec.isSnan (f : FpSpec) (w : Nat) : Bool := (f.decode w).isNan && w / 2 ^ (f.mbits - 1) % 2 == 0

/-- Invalid when an operand is a signaling NaN, or the result is a NaN that no operand was. -/
def FpSpec.invalid (f : FpSpec) (ws : List Nat) (v : Num) : FpFlags :=
  raised (ws.any f.isSnan || (v.isNan && !ws.any fun w => (f.decode w).isNan)) flagNV

/-- A sum, with the sign that the rounding mode gives an exact zero. -/
def addRm (r : Rm) (a b : Num) : Num :=
  match a.add b with
  | .fin _ 0 _ => if a.sign = b.sign then .fin a.sign 0 0 else .fin (r == .rdn) 0 0
  | v => v

/-- Round the exact value of an operation on some operands. -/
def FpSpec.finish (f : FpSpec) (r : Rm) (ws : List Nat) (v : Num) : Nat × FpFlags :=
  let q := f.rvRound r v
  (q.1, q.2 ||| f.invalid ws v)

def FpSpec.rvAdd (f : FpSpec) (r : Rm) (a b : Nat) : Nat × FpFlags := f.finish r [a, b] (addRm r (f.decode a) (f.decode b))
def FpSpec.rvSub (f : FpSpec) (r : Rm) (a b : Nat) : Nat × FpFlags :=
  f.finish r [a, b] (addRm r (f.decode a) (f.decode b).neg)
def FpSpec.rvMul (f : FpSpec) (r : Rm) (a b : Nat) : Nat × FpFlags := f.finish r [a, b] ((f.decode a).mul (f.decode b))

/-- A quotient to 64 bits more than the divisor has, with a sticky bit below. -/
def quotient : Num → Num → Num
  | .nan, _ => .nan
  | _, .nan => .nan
  | .inf _, .inf _ => .nan
  | .inf a, .fin s _ _ => .inf (a != s)
  | .fin s _ _, .inf b => .fin (s != b) 0 0
  | .fin s m e, .fin t n d =>
    if n = 0 then (if m = 0 then .nan else .inf (s != t))
    else
      let k := Nat.log2 n + 64
      let q := (m <<< k) / n
      .fin (s != t) (2 * q + (if (m <<< k) % n = 0 then 0 else 1)) (e - d - k - 1)

/-- Division: a finite non-zero value by zero raises DZ. -/
def FpSpec.rvDiv (f : FpSpec) (r : Rm) (a b : Nat) : Nat × FpFlags :=
  let x := f.decode a
  let y := f.decode b
  let q := f.finish r [a, b] (quotient x y)
  (q.1, q.2 ||| raised (x.isFinite && !x.isZero && y.isZero) flagDZ)

/-- The integer square root of a number below 4^n. -/
def isqrt : Nat → Nat → Nat → Nat
  | 0, _, r => r
  | n + 1, x, r => isqrt n x (if (r + 2 ^ n) * (r + 2 ^ n) ≤ x then r + 2 ^ n else r)

/-- A square root to at least 64 bits, with a sticky bit below. -/
def squareRoot : Num → Num
  | .nan => .nan
  | .inf s => if s then .nan else .inf false
  | .fin s m e =>
    if m = 0 then .fin s 0 0
    else if s then .nan
    else
      let odd := (e % 2).natAbs
      let x := m <<< (128 + odd)
      let q := isqrt 96 x 0
      .fin false (2 * q + (if q * q = x then 0 else 1)) ((e - odd) / 2 - 64 - 1)

def FpSpec.rvSqrt (f : FpSpec) (r : Rm) (a : Nat) : Nat × FpFlags := f.finish r [a] (squareRoot (f.decode a))

/-- A fused multiply-add: `±(a × b) ± c` rounded once; infinity times zero is invalid even with a quiet NaN addend. -/
def FpSpec.rvFma (f : FpSpec) (r : Rm) (negP negC : Bool) (a b c : Nat) : Nat × FpFlags :=
  let p := (f.decode a).mul (f.decode b)
  let x := f.decode c
  let q := f.finish r [a, b, c] (addRm r (if negP then p.neg else p) (if negC then x.neg else x))
  (q.1, q.2 ||| raised (p.isNan && !(f.decode a).isNan && !(f.decode b).isNan) flagNV)

/-- MIN or MAX: the number when one operand is a NaN, −0 below +0. -/
def FpSpec.rvMinMax (f : FpSpec) (isMax : Bool) (a b : Nat) : Nat × FpFlags :=
  let x := f.decode a
  let y := f.decode b
  let fl := raised (f.isSnan a || f.isSnan b) flagNV
  if x.isNan && y.isNan then (f.nanBits, fl)
  else if x.isNan then (b, fl)
  else if y.isNan then (a, fl)
  else
    let low := match x.cmp y with | some .lt => true | some .gt => false | _ => x.sign
    (if low != isMax then a else b, fl)

/-- A comparison: 0 FLE, 1 FLT, 2 FEQ. FEQ is invalid on a signaling NaN only, the others on any NaN. -/
def FpSpec.rvCmp (f : FpSpec) (op : Nat) (a b : Nat) : Bool × FpFlags :=
  let c := (f.decode a).cmp (f.decode b)
  let bad := if op = 2 then f.isSnan a || f.isSnan b else c.isNone
  (match op, c with
    | 0, some o => o != .gt
    | 1, some o => o == .lt
    | _, some o => o == .eq
    | _, none => false, raised bad flagNV)

/-- FCLASS. -/
def FpSpec.rvClass (f : FpSpec) (a : Nat) : Nat :=
  match f.decode a with
  | .nan => if f.isSnan a then 2 ^ 8 else 2 ^ 9
  | .inf s => if s then 1 else 2 ^ 7
  | .fin s m _ =>
    if m = 0 then (if s then 2 ^ 3 else 2 ^ 4)
    else if a % 2 ^ (f.ebits + f.mbits) < 2 ^ f.mbits then (if s then 2 ^ 2 else 2 ^ 5)
    else if s then 2 else 2 ^ 6

/-- Convert to an integer of `w` bits, saturating; a NaN gives the largest. -/
def FpSpec.rvToInt (f : FpSpec) (r : Rm) (w : Nat) (sgn : Bool) (a : Nat) : Int × FpFlags :=
  let lo : Int := if sgn then -(2 ^ (w - 1) : Nat) else 0
  let hi : Int := if sgn then (2 ^ (w - 1) : Nat) - 1 else (2 ^ w : Nat) - 1
  match f.decode a with
  | .nan => (hi, flagNV)
  | .inf s => (if s then lo else hi, flagNV)
  | .fin s m e =>
    let q := r.at s m e 0
    let v : Int := if s then -(q.1 : Int) else q.1
    if v < lo then (lo, flagNV) else if hi < v then (hi, flagNV) else (v, raised q.2 flagNX)

/-- Convert from an integer. -/
def FpSpec.rvOfInt (f : FpSpec) (r : Rm) (v : Int) : Nat × FpFlags := f.rvRound r (.fin (v < 0) v.natAbs 0)

/-- Convert between the two formats. -/
def rvConvert (f g : FpSpec) (r : Rm) (a : Nat) : Nat × FpFlags :=
  let q := g.rvRound r (f.decode a)
  (q.1, q.2 ||| raised (f.isSnan a) flagNV)

end Sys2Proof.Machine
end

