-- ==== Sys2Proof/Machine/Kat.lean ====
section
/-! DEFINITION. The Crucible known-answer test (R425): kernels 1 to 10 over 4,096 drawn elements, each run twice and compared bit for
bit. An engine that errs is an input of the test: the bits that it flips. -/

namespace Sys2Proof.Machine

/-! ### The 1/√x table (R206) -/

/-- 1/√(m/128) times 2^200, truncated. -/
def rsqrtFix (m : Nat) : Nat := isqrt 201 (2 ^ 407 / m) 0

/-- Coefficients of the Taylor series of 1/√x about m/128, each rounded once to FP32: y, −y/2w, 3y/8w² and −5y/16w³. -/
def rsqrtCoefs (m : Nat) : List Num :=
  let y := rsqrtFix m
  let c (neg : Bool) (num den : Nat) : Num := rne32 (.fin neg (y * num / den) (-200))
  [c false 1 1, c true 128 (2 * m), c false (3 * 128 ^ 2) (8 * m ^ 2), c true (5 * 128 ^ 3) (16 * m ^ 3)]

/-- The header of the table: MANT, NEGNAN, EBITS 1, MBITS 7, KMUL 3, 257 entries. -/
def rsqrtHeader : BitVec 128 :=
  1#128 ||| (1#128 <<< 3) ||| (7#128 <<< 24) ||| (1#128 <<< 27) ||| (3#128 <<< 29) ||| (257#128 <<< 32)

/-- An entry of the table: entry 0 holds the limit value; the others stand for [1, 2) and then [2, 4) in 128 segments each. -/
def rsqrtEntry (e : Nat) : List Num :=
  if e = 0 then [.inf false, .zero, .zero, .zero] else rsqrtCoefs ((128 + (e - 1) % 128) * 2 ^ ((e - 1) / 128))

/-- The table as an image. -/
def rsqrtTable : FnTable :=
  ⟨rsqrtHeader, (List.range 257).map fun e =>
    BitVec.ofNat 128 ((rsqrtEntry e).foldr (fun v n => (toF32 v).toNat + 2 ^ 32 * n) 0)⟩

/-! ### Programs and inputs (R407, R425) -/

/-- A stage word of a kernel: CMP takes condition GT where the kernel leaves CC free (log entry 110). -/
def katStage (g : Nat × Nat × Nat × Nat × Bool) : Nat :=
  g.1 + 2 ^ 4 * g.2.1 + 2 ^ 11 * g.2.2.1 + (if g.2.2.2.2 then 2 ^ 17 else 0) + 2 ^ 18 * g.2.2.2.1 + (if g.1 = 4 then 2 ^ 25 * 4 else 0)

/-- The program of a kernel with the constants of the test: K0 = 2⁻²⁴ and K1 = 0.5. -/
def katProg (k : Nat) : BitVec 1024 :=
  match kernel k with
  | none => 0
  | some (inp, out, ss) =>
    let head := ss.length + 2 ^ 8 * inp + 2 ^ 16 * out + 2 ^ 24 * k
    let stages := ss.zipIdx.foldl (fun n g => n + 2 ^ (128 + 64 * g.2) * katStage g.1) 0
    BitVec.ofNat 1024 (head + stages + 2 ^ 640 * 0x33800000 + 2 ^ 672 * 0x3F000000)

/-- The draw of an input: kernel k, input j, element i. -/
def katDraw (k j i : Nat) : Num :=
  (⟨0, 0, 0xFFFFFF00#32 + BitVec.ofNat 32 (16 * k + j), 3, 0⟩ : CgKey).rand 0 i

/-- Inputs A = 2¹⁶ × (u − 0.5) and B = u, and the scalars S0 and S1. -/
def katEnv (k i : Nat) : Env :=
  { a := rne32 ((katDraw k 0 i).sub (.fin false 1 (-1)) |>.scale 16), b := rne32 (katDraw k 1 i), c := .zero,
    scalars := [0x3F666666, 0x3A83126F], row := 0, col := i, key := ⟨0, 0, 0, 3, 0⟩ }

/-- The output of a kernel at an element: FP32 with CVT 0x00. -/
def katWord (k i : Nat) : W32 :=
  toF32 (runProg (katProg k) (fun f => if f = 0 then some rsqrtTable else none) (katEnv k i))

/-- The SQUARE reduction: the FP40 sum of the 4,096 results. -/
def katSum : Num := rowSum ((List.range 4096).map fun i => ofF32 (katWord 3 i))

/-- A compared value: an output of kernels 1 to 10, or, as number 11, the SF and PD results of the reduction. -/
def katValue (k i : Nat) : W32 :=
  if k = 11 then (if i = 0 then toF32 katSum else if katSum.truth then 1 else 0) else katWord k i

/-! ### The comparison (R425) -/

/-- What a run gives at a position: the value, with the bits that its engine flips. -/
def katSeen (flaws : List KatFlaw) (k i : Nat) (v : W32) : W32 :=
  flaws.foldl (fun v f => if f.kernel = k ∧ f.element = i then v ^^^ f.flips else v) v

/-- The compared values: 4,096 elements of ten kernels, and two results of the reduction. -/
def katPlaces : List (Nat × Nat) :=
  (List.range 10).flatMap (fun k => (List.range 4096).map fun i => (k + 1, i)) ++ [(11, 0), (11, 1)]

/-- The position at which the second run computes an element: its own on VX, the next one where the inputs of a second CU run are
rotated by one lane. -/
def katTurn (rotated : Bool) (k i : Nat) : Nat := if rotated && k ≤ 10 then (i + 1) % 4096 else i

/-- The two runs agree. -/
def katAgrees (rotated : Bool) (cu other : List KatFlaw) : Bool :=
  katPlaces.all fun q =>
    katSeen cu q.1 q.2 (katValue q.1 q.2) == katSeen other q.1 (katTurn rotated q.1 q.2) (katValue q.1 q.2)

end Sys2Proof.Machine
end

