-- ==== Sys2Proof/Machine/Save.lean ====
section
/-! DEFINITION. The dump (R58) and the save area of a pre-empted job (R366 to R369): what the core writes, and what it restores
on resume. Inside the extension the fields whose coding the spec leaves to a core's VERSION are coded as below (log entry 15). -/

namespace Sys2Proof.Machine

/-- VERSION bits [31:0] (R461). -/
def versionWord : Nat := 0x00020003

/-- Bytes of the planes and registers of one logical array (R58, R369). -/
def arrayBytes : Nat := 1179648

/-- Bytes of the extension (R366). -/
def extBytes : Nat := 1195136

/-- The logical arrays present, ascending. -/
def Ident.arrays (id : Ident) : List (Fin 4) := (List.finRange 4).filter fun n => id.hasArray n.1

/-! ### Arrays -/

/-- The free value of word `i` of a plane or register that holds nothing: its contents are discarded (R134, R149; log entry
3). -/
def State.freeAt (s : State) (i : Nat) : Nat := (Config.freeWord (s.freeCtr + i)).toNat

/-- Bytes of a plane or register of `w`-byte words at byte `a`: stored words, and a free value in each word of a partition
that `held` says holds nothing. `k` numbers the free values. -/
def storeImage {n : Nat} (s : State) (m : Store n) (w a k : Nat) (mode : BitVec 2) (held : Fin 4 → Bool) : Bytes :=
  let empty := (List.finRange 4).filter fun p => p.1 < partCount mode && !held p
  let free (i : Nat) : Bool := empty.any fun p => (geom mode p.1).has i
  (m.flatMap fun p => if free p.1 then [] else wordBytes (a + w * p.1) w p.2) ++
  (if empty.isEmpty then []
   else (List.range 65536).flatMap fun i => if free i then wordBytes (a + w * i) w (BitVec.ofNat n (s.freeAt (k + i))) else [])

/-- Planes 0 and 1 in FP40, then registers 0 and 1, of one logical array at byte `a` (R58). `k` numbers the free values. -/
def arrayImage (s : State) (x : Array_) (a k : Nat) : Bytes :=
  storeImage s x.acc0 5 a k x.mode (fun p => (x.part p).plane0 != .empty) ++
  storeImage s x.acc1 5 (a + 327680) (k + 65536) x.mode (fun p => (x.part p).plane1 != .empty) ++
  storeImage s x.st0 4 (a + 655360) (k + 131072) x.mode (fun p => (x.part p).reg0.isSome) ++
  storeImage s x.st1 4 (a + 917504) (k + 196608) x.mode (fun p => (x.part p).reg1.isSome)

/-- Words of `w` bytes of an image from byte `a`, 65,536 of them. -/
def imageStore {n : Nat} (img : Bytes) (w a : Nat) : Store n :=
  img.foldl (fun (m : Store n) p =>
    if a ≤ p.1 && p.1 < a + 65536 * w then
      let i := (p.1 - a) / w
      let x : BitVec n := p.2.setWidth n
      Store.set m i (Store.get m i ||| x.shiftLeft (8 * ((p.1 - a) % w)))
    else m) []

/-! ### The dump (R58) -/

/-- Loop state in the form of R58: 56 bytes at byte `a`. -/
def loopImage (a : Nat) (ls : List Loop) : Bytes :=
  (ls.take 4).zipIdx.flatMap fun p =>
    placeBytes (a + 12 * p.2) (leBytes p.1.count 4 ++ leBytes p.1.idx 4 ++ leBytes p.1.start 4)

/-- The head of the queues with one code (R58): where several queues share the code the one with the lowest DPI (log entry 131). -/
def State.headOf (s : State) (q : Nat) : Option Entry :=
  (s.iu.queued.filter fun e => e.cmd.h.q == q).foldl (fun m e => match m with
    | some b => if e.x.dpi < b.x.dpi then some e else m
    | none => some e) none

/-- DPI of that head, of a VX_AUX pair the compute command's. -/
def State.headDpi (s : State) (q : Nat) : W64 := match s.headOf q with | some e => e.x.dpi | none => noDpi

/-- The tags of the heads that a dump names, by QUEUE code; of an empty queue zero (R254; log entry 91). -/
def State.headTags (s : State) : List Tags :=
  (List.range 32).map fun q => match s.headOf q with | some e => tagsIn e.cmd.h | none => ⟨0, 0⟩

/-- Regions that DUMP_MASK selects, ascending (R366, R369): those that are valid. -/
def dumpRegions (d : BitVec 2048) (tab : Vector Region 64) : List Region :=
  (List.range 64).filterMap fun r =>
    let e := tab.toList.getD r Region.empty
    if bit d (8 * 0x78 + r) && e.valid then some e else none

/-- Bytes of a region. -/
def Region.bytes (e : Region) : Nat := e.size.toNat * 4096

/-- Where the regions of a dump begin. -/
def regionsAt (id : Ident) : Nat := 0xC00 + arrayBytes * id.arrays.length

/-- Bytes of a dump, extension left out (R369). -/
def dumpLen (id : Ident) (d : BitVec 2048) (tab : Vector Region 64) : Nat :=
  (dumpRegions d tab).foldl (fun n e => n + e.bytes) (regionsAt id)

/-- The fixed part of a dump: header, counters, predicates, loop state, scalar file, queue heads, region table. The layout
has no field for VSTAGE and MBATCH (log entry 91). -/
def dumpHead (s : State) (status : Nat) (lowest : W64) (loops : List Loop) : Bytes :=
  let d := s.job.desc
  placeBytes 0 (leBytes versionWord 4 ++ leBytes status 4 ++ leBytes (s.task 0).stopCount.toNat 8 ++
    leBytes lowest.toNat 8 ++ leBytes s.job.seed.toNat 8 ++ leBytes s.job.step.toNat 8 ++ leBytes (dNat d 2 2) 8) ++
  (s.iu.ec.toList.zipIdx.flatMap fun p => wordBytes (0x40 + 2 * p.2) 2 p.1) ++
  wordBytes 0xC0 8 s.iu.pd ++ loopImage 0xC8 loops ++
  (s.sfSnapshot.toList.zipIdx.flatMap fun p => wordBytes (0x100 + 8 * p.2) 8 p.1) ++
  ((List.range 32).flatMap fun q => wordBytes (0x300 + 8 * q) 8 (s.headDpi q)) ++
  (s.rg.tab.toList.zipIdx.flatMap fun p => wordBytes (0x400 + 32 * p.2) 32 p.1.toBits)

/-- The whole dump (R58). -/
def dumpImage (s : State) (status : Nat) (lowest : W64) (loops : List Loop) : Bytes :=
  dumpHead s status lowest loops ++
  (s.id.arrays.zipIdx.flatMap fun p => arrayImage s (s.array p.1) (0xC00 + arrayBytes * p.2) (262144 * p.2)) ++
  ((dumpRegions s.job.desc s.rg.tab).foldl (fun (acc : Bytes × Nat) e =>
    (acc.1 ++ (sliceBytes s.spad.mem (e.base.toNat * 4096) e.bytes).map fun p => (acc.2 + p.1, p.2), acc.2 + e.bytes))
    ([], regionsAt s.id)).1

/-- Keep the tags of the heads that a dump names beside it (R254). -/
def State.keepTags (s : State) : State := s.withJob { s.job with dumpTags := s.headTags }

/-- Write the dump at DUMP, at most DUMP_LEN bytes (R57, R58). The free values it took are passed. -/
def State.writeDump (s : State) (status : Nat) : State :=
  let n := dumpLen s.id s.job.desc s.rg.tab
  (s.keepTags.putImage (dAddr s.job.desc 0x70) (min n (dNat s.job.desc 0x80 8))
    (dumpImage s status (s.lowestDpi 0) (s.task 0).loops)).withFreeCtr (s.freeCtr + 1048576)

/-! ### The save area (R366) -/

/-- Where a task resumes: its lowest DPI not issued, with the fetch position and loop state that command was decoded at. -/
def State.resumePoint (s : State) (t : Fin 4) : W64 × Nat × List Loop :=
  let k := s.task t
  let low := s.lowestDpi t
  let first (e : Entry) : W64 := match e.aux with | some a => a.1 | none => e.x.dpi
  match s.iu.queued.find? fun e => e.x.task = t && first e == low with
  | some e => (low, if e.aux.isSome then e.pos - 1 else e.pos, e.loops)
  | none => (low, if k.aux.isSome then k.pos - 1 else k.pos, k.loops)

/-- The issued map: bit k says that lowest + k has issued (R366), before an earlier save too (R368). -/
def State.issuedMap (s : State) (t : Fin 4) : BitVec 512 :=
  let k := s.task t
  let low := s.lowestDpi t
  let open_ (d : W64) : Bool :=
    (s.iu.queued.any fun e => e.x.task = t && (e.x.dpi == d || match e.aux with | some a => a.1 == d | none => false)) ||
    (match k.aux with | some a => a.1 == d | none => false)
  (List.range 512).foldl (fun m i =>
    let d := low + BitVec.ofNat 64 i
    if d < k.dpi && !open_ d || k.skip.contains d then m ||| (1#512 <<< i) else m) 0

/-- The state word of a task (log entry 15): what it does, then its position, or a body's lengths and the position in it, or
its error code. -/
def taskWord (k : Task) (pos : Nat) (loops : List Loop) : Nat :=
  match k.st with
  | .idle => 0
  | .ended st => 2 + st.toNat + 256 * (match k.fault with | some f => 1 + 2 * f.1.toNat | none => 0)
  | .running =>
    match loops.getLast? with
    | none => 1 + 256 * pos
    | some l =>
      1 + 16 * loops.length + (loops.zipIdx.foldl (fun n p => n + p.1.len % 256 * 256 ^ (p.2 + 1)) 0) +
        2 ^ 40 * (pos - l.start)

/-- The 192 bytes of a task at byte `a`. -/
def taskImage (s : State) (t : Fin 4) (a : Nat) : Bytes :=
  let k := s.task t
  let r := s.resumePoint t
  placeBytes a (leBytes r.1.toNat 8 ++ leBytes (taskWord k r.2.1 r.2.2) 8) ++
  (match k.st, k.fault with
    | .ended _, some f => wordBytes (a + 16) 8 f.2 ++ placeBytes (a + 24) [k.ftags.vstage.setWidth 8, k.ftags.mbatch]
    | .running, _ => wordBytes (a + 16) 64 (s.issuedMap t)
    | _, _ => []) ++
  loopImage (a + 80) r.2.2

/-- The marks of a task that the save area keeps: injected commands, and LOOPs whose count is another when evaluated now (R368; log entry
31). -/
def State.keptMarks (s : State) (t : Fin 4) : List Mark :=
  let low := (s.resumePoint t).1
  if s.running t then
    (s.task t).marks.filter fun m => low ≤ m.dpi && (m.dpi - low).toNat < 512 && match m.count, m.loop with
      | some n, some c => (match c.op with | .loop b => n != countNow s c b | _ => true)
      | _, _ => true
  else []

/-- A mark in 7 bytes: present, whether it is a count, the task, the DPI above the lowest not issued, the count. -/
def markWord (t : Fin 4) (low : W64) (m : Mark) : Nat :=
  1 + (if m.count.isSome then 2 else 0) + 4 * t.1 + 16 * (m.dpi - low).toNat + 2 ^ 13 * (m.count.getD 0 % 2 ^ 32)

/-- The first sixteen marks of the job's tasks. -/
def State.markWords (s : State) : List Nat :=
  ((List.finRange 4).flatMap fun t => (s.keptMarks t).map (markWord t (s.resumePoint t).1)).take 16

/-- The marks of a task from the extension of a save area. -/
def savedMarks (img : Bytes) (t : Fin 4) (low : W64) : List Mark :=
  (List.range 16).filterMap fun i =>
    let w := imgNat img (0x909 + 16 * i) 7
    if w % 2 = 1 && w / 4 % 4 == t.1 then
      some ⟨low + BitVec.ofNat 64 (w / 16 % 512), if w / 2 % 2 = 1 then some (w / 2 ^ 13) else none, none⟩
    else none

/-- Task `t` of a save area: its 192 bytes lie at 0x100 + 192 t of the extension. -/
def taskRestore (k : Task) (img : Bytes) (t : Fin 4) : Task :=
  let a := 0x100 + 192 * t.1
  let low := BitVec.ofNat 64 (imgNat img a 8)
  let w := imgNat img (a + 8) 8
  let st := w % 16
  if st = 0 then Task.none_
  else if st = 1 then
    let n := w / 16 % 8
    let level (i : Nat) : Loop :=
      ⟨imgNat img (a + 80 + 12 * i + 8) 4, w / 256 ^ (i + 1) % 256, imgNat img (a + 80 + 12 * i) 4,
       imgNat img (a + 80 + 12 * i + 4) 4⟩
    let loops := (List.range n).map level
    let pos := match loops.getLast? with | none => w / 256 | some l => l.start + w / 2 ^ 40
    let marked := (List.range 512).filter fun i => imgNat img (a + 16 + i / 8) 1 / 2 ^ (i % 8) % 2 == 1
    { k with
      st := .running, dpi := low, pos := pos, loops := loops, skip := marked.map fun i => low + BitVec.ofNat 64 i,
      marks := savedMarks img t low }
  else
    { k with
      st := .ended (BitVec.ofNat 4 (st - 2)), dpi := low, fetchEnded := true,
      fault := if w / 256 % 2 = 1 then some (BitVec.ofNat 12 (w / 512), BitVec.ofNat 64 (imgNat img (a + 16) 8)) else none,
      ftags := ⟨BitVec.ofNat 4 (imgNat img (a + 24) 1), BitVec.ofNat 8 (imgNat img (a + 25) 1)⟩ }

/-- A plane state of a save area: nothing builds or drains (R365). -/
def planeByte : PlaneState → Nat
  | .held back => if back then 5 else 4
  | _ => 0

/-- A plane state from its byte. -/
def planeOf (n : Nat) : PlaneState := if n = 4 then .held false else if n = 5 then .held true else .empty

/-- The three bytes of a register's tag and load record. -/
def regBytes : Option Loaded → List Byte
  | none => [0, 0, 0]
  | some l => [l.tag.setWidth 8 ||| 0x10 ||| (if l.halfB then 0x20 else 0) ||| (if l.version then 0x40 else 0) |||
      (if l.sourced then 0x80 else 0), l.region.setWidth 8, BitVec.ofInt 8 l.q]

/-- A register's tag and load record from byte `a`. -/
def regOf (img : Bytes) (a : Nat) : Option Loaded :=
  let x := BitVec.ofNat 8 (imgNat img a 1)
  if x.getLsbD 4 then
    some ⟨x.setWidth 4, BitVec.ofNat 6 (imgNat img (a + 1) 1), x.getLsbD 5, x.getLsbD 6, x.getLsbD 7,
      (BitVec.ofNat 8 (imgNat img (a + 2) 1)).toInt⟩
  else none

/-- Masks, modes, plane states, tags and load records at bytes 0x400 and 0x900 of the extension, and the marks of the tasks in the bytes that
these leave. -/
def arraysImage (s : State) : Bytes :=
  (List.finRange 4).flatMap fun n => (List.finRange 4).flatMap fun p =>
    let x := s.array n
    let k := x.part p
    ([false, true].flatMap fun back =>
      let m := x.maskOf back p
      let a := 0x400 + 40 * (8 * n.1 + 2 * p.1 + if back then 1 else 0)
      wordBytes a 32 m.row ++ wordBytes (a + 32) 8 m.block) ++
    placeBytes (0x900 + 16 * (4 * n.1 + p.1)) (leBytes (planeByte k.plane0) 1 ++ leBytes (planeByte k.plane1) 1 ++
      regBytes k.reg0 ++ regBytes k.reg1 ++ [x.mode.setWidth 8] ++ leBytes (s.markWords.getD (4 * n.1 + p.1) 0) 7)

/-- A logical array from the extension `e` and the dump `d` of a save area; `a` is the byte of its words in the dump. -/
def arrayRestore (e d : Bytes) (n : Fin 4) (a : Option Nat) : Array_ :=
  let at_ (p : Nat) : Nat := 0x900 + 16 * (4 * n.1 + p)
  let part (p : Nat) : Part :=
    ⟨planeOf (imgNat e (at_ p) 1), planeOf (imgNat e (at_ p + 1) 1), regOf e (at_ p + 2), regOf e (at_ p + 5)⟩
  let mask (p : Nat) (b : Nat) : Masks :=
    let q := 0x400 + 40 * (8 * n.1 + 2 * p + b)
    ⟨BitVec.ofNat 256 (imgNat e q 32), BitVec.ofNat 64 (imgNat e (q + 32) 8)⟩
  { mode := BitVec.ofNat 2 (imgNat e (at_ 0 + 8) 1),
    acc0 := match a with | some a => imageStore d 5 a | none => [],
    acc1 := match a with | some a => imageStore d 5 (a + 327680) | none => [],
    st0 := match a with | some a => imageStore d 4 (a + 655360) | none => [],
    st1 := match a with | some a => imageStore d 4 (a + 917504) | none => [],
    parts := #v[part 0, part 1, part 2, part 3],
    masks := #v[mask 0 0, mask 1 0, mask 2 0, mask 3 0, mask 0 1, mask 1 1, mask 2 1, mask 3 1] }

/-- Which of a list of slots hold something, as bits. -/
def presence {α : Type} (xs : List (Option α)) : Nat :=
  xs.zipIdx.foldl (fun n p => if p.1.isSome then n + 2 ^ p.2 else n) 0

/-- The 64 bytes of core state at byte 0xA00 (log entry 15). -/
def coreImage (s : State) : Bytes :=
  let j := s.job
  let b (x : Bool) (n : Nat) : Nat := if x then n else 0
  let l : CalLoading := s.cal.loading.getD ⟨0, 0, 0, 0, false, true, 0⟩
  let loads := s.cal.standby == .loading && !l.orphan
  placeBytes 0xA00 (
    leBytes (b s.alm.finite 1 + b j.degraded 2 + b j.vxOnCu 4 + b j.more 8) 1 ++ j.remap.take 22 ++
    leBytes (match s.cal.standby with | .invalid => 0 | .loading => if loads then 1 else 0 | .valid => 2) 1 ++
    leBytes j.logPos 4 ++ leBytes s.sol.sent 4 ++ leBytes j.logFar 4 ++ leBytes s.alm.tileCount 4 ++
    (if loads then leBytes l.dpi.toNat 8 ++ leBytes l.addr 4 ++ leBytes (l.region.toNat + b l.halfB 128) 1 ++
      leBytes l.task.1 1 else leBytes 0 14) ++
    leBytes (presence s.vx.tables.toList) 2 ++ leBytes s.cal.bank.calId.toNat 4 ++ leBytes (presence s.vx.progs.toList) 4)

/-- Program slots and function tables of VX at bytes 0xA40 and 0x1A40; EMPTY ones are zero. -/
def vxImage (v : VecState) : Bytes :=
  (v.progs.toList.zipIdx.flatMap fun p => match p.1 with
    | some x => wordBytes (0xA40 + 128 * p.2) 128 x
    | none => []) ++
  (v.tables.toList.zipIdx.flatMap fun p => match p.1 with
    | some t => wordBytes (0x1A40 + 32784 * p.2) 16 t.header ++
        t.entries.zipIdx.flatMap fun q => wordBytes (0x1A40 + 32784 * p.2 + 16 + 16 * q.2) 16 q.1
    | none => [])

/-- A bank part's slots at byte `a`. -/
def bankImage (b : BankPart) (a : Nat) : Bytes := (List.range 4096).flatMap fun c => wordBytes (a + 32 * c) 32 (b.slot c)

/-- A calendar image at byte `a` (R286); no router part leaves SCHED_ID zero. -/
def calImage (c : Calendar) (a : Nat) : Bytes :=
  (match c.router with
    | some r => placeBytes a (leBytes 1 2 ++ [0, 0] ++ leBytes r.calId.toNat 4 ++ leBytes r.schedId.toNat 4 ++
        leBytes r.hmax.toNat 1 ++ leBytes r.detourFor.toNat 1) ++
        (List.range 4096).flatMap fun i => wordBytes (a + 64 + 32 * i) 32 (r.slot i)
    | none => placeBytes a (leBytes 1 2 ++ [0, 0] ++ leBytes c.bank.calId.toNat 4)) ++
  bankImage c.bank (a + 131136)

/-- The extension block (R366). -/
def extImage (s : State) : Bytes :=
  wordBytes 0 256 s.job.desc ++ ((List.finRange 4).flatMap fun t => taskImage s t (0x100 + 192 * t.1)) ++ arraysImage s ++
  coreImage s ++ vxImage s.vx ++ (s.job.mcast.flatMap fun g => wordBytes (0x41AC0 + 2 * g.1) 2 g.2.delivered) ++
  bankImage s.cal.bank 0x43AC0 ++ (match s.cal.standby, s.cal.standbyImg with
    | .valid, some c => calImage c 0x63AC0
    | _, _ => []) ++
  s.almImageOut 0xA3B00 true

/-- The bytes that the extension holds of a job that stands in for VX on CU: CU's slots are VX's (R409). The layout has no place for
Crucible's own slots and tables otherwise, and they are EMPTY after a resume (log entry 20). -/
def State.savedVx (s : State) : State := if s.job.vxOnCu then s.withVx s.cu else s

/-- Write the save area at DUMP (R366). -/
def State.writeSave (s : State) : State :=
  let n := dumpLen s.id s.job.desc s.rg.tab
  let r := s.resumePoint 0
  let img := dumpImage s 3 r.1 r.2.2 ++ (extImage s.savedVx).map fun p => (n + p.1, p.2)
  (s.keepTags.putImage (dAddr s.job.desc 0x70) (min (n + extBytes) (dNat s.job.desc 0x80 8)) img).withFreeCtr (s.freeCtr + 1048576)

/-! ### Resuming (R368) -/

/-- The region table of a save area. -/
def savedTable (img : Bytes) : Vector Region 64 :=
  mapVec (fun r => Region.ofBits (BitVec.ofNat 256 (imgNat img (0x400 + 32 * r) 32))) (Vector.range 64)

/-- Where the extension of a save area begins. -/
def savedExt (id : Ident) (d : BitVec 2048) (img : Bytes) : Nat := dumpLen id d (savedTable img)

/-- FLAGS bit 3, RESUME, at bit 19 of the descriptor. -/
def resumeBit : BitVec 2048 := 1#2048 <<< 19

/-- A save area that a descriptor may resume from (R368). -/
def resumeOk (id : Ident) (d : BitVec 2048) (img : Bytes) : Bool :=
  imgNat img 0 4 == versionWord && imgNat img 4 4 == 3 && imgNat img 24 8 == dNat d 8 8 && imgNat img 32 8 == dNat d 16 8 &&
  BitVec.ofNat 2048 (imgNat img (savedExt id d img) 256) ||| resumeBit == d ||| resumeBit

/-- A tensor record from its 384 bytes at byte `a` (R118). -/
def recordOf (img : Bytes) (a : Nat) : TensorRec :=
  let n (o k : Nat) : Nat := imgNat img (a + o) k
  { amax := BitVec.ofNat 32 (n 0x10 4), lost := n 0x14 4, elements := n 0x18 8, zero := n 0x20 8, nonfiniteIn := n 0x28 8,
    nanOut := n 0x30 8, saturation := n 0x38 8, overflowInf := n 0x40 8, underflow := n 0x48 8, emptyRow := n 0x50 8,
    offender := if n 4 1 / 4 % 2 = 1 then
        some ⟨BitVec.ofNat 64 (n 0x58 8), BitVec.ofNat 32 (n 0x64 4), BitVec.ofNat 16 (n 0x68 2), BitVec.ofNat 16 (n 0x6A 2),
          BitVec.ofNat 8 (n 0x6C 1), BitVec.ofNat 8 (n 0x6D 1)⟩
      else none,
    hist := (List.range 64).map fun i => n (0x80 + 4 * i) 4 }

/-- The Almanac of a save area, whose image-out begins at byte `a`. -/
def savedAlm (img : Bytes) (a : Nat) : List (Nat × AlmEntry × TensorRec) :=
  (almEntries (sliceBytes img a 131072)).map fun e => (e.1, e.2, recordOf img (a + 131072 + 384 * e.1))

/-- The VX state of a save area. -/
def vxRestore (e : Bytes) : VecState :=
  let prog (i : Nat) : Option (BitVec 1024) :=
    if imgNat e 0xA3C 4 / 2 ^ i % 2 = 1 then some (BitVec.ofNat 1024 (imgNat e (0xA40 + 128 * i) 128)) else none
  let table (i : Nat) : Option FnTable :=
    if imgNat e 0xA36 1 / 2 ^ i % 2 = 1 then
      some ⟨BitVec.ofNat 128 (imgNat e (0x1A40 + 32784 * i) 16),
        (List.range (imgNat e (0x1A40 + 32784 * i + 4) 2)).map fun k => BitVec.ofNat 128 (imgNat e (0x1A40 + 32784 * i + 16 + 16 * k) 16)⟩
    else none
  ⟨mapVec prog (Vector.range 32), mapVec table (Vector.range 8)⟩

/-- Restore the regions of a save area (R368). -/
def State.restoreRegions (s : State) (img : Bytes) (d : BitVec 2048) (tab : Vector Region 64) : State :=
  ((dumpRegions d tab).foldl (fun (acc : State × Nat) e =>
    (acc.1.putOwn (e.base.toNat * 4096) e.bytes (sliceBytes img acc.2 e.bytes), acc.2 + e.bytes)) (s, regionsAt s.id)).1

/-- The groups of a resumed job: those of its table, and any other that the saved delivered counts name (R298, R366, R368). -/
def restoreGroups (l : List (Nat × McastGroup)) (img : Bytes) : List (Nat × McastGroup) :=
  let count (k : Nat) : BitVec 16 := BitVec.ofNat 16 (imgNat img (2 * k) 2)
  let ks := img.foldl (fun (ks : List Nat) p => if ks.contains (p.1 / 2) then ks else ks ++ [p.1 / 2]) []
  l.map (fun g => (g.1, { g.2 with delivered := count g.1, sent := fld g.2.entry 48 16 })) ++
    (ks.filter fun k => !l.any fun g => g.1 == k).map fun k => (k, { McastGroup.ofEntry 0 with delivered := count k })

/-- Restore what the save area holds of a job that has just been loaded afresh (R368). -/
def State.restore (s : State) (img : Bytes) (ntasks : Nat) : State :=
  let d := s.job.desc
  let tab := savedTable img
  let e := sliceBytes img (savedExt s.id d img) extBytes
  let c (o n : Nat) : Nat := imgNat e (0xA00 + o) n
  let s1 := (s.restoreRegions img d tab).withRg ⟨tab⟩
  let s2 := s1.withIu { s1.iu with
    ec := mapVec (fun i => BitVec.ofNat 16 (imgNat img (0x40 + 2 * i) 2)) (Vector.range 64),
    pd := BitVec.ofNat 16 (imgNat img 0xC0 2),
    sf := (mapVec (fun i => BitVec.ofNat 64 (imgNat img (0x100 + 8 * i) 8)) (Vector.range 64)).set 47
      (BitVec.ofNat 64 (imgNat img (0x100 + 8 * 47) 8 % 2 ^ 63)) (by decide),
    tasks := mapVec (fun (t : Fin 4) =>
      if t.1 < ntasks then taskRestore s1.iu.tasks[t.1] e t else Task.none_) (#v[0, 1, 2, 3]) }
  let where_ (n : Fin 4) : Option Nat := (s.id.arrays.zipIdx.find? fun p => p.1 = n).map fun p => 0xC00 + arrayBytes * p.2
  let s3 := s2.withMx (mapVec (fun n => arrayRestore e img n (where_ n)) (#v[0, 1, 2, 3]))
  let v := vxRestore e
  let s4 := if s3.job.vxOnCu then s3.withCu v else s3.withVx v
  let es := savedAlm e 0xA3B00
  let s5 := s4.withAlm { s4.alm with
    entries := es, imageIn := es.map fun x => (x.1, x.2.1), unbound := recordOf e (0xA3B00 + 524288),
    finite := c 0 1 % 2 == 1, tileCount := c 36 4 }
  let bank : BankPart :=
    let m := imgSlots e 0x43AC0
    ⟨onePeriod m, BitVec.ofNat 32 (c 56 4), periodOf m⟩
  let sb := c 23 1
  let cal := sliceBytes e 0x63AC0 262208
  let s6 := s5.withCal { s5.cal with
    bank := bank,
    standby := if sb = 2 then .valid else if sb = 1 then .loading else .invalid,
    standbyImg := if sb = 2 then some ⟨if imgNat cal 8 4 = 0 then none else some (imgRouter cal), imgBank cal⟩ else none,
    loading := if sb = 1 then
        some ⟨⟨c 53 1 % 4, Nat.mod_lt _ (by decide)⟩, BitVec.ofNat 64 (c 40 8), c 48 4, BitVec.ofNat 6 (c 52 1),
          c 52 1 / 128 % 2 == 1, false, s.tick10⟩
      else none }
  let s7 := s6.withSol { s6.sol with sent := c 28 4 }
  s7.withJob { s7.job with
    more := c 0 1 / 8 % 2 == 1, logPos := c 24 4, logFar := c 32 4,
    mcast := restoreGroups s7.job.mcast (sliceBytes e 0x41AC0 8192) }

end Sys2Proof.Machine
end

