-- ==== Sys2Proof/Machine/Jobs.lean ====
section
/-! DEFINITION. Jobs: selection (R354), descriptor and image checks in order (R357, R358), degraded remap (R53, R54, R363, R405),
job start, task ends (R57, R351), completion record, message and order of the end (R360 to R362), pre-emption (R364 to R367) and
resume (R368). -/

namespace Sys2Proof.Machine

/-! ### Selection (R354, R355) -/

/-- The pending ring that a selection point takes: highest class, then the first after the ring of that class served last. -/
def State.pickRing (s : State) : Option (Fin 8) :=
  ([3, 2, 1, 0] : List (Fin 4)).findSome? fun c =>
    let first := match s.job.served[c.1] with | some r => r.1 + 1 | none => 0
    ((List.range 8).map fun k => (⟨(first + k) % 8, Nat.mod_lt _ (by decide)⟩ : Fin 8)).find? fun n =>
      (s.ringAt n).isPending && (ringClass (s.ringAt n).cfg).toNat == c.1

/-- Global address of a slot of a ring (R352). -/
def Ring.slotAddr (r : Ring) (i : W32) : W64 := r.base + BitVec.ofNat 64 (256 * (i.toNat % 2 ^ ringLog2 r.cfg))

/-- The ring class's round robin after ring `n` is served. -/
def Job.serve (j : Job) (c : BitVec 2) (n : Fin 8) : Job := { j with served := j.served.set c.toNat (some n) c.isLt }

/-- Choose a ring and read the descriptor at its HEAD (R354, R403): nothing while a job runs or is read, before READY, behind a
fence, or while a repair waits to be applied. The job that is read holds no remap yet (R462) and no request for its pre-emption. -/
def State.select (s : State) : State :=
  if !s.bring.ready || s.rep.coreFenced || s.job.st != .idle || s.rep.pending.isSome then s
  else
    match s.pickRing with
    | none => s
    | some n =>
      let r := s.ringAt n
      let s1 := (s.setRing n { r with head := r.head + 1 }).emit (.memRead (r.slotAddr r.head) 256)
      s1.withJob { (s1.job.serve (ringClass r.cfg) n) with
        st := .reading, ring := n, cls := ringClass r.cfg, slot := r.head, degraded := false, asked := false }

/-- SELECTION_POINT (R354). -/
def execSelectionPoint (s : State) : Host.Outcome State Fault Refusal := .next s.select

/-! ### Closing a job (R361, R362, R403) -/

/-- Steps 5 and 6 of R361: the message leaves, and JOB_END is raised when a completion record was written (R342). -/
def State.finishJob (s : State) (m : BitVec 256) (rec : Bool) : State :=
  let s1 := s.emit (.ctrl m)
  let s2 := if rec then s1.latchEvent 9 else s1
  s2.withJob { s2.job with st := .idle, preempt := false, recWritten := false, lastMsg := none }

/-- Steps 3 to 6 of R361. A repair that waits is applied before the message leaves (R403). A command injected behind an END goes with the
job. -/
def State.closeJob (s : State) (rec : Option (BitVec 512)) (m : BitVec 256) : State :=
  let s1 := match rec with
    | some r => s.putImage (dAddr s.job.desc 0x20) 64 (wordBytes 0 64 r)
    | none => s
  let r := s1.ringAt s1.job.ring
  let s2 := (s1.setRing s1.job.ring { r with done := r.done + 1 }).withIu { s1.iu with queued := [] }
  let s3 := s2.withCal { s2.cal with loading := s2.cal.loading.map fun l => { l with orphan := true } }
  if s3.rep.pending.isSome then
    s3.withJob { s3.job with st := .running, recWritten := rec.isSome, lastMsg := some m }
  else s3.finishJob m rec.isSome

/-- The message of the job (R362). -/
def State.jobMessage (s : State) (status : Nat) (error : BitVec 16) (dpi tag : W64) : BitVec 256 :=
  ctrlMessage s.id (BitVec.ofNat 3 s.job.ring.1) s.job.slot (BitVec.ofNat 16 status) error dpi tag

/-- A refusal event of the error log (R393). -/
def State.logRefusal (s : State) (code : Code) : State := s.addLog (s.logEntry code .refusal 0 0x40 0 0 noDpi 0)

/-- A descriptor whose read is refused or faults (R355); USER_TAG is open (log entry 16). -/
def State.refuseDescriptor (s : State) : State :=
  if s.job.st != .reading then s
  else
    let s1 := s.draw.2.logRefusal Code.badJob
    s1.closeJob none (s1.jobMessage 4 (Code.badJob.setWidth 16) noDpi s.draw.1)

/-- DESCRIPTOR_REFUSED (R355). -/
def execDescriptorRefused (s : State) : Host.Outcome State Fault Refusal := .next s.refuseDescriptor

/-! ### Check 1 of R358 -/

/-- Bytes of a task entry (R357). -/
def taskAt (t : Nat) : Nat := 0x90 + 24 * t

/-- OWN_MX and OWN_Q of a task entry. -/
def ownMx (d : BitVec 2048) (t : Nat) : BitVec 16 := fld d (8 * (taskAt t + 16)) 16
def ownQ (d : BitVec 2048) (t : Nat) : BitVec 14 := fld d (8 * (taskAt t + 18)) 14

/-- Mode of a logical array in ARRAY_MODES. -/
def jobMode (d : BitVec 2048) (n : Nat) : BitVec 2 := fld d (56 + 2 * n) 2

/-- RsvZ fields, unused task entries, modes and ownership are as R356, R357 and R358 ask. -/
def descShapeOk (d : BitVec 2048) : Bool :=
  let n := numTasks d
  dNat d 0 2 == 1 && fld d 21 11 == 0#11 && 1 ≤ n && n ≤ 4 && fld d 52 4 == 0#4 && fld d 1920 128 == 0#128 &&
  (List.range 4).all (fun t =>
    let e : BitVec 192 := fld d (8 * taskAt t) 192
    if n ≤ t then e == 0#192 else fld e 158 2 == 0#2 && fld e 160 32 == 0#32) &&
  (List.range 4).all (fun k => jobMode d k != 3#2) &&
  (List.range n).all (fun t => (List.range 16).all fun b =>
    !(ownMx d t).getLsbD b || b % 4 < partCount (jobMode d (b / 4))) &&
  (List.range n).all (fun t => (List.range t).all fun u =>
    ownMx d t &&& ownMx d u == 0#16 && ownQ d t &&& ownQ d u == 0#14)

/-- Regions of a region table image. -/
def imageTable (img : Bytes) : Vector Region 64 :=
  mapVec (fun r => Region.ofBits (BitVec.ofNat 256 (imgNat img (32 * r) 32))) (Vector.range 64)

/-- The space a job needs at DUMP (R369). -/
def dumpNeed (id : Ident) (d : BitVec 2048) (regions : Bytes) : Nat :=
  dumpLen id d (imageTable regions) + if preemptible d then extBytes else 0

/-- COMPLETION may be written (R355). -/
def completionOk (d : BitVec 2048) : Bool := dNat d 0x20 8 != 0 && dNat d 0x20 8 % 64 == 0

/-- Check 1 of R358. -/
def badJob (id : Ident) (d : BitVec 2048) (regions : Bytes) : Bool :=
  !descShapeOk d || (bit d 16 && dNat d 0x60 8 == 0) ||
  (((List.range 4).any (fun t => dNat d (taskAt t + 8) 8 != 0) || preemptible d) &&
    dNat d 0x80 8 < dumpNeed id d regions) ||
  dNat d 0x18 8 == 0 || !completionOk d || dNat d 0x50 8 % 64 != 0 || dNat d 0x70 8 % 64 != 0 || dNat d 0x60 8 % 16 != 0

/-- Check 4 of R358: every entry of a region table image is well formed (R67). -/
def regionImageOk (cap : Nat) (img : Bytes) : Bool :=
  let tab := imageTable img
  (List.range 64).all fun r => regionOk cap tab (BitVec.ofNat 6 r) (BitVec.ofNat 256 (imgNat img (32 * r) 32))

/-! ### Degraded running (R53, R54, R363) -/

/-- The physical engine of each of `n` logical engines of a kind: a fenced one is served by the free engine that hosts the
fewest, the lowest-numbered on ties. -/
def hostsOf (n : Nat) (fenced free : Nat → Bool) : List Nat :=
  (List.range n).foldl (fun (acc : List Nat) l =>
    if !fenced l then acc ++ [l]
    else
      let load (p : Nat) : Nat := 1 + (acc.zipIdx.filter fun x => x.1 == p && x.2 != p).length
      match ((List.range n).filter free).foldl (fun (m : Option Nat) p => match m with
        | some b => if load p < load b then some p else some b
        | none => some p) none with
      | some p => acc ++ [p]
      | none => acc ++ [l]) []

/-- The remap as one byte for each queue code: the number of the physical engine within its kind; for VX, 1 when it runs on
Crucible (R53, R359; log entry 17). A fused-off array is not remapped (R3). -/
def State.newRemap (s : State) : List (BitVec 8) :=
  let f (k : Nat) : Bool := s.rep.fence.getLsbD k
  let mx := hostsOf 4 (fun p => s.id.hasArray p && f p) fun p => s.id.hasArray p && !f p
  let se := hostsOf 8 (fun k => f (6 + k)) fun p => !f (6 + p)
  let tu := hostsOf 4 (fun k => f (14 + k)) fun p => !f (14 + p)
  ((List.range 8).map (fun q => BitVec.ofNat 8 (mx.getD (q / 2) (q / 2)))) ++
    [if f 4 then 1#8 else 0#8, 0#8] ++ se.map (BitVec.ofNat 8) ++ tu.map (BitVec.ofNat 8)

/-- The physical queue codes that a remap names. -/
def remapCodes (m : List (BitVec 8)) : List (BitVec 8) :=
  m.zipIdx.map fun p =>
    let b := p.1.toNat
    BitVec.ofNat 8 (if p.2 < 8 then 2 * (b % 4) + p.2 % 2 else if p.2 < 10 then p.2
      else if p.2 < 18 then 10 + b % 8 else 18 + b % 4)

/-- The identity remap. -/
def identityRemap : List (BitVec 8) :=
  ((List.range 8).map fun q => BitVec.ofNat 8 (q / 2)) ++ [0, 0] ++ (List.range 8).map (BitVec.ofNat 8) ++
    (List.range 4).map (BitVec.ofNat 8)

/-- Save slots in the spare banks that serve no logical bank (R54). -/
def State.freeSaveSlots (s : State) : Nat :=
  ([32, 33].filter fun b => !s.spad.bankMap.contains b).length * (if s.id.build.spadMib = 128 then 3 else 1)

/-- Save slots that a remap needs: one for each logical array that is folded. -/
def slotsNeeded (m : List (BitVec 8)) : Nat :=
  ((List.range 4).filter fun n => (m.getD (2 * n) 0).toNat != n).length

/-! ### The replay log at job start (R127, R359, R363) -/

/-- FMT and SCALE_EXP of the 1,024 entries. -/
def almLogPayload (es : List (Nat × AlmEntry)) : List Byte :=
  (List.range 1024).flatMap fun i => match es.find? fun e => e.1 == i with
    | some e => [e.2.fmt, e.2.q]
    | none => [0, 0]

/-- Payload bytes of a record. -/
def LogRec.payload (r : LogRec) (img : Bytes) : List Byte := (List.range r.len).map fun i => Store.get img (r.pos + 16 + i)

/-- The entries with FMT and SCALE_EXP of a logged ALMANAC record (R127). -/
def almFromLog (es : List (Nat × AlmEntry)) (p : List Byte) : List (Nat × AlmEntry) :=
  es.map fun e => (e.1, { e.2 with fmt := p.getD (2 * e.1) 0, q := p.getD (2 * e.1 + 1) 0 })

/-- The job-start records of a job: KIND and payload. -/
def startRecords (d : BitVec 2048) (alm remap calId : List Byte) : List (Nat × List Byte) :=
  [(1, alm)] ++ (if degradedOk d then [(4, remap)] else []) ++ (if dNat d 0x38 8 != 0 then [(6, calId)] else [])

/-- Append records; `false` when one does not fit. -/
def Job.appendAll (j : Job) (rs : List (Nat × List Byte)) : Job × Bool :=
  rs.foldl (fun (acc : Job × Bool) r => let (j', ok) := acc.1.append r.1 0 0 0 r.2; (j', acc.2 && ok)) (j, true)

/-- A log begins with the job-start records, by KIND and LEN. -/
def Job.startsWith (j : Job) (rs : List (Nat × List Byte)) : Bool :=
  let got := j.logRecs
  rs.length ≤ got.length && (got.zip rs).all fun p => p.1.kind == p.2.1 && p.1.len == p.2.2.length

/-! ### Checks 2 to 8 and the images of a job -/

/-- What a job loads: its images, its log and its remap. -/
structure JobImages where
  regions : Bytes
  alm : Bytes
  cal : Bytes
  mcast : Bytes
  save : Bytes
  job : Job
  remap : List (BitVec 8)

/-- The largest save area a core may have written. -/
def saveLen : Nat := 2 ^ 28

/-- The job of a descriptor before it starts, with the log that replay mode reads (R356, R359). -/
def newJob (s : State) (ext : Bytes) (d : BitVec 2048) : Job :=
  { s.job with
    st := .running, desc := d, preempt := false, degraded := degradedOk d, more := false, recWritten := false, hints := [],
    lastMx := Vector.replicate 4 none, logPos := 0, logFar := 0, mcast := [],
    log := if bit d 16 then s.getImage ext (dAddr d 0x60) (dNat d 0x68 8) else [] }

/-- Read what a descriptor names. In replay mode a logged remap stands in for a new one (R59). -/
def State.loadImages (s : State) (ext : Bytes) (d : BitVec 2048) : JobImages :=
  let img (off n : Nat) : Bytes := if dNat d off 8 = 0 then [] else s.getImage ext (dAddr d off) n
  let j := newJob s ext d
  let remap :=
    if !degradedOk d then identityRemap
    else if bit d 16 then
      match j.logRecs.find? fun r => r.kind == 4 && r.len == 22 with
      | some r => r.payload j.log
      | none => s.newRemap
    else s.newRemap
  ⟨img 0x18 2048, img 0x28 131072, img 0x38 262208, img 0x40 65536,
   if resumes d then s.getImage ext (dAddr d 0x70) saveLen else [], j, remap⟩

/-- The entries in force from job start: in replay mode FMT and SCALE_EXP come from the log (R127). -/
def JobImages.entries (x : JobImages) : List (Nat × AlmEntry) :=
  let es := almEntries x.alm
  if x.job.replays then
    match x.job.logRecs with
    | r :: _ => almFromLog es (r.payload x.job.log)
    | [] => es
  else es

/-- The job-start records of a job. -/
def JobImages.records (x : JobImages) : List (Nat × List Byte) :=
  startRecords x.job.desc (almLogPayload x.entries) x.remap (leBytes (imgNat x.cal 4 4) 4)

/-- Check 6 of R358 (R290, R292). -/
def calendarBad (s : State) (d : BitVec 2048) (img : Bytes) : Bool :=
  let h := sharesOf d
  let r := s.cal.router
  !r.sharesOk h || (dNat d 0x38 8 != 0 &&
    (!imageOk s.id h img || BitVec.ofNat 32 (imgNat img 8 4) != r.schedId || BitVec.ofNat 8 (imgNat img 13 1) != r.detourFor))

/-- The job after its start records, and whether they fit. A resumed job goes on at the saved position and appends its new
remap (R368, R405). -/
def JobImages.startLog (x : JobImages) (id : Ident) (ext : Bytes) (s : State) : Job × Bool :=
  let d := x.job.desc
  if resumes d then
    let e := sliceBytes x.save (savedExt id d x.save) extBytes
    let at_ := imgNat e 0xA18 4
    let j := { x.job with logPos := at_, log := if x.job.replays then x.job.log else s.getImage ext x.job.logAddr at_ }
    if degradedOk d && !x.job.replays then j.append 4 0 0 0 x.remap else (j, true)
  else x.job.appendAll x.records

/-- Checks 2 to 8 of R358, the first that fails. -/
def jobFault (s : State) (ext : Bytes) (x : JobImages) : Option Code :=
  let d := x.job.desc
  firstFault [
    (!(sharesOf d).ok, Code.badShares),
    (resumes d && !resumeOk s.id d x.save, Code.badResume),
    (!regionImageOk (s.id.build.spadMib * 256) x.regions, Code.badRegion),
    (!almImageOk x.alm, Code.badAlmanac),
    (calendarBad s d x.cal, Code.badCalendar),
    (degradedOk d && s.freeSaveSlots < slotsNeeded x.remap, Code.degradedRefused),
    (!x.job.replays && !(x.startLog s.id ext s).2, Code.replayLogFull),
    (x.job.replays && !x.job.startsWith x.records, Code.replayDiverged)]

/-! ### Job start (R358) -/

/-- The tasks of a descriptor as they start (R349, R350, R357). -/
def newTask (d : BitVec 2048) (t : Fin 4) : Task :=
  let n := numTasks d
  let all := n == 1 && ownMx d 0 == 0#16 && ownQ d 0 == 0#14
  if t.1 < n then
    { Task.none_ with
      st := .running, prog := fld d (8 * taskAt t.1) 64, stopCount := fld d (8 * taskAt t.1 + 64) 64,
      ownMx := if all then BitVec.allOnes 16 else ownMx d t.1, ownQ := if all then BitVec.allOnes 14 else ownQ d t.1 }
  else Task.none_

/-- Entries of a multicast group table (R297): SEQ counts from 0, but in a resumed job from where it stood. A group whose
RX_CORES names core `core` makes it a receiver, which owes its first release notice. -/
def mcastTable (core : Nat) (img : Bytes) (resumed : Bool) : List (Nat × McastGroup) :=
  let ks := img.foldl (fun (ks : List Nat) p => if ks.contains (p.1 / 16) then ks else ks ++ [p.1 / 16]) []
  ks.map fun k =>
    let e := BitVec.ofNat 128 (imgNat img (16 * k) 16)
    let owes : Bool := bit e core
    (k, { McastGroup.ofEntry (if resumed then e else e &&& ~~~(0xFFFF#128 <<< 48)) with sent := if resumed then fld e 48 16 else 0, owes := owes })

/-- The selection of every route entry at a job start (R317). -/
def State.selectRoutes (s : State) : List (Nat × BitVec 2) := s.fa.route.map fun p => (p.1, s.routePick p.2)

/-- Every route entry that has no live path is reported (R326). -/
def State.reportDead (s : State) : State :=
  s.fa.sel.foldl (fun s p =>
    if p.2 = 3#2 then
      let e := s.fa.route.get p.1
      (s.note Code.noPath 0x43 0 0 noDpi 0).emit (.noPath (fld e 8 20) (fld e 28 20))
    else s) s

/-- The bank part a job starts with (R292). -/
def State.jobBank (s : State) (d : BitVec 2048) (img : Bytes) : BankPart :=
  if dNat d 0x38 8 != 0 then imgBank img else match s.cal.deflt with | some c => c.bank | none => BankPart.empty

/-- The replay log in memory holds the job-start records, of the Almanac's FMT and q among them, from job start on (R127, R359). -/
def State.writeStartLog (s : State) : State :=
  let j := s.job
  if !j.logs || j.replays then s else s.putImage j.logAddr j.logPos j.log

/-- Ballast of every physical array that another logical array now runs on, or that is divided anew, ends (R377, R378). -/
def State.endOldBallast (s t : State) : State :=
  (List.finRange 4).foldl (fun u n =>
    if t.logicalOn n == s.logicalOn n && (t.array (t.logicalOn n)).mode == (s.array (s.logicalOn n)).mode then u
    else u.dropBallast (agentOn n)) t

/-- Start the job whose checks have passed (R83, R123, R292, R342, R349, R358, R363, R368): Crucible's slots and tables are EMPTY as VX's
are (log entry 20), the image-in entries of a job in replay mode are those with FMT and SCALE_EXP of the log (log entry 96), and a ring of
a higher class that became pending while the job was read, or a write of PREEMPT then, requests pre-emption (R364, R462). Ballast of
partitions that the job divides anew ends (R377, R378). -/
def State.startJob (s : State) (ext : Bytes) (x : JobImages) : State :=
  let d := x.job.desc
  let es := x.entries
  let j := { (x.startLog s.id ext s).1 with
    remap := remapCodes x.remap, vxOnCu := degradedOk d && x.remap.getD 8 0 == 1#8,
    mcast := mcastTable s.id.core.toNat x.mcast (resumes d),
    logFar := if x.job.replays then
        (((x.job.logRecs.take x.records.length).getLast?).map fun r => r.pos + r.size).getD 0
      else 0 }
  let s1 := ((((((s.withJob j).withMx (mapVec (fun n => Array_.empty (jobMode d n)) (Vector.range 4))).withVx
    VecState.empty).withCu VecState.empty).withRg ⟨imageTable x.regions⟩).withIu { Iu.zero_ with tasks := mapVec (newTask d) (#v[0, 1, 2, 3]), sfNext := s.iu.sfNext })
  let s2 := (s1.withAlm { s1.alm with
    entries := almLoad es, imageIn := es, unbound := TensorRec.zero_, finite := true, tiles := [], tileAge := [],
    tileCount := 0 }).withCal { s1.cal with bank := s.jobBank d x.cal }
  let s3 := (s2.withSol { s2.sol with sent := 0 }).withFa { s2.fa with sel := s2.selectRoutes }
  let s4 := if resumes d then s3.restore x.save (numTasks d) else s3
  let s5 := if resumes d then s4.withJob { s4.job with logPos := j.logPos } else s4
  let s6 := (s.endOldBallast s5).writeStartLog.reportDead.latchEvent 8
  if s.job.asked || s6.ring.toList.any fun r => r.isPending && s6.job.cls < ringClass r.cfg then s6.requestPreempt else s6

/-! ### Job load -/

/-- TASK_STATUS of a refused job (R360). -/
def refusedTasks (d : BitVec 2048) : Nat :=
  let n := numTasks d
  if 1 ≤ n ∧ n ≤ 4 then (List.range n).foldl (fun v t => v + 4 * 16 ^ t) 0 else 4

/-- ORIGIN of the completion record (R360). -/
def Job.origin (j : Job) : Nat := j.ring.1 + 256 * (j.slot.toNat % 2 ^ 24)

/-- Refuse a job: a completion record unless COMPLETION is unusable (R355), DONE, the message, and JOB_END (R358, R360, R361). -/
def State.refuseJob (s : State) (d : BitVec 2048) (code : Code) : State :=
  let s1 := (s.withJob { s.job with desc := d, recTags := none }).logRefusal code
  let err : BitVec 16 := code.setWidth 16
  let rec_ := packFields 512 [(0, 4), (2, err.toNat), (8, noDpi.toNat), (0x10, dNat d 0x88 8), (0x18, dNat d 0x10 8),
    (0x38, s1.job.origin), (0x3C, refusedTasks d)]
  s1.closeJob (if completionOk d then some rec_ else none) (s1.jobMessage 4 err noDpi (dAddr d 0x88))

/-- Load and check the job whose descriptor has been read (R358). `ext` gives, by global address, the bytes of memory outside
this core. -/
def State.loadJob (s : State) (ext : Bytes) : State :=
  if s.job.st != .reading then s
  else
    let r := s.ringAt s.job.ring
    let d := BitVec.ofNat 2048 (imgNat (s.getImage ext (r.slotAddr s.job.slot) 256) 0 256)
    let x := s.loadImages ext d
    if badJob s.id d x.regions then s.refuseJob d Code.badJob
    else
      match jobFault s ext x with
      | some c => s.refuseJob d c
      | none => s.startJob ext x

/-- JOB_LOAD (R358). -/
def execJobLoad (ext : Bytes) (s : State) : Host.Outcome State Fault Refusal := .next (s.loadJob ext)

/-! ### Ending a job (R57, R351, R360, R361) -/

/-- A task whose commands below STOP_COUNT have all completed (R57). Those at or above it stay in their queues and never issue. -/
def State.stopReached (s : State) (t : Fin 4) : Bool :=
  let k := s.task t
  k.st == .running && k.stopCount != 0#64 && k.stopCount ≤ k.dpi &&
  !(s.iu.queued.any fun e => e.x.task = t && e.x.dpi < k.stopCount) && !((s.iu.staged ++ s.iu.exec).any fun u => u.2.e.x.task = t) &&
  !(s.se.slots.toList.any fun k => k.issued.any fun i => i.e.x.task = t)

/-- Every task whose stop is reached ends STOPPED (R351). -/
def State.stopTasks (s : State) : State :=
  (List.finRange 4).foldl (fun s t =>
    if s.stopReached t then s.setTask t { s.task t with st := .ended 2, fetchEnded := true, holds := [] } else s) s

/-- STATUS of a task: 3 for one that a pre-emption ends (R360). -/
def Task.status (k : Task) : Nat := match k.st with | .ended x => x.toNat | _ => 3

/-- The statuses of the job's tasks. -/
def State.statuses (s : State) : List Nat :=
  (List.finRange 4).filterMap fun t => if t.1 < numTasks s.job.desc then some (s.task t).status else none

/-- The most severe status, in the order ABORTED, STOPPED, DONE (R351). -/
def worstStatus (ss : List Nat) : Nat := if ss.contains 1 then 1 else if ss.contains 2 then 2 else 0

/-- ERROR and DPI of the record: the fault of the lowest-numbered aborted task (R360). -/
def State.reported (s : State) : BitVec 16 × W64 :=
  match (List.finRange 4).find? fun t => t.1 < numTasks s.job.desc && (s.task t).fault.isSome with
  | some t => match (s.task t).fault with
    | some f => (f.1.setWidth 16 ||| BitVec.ofNat 16 (4096 * t.1), f.2)
    | none => (0, noDpi)
  | none => (0, noDpi)

/-- The tags of the command of that fault (R254). -/
def State.reportedTags (s : State) : Option Tags :=
  ((List.finRange 4).find? fun t => t.1 < numTasks s.job.desc && (s.task t).fault.isSome).map fun t => (s.task t).ftags

/-- POISON of the record (R72, R360). -/
def State.poisonBits (s : State) : Nat :=
  s.rg.tab.toList.zipIdx.foldl (fun n p =>
    n + (if p.1.poisonA then 4 ^ p.2 else 0) + (if p.1.poisonB then 2 * 4 ^ p.2 else 0)) 0

/-- LOG_BYTES (R360). -/
def Job.logBytes (j : Job) : Nat := if !j.logs then 0 else if j.replays then j.logFar else j.logPos

/-- The completion record (R360). -/
def State.record (s : State) (status : Nat) (updated : Bool) : BitVec 512 :=
  let j := s.job
  let b (x : Bool) (n : Nat) : Nat := if x then n else 0
  packFields 512 [(0, status), (2, s.reported.1.toNat),
    (4, b j.degraded 1 + b j.replays 2 + b updated 4 + b j.more 8), (8, s.reported.2.toNat), (0x10, j.userTag.toNat),
    (0x18, j.step.toNat), (0x20, s.poisonBits), (0x30, s.alm.tileCount % 2 ^ 32), (0x34, j.logBytes % 2 ^ 32),
    (0x38, j.origin), (0x3C, s.statuses.zipIdx.foldl (fun n p => n + p.1 * 16 ^ p.2) 0)]

/-- Write the replay log with its terminating header, where that fits (R359). -/
def State.writeLog (s : State) : State :=
  let j := s.job
  if !j.logs || j.replays then s
  else s.putImage j.logAddr (if j.logPos + 16 ≤ j.logLen then j.logPos + 16 else j.logPos) j.log

/-- A pending injection is dropped with its job. -/
def State.dropInjection (s : State) : State :=
  if s.cc.injBusy then s.withCc { s.cc with injBusy := false, injPend := none, injLost := true } else s

/-- Every task has ended, nothing runs, every transfer has finished and the tile records are drained (R116, R360). -/
def State.jobDone (s : State) : Bool :=
  s.job.st == .running && s.job.lastMsg.isNone && !s.rep.coreFenced && s.tasksEnded && s.iu.staged.isEmpty &&
  s.iu.exec.isEmpty && !s.anySlot && s.alm.tiles.isEmpty

/-- Write a job's record and message, and keep the tags of the fault that they report (R254; log entry 91). -/
def State.reportJob (s : State) (status : Nat) (updated : Bool) : State :=
  (s.withJob { s.job with recTags := s.reportedTags }).closeJob (some (s.record status updated)) (s.jobMessage status s.reported.1 s.reported.2 s.job.userTag)

/-- Write the Almanac image-out where the job has one (R130, R361). `fin` says that the update was applied. -/
def State.writeAlmanac (s : State) (fin : Bool) : State :=
  let out := dAddr s.job.desc 0x30
  if out = 0#64 then s else s.putImage out 524672 (s.almImageOut 0 fin)

/-- End the job (R361): the dump when a task was stopped, the end-of-step rule when every task is DONE (R128, R351), the
image-out, the log, the record and the message. -/
def State.endJob (s : State) : State :=
  let status := worstStatus s.statuses
  let fin := s.statuses.all (· == 0)
  let s1 := if s.statuses.contains 2 then s.writeDump status else s
  let s2 := if fin then s1.almanacStep else s1
  ((s2.writeAlmanac fin).dropInjection.writeLog).reportJob status fin

/-- Stops that are reached take effect; then the job ends if `p` holds of it. -/
def State.tryEnd (s : State) (p : State → Bool) : State :=
  let s1 := s.settleSwaps
  let s2 := if s1.job.st == .running && s1.job.lastMsg.isNone && !s1.rep.coreFenced then s1.stopTasks else s1
  if s2.jobDone && p s2 then s2.endJob else s2

/-- JOB_STOP (R57, R351): the job ends with a dump, since a task was stopped. The forecast follows the queues (R380). -/
def execJobStop (s : State) : Host.Outcome State Fault Refusal :=
  .next (s.tryEnd fun s => s.statuses.contains 2).forecast

/-- JOB_END (R361); the forecast follows the queues (R380). -/
def execJobEnd (s : State) : Host.Outcome State Fault Refusal := .next (s.tryEnd fun _ => true).forecast

/-! ### Pre-emption (R364 to R366) -/

/-- The drain of a pre-emption is complete (R365). -/
def State.drained (s : State) : Bool :=
  s.job.st == .running && s.job.lastMsg.isNone && !s.rep.coreFenced && s.job.preempt && !s.tasksEnded &&
  s.iu.staged.isEmpty && s.iu.exec.isEmpty && !s.anySlot && s.sol.out.isEmpty && s.alm.tiles.isEmpty

/-- No version reference is held and no swap pends in a save area (R366). -/
def State.dropRefs (s : State) : State :=
  (s.withRg ⟨mapVec (fun e => { e with refsA := 0, refsB := 0 }) s.rg.tab⟩).settleSwaps

/-- Save the job and end it PREEMPTED, in the order of R361 (R366; log entry 88). -/
def State.preemptJob (s : State) : State :=
  let s1 := s.stopTasks
  if !s1.drained then s1
  else
    let s2 := (s1.dropRefs).writeSave
    let s3 := s2.withIu { s2.iu with
      queued := [], tasks := mapVec (fun k => if k.st == .running then { k with st := .ended 3 } else k) s2.iu.tasks }
    ((s3.writeAlmanac false).dropInjection.writeLog).reportJob 3 false

/-- PREEMPT_SAVE (R366); the forecast follows the emptied queues (R380). -/
def execPreemptSave (s : State) : Host.Outcome State Fault Refusal := .next (s.follow s.preemptJob)

/-- PREEMPT_TIMEOUT (R365): an arrival is unreleased 2^24 control cycles after the request; the fault has no DPI. -/
def execPreemptTimeout (s : State) : Host.Outcome State Fault Refusal :=
  .next (
    if s.job.st == .running && s.job.preempt && !s.sol.out.isEmpty then
      s.follow <| (List.finRange 4).foldl (fun s t =>
        if s.running t then s.abortTask t Code.preemptTimeout noDpi else s) (s.advanceTo (s.job.preemptAt + 2 ^ 24))
    else s)

end Sys2Proof.Machine
end

