-- ==== Sys2Proof/Machine/Links.lean ====
section
/-! DEFINITION. Fabric links: the frames that a port sends (R309 to R315, R319), reception and rejection (R321), replay (R322),
heartbeat and training (R323, R324), a port going down (R325), key epochs (R328) and transit positions (R315). -/

namespace Sys2Proof.Machine

/-! ### A port goes down (R324, R325) -/

/-- Take a port down: it is announced to every core of the chip, selections that use it move forward, and the log notes it
(R325, R393). -/
def State.dropPort (s : State) (p : Fin 8) : State :=
  let x := s.port p
  if !x.up then s
  else
    let q : Fin 64 := ⟨(8 * s.id.core.toNat + p.1) % 64, Nat.mod_lt _ (by decide)⟩
    let s1 := s.setPort p { x with
      up := false, good := 0, misses := 0, nak := false, rejects := 0, tagRejects := 0, absRun := 0, queue := [], egress := [] }
    ((s1.note Code.linkDown 0x43 (BitVec.ofNat 8 p.1) 0 noDpi 0).emit (.portDown q.1)).losePort q

/-- A fabric port that a fence repairs away (R400, R402). -/
def State.portFenced (s : State) (p : Fin 8) : Bool := s.rep.fence.getLsbD (18 + p.1)

/-- PHY_UP_FALL (R447). -/
def execPhyUpFall (port : Fin 8) (s : State) : Host.Outcome State Fault Refusal :=
  .next ((s.setPort port { s.port port with phyUp := false }).dropPort port)

/-! ### Sending (R312, R319, R322 to R324, R328) -/

/-- The messages of the next control flit and those that wait on: BARRIER before CTRL, two at most (R319). -/
def fillSlot (ms : List FabMsg) : List FabMsg × List FabMsg :=
  let order := ms.filter FabMsg.isBarrier ++ ms.filter fun m => !m.isBarrier
  (order.take 2, order.drop 2)

/-- Keep the last 40 frames (R322). -/
def keepFrames (fs : List SentFrame) : List SentFrame := fs.drop (fs.length - 40)

/-- FCOUNT would reach 2^48 without a flip: the sender takes the link down and logs KEY_EXPIRED (R328). -/
def State.expireKey (s : State) (p : Fin 8) : State :=
  if (s.port p).up && 2 ^ 48 ≤ (s.port p).fcount.toNat + 1 then
    (s.note Code.keyExpired 0x43 (BitVec.ofNat 8 p.1) 0 noDpi 0).dropPort p
  else s

/-- KEY_EXPIRED (R328). -/
def execKeyExpired (port : Fin 8) (s : State) : Host.Outcome State Fault Refusal := .next (s.expireKey port)

/-- The fields of a port's next control flit (R312). -/
def Port.fields (x : Port) (idle hb : BitVec 8) : CtlFields := ⟨x.txSeq, x.rxLast, x.nak, x.rxEpoch, idle, hb, x.txEpoch⟩

/-- A port counts a frame that it sends for the first time (R328). -/
def Port.count (x : Port) : Port := { x with txSeq := x.txSeq + 1, fcount := x.fcount + 1 }

/-- A pattern takes force: one that differs from that in force starts its generator anew (R329; log entry 111). -/
def Port.takePattern (x : Port) (pat : BitVec 2) : Port :=
  { x with pat := pat, lfsr := if pat = x.pat then x.lfsr else BitVec.allOnes 31 }

/-- What takes effect at the start of a link period: the committed schedule (R314), and on a down port a PATTERN other than 0 (R474). -/
def Port.atPeriod (x : Port) : Port :=
  if periodFrame x.fcount = 0 then
    { x.takePattern (if x.up then x.pat else BitVec.ofNat 2 (patternOf x.applied.ctrl)) with sched := x.applied.sched }
  else x

/-- Send an absent frame: data flits of zero and IDLE 0x5A (R323, R324, R454). -/
def State.sendAbsent (s : State) (p : Fin 8) (hb : BitVec 8) : State :=
  let x := s.port p
  (s.setPort p x.count).emit (.frame p (x.sealFrame (x.fields 0x5A hb) (List.replicate 60 0) 0 0))

/-- Send sixteen flits of the pattern generator (R329). -/
def State.sendPattern (s : State) (p : Fin 8) : State :=
  let x := s.port p
  let f := prbsFlits x.pattern 16 x.lfsr
  (s.setPort p { x with lfsr := f.2 }).emit (.frame p f.1)

/-- The messages of a control flit as its two units. -/
def msgUnit (ms : List FabMsg) (k : Nat) : FabUnit :=
  match ms[k]? with
  | some m => m.toUnit
  | none => 0

/-- Send a running frame (R309 to R315, R319): what the schedule fills it with, and the messages of the control flit. It is kept for
resending (R322). -/
def State.sendRunning (s : State) (p : Fin 8) : State :=
  let x := s.port p
  let m := fillSlot x.msgs
  let a := x.fill s.id.core
  let fs := x.sealFrame (x.fields 0 x.hb) a.units (msgUnit m.1 0) (msgUnit m.1 1)
  let x1 := { x.count with
    sent := keepFrames (x.sent ++ [⟨x.txSeq, x.txEpoch, fs, a.keys⟩]), msgs := m.2, queue := a.queue, egress := a.egress }
  (s.setPort p x1).emit (.frame p fs)

/-- Send a frame (R323, R324, R329, R398, R400): a port in pattern mode sends the generator's flits, and a down or fenced port, or one of
a core that is fenced, in reset or not READY, absent frames. HB of a core that is not READY is 0. Before GRADE has named the ports, every
port of the build is one (R12; log entry 79). -/
def State.sendFrame (s0 : State) (p : Fin 8) : State :=
  let s1 := s0.expireKey p
  let s := s1.setPort p (s1.port p).atPeriod
  if !s1.powered || !s1.id.mayHavePort p.1 then s1
  else if (s.port p).pattern != 0 then s.sendPattern p
  else if !(s.port p).up || !s.live || s.portFenced p then s.sendAbsent p (if s.live then (s.port p).hb else 0)
  else s.sendRunning p

/-- CONTROL_SLOT_SEND (R319): the frame that ends with this control slot; the packets that other owners of the chip hand the port wait
for their origin positions first (R315, R318). -/
def execControlSlotSend (slot : PortSlot) (s : State) : Host.Outcome State Fault Refusal :=
  .next ((slot.handed.foldl (fun s o => s.queueUnits slot.port o) s.passMessages).sendFrame slot.port)

/-- KEY_EPOCH_FLIP (R328, R474): a commanded flip waits for the start of a link period at which FCOUNT is at least 64; FCOUNT and FSEQ
restart at 0. -/
def execKeyEpochFlip (port : Fin 8) (s : State) : Host.Outcome State Fault Refusal :=
  let x := s.port port
  let want := epochOf x.applied.ctrl
  .next (if want != x.txEpoch && 64 ≤ x.fcount.toNat && periodFrame x.fcount == 0 then
      s.setPort port { x with txEpoch := want, txSeq := 0, fcount := 0 }
    else s)

/-- Saturating addition to a 32-bit count. -/
def addSat32 (x : BitVec 32) (n : Nat) : BitVec 32 := BitVec.ofNat 32 (min (x.toNat + n) 0xFFFFFFFF)

/-- The kept frames after the last good frame that a NAK names (R321, R322); all of them when it names none. -/
def framesAfter (fs : List SentFrame) (seq : BitVec 12) (epoch : Bool) : List SentFrame :=
  let last (f : SentFrame) : Bool := f.fseq == seq && f.epoch == epoch
  if fs.any last then (fs.dropWhile fun f => !last f).drop 1 else fs

/-- A command of this core has an admitted transfer that waits for the far side. -/
def State.awaits (s : State) (k : Fin 4 × W64) : Bool :=
  (allSlots.any fun q => match (s.slot q.1 q.2).run with
    | some t => t.i.e.x.task == k.1 && t.i.e.x.dpi == k.2 && (t.left != 0 || t.reports != 0)
    | none => false) ||
  s.iu.exec.any fun x => x.2.exporting.isSome && x.2.e.x.task == k.1 && x.2.e.x.dpi == k.2

/-- Remove repeats of a list, keeping the first. -/
def noRepeats {α : Type} [BEq α] (l : List α) : List α :=
  l.foldl (fun acc x => if acc.contains x then acc else acc ++ [x]) []

/-- The bounds of admitted transfers with a run in a replayed frame are extended, which is logged (R322). -/
def State.extendBounds (s : State) (p : Fin 8) (fs : List SentFrame) : State :=
  ((noRepeats (fs.flatMap SentFrame.keys)).filter s.awaits).foldl (fun s k =>
    s.noteFor (BitVec.ofNat 2 k.1.1) Code.boundExtend 0x43 (BitVec.ofNat 8 p.1) 0 k.2 0) s

/-- Resend on a NAK, each frame unchanged (R322). -/
def State.replayLink (s : State) (p : Fin 8) (seq : BitVec 12) (epoch : Bool) : State :=
  let x := s.port p
  let fs := framesAfter x.sent seq epoch
  if !x.up || !s.live || fs.isEmpty then s
  else
    let s1 := s.setPort p { x with resent := addSat32 x.resent fs.length }
    let s2 := (s1.note Code.linkReplay 0x43 (BitVec.ofNat 8 p.1) 0 noDpi 0).extendBounds p fs
    fs.foldl (fun s f => s.emit (.frame p f.flits)) s2

/-- LINK_REPLAY (R322). -/
def execLinkReplay (port : Fin 8) (ackSeq : BitVec 12) (aEpoch : Bool) (s : State) : Host.Outcome State Fault Refusal :=
  .next (s.replayLink port ackSeq aEpoch)

/-! ### Reception (R315, R321, R324) -/

/-- The frames of an epoch that a port has accepted: FCOUNT of the frame it expects next (R321, R328). -/
def Port.rxFcount (x : Port) (epoch : Bool) : W64 := if x.rxAny && epoch == x.rxEpoch then x.rxCount else 0

/-- FSEQ that a frame must carry (R321). -/
def Port.expected (x : Port) (epoch : Bool) : BitVec 12 :=
  if x.rxAny && epoch == x.rxEpoch then x.rxLast + 1 else 0

/-- FCOUNT of a frame: FSEQ is its low bits (R328), so it is the first count from the expected one on that has them. A port that is up takes
frames in order only, so there it is the expected one; a down port follows its peer by it (log entry 129). -/
def Port.fcountOf (x : Port) (f : Frame) : W64 :=
  let n := x.rxFcount f.keyEpoch
  n + (f.fseq - n.setWidth 12).setWidth 64

/-- The receive key of an epoch, and the nonce of a frame (R328). -/
def Port.rxKey (x : Port) (epoch : Bool) : BitVec 256 := if epoch then x.keys[3] else x.keys[2]
def Port.rxNonce (x : Port) (f : Frame) : BitVec 96 := nonceOf x.salts[1] (x.fcountOf f)

/-- The tag of a frame fails: encryption is on, and the tag is wrong or the key slot empty (R321, R327, R328). -/
def Port.tagFails (x : Port) (f : Frame) : Bool :=
  encRx x.applied.ctrl && (!x.keyFull.getLsbD (if f.keyEpoch then 3 else 2) ||
    f.tag != gcmTag (x.rxKey f.keyEpoch) (x.rxNonce f) f.aad f.rawUnits)

/-- The 60 data units and the two message units of a sound frame, decrypted (R328). -/
def Port.plainUnits (x : Port) (f : Frame) : List FabUnit :=
  if encRx x.applied.ctrl then cryptUnits (x.rxKey f.keyEpoch) (x.rxNonce f) f.rawUnits else f.rawUnits

/-- A frame fails a check other than the tag and FSEQ (R321). -/
def frameBroken (f : Frame) : Bool := f.flagged || f.parity || f.crcBad

/-- A schedule of this core's ports in force, or of the chip's other ports, names an ingress position (R314, R315). -/
def State.namesTransit (s : State) (p : Fin 8) (pos : Nat) (f : Frame) : Bool :=
  f.taken.contains pos || s.fp.toList.any fun x => (List.range 60).any fun e =>
    let w := schedEntry x.sched e
    fld w 0 2 == 2#2 && (fld w 2 6 : BitVec 6).toNat == 8 * s.id.core.toNat + p.1 && (fld w 8 6 : BitVec 6).toNat == pos

/-- Log CAL_MISMATCH of a port (R310, R315). -/
def State.mismatch (s : State) (p : Fin 8) : State := s.note Code.calMismatch 0x43 (BitVec.ofNat 8 p.1) 0 noDpi 0

/-- Hold an ingress position for one link period: units for other chips that no egress position has forwarded when the next
occurrence ends are discarded (R315). -/
def State.holdPosition (s : State) (p : Fin 8) (h : HeldPos) : State :=
  let x := s.port p
  let lost := x.held.any fun q => q.pos == h.pos && !q.done && q.units.any fun u => u != 0
  (if lost then s.mismatch p else s).setPort p { x with held := h :: x.held.filter fun q => !(q.pos == h.pos) }

/-- An ingress position has ended (R310, R313, R315): packets for this chip are delivered over the mesh, bad ones are discarded, and
the rest is held. -/
def State.takePosition (s : State) (p : Fin 8) (f : Frame) (pos : Nat) (us : List FabUnit) : State :=
  let x := s.port p
  let o := f.owners.getD pos 0
  let cur := x.opens.find? fun q => q.owner == o
  let skip := match cur with | some q => min 17 (q.need + 1) | none => 0
  let w := us.foldl (fun (w : Walk) u => w.unit o s.id.chip (s.namesTransit p pos f) u) (⟨cur, [], [], 0⟩ : Walk)
  let opens := (x.opens.filter fun q => !(q.owner == o)) ++ w.cur.toList
  let s1 := (s.setPort p { x with opens := opens }).holdPosition p ⟨pos, f.taken.contains pos, skip, w.on⟩
  let s2 := (List.range w.bad).foldl (fun s _ => s.mismatch p) s1
  w.here.foldl (fun s us => s.emit (.deliver (us.headD 0) (packetRun us))) s2

/-- Take positions of 17 units from the units of a link period that have arrived, from position `pos` on (R313). -/
def State.takePositions (s : State) (p : Fin 8) (f : Frame) : Nat → Nat → List FabUnit → State
  | 0, _, us => s.setPort p { s.port p with carry := us }
  | n + 1, pos, us =>
    if us.length < 17 then s.setPort p { s.port p with carry := us }
    else (s.takePosition p f pos (us.take 17)).takePositions p f n (pos + 1) (us.drop 17)

/-- A unit of an accepted control flit (R310, R319, R320): a message is routed, a bad one discarded. -/
def State.takeMessage (s : State) (p : Fin 8) (u : FabUnit) : State :=
  if isPadding u then s
  else if headBad u then s.mismatch p
  else match msgOf u with
    | some m => s.routeMsg m
    | none => s

/-- Accept a frame on a port that is up (R321): the second absent control flit in succession takes it down (R324). -/
def State.acceptFrame (s : State) (p : Fin 8) (f : Frame) : State :=
  let x := s.port p
  let abs := f.idle == 0x5A#8
  let n := x.rxFcount f.keyEpoch
  let us := x.plainUnits f
  let old := if periodFrame n = 0 then [] else x.carry
  let x1 := { x with
    rxAny := true, rxLast := f.fseq, rxEpoch := f.keyEpoch, rxCount := n + 1, nak := false, rejects := 0, tagRejects := 0,
    misses := if f.hb != x.peerHb then 0 else x.misses, peerHb := f.hb, absRun := if abs then x.absRun + 1 else 0, absent := abs }
  let s1 := (s.setPort p x1).takePositions p f 5 ((60 * periodFrame n - old.length) / 17) (old ++ us.take 60)
  let s2 := (us.drop 60).foldl (fun s u => s.takeMessage p u) s1
  if 2 ≤ x1.absRun then s2.dropPort p else s2

/-- Reject a frame (R321): NAK is set and the frames after it are discarded until it arrives again. The fourth rejection of one
frame takes the link down (R322); four by the tag alone are logged as LINK_AUTH (R328). -/
def State.rejectFrame (s : State) (p : Fin 8) (tagOnly : Bool) : State :=
  let x := s.port p
  let x1 := { x with
    nak := true, rejects := x.rejects + 1, tagRejects := if tagOnly then x.tagRejects + 1 else 0,
    rejected := addSat32 x.rejected 1 }
  let s1 := s.setPort p x1
  if 4 ≤ x1.rejects then
    (if 4 ≤ x1.tagRejects then s1.note Code.linkAuth 0x43 (BitVec.ofNat 8 p.1) 0 noDpi 0 else s1).dropPort p
  else s1

/-- A frame at a port that is down: its content is discarded; a sound running one with a new heartbeat counts toward training
(R324), and the count of its peer's frames goes on. -/
def Port.train (x0 : Port) (f : Frame) : Port :=
  if frameBroken f || x0.tagFails f then x0
  else
    let x := { x0 with rxAny := true, rxLast := f.fseq, rxEpoch := f.keyEpoch, rxCount := x0.fcountOf f + 1 }
    if f.idle == 0#8 && f.hb != x.peerHb then { x with peerHb := f.hb, good := x.good + 1, absent := false }
    else if f.idle == 0#8 then { x with absent := false }
    else { x with peerHb := f.hb, good := 0, absent := f.idle == 0x5A#8 }

/-- The 1 bits of a flit. -/
def flitOnes (f : BitVec 512) : Nat := (List.range 512).countP fun i => f.getLsbD i

/-- The last bits of a flit of a pattern, the newest as bit 0. -/
def lastBits (f : BitVec 512) : BitVec 31 := (fld f 481 31 : BitVec 31).reverse

/-- The last bits of a generator that its pattern depends on. -/
def patternState (pattern : Nat) (r : BitVec 31) : BitVec 31 :=
  match pattern with
  | 1 => r &&& 0x7F
  | 2 => r &&& 0x7FFF
  | _ => r

/-- A flit at a port in pattern mode (R329), compared with what the polynomial makes of the bits before it. The checker locks after 64
error-free flits in succession; its own generator then goes on, and the bits that differ from it are counted (log entry 67). -/
def Port.checkFlit (x : Port) (f : BitVec 512) : Port :=
  let e := prbsBits x.pattern 512 x.chk
  let errors := flitOnes (f ^^^ BitVec.ofNat 512 e.1)
  if x.locked then { x with prbs := addSat32 x.prbs errors, chk := e.2 }
  else
    let n := if errors = 0 ∧ patternState x.pattern x.chk ≠ 0 then x.good + 1 else 0
    { x with good := n, locked := 64 ≤ n, chk := lastBits f }

/-- Receive a frame (R321). -/
def State.receiveFrame (s : State) (p : Fin 8) (f : Frame) : State :=
  let x := { s.port p with phyUp := true }
  let s1 := s.setPort p x
  if !s.id.hasPort p.1 then s
  else if !s.live || s.portFenced p then s1
  else if x.pattern != 0 then s1.setPort p (f.flits.foldl Port.checkFlit x)
  else if !x.up then s1.setPort p (x.train f)
  else if f.fseq != x.expected f.keyEpoch then (if x.nak then s1 else s1.rejectFrame p false)
  else if frameBroken f then s1.rejectFrame p false
  else if x.tagFails f then s1.rejectFrame p true
  else s1.acceptFrame p f

/-- FRAME_RECEIVE (R321). -/
def execFrameReceive (port : Fin 8) (f : Frame) (s : State) : Host.Outcome State Fault Refusal :=
  .next (s.receiveFrame port f)

/-! ### Heartbeat and training (R323, R324) -/

/-- HEARTBEAT_TICK (R323): HB counts on every present port once the core is READY. -/
def execHeartbeatTick (s : State) : Host.Outcome State Fault Refusal :=
  .next (
    if s.live then
      s.withFp (mapVec (fun p : Fin 8 => if s.id.hasPort p.1 then { s.port p with hb := (s.port p).hb + 1 } else s.port p)
        #v[0, 1, 2, 3, 4, 5, 6, 7])
    else s)

/-- An interval without a new heartbeat (R323, R324): the fourth in succession takes the link down. -/
def State.missBeat (s : State) (p : Fin 8) : State :=
  let x := s.port p
  if !s.id.hasPort p.1 || x.pattern != 0 then s
  else
    let s1 := s.setPort p { x with misses := x.misses + 1, good := 0 }
    if 4 ≤ x.misses + 1 then s1.dropPort p else s1

/-- HEARTBEAT_MISS (R324). -/
def execHeartbeatMiss (port : Fin 8) (s : State) : Host.Outcome State Fault Refusal := .next (s.missBeat port)

/-- Bring a link up (R324): FSEQ, and FCOUNT with it (R328), restart at 0. -/
def Port.start (x : Port) : Port :=
  { x with
    up := true, txSeq := 0, fcount := 0, rxAny := false, nak := false, rejects := 0, tagRejects := 0, misses := 0, absRun := 0,
    absent := false, sent := [], held := [], queue := [], egress := [], rxCount := 0, carry := [], opens := [] }

/-- LINK_TRAINING_COMPLETE (R324): four good intervals in succession. -/
def execLinkTrainingComplete (port : Fin 8) (s : State) : Host.Outcome State Fault Refusal :=
  let x := s.port port
  .next (
    if s.live && s.id.hasPort port.1 && !s.portFenced port && x.pattern == 0 && x.phyUp && !x.up && 4 ≤ x.good then s.setPort port x.start else s)

/-! ### Transit (R315, R325) -/

/-- A REFUSE of cause 5 goes back in the reverse positions of the path: in one of the ingress port, where that is this core's, that passes
on what the down port brings; else its core places it (R325; log entry 130). -/
def State.refuseBack (s : State) (down inport inpos : Nat) (u : FabUnit) : State :=
  if inport / 8 = s.id.core.toNat then
    let q : Fin 8 := ⟨inport % 8, Nat.mod_lt _ (by decide)⟩
    match (s.port q).reversePos down with
    | some e => s.setPort q ((s.port q).addEgress e u)
    | none => s.mismatch q
  else s.emit (.pathDown inport inpos u)

/-- Forward the units of an ingress position in the egress position that names it (R315). On a down port every packet that begins
among them is answered with a REFUSE of cause 5 (R325). -/
def State.passOn (s : State) (p : Fin 8) (pos inport inpos skip : Nat) (us : List FabUnit) : State :=
  if (s.port p).up then
    s.setPort p { s.port p with egress := (pos, us) :: (s.port p).egress.filter fun e => !(e.1 == pos) }
  else (headsIn skip us).foldl (fun s u =>
    s.refuseBack (8 * s.id.core.toNat + p.1) inport inpos (pathDownRefusal (s.sender 14) u)) s

/-- `units` are those of a position that another core's port holds, of which the first `skip` continue an earlier packet. -/
def State.forwardTransit (s : State) (p : Fin 8) (pos : Nat) (inport inpos skip : Nat) (units : List FabUnit) : State :=
  let w := schedEntry (s.port p).sched pos
  if !s.live || fld w 0 2 != 2#2 || (fld w 2 6 : BitVec 6).toNat != inport || (fld w 8 6 : BitVec 6).toNat != inpos then s
  else if inport / 8 != s.id.core.toNat then s.passOn p pos inport inpos skip units
  else
    let q : Fin 8 := ⟨inport % 8, Nat.mod_lt _ (by decide)⟩
    let x := s.port q
    match x.held.find? fun h => h.pos == inpos with
    | none => s
    | some h =>
      (s.setPort q { x with held := x.held.map fun y => if y.pos == inpos then { y with done := true } else y }).passOn p pos
        inport inpos h.skip h.units

/-- TRANSIT_FORWARD (R315). -/
def execTransitForward (port : Fin 8) (pos : Fin 60) (inport : Fin 64) (inpos : Fin 60) (u : TransitUnits) (s : State) :
    Host.Outcome State Fault Refusal := .next (s.forwardTransit port pos.1 inport.1 inpos.1 u.skip u.units)

end Sys2Proof.Machine
end

