-- ==== Sys2Proof/Machine/Repair.lean ====
section
/-! DEFINITION. Repair records (R402 to R405, R424): the checks of a record, the locations it must cover at bring-up, and its
application. -/

namespace Sys2Proof.Machine

/-! ### Fields and checks (R402, R403) -/

/-- FENCE of a record. -/
def recFence (r : BitVec 2048) : W32 := fld r 32 32

/-- BANK_MAP of a record. -/
def recBanks (r : BitVec 2048) : List Nat := (List.range 32).map fun l => (fld r (64 + 8 * l) 8 : BitVec 8).toNat

/-- An exclusion of array n: `col` for a column, index 0 to 7. -/
def recExcl (r : BitVec 2048) (n : Nat) (col : Bool) (k : Nat) : BitVec 16 :=
  fld r (8 * (0x30 + 40 * n + (if col then 16 else 0) + 2 * k)) 16

/-- The valid excluded rows or columns of an array. -/
def recExcluded (r : BitVec 2048) (n : Nat) (col : Bool) : List Nat :=
  (List.range 8).filterMap fun k =>
    let e := recExcl r n col k
    if bit e 15 then some (fld e 0 9 : BitVec 9).toNat else none

/-- No two entries are equal. -/
def distinct : List Nat → Bool
  | [] => true
  | x :: xs => !xs.contains x && distinct xs

/-- The FENCE bit names a unit that the build and grade have. -/
def fencePresent (id : Ident) (k : Nat) : Bool :=
  if k < 4 then id.hasArray k else if k = 4 then id.hasVx else if k < 18 then true else id.hasPort (k - 18)

/-- A record passes R403. -/
def recOk (id : Ident) (r : BitVec 2048) : Bool :=
  let arr := List.range 4
  fld r 0 16 == 1#16 && fld r 16 16 == 0#16 && fld r 58 6 == 0#6 && fld r (8 * 0x28) 64 == 0#64 &&
  fld r (8 * 0xD0) 384 == 0#384 &&
  (arr.all fun n => fld r (8 * (0x30 + 40 * n + 32)) 64 == 0#64 &&
    [false, true].all fun c =>
      ((List.range 8).all fun k => fld (recExcl r n c k) 9 6 == 0#6) &&
      (recExcluded r n c).all (· ≤ 263) && distinct (recExcluded r n c)) &&
  (recBanks r).all (· ≤ 33) && distinct (recBanks r) &&
  (List.range 26).all fun k => !(recFence r).getLsbD k || fencePresent id k

/-! ### Coverage at bring-up (R424) -/

/-- The FENCE bit of the engine that a unit code names. -/
def fenceBit (unit : Nat) : Option Nat :=
  if 0x10 ≤ unit ∧ unit < 0x20 then some ((unit - 0x10) / 4)
  else if unit = 0x20 then some 4
  else if unit = 0x21 then some 5
  else if 1 ≤ unit ∧ unit ≤ 8 then some (5 + unit)
  else if 0x24 ≤ unit ∧ unit ≤ 0x27 then some (14 + (unit - 0x24))
  else none

/-- A record can cover a failure of the unit (R424). -/
def failCoverable (f : FailLoc) : Bool := f.unit == 0x47#8 || (fenceBit f.unit.toNat).isSome

/-- A record covers a failing location. A unit that is fused off needs no fence. -/
def failCovered (id : Ident) (r : BitVec 2048) (f : FailLoc) : Bool :=
  let row : Nat := (fld f.loc 0 9 : BitVec 9).toNat
  let col : Nat := (fld f.loc 18 9 : BitVec 9).toNat
  if f.unit = 0x47#8 then !(recBanks r).contains row
  else match fenceBit f.unit.toNat with
    | none => false
    | some k =>
      (recFence r).getLsbD k || !fencePresent id k ||
      (k < 4 && ((recExcluded r k false).contains row || (recExcluded r k true).contains col))

/-! ### Application (R403 to R405) -/

/-- The words in error under a new bank map (R404): the copy carries those of the logical banks along, and overwrites a spare that it fills.
A bank that now serves none keeps its own, those that the copy read from it and those of a spare (log entry 113). -/
def State.movedBad (s : State) (banks : List Nat) : List Nat :=
  let cap := s.spadBytes / 8
  let own := s.spad.bad.filter fun w => w < cap
  let place (k line w : Nat) : Nat := cap + 32 * (2 * line + k) + w % 32
  own ++ (freeBanks banks).zipIdx.flatMap fun b =>
    match s.spareBanks.findIdx? (· == b.1), s.spad.bankMap.findIdx? (· == b.1) with
    | some j, _ => (s.spad.bad.filter fun w => cap ≤ w && w / 32 % 2 == j).map fun w => place b.2 ((w - cap) / 64) w
    | none, some l => (own.filter fun w => w / 32 % 32 == l).map fun w => place b.2 (w / 1024) w
    | none, none => []

/-- Put a record in force. -/
def State.useRecord (s : State) (r : BitVec 2048) (fence : W32) : State :=
  (s.withRep { s.rep with fence := fence, record := some r, pending := none }).withSpad
    { s.spad with bankMap := recBanks r, bad := s.movedBad (recBanks r) }

/-- The unit code of a FENCE bit, and the port of a fabric port's. -/
def fenceUnit (k : Nat) : BitVec 8 × BitVec 8 :=
  if k < 4 then (BitVec.ofNat 8 (0x10 + 4 * k), 0)
  else if k = 4 then (0x20, 0)
  else if k = 5 then (0x21, 0)
  else if k < 14 then (BitVec.ofNat 8 (k - 5), 0)
  else if k < 18 then (BitVec.ofNat 8 (0x24 + (k - 14)), 0)
  else (0x43, BitVec.ofNat 8 (k - 18))

/-- Report a record's status on the sideband; the spec gives the report no code, so its data is a free value (R448). -/
def State.reportRecord (s : State) : State := (s.draw.2).emit (.sideband 3 s.draw.1)

/-- The physical rows or columns that serve logical ones, in order: those that the repair map does not exclude (R152). -/
def steered (excl : List Nat) : List Nat := (List.range 264).filter fun k => !excl.contains k

/-- The physical row or column that serves logical row or column `i` of physical array `n`: the (i + 1)-th that is not excluded,
counted upward (R152). -/
def State.physLine (s : State) (n : Fin 4) (col : Bool) (i : Nat) : Option Nat :=
  (steered (match s.rep.record with | some r => recExcluded r n.1 col | none => []))[i]?

/-- Arrays whose exclusions a record changes lose their planes and registers (R153, R405). -/
def State.steer (s : State) (r : BitVec 2048) : State :=
  s.emptyParts fun n _ => match s.rep.record with
    | some q => (fld q (8 * (0x30 + 40 * n)) 256 : BitVec 256) != fld r (8 * (0x30 + 40 * n)) 256
    | none => true

/-- Apply the pending record at a job boundary, or at once when no job runs. `failed` are the engines whose self-test fails: they
stay fenced (R403). A newly fenced port goes down (R400). The completion message that waited leaves after it. -/
def State.applyRepair (s : State) (failed : W32) : State :=
  match s.rep.pending with
  | none => s
  | some r =>
    if !s.works || !(s.job.st == .idle || s.job.lastMsg.isSome) then s
    else
      let cleared := s.rep.fence &&& ~~~(recFence r)
      let stay := cleared &&& failed
      let s1 := (s.steer r).useRecord r (recFence r ||| stay)
      let s2 := (List.range 26).foldl (fun s k =>
        if stay.getLsbD k then s.note Code.selftestFail (fenceUnit k).1 (fenceUnit k).2 0 noDpi 0 else s) s1
      let s3 := (List.finRange 8).foldl (fun s p => if s.portFenced p then s.dropPort p else s) s2
      match s3.job.lastMsg with
      | some m => s3.finishJob m s3.job.recWritten
      | none => s3

/-- REPAIR_APPLY (R403). -/
def execRepairApply (failed : BitVec 32) (s : State) : Host.Outcome State Fault Refusal := .next (s.applyRepair failed)

end Sys2Proof.Machine
end

