-- ==== Sys2Proof/Machine/BringUp.lean ====
section
/-! DEFINITION. Resets, bring-up, lifecycle and unlock (R417 to R433, R448, R449), loss of power (R389) and the TAP (R435). -/

namespace Sys2Proof.Machine

/-! ### Resets (R417, R418, R422) -/

/-- Phase 1's zeroise of a port: its schedule, keys, SALTs and replay buffer (R422). -/
def Port.zeroise (p : Port) : Port :=
  { p with
    staged := { p.staged with sched := List.replicate 15 0 }, applied := { p.applied with sched := List.replicate 15 0 },
    keys := Vector.replicate 4 0, keyFull := 0, salts := Vector.replicate 2 0, saltFull := 0, sent := [] }

/-- Zeroise every store of R422; the lifecycle state, GRADE, the repair state and the calendars stay. -/
def State.zeroise (s : State) : State :=
  { s with
    spad := { Spad.zero_ with bankMap := s.spad.bankMap }, rg := RegionTable.zero_,
    iu := { s.iu with ec := Iu.zero_.ec, pd := 0, sf := Iu.zero_.sf },
    mx := Vector.replicate 4 (Array_.empty 0), vx := VecState.empty, cu := VecState.empty, alm := Alm.zero_,
    cc := { s.cc with imem := [], dmem := [], badWords := [], flips := [], hart := Hart.boot },
    cal := { s.cal with replays := [] }, fp := mapVec Port.zeroise s.fp, fa := { s.fa with route := [], staged := [] }, err := Err.zero_ }

/-- The core in reset: every store zeroised, with what the zeroise leaves (R422), the inputs of its ports, and the TAP. A warm
reset leaves the transit router forwarding, with the core's slots idle (R418), and does not reset the test island (R16, R417):
the observation selectors and the test-hold latch stay, but the internal chains close and what scan shift loaded into them is zeroised
(R436). The sensor outputs keep their last readings (R454), the registers of the readings do not (R390). The clock outputs that the reset
changes are announced (PG_F, R450). MTIME counts from the assertion of the reset on (log entry 143). -/
def State.inReset (s : State) (cold unlocked : Bool) : State :=
  { State.reset with
    pending := s.pending,
    out := s.out ++ (if s.eq.fc then [.forecast 0] else []) ++ (if s.eq.throttle = 0 ∧ s.eq.stretch = 0 then [] else [.power 0 0]),
    freeCtr := s.freeCtr, id := s.id,
    bring := { Bring.start with cold := cold, unlocked := unlocked, testHold := !cold && s.bring.testHold },
    eq := { Eqx.zero_ with tsOut := s.eq.tsOut },
    spad := { Spad.zero_ with bankMap := s.spad.bankMap },
    cal := { Cal.zero_ with
      router := if cold then RouterPart.empty else s.cal.router, bank := s.cal.bank, deflt := s.cal.deflt,
      detours := s.cal.detours, order := if cold then none else s.cal.order, held := if cold then [] else s.cal.held,
      withdrawn := true, routerFenced := !cold && s.cal.routerFenced },
    sol := { Sol.zero_ with memb := s.sol.memb, peers := s.sol.peers },
    fp := mapVec (fun p => { Port.down with phyUp := p.phyUp }) s.fp,
    rep := { Repair.zero_ with fence := s.rep.fence, record := s.rep.record },
    su := if cold then { Setup.zero_ with obsCount := s.su.obsCount }
      else { Setup.zero_ with
        obsCount := s.su.obsCount, obs := s.su.obs, obsS := s.su.obsS, obsErr := s.su.obsErr, obsReason := s.su.obsReason },
    tap := if cold then Tap.zero_ else { s.tap with chains := false, scan := [] } }

/-- POWER_ON_RESET (R417): the power is there. -/
def execPowerOnReset (s : State) : Host.Outcome State Fault Refusal :=
  .next (s.inReset true false)

/-- WARM_RESET (R417); it has no effect while a power-on reset is held (R441) or the core is unpowered. -/
def execWarmReset (s : State) : Host.Outcome State Fault Refusal :=
  .next (if !s.powered || (s.bring.held && s.bring.cold) then s else s.inReset false false)

/-- UNLOCK (R432): in PRODUCTION it sets the latch and causes a warm reset. -/
def execUnlock (s : State) : Host.Outcome State Fault Refusal :=
  .next (
    if !s.powered || (s.bring.held && s.bring.cold) || s.id.lifecycle != 3#3 then s
    else s.inReset false true)

/-- POWER_REMOVAL (R389): the core keeps no state. -/
def execPowerRemoval (s : State) : Host.Outcome State Fault Refusal :=
  .next { State.reset with
    pending := s.pending, out := s.out, freeCtr := s.freeCtr, id := Ident.undelivered s.id.build, powered := false,
    su := { Setup.zero_ with obsCount := s.su.obsCount } }

/-! ### Progress and failure (R421, R426) -/

/-- Bring-up runs: no reset is held, and it has neither failed nor ended in test hold, READY or a fence. -/
def State.bringing (s : State) : Bool :=
  s.powered && !s.bring.held && !s.bring.failed && !s.bring.testHold && !s.bring.ready && !s.rep.coreFenced

/-- Bring-up runs in a phase. -/
def State.inPhase (s : State) (p : BitVec 4) : Bool := s.bringing && s.bring.phase == p

/-- Send BRINGUP_REPORT on the sideband (R426, R448) and on link MG (R445). -/
def State.sendReport (s : State) : State := (s.emit (.sideband 2 s.report)).emit (.mgReport s.report)

/-- Bring-up fails (R426): the cause is reported and BRINGUP_FAIL logged. -/
def State.failBring (s : State) (cause : BitVec 4) (unit : BitVec 8) (loc : W32) : State :=
  let s1 := s.withBring { s.bring with failed := true, cause := cause, unit := unit, loc := loc }
  (s1.addLog (s1.logEntry Code.bringupFail .coreFatal 0 unit 0 loc noDpi 0)).sendReport

/-- An item that comes out of its window is discarded, which is logged (R449). -/
def State.discardItem (s : State) : State := if s.powered then s.note Code.msgDiscarded 0x40 0 0 noDpi 0 else s

/-- The item types that a phase receives (R421, R449). -/
def phaseItems (p : BitVec 4) : List (BitVec 8) :=
  if p = 2#4 then [1, 2, 3] else if p = 5#4 then [4] else if p = 6#4 then [5, 6, 7, 8, 9, 10, 11, 12, 13] else []

/-- Enter a phase; one that receives items requests them at its start (R423; log entry 81). -/
def State.toPhase (s : State) (p : BitVec 4) : State :=
  let s1 := s.withBring { s.bring with phase := p }
  if (phaseItems p).isEmpty then s1 else s1.emit (.itemRequest (phaseItems p))

/-- RESET_RELEASE (R421, R422, R426, R436): TEST_HOLD is sampled, phase 1 zeroises and verifies, and in test hold the core stops
after it. `failing` is the first store word that reads back non-zero. -/
def State.release (s : State) (testHold : Bool) (failing : Option FailLoc) : State :=
  if !s.powered || !s.bring.held then s
  else
    let s1 := (s.withBring { s.bring with held := false, phase := 1, testHold := testHold }).zeroise
    match failing with
    | some f => s1.failBring 1 f.unit f.loc
    | none =>
      let s2 := s1.withBring { s1.bring with zeroOk := true }
      if testHold then s2 else s2.toPhase 2

/-- RESET_RELEASE. -/
def execResetRelease (testHold : Bool) (failing : Option FailLoc) (s : State) : Host.Outcome State Fault Refusal :=
  .next (s.release testHold failing)

/-! ### Phase 2 (R23, R25, R429, R449) -/

/-- Phase 2 ends when its three items have arrived: an unknown lifecycle state or an insufficient GRADE fails it (R20, R424,
R429). When both are bad the model reports the lifecycle state, and neither fails the phase before the other items have arrived
(DESIGN CHOICE, log entry 82). -/
def State.endPhase2 (s : State) : State :=
  let b := s.bring
  if !(b.gotId && b.gotLife && b.gotGrade) then s
  else if !(1#3 ≤ s.id.lifecycle && s.id.lifecycle ≤ 4#3) then s.failBring 8 0x40 0
  else if !((List.range 4).any fun n => s.id.hasArray n) || !s.id.hasVx then s.failBring 7 0x40 0
  else s.toPhase 3

/-- IDENTITY (R449). -/
def execIdentity (item : W64) (s : State) : Host.Outcome State Fault Refusal :=
  .next (
    if s.inPhase 2 then
      ((s.withId { s.id with
        chip := fld item 0 20, core := fld item 20 3, mfr := fld item 23 11, memNom := fld item 34 14,
        hbNom := fld item 48 14 }).withBring { s.bring with gotId := true }).endPhase2
    else s.discardItem)

/-- LIFECYCLE (R429). -/
def execLifecycle (item : W64) (s : State) : Host.Outcome State Fault Refusal :=
  .next (
    if s.inPhase 2 then
      (((s.withId { s.id with lifecycle := fld item 0 3 }).withBring { s.bring with gotLife := true })).endPhase2
    else s.discardItem)

/-- The keys and SALTs of the ports that GRADE leaves out go: a port that is fused off is absent for every purpose (R3). -/
def State.dropKeys (s : State) : State :=
  (List.finRange 8).foldl (fun s p => if s.id.mayHavePort p.1 then s
    else s.setPort p { s.port p with
      keys := Vector.replicate 4 0, keyFull := 0, salts := Vector.replicate 2 0, saltFull := 0 }) s

/-- GRADE_ITEM (R23, R449). -/
def execGradeItem (item : W64) (s : State) : Host.Outcome State Fault Refusal :=
  .next (
    if s.inPhase 2 then
      ((s.withId { s.id with grade := item, graded := true }).withBring { s.bring with gotGrade := true }).dropKeys.endPhase2
    else s.discardItem)

/-! ### Phases 3 to 5 (R421, R424) -/

/-- A self-test that the IEEE 1687 network starts in test hold finds its failing locations (R436). -/
def State.heldBist (s : State) (failing : List FailLoc) : State :=
  if s.inTestHold then s.withBring { s.bring with failing := s.bring.failing ++ failing } else s

/-- MEMORY_BIST (R421, R436). -/
def execMemoryBist (failing : List FailLoc) (s : State) : Host.Outcome State Fault Refusal :=
  .next (
    if s.inPhase 3 then (s.withBring { s.bring with failing := s.bring.failing ++ failing }).toPhase 4
    else s.heldBist failing)

/-- LOGIC_BIST (R421, R424): the failing locations are sent to the management block; one that no record can cover fails
bring-up. -/
def State.endBist (s : State) (failing : List FailLoc) : State :=
  let fs := s.bring.failing ++ failing
  let s1 := (s.withBring { s.bring with failing := fs }).toPhase 5
  let s2 := fs.foldl (fun s f => s.emit (.sideband 1 (f.unit.setWidth 64 ||| (f.loc.setWidth 64 <<< 8)))) s1
  match fs.find? fun f => !failCoverable f with
  | some f => s2.failBring 3 f.unit f.loc
  | none => s2

/-- LOGIC_BIST. -/
def execLogicBist (failing : List FailLoc) (s : State) : Host.Outcome State Fault Refusal :=
  .next (if s.inPhase 4 then s.endBist failing else s.heldBist failing)

/-- The first repair record (R403, R424): refused, which is logged, or applied at once. -/
def State.firstRecord (s : State) (r : BitVec 2048) : State :=
  let s1 := s.reportRecord
  match recOk s.id r, s.bring.failing.find? fun f => !failCovered s.id r f with
  | true, none => ((s1.useRecord r (recFence r)).withBring { s1.bring with gotRepair := true }).toPhase 6
  | true, some f => s1.failBring 4 f.unit f.loc
  | false, _ => (s1.note Code.repairRefused 0x40 0 0 noDpi 0).failBring 4 0x40 0

/-- A record after READY (R403): refused and logged, or held pending in place of an earlier one. -/
def State.laterRecord (s : State) (r : BitVec 2048) : State :=
  let s1 := s.reportRecord
  if recOk s.id r then s1.withRep { s1.rep with pending := some r }
  else s1.note Code.repairRefused 0x40 0 0 noDpi 0

/-- REPAIR_RECORD (R403, R424, R449). -/
def execRepairRecord (record : Item (BitVec 2048)) (s : State) : Host.Outcome State Fault Refusal :=
  .next (
    if !record.inOrder then s.discardItem
    else if s.inPhase 5 then s.firstRecord record.content
    else if s.works then s.laterRecord record.content
    else s.discardItem)

/-! ### Phase 6 (R285, R290, R292) -/

/-- The shares of R83 that hold without a job. -/
def defaultShares : Shares := ⟨8, 5, 3⟩

/-- Phase 8 (R421): the stores that phases 3 to 7 wrote are zeroised again. The self-tests leave the others as the first zeroise did, so
this is the error log; keys that have arrived are no work of a phase and stay (log entry 65). -/
def State.phase8 (s : State) : State := (s.withErr Err.zero_).toPhase 9

/-- Phase 6 ends when the image and all eight parts have arrived; phase 7 is skipped when Crucible is fenced (R421, R425). -/
def State.endPhase6 (s : State) : State :=
  if !(s.bring.gotCal && s.bring.gotDetour == 0xFF#8) then s
  else if s.rep.fence.getLsbD 5 then (s.withBring { s.bring with katSkipped := true }).phase8
  else s.toPhase 7

/-- The default calendar image passes R290: it becomes ACTIVE. After a warm reset the router part in force stays (R417). -/
def State.takeDefault (s : State) (img : Bytes) : State :=
  if !imageOk s.id defaultShares img then s.failBring 5 0x42 0
  else
    let c : Calendar := ⟨some (imgRouter img), imgBank img⟩
    let keep := !s.bring.cold && s.cal.router.period != 0
    ((s.withCal { s.cal with
      deflt := some c, router := if keep then s.cal.router else imgRouter img, bank := imgBank img, standby := .invalid,
      standbyImg := none }).withBring { s.bring with gotCal := true }).endPhase6

/-- DEFAULT_CALENDAR (R292, R449). -/
def execDefaultCalendar (image : Item Bytes) (s : State) : Host.Outcome State Fault Refusal :=
  .next (if image.inOrder && s.inPhase 6 then s.takeDefault image.content else s.discardItem)

/-- A detour part passes R290: its header and its slots (R286, R449). -/
def detourOk (id : Ident) (img : Bytes) : Bool :=
  imgHeaderOk img && (imgRouter img).ok id && (imgRouter img).sharesOk defaultShares

/-- Hold a detour part. -/
def State.holdDetour (s : State) (n : Fin 8) (img : Bytes) : State :=
  s.withCal { s.cal with detours := s.cal.detours.set n.1 (some (imgRouter img)) n.2 }

/-- DETOUR_PART (R285, R424, R449): in phase 6, or after READY while no detour is in force. -/
def State.takeDetour (s : State) (n : Fin 8) (img : Bytes) : State :=
  if s.inPhase 6 then
    if detourOk s.id img then
      ((s.holdDetour n img).withBring { s.bring with gotDetour := s.bring.gotDetour ||| (1#8 <<< n.1) }).endPhase6
    else s.failBring 5 0x42 0
  else if s.works && s.cal.router.detourFor == 0xFF#8 && detourOk s.id img then s.holdDetour n img
  else s.discardItem

/-- DETOUR_PART. -/
def execDetourPart (n : Fin 8) (image : Item Bytes) (s : State) : Host.Outcome State Fault Refusal :=
  .next (if image.inOrder then s.takeDetour n image.content else s.discardItem)

/-! ### Keys (R327, R430, R449) -/

/-- Keys and SALTs are taken after phase 1, in test hold too (R449). -/
def State.afterPhase1 (s : State) : Bool := s.powered && !s.bring.held && s.bring.zeroOk

/-- The core has key slots and SALTs for the port (R3, R327). -/
def State.hasKeys (s : State) (p : Fin 8) : Bool := s.id.build.crypto && s.id.mayHavePort p.1

/-- The lifecycle does not refuse keys for the port (R430). -/
def State.keyAllowed (s : State) (p : Fin 8) : Bool := s.hasKeys p && !s.keysRefused

/-- LINK_KEY (R327): a refused key is discarded. -/
def execLinkKey (port : Fin 8) (rx : Bool) (slot : Bool) (key : BitVec 256) (s : State) : Host.Outcome State Fault Refusal :=
  let x := s.port port
  let k : Fin 4 := ⟨(if rx then 2 else 0) + (if slot then 1 else 0), by cases rx <;> cases slot <;> decide⟩
  .next (
    if !s.afterPhase1 then s.discardItem
    else if !s.keyAllowed port then s
    else s.setPort port { x with keys := x.keys.set k.1 key k.2, keyFull := x.keyFull ||| (1#4 <<< k.1) })

/-- SALT (R327): R430 refuses key slots alone. -/
def execSalt (port : Fin 8) (rx : Bool) (value : BitVec 32) (s : State) : Host.Outcome State Fault Refusal :=
  let x := s.port port
  let k : Fin 2 := if rx then 1 else 0
  .next (
    if !s.afterPhase1 then s.discardItem
    else if !s.hasKeys port then s
    else s.setPort port { x with salts := x.salts.set k.1 value k.2, saltFull := x.saltFull ||| (1#2 <<< k.1) })

/-! ### Phases 7 to 9 and READY (R425, R427) -/

/-- KNOWN_ANSWER_TEST (R425): Crucible against VX, or against a second run of its own where VX is fenced. Phase 8
follows. -/
def execKnownAnswerTest (runs : KatRuns) (cgMismatch : Bool) (s : State) : Host.Outcome State Fault Refusal :=
  .next (
    if !s.inPhase 7 then s
    else if katAgrees (s.rep.fence.getLsbD 4) runs.cu runs.other && !cgMismatch then s.phase8
    else s.failBring 6 0x21 0)

/-- SIDEBAND_TIMEOUT (R423): a phase that waits for an item. -/
def execSidebandTimeout (s : State) : Host.Outcome State Fault Refusal :=
  .next (if s.inPhase 2 || s.inPhase 5 || s.inPhase 6 then s.failBring 2 0x40 0 else s)

/-- READY (R426, R427): the core serves its own slots, and Equinox starts at FLOOR (R376, R390). -/
def State.raiseReady (s : State) : State :=
  if !s.inPhase 9 then s
  else
    let sp := 40 * bandFloor s.eq.inUse
    let s1 := s.withBring { s.bring with ready := true, phase := 10 }
    let s2 := (s1.withCal { s1.cal with withdrawn := false }).withEq { s1.eq with sp := sp, target := sp }
    (s2.withBg { s2.bg with passStart := s2.tick10 }).sendReport

/-- READY. -/
def execReady (s : State) : Host.Outcome State Fault Refusal := .next s.raiseReady

/-! ### TAP (R431, R435, R436) -/


/-- IDCODE (R435). -/
def State.idcode (s : State) : W32 := 1#32 ||| (s.id.mfr.setWidth 32 <<< 1) ||| (0x1E7C#32 <<< 12) ||| (3#32 <<< 28)

/-- The eight checker counts: port p at bits [32p + 31 : 32p] (R435). -/
def State.prbsCounts (s : State) : BitVec 256 :=
  s.fp.toList.zipIdx.foldl (fun (v : BitVec 256) (p : Port × Nat) => v ||| (p.1.prbs.setWidth 256).shiftLeft (32 * p.2)) 0

/-- The data register that an instruction code selects (R435): a code that the table does not list selects the bypass register. -/
def State.tapReg (s : State) (code : BitVec 5) : BitVec 256 :=
  match code.toNat with
  | 0x01 => s.idcode.setWidth 256
  | 0x02 => s.report.setWidth 256
  | 0x03 => s.prbsCounts
  | _ => 0

/-- Load an instruction code. -/
def State.tapSelect (s : State) (code : BitVec 5) : State :=
  if s.powered then s.withTap { s.tap with ir := code, dr := s.tapReg code } else s

/-- IDCODE. -/
def execIdcode (s : State) : Host.Outcome State Fault Refusal := .next (s.tapSelect 0x01)

/-- REPORT (R435). -/
def execReport (s : State) : Host.Outcome State Fault Refusal := .next (s.tapSelect 0x02)

/-- PRBS_COUNT (R435). -/
def execPrbsCount (s : State) : Host.Outcome State Fault Refusal := .next (s.tapSelect 0x03)

/-- The internal chains can be opened: in test hold, and not while the lock is in force (R430, R431, R436). -/
def State.mayOpenChains (s : State) : Bool := s.inTestHold && !s.locked

/-- IJTAG (R431, R435, R436): opening the internal chains, and so scan shift on them, has no effect under the lock or outside test hold.
The bits that a shift loads are kept, up to the reset that ends test hold, which zeroises them. The spec describes no register of the IEEE
1687 network and no chain of it: what the selected register holds, and so what a shift brings out, is a free value (log entry 127). -/
def execIjtag (scan : ChainScan) (s : State) : Host.Outcome State Fault Refusal :=
  let s1 := s.draw.2.tapSelect 0x08
  .next (if s.powered then
      let opens := scan.opens && s.mayOpenChains
      s1.withTap { s1.tap with
        dr := s.draw.1.setWidth 256, chains := opens, scan := if opens then scan.shift.getD s.tap.scan else s.tap.scan }
    else s)

/-- A code selects the bypass register: BYPASS, or one that the table does not list (R435). -/
def selectsBypass (code : BitVec 5) : Bool := !([0x01#5, 0x02#5, 0x03#5, 0x08#5].contains code)

/-- The code that a BYPASS finds loaded: a free one of those that select the bypass register (log entry 116). -/
def bypassCode (code : BitVec 5) : BitVec 5 := if selectsBypass code then code else 0x1F

/-- BYPASS (R435): its own code, or any code that the table does not list. -/
def execBypass (s : State) : Host.Outcome State Fault Refusal :=
  .next (if s.powered then s.draw.2.tapSelect (bypassCode (s.draw.1.setWidth 5)) else s)

/-! ### Observation outputs (R431, R453, R477) -/

/-- The applied selector of output i. -/
def State.obsSelOf (s : State) (i : Nat) : BitVec 16 := obsSel (s.su.obs.toList.getD (i / 4) 0) (i % 4)

/-- OBS[i] at counter n: 0 under the lock and for signal 0 of an island; any other signal carries no contract, so its value is a
free value (R431, R453, R477, R478). -/
def State.obsBit (s : State) (n i : Nat) : Bool :=
  let e := s.obsSelOf i
  if s.locked || fld e 4 12 == 0#12 then false else (Config.freeWord n).getLsbD (i % 64)

/-- The island whose clock, divided by 4, drives OBS_CLK of group g; none drives it under the lock (R453). -/
def State.obsClk (s : State) (g : Nat) : Option (BitVec 3) := if s.locked then none else some (fld (s.obsSelOf (8 * g)) 0 3)

end Sys2Proof.Machine
end

