-- ==== Sys2Proof/Machine/ControlCore.lean ====
section
/-! DEFINITION. What the control core does to the block (R337 to R345, R348): latched events, timer, watchdog, watch
slots, and command injection. Its instructions are no commands of the table; an idle cycle runs them (Machine/Hart.lean). The rows that are
stores or CSR writes of its own stand in Machine/Windows.lean. -/

namespace Sys2Proof.Machine

/-- A store or CSR write of the running control core. -/
def State.byCc (s : State) (f : State → State) : State := if s.cc.halted then s else f s

/-- The value that a CSR instruction writes. -/
def csrNew (op : CsrOp) (old value : W64) : W64 :=
  match op with
  | .rw => value
  | .rs => old ||| value
  | .rc => old &&& ~~~value

/-- The hart may name the scalar file: M mode, or MSFEN (R337). -/
def Hart.sfAllowed (h : Hart) : Bool := h.machineMode || h.msfen

/-- A write of EVPEND (R9, R342): 1 clears a latched source; a RsvZ bit keeps the register. -/
def State.evpendWrite (s : State) (v : W64) : State :=
  if v &&& ~~~0x1B00#64 != 0#64 then s else s.withCc { s.cc with evpend := s.cc.evpend &&& ~~~(v.setWidth 16) }

/-- A store to WD_LIMIT that R335 lets through: the period starts again (R340). -/
def State.wdLimitStore (s : State) (v : W64) : State := s.withCc { s.cc with wdLimit := v.setWidth 32, wdStart := s.cycle }

/-- A store to a watch slot that R335 lets through (R341). -/
def State.watchStore (s : State) (slot : Fin 8) (v : W64) : State :=
  s.withCc { s.cc with watch := s.cc.watch.set slot.1 ⟨fld v 0 6, fld v 6 2, fld v 8 16⟩ slot.2 }

/-- MTIME_MATCH (R340): time passes until MTIME reaches MTIMECMP, from when MTIP pends. -/
def execMtimeMatch (s : State) : Host.Outcome State Fault Refusal := .next (s.advanceTo (12 * s.cc.mtimecmp.toNat))

/-- WATCHDOG_EXPIRY (R340, R348): the period of an enabled watchdog ends. -/
def execWatchdogExpiry (s : State) : Host.Outcome State Fault Refusal :=
  .next (
    if s.cc.wdLimit = 0#32 then s
    else s.follow ((s.advanceTo (s.cc.wdStart + 12 * s.cc.wdLimit.toNat)).fenceCore Code.ccWatchdog 0x41 noDpi))

/-! ### Injection (R343 to R345) -/

/-- A store to INJ_CMDk or INJ_STATUS that R335 lets through (R343). -/
def State.injStore (s : State) (o : Nat) (v : W64) : State :=
  if o < 0x40 then
    if s.cc.injBusy then s.withCc { s.cc with injLost := true }
    else
      let k := 64 * (o / 8)
      let keep : CmdWord := s.cc.injCmd &&& ~~~((BitVec.allOnes 64).setWidth 512 <<< k)
      s.withCc { s.cc with injCmd := keep ||| (v.setWidth 512 <<< k) }
  else if bit v 2 then s.withCc { s.cc with injLost := false } else s

/-- Submit the staged command (R343): ignored with LOST while one is pending, no job runs or a pre-emption is requested (R364), a submission
in replay mode then too (log entry 135), and discarded without it in replay mode otherwise (R345). It sees every SF write whose
instruction retired before the store (R344). -/
def State.submit (s : State) : State :=
  let runs := s.job.st == .running && s.job.lastMsg.isNone
  if s.cc.injBusy || !runs || s.job.preempt || s.rep.coreFenced then s.withCc { s.cc with injLost := true }
  else if s.job.replays then s
  else s.landSf.withCc { s.cc with injBusy := true, injPend := some s.cc.injCmd }

/-- Commands that fetch may not pass until they issue (R172, R247). -/
def opHoldsFetch (op : Op) : Bool :=
  match op with
  | .regionSet _ | .regionSwap _ | .arrayMode _ => true
  | _ => false

/-- Task 0 may take a command between two of its own: it runs, in the 512-DPI window, and not inside a pair (R344, R345, R351). -/
def State.mayInject (s : State) : Bool :=
  let k := s.task 0
  s.active 0 && !s.job.preempt && k.aux.isNone && (k.dpi - s.lowestDpi 0).toNat < 512

/-- The submission is no longer pending. -/
def State.injDone (s : State) (submitted : Bool) : State :=
  if submitted then s.withCc { s.cc with injBusy := false, injPend := none } else s

/-- Decode an injected command at task 0's next DPI and place it, which makes its DPI the last one placed (R343, R344). A fault aborts
the task. In a job without a log the place is kept for a resume (R368). -/
def State.placeInjected (s : State) (w : CmdWord) (submitted : Bool) : State :=
  let k := s.task 0
  let k1 : Task := { if s.job.logs then k else k.mark (s.lowestDpi 0) ⟨k.dpi, none, none⟩ with dpi := k.dpi + 1 }
  let bump (s : State) : State := (s.setTask 0 k1).injDone submitted
  match parseCmd w with
  | .error code => (bump s).abortTaskAt 0 code k.dpi (Site.iu.of (parseHeader w)) 0
  | .ok c =>
    let e : Entry := ⟨⟨0, k.dpi, []⟩, c, none, none, true, k.pos, k.loops, s.cycle⟩
    match s.decodeFault e with
    | some f => (bump s).abortTaskAt 0 f.1 f.2 (Site.iu.of c.h) 0
    | none =>
      let e1 := { e with ref := s.versionRef c }
      let holds := if opHoldsFetch c.op then k.holds ++ [k.dpi] else k.holds
      let s1 := (((s.takeRef e1.ref).setTask 0 { k1 with holds := holds }).enqueue e1).injDone submitted
      s1.withCc { s1.cc with injLast := k.dpi }

/-- The decode of an injected command waits for a command of task 0 that fetch does not pass: one that reads the region table for a
REGION_SET or REGION_SWAP, whose outcome it depends on (R247), and one for an array for its ARRAY_MODE (R172; log entry 123). -/
def State.injHeld (s : State) (c : Cmd) : Bool :=
  s.iu.queued.any fun e => e.x.task = 0 && (s.task 0).holds.contains e.x.dpi && match e.cmd.op with
    | .regionSet _ | .regionSwap _ => c.versioned.isSome || (match c.op with | .regionAttr _ => true | _ => false)
    | .arrayMode _ => c.h.q < 8 && mxArray c.h == mxArray e.cmd.h
    | _ => false

/-- A command word may be placed now: its queue has room and nothing holds its decode; a word that does not parse names no queue. -/
def State.injRoom (s : State) (w : CmdWord) : Bool :=
  match parseCmd w with
  | .ok c => !s.queueFull ⟨0, 0, []⟩ c.h && !s.injHeld c
  | .error _ => true

/-- Pass an injected command that a resumed job skips, place a logged one that is due at task 0's next DPI (R345, R368), or place the
submitted one, which the log records first (R345, R359), once the job has come to where it was saved (R368). -/
def State.inject (s : State) : State :=
  if !s.mayInject then s
  else
    let s1 := s.settleSwaps
    let k := s1.task 0
    if s1.injectDue 0 && k.skip.contains k.dpi then s1.setTask 0 k.pass
    else match s1.job.loggedInject 0 k.dpi with
    | some (w, j) =>
      if s1.injRoom w then (if s1.job.replays then s1.withJob j else s1).placeInjected w false
      else s
    | none =>
      match s1.cc.injPend with
      | none => s
      | some w =>
        if !k.skip.isEmpty || !s1.injRoom w then s
        else
          let (j, ok) := s1.job.append 5 0 0 k.dpi (leBytes w.toNat 64)
          if ok then (s1.withJob j).placeInjected w true
          else ((s1.setTask 0 { k with dpi := k.dpi + 1 }).injDone true).abortTask 0 Code.replayLogFull k.dpi

/-- INJECTION_PLACE (R344, R345); a command that enters a queue may change the forecast (R380). -/
def execInjectionPlace (s : State) : Host.Outcome State Fault Refusal :=
  .next (s.follow s.inject)

end Sys2Proof.Machine
end

