-- ==== Sys2Proof/Machine/Equinox.lean ====
section
/-! DEFINITION. Equinox: samples and ballast (R373 to R379), the thermal stretch (R383), ticks with the target, the pending
throttle and the power emergency stretch (R375, R379, R384), changes of the clock factor (R382, R385) and the island monitor
(R388). Powers are in units of 0.025 W but for estimates and levels, which are in 0.25 W (R390). -/

namespace Sys2Proof.Machine

/-! ### Ballast (R159, R377) -/

/-- The physical arrays in ascending order of the logical array they serve (R54). -/
def State.arrayOrder (s : State) : List (Fin 4) :=
  ((List.finRange 4).map s.physMx).foldl (fun acc n => if acc.contains n then acc else acc ++ [n]) []

/-- Idle partitions of unfenced arrays, as the logical array that runs there divides them (R54), each by its agent code with its full
ballast, in ascending order of logical array and partition. -/
def State.idleParts (s : State) : List (BitVec 8 × Nat) :=
  s.arrayOrder.flatMap fun n =>
    if !s.id.hasArray n.1 || s.rep.fence.getLsbD n.1 then []
    else
      let k := partCount (s.array (s.logicalOn n)).mode
      (List.finRange 4).filterMap fun p =>
        let a := unitCode (.mx n p)
        if p.1 < k && !s.agentBusy a then some (a, s.fullBallast (4 / k)) else none

/-- Fill partitions in order; the last one's share is rounded down to sixteenths of its full ballast. -/
def placeBallast : List (BitVec 8 × Nat) → Nat → List (BitVec 8 × Nat)
  | [], _ => []
  | p :: rest, req => if p.2 ≤ req then p :: placeBallast rest (req - p.2) else [(p.1, wholeSteps p.2 req)]

/-- The sum of powers. -/
def totalPower (l : List (BitVec 8 × Nat)) : Nat := l.foldl (fun x p => x + p.2) 0

/-- The ballast of a sample for set point `sp` and work power (R377, R379). -/
def State.ballastFor (s : State) (sp work : Nat) : List (BitVec 8 × Nat) :=
  if !s.ballastOk then []
  else placeBallast s.idleParts (min (sp - 10 * work) (40 * bandBallast s.eq.inUse))

/-! ### Events and samples -/

/-- Move toward a target by at most a step (R379). -/
def toward (x target step : Nat) : Nat := if x ≤ target then min target (x + step) else max target (x - step)

/-- TRIP in 0.25 °C. -/
def tripOf (b : W64) : Nat := 4 * (fld b 40 8).toNat

/-- The sixteenths by which clamps slow the arithmetic and scratchpad side (s_cl) or the control side (R388). -/
def Eqx.clamped (e : Eqx) (control : Bool) : Nat :=
  (e.clamps.filter fun c => c.control == control).foldl (fun x c => x + c.size) 0

/-- The unit at a sensor's site is present (R374). -/
def Ident.hasSensor (id : Ident) (k : Nat) : Bool := if k < 8 then id.hasArray (k / 2) else if k < 10 then id.hasVx else true

/-- The sixteen readings of a sample: 0 at the site of an absent unit, which so takes no part in TMAX (R374). -/
def readings (id : Ident) (temps : List Nat) : List Nat :=
  (List.range 16).map fun k => if id.hasSensor k then min (temps.getD k 0) 4095 else 0

/-! ### The island monitor (R387, R388) -/

/-- The islands that crossings join. -/
inductive Island where
  | arith
  | spad
  | router
  | fabric
  | control
  | sync
  deriving DecidableEq, Repr

/-- The crossings of R387, in its order. -/
def crossingList : List (Island × Island) :=
  [(.arith, .spad), (.arith, .control), (.spad, .control), (.spad, .router), (.router, .control), (.router, .fabric),
   (.fabric, .control), (.sync, .control)]

/-- The hottest sensor of an island (R374). -/
def Island.hottest (temps : List Nat) : Island → Nat
  | .arith => (temps.take 10).foldl max 0
  | .spad => ((temps.drop 10).take 3).foldl max 0
  | .router => temps.getD 13 0
  | .fabric => temps.getD 14 0
  | .control | .sync => temps.getD 15 0

/-- The control side's clamp, if an island can be clamped: `true` for the control island, `false` for the arithmetic and scratchpad
islands. -/
def Island.clampSide : Island → Option Bool
  | .arith | .spad => some false
  | .control => some true
  | _ => none

/-- The sixteenths that a faster side's period must still grow, beyond those in force and already asked for, until the ratio of the
clocks is 2.0 or below (R388). -/
def ratioSteps (fast slow period asked : Nat) : Nat := (fast * period + 2 * slow - 1) / (2 * slow) - (period + asked)

/-- Raise a clamp of a side, or place it; its cause is present. -/
def raiseClamp (l : List Clamp) (k : Fin 8) (ratio control : Bool) (n : Nat) : List Clamp :=
  if l.any fun c => c.crossing == k && c.ratio == ratio && c.control == control then
    l.map fun c => if c.crossing == k && c.ratio == ratio && c.control == control then { c with size := c.size + (if ratio then n else 0), absent := 0 } else c
  else l ++ [⟨k, ratio, control, n, 0⟩]

/-- What the monitor finds on one crossing (R387, R388): it logs a broken limit, and clamps the faster side or, where that clock is
wider than the core, reports it (log entry 87). `was` are the sixteenths by which clamps slowed the control side when the clocks were
measured. -/
def State.checkCrossing (s : State) (was : Nat) (k : Fin 8) (m : CrossingRead) : State :=
  let sides := crossingList.getD k.1 (.arith, .spad)
  let fastA := m.clockB ≤ m.clockA
  let fast := if fastA then m.clockA else m.clockB
  let slow := if fastA then m.clockB else m.clockA
  let hotA := sides.1.hottest s.eq.temps
  let hotB := sides.2.hottest s.eq.temps
  let ratio := decide (2 * slow < fast)
  let level := decide (150 < m.supply) || decide (80 < max hotA hotB - min hotA hotB)
  if !ratio && !level then s
  else
    let s1 := s.note Code.islandLimit 0x45 0 0 noDpi 0
    let s2 := s1.withEq (s1.eq.event 2)
    match (if fastA then sides.1 else sides.2).clampSide with
    | none => s2.emit .islandLimit
    | some control =>
      let e := s2.eq
      let period := if control then 16 + was else 16 + e.throttle + e.stretch
      let asked := if control then e.clamped true - was else e.sth + e.spw + e.clamped false - e.stretch
      let l1 := if ratio then raiseClamp e.clamps k true control (ratioSteps fast slow period asked) else e.clamps
      s2.withEq { e with clamps := if level then raiseClamp l1 k false control 4 else l1 }

/-- The monitor's work at a sample: the clamps grow older, and every crossing is checked (R388). -/
def State.monitor (s : State) (l : List CrossingRead) : State :=
  let was := s.eq.clamped true
  (List.finRange 8).foldl (fun s k => match l[k.1]? with
    | some m => s.checkCrossing was k m
    | none => s)
    (s.withEq { s.eq with clamps := s.eq.clamps.map fun c => { c with absent := c.absent + 1 } })

/-- A parity error in the ballast of a physical partition, which is logged where ballast has run since the last sample (R159). -/
def State.ballastParity (s : State) (q : Fin 4 × Fin 4 × PhysLoc) : State :=
  let a := unitCode (.mx q.1 q.2.1)
  if s.eq.ended.contains a || s.eq.partBallast.any fun p => p.1 == a then
    s.note Code.ballastParity a (BitVec.ofNat 8 q.2.1.1) (locBits q.2.2) noDpi 0
  else s

/-- A sample (R159, R373, R377, R379, R380, R383, R388, R452). A fence that it brings takes every command away, which the forecast follows
(R380, R398). -/
def State.sample (s : State) (p : PowerSample) : State :=
  let s := p.parity.foldl State.ballastParity s
  let e := s.eq
  let temps := readings s.id p.temps
  let tmax := temps.foldl max 0
  let sp := toward e.sp e.target (5 * bandRamp e.inUse)
  let hot := tripOf e.inUse ≤ tmax
  let placed := s.ballastFor sp p.work
  let e1 := { e with
    sp := sp, ballast := totalPower placed, pw := e.pw.drop (e.pw.length - 9) ++ [p.work], temps := temps, tsOut := temps,
    sth := if hot then e.sth + 1 else e.sth, partBallast := placed, partWork := p.parts, coeffs := p.coeffs, ranAt := s.runningNow,
    ended := [], held := s.heldNow,
    samples := e.samples % 10 + 1 }
  let s0 := (s.withEq (if hot then e1.event 0 else e1)).emit (.sensors temps (440 ≤ tmax))
  let s1 := s0.forecast
  let s2 := s1.monitor p.crossings
  if 440 ≤ tmax then (s2.fenceCore Code.thermalLimit 0x40 noDpi).forecast else s2

/-- EQUINOX_SAMPLE (R379): samples begin at the end of bring-up. -/
def execEquinoxSample (p : PowerSample) (s : State) : Host.Outcome State Fault Refusal :=
  .next (if s.bring.ready then s.sample p else s)

/-! ### Ticks -/

/-- FLOOR, CEILING, RAMP, BALLAST_LIMIT and BALLAST_EN of the port, with the rest of EQ_BAND (R375, R450). -/
def withPortBand (own : W64) (band : BitVec 33) : W64 := (own &&& ~~~(0x1FFFFFFFF#64)) ||| band.setWidth 64

/-- The band that comes into force at a tick (R375): EQ_BAND, or the port band that an earlier tick accepted, else the one last used. -/
def Eqx.newBand (e : Eqx) : W64 :=
  if !bit e.band 34 then e.band else withPortBand e.band (e.portBand.getD (e.inUse.setWidth 33))

/-- The port band after a tick has sampled it: the one last accepted, and whether a new one was ignored (R375, R450). The port is sampled
whatever BAND_SRC says. -/
def Eqx.samplePort (e : Eqx) (band : BitVec 33) (toggle : Bool) : Option (BitVec 33) × Bool :=
  if toggle == e.tgl then (e.portBand, false)
  else if bandBad (withPortBand e.band band) then (e.portBand, true)
  else (some band, false)

/-- The mean of the last ten work powers in 0.025 W. -/
def Eqx.mean (e : Eqx) : Nat :=
  let sum := e.pw.foldl (· + ·) 0
  if e.pw.isEmpty then 0 else 10 * sum / e.pw.length

/-- The pending throttle level (R379). -/
def pendingThrottle (w ceiling t s : Nat) : Nat :=
  if ceiling < w ∧ t < 8 then t + 1
  else if 0 < t ∧ w * (16 + t + s) + 400 * (15 + t + s) ≤ ceiling * (15 + t + s) then t - 1
  else t

/-- A tick, after its sample (R375, R379, R383, R384). -/
def State.tick (s : State) (band : BitVec 33) (toggle : Bool) : State :=
  let e := s.eq
  let b := e.newBand
  let (port, bad) := e.samplePort band toggle
  let w := e.mean
  let ceiling := 40 * bandCeiling b
  let tmax := e.temps.foldl max 0
  let run := if ceiling < w then e.hot + 1 else 0
  let up := (if 9600 < w then 1 else 0) + (if run = 10 then 1 else 0)
  let down := if w + 400 ≤ ceiling then 1 else 0
  let e1 := { e with
    inUse := b, tgl := toggle, portBand := port, samples := 0, target := min (max w (40 * bandFloor b)) ceiling,
    pendThrottle := pendingThrottle w ceiling e.throttle e.stretch, hot := if run = 10 then 0 else run,
    spw := e.spw + up - down, sth := if tmax + 8 ≤ tripOf b then e.sth - 1 else e.sth }
  let e2 := if up != 0 then e1.event 1 else e1
  s.withEq (if bad then e2.event 3 else e2)

/-- EQUINOX_TICK (R373, R379): every tenth sample is a tick. A band that ends ballast or the forecast does so now (R377, R380). -/
def execEquinoxTick (band : BitVec 33) (toggle : Bool) (s : State) : Host.Outcome State Fault Refusal :=
  .next (if s.bring.ready && s.eq.samples == 10 then (s.tick band toggle).stopBallast.forecast else s)

/-! ### Clock factor (R382, R383, R385) -/

/-- The stretch that a throttle level leaves room for (R382, R383). -/
def Eqx.wantStretch (e : Eqx) (t : Nat) : Nat := min (e.sth + e.spw + e.clamped false) (11 - t)

/-- The quadrants of a physical partition, which its agent code names (R289, R377). -/
def State.quadrants (s : State) (a : BitVec 8) : Nat :=
  4 / partCount (s.array (s.logicalOn ⟨a.toNat / 4 % 4, Nat.mod_lt _ (by decide)⟩)).mode

/-- The power of running ballast at the clock factor of `t`: each partition keeps its steps of one sixteenth (R377, R378). -/
def State.rescaled (s t : State) : List (BitVec 8 × Nat) :=
  s.eq.partBallast.map fun p =>
    let old := s.fullBallast (s.quadrants p.1)
    let steps := if old = 0 then 0 else (16 * p.2 + old - 1) / old
    (p.1, steps * t.fullBallast (s.quadrants p.1) / 16)

/-- Set t and s. A change of f slows the ballast that runs (R378), rescales the admitted bounds, which is logged (R385), and shows on the
governor port (R450). -/
def State.setClock (s : State) (t st : Nat) : State :=
  let s0 := s.withEq { s.eq with throttle := t, stretch := st }
  let s1 := if t = s.eq.throttle then s0 else s0.withEq { s0.eq with partBallast := s.rescaled s0 }
  if t = s.eq.throttle && st = s.eq.stretch then s1
  else
    let s2 := if t + st = s.eq.throttle + s.eq.stretch then s1 else s1.note Code.boundExtend 0x40 0 0 noDpi 0
    s2.emit (.power t st)

/-- STRETCH_CHANGE (R383); ballast does not run under a stretch, and the forecast follows (R377, R380). -/
def execStretchChange (s : State) : Host.Outcome State Fault Refusal :=
  .next (if s.bring.ready then (s.setClock s.eq.throttle (s.eq.wantStretch s.eq.throttle)).stopBallast.forecast else s)

/-- THROTTLE_CHANGE (R379, R382): after a Solstice point, with the port's demand as a lower bound. -/
def execThrottleChange (demand : BitVec 4) (s : State) : Host.Outcome State Fault Refusal :=
  .next (
    if s.bring.ready && s.eq.solstice then
      let t := min 8 (max s.eq.pendThrottle demand.toNat)
      ((s.withEq { s.eq with solstice := false }).setClock t (s.eq.wantStretch t)).stopBallast.forecast
    else s)

/-- ISLAND_CLAMP_RELEASE (R388): every clamp of the named sides whose cause has been absent for ten samples, 10 µs, is released. -/
def execIslandClampRelease (arith control : Bool) (s : State) : Host.Outcome State Fault Refusal :=
  .next (s.withEq { s.eq with
    clamps := s.eq.clamps.filter fun c => c.absent < 10 || !(if c.control then control else arith) })

end Sys2Proof.Machine
end

