-- ==== Sys2Proof/Machine/Faults.lean ====
section
/-! DEFINITION. Faults that engines find (R55, R151, R155, R156, R205, R231, R237, R410), clock monitors (R440) and the core's
fence (R398). -/

namespace Sys2Proof.Machine

/-! ### Replays of a command -/

/-- A command replays once, in its place among those of its unit: the event is logged, and a second one finds it marked. -/
def State.replayCmd (s : State) (u : UnitId) (i : Issued) (code : Code) (loc : PhysLoc) : State :=
  let w := s.unitSite u loc
  (s.putExec { i with replayed := true }).noteFor (BitVec.ofNat 2 i.e.x.task.1) code w.unit w.sub w.loc i.e.x.dpi 0

/-- An executing command fails with an execution fault. -/
def State.failCmd (s : State) (u : UnitId) (i : Issued) (code : Code) (loc : PhysLoc) : State :=
  (s.dropExec i).execFaultAt (s.unitSite u loc) i code i.e.x.dpi [] true

/-- The command in flight on a unit that an error strikes, counted from the oldest; the youngest where there are fewer. -/
def nthOn (u : UnitId) (l : List (UnitId × Issued)) (n : Nat) : Option Issued :=
  let mine := l.filter (onUnit u)
  (mine[min n (mine.length - 1)]?).map Prod.snd

/-- An error that no replay repairs (R156). -/
def parityFatal : ParityAt → Bool
  | .heldPlane | .heldRegister | .drain => true
  | _ => false

/-- What a parity error does to the command that it strikes: nothing, a replay, or a fault. -/
inductive ParityEnd where
  | none_
  | replay (code : Code)
  | fail (code : Code)
  deriving DecidableEq, Repr

/-- A parity error in a partition's command (R155, R156, R237). -/
def arrayEnd (i : Issued) (at_ : ParityAt) : ParityEnd :=
  match at_ with
  | .steps => if i.replayed then .fail Code.arrayParity else .replay Code.arrayReplay
  | .cgMismatch drain => if drain || i.replayed then .fail Code.cgMismatch else .replay Code.arrayReplay
  | .heldPlane | .heldRegister | .drain => .fail Code.arrayParity
  | .progSlot _ | .table _ => .none_

/-- A parity error strikes a command of a unit; one that an abort has just abandoned can still fault (R56, R392). -/
def State.parity (s : State) (u : UnitId) (hit : ParityHit) (f : Issued → ParityEnd) : State :=
  match nthOn u s.iu.exec hit.nth with
  | some i =>
    (match f i with
    | .none_ => s
    | .replay c => s.replayCmd u i c hit.loc
    | .fail c => s.failCmd u i c hit.loc)
  | none =>
    match nthOn u s.iu.dropped hit.nth with
    | some i =>
      (match f i with
      | .fail c => s.lateFault u i c i.e.x.dpi hit.loc 0
      | _ => s)
    | none => s

/-- ARRAY_REPLAY (R155), with the physical place of the error (R153). -/
def execArrayReplay (n p : Fin 4) (hit : ParityHit) (s : State) : Host.Outcome State Fault Refusal :=
  .next (s.follow (s.parity (.mx n p) hit fun i => arrayEnd i hit.kind))

/-- An output byte of an issued command lies in one of its source views (R205). -/
def Issued.aliases (i : Issued) : Bool :=
  let outs := (outPos i.e.cmd).filterMap fun p => viewAt i.views p
  let srcs := (usesOf i.e i.sf).filterMap fun u => if u.src then viewAt i.views u.pos else none
  outs.any fun o => srcs.any fun v => viewsOverlap o v

/-- Set a program slot or table EMPTY (R205). -/
def VecState.drop (v : VecState) (at_ : ParityAt) : VecState :=
  match at_ with
  | .progSlot k => { v with progs := v.progs.set k.1 none k.2 }
  | .table k => if h : k.1 < 8 then { v with tables := v.tables.set k.1 none h } else v
  | _ => v

/-- A parity error in a command of VX or Crucible (R205, R237, R410). A slot or table is read by the command that runs. -/
def vecEnd (i : Issued) (at_ : ParityAt) (replay parity : Code) : ParityEnd :=
  let may := !i.replayed && !i.aliases && !scatAdd i.e.auxBody
  match at_ with
  | .steps => if may then .replay replay else .fail parity
  | .cgMismatch _ => if may then .replay replay else .fail Code.cgMismatch
  | .progSlot _ | .table _ => .fail parity
  | .heldPlane | .heldRegister | .drain => .none_

/-- VX_REPLAY (R205). -/
def execVxReplay (hit : ParityHit) (s : State) : Host.Outcome State Fault Refusal :=
  .next (s.follow (((if (nthOn .vx s.iu.exec hit.nth).isSome then s.withVx (s.vx.drop hit.kind) else s)).parity .vx hit
    fun i => vecEnd i hit.kind Code.vxReplay Code.vxParity))

/-- CU_REPLAY (R410). -/
def execCuReplay (hit : ParityHit) (s : State) : Host.Outcome State Fault Refusal :=
  .next (s.follow (((if (nthOn .cu s.iu.exec hit.nth).isSome then s.withCu (s.cu.drop hit.kind) else s)).parity .cu hit
    fun i => vecEnd i hit.kind Code.cuReplay Code.cuParity))

/-! ### Execution faults -/

/-- The task owns a partition of a logical array that the physical array `n` hosts. -/
def State.ownsArray (s : State) (t : Fin 4) (n : Fin 4) : Bool :=
  (List.finRange 4).any fun m => s.physMx m == n && (List.range 4).any fun p => (s.task t).ownsPart m.1 p

/-- DPI of the command of a task that runs on a physical array; all ones when none does. -/
def State.arrayDpi (s : State) (t : Fin 4) (n : Fin 4) : W64 :=
  match s.iu.busy.find? fun u => u.2.e.x.task == t && (match u.1 with | .mx m _ => s.physMx m == n | _ => false) with
  | some u => u.2.e.x.dpi
  | none => noDpi

/-- A fault of a shared structure fences the array and aborts every task that owns a partition of it (R151, R400); where no running task
does, one entry of the log tells of it (log entry 73). An array that the core lacks has none (R3). -/
def State.shareFault (s : State) (n : Fin 4) (loc : PhysLoc) : State :=
  if !s.id.hasArray n.1 then s else
  let s1 := s.withRep { s.rep with fence := s.rep.fence ||| (1#32 <<< n.1) }
  let w : Site := ⟨unitCode (.mx n 0), 0, locBits loc, none⟩
  let ts := (List.finRange 4).filter fun t => s.running t && s.ownsArray t n
  if ts.isEmpty then s1.addLog (s1.logEntry Code.arrayShared .taskFatal 0 w.unit 0 w.loc noDpi 0)
  else ts.foldl (fun x t => x.abortTaskAt t Code.arrayShared (s.arrayDpi t n) w 0) s1

/-- A command of a unit that waits for its peer (R231). -/
def waitsOn (u : UnitId) (x : UnitId × Issued) : Bool := x.1 == u && x.2.exporting.isSome

/-- A peer refuses what a command of a unit exports (R231): the command that drains, one that waits for its peer, or one that an abort
has just abandoned (R56, R392). -/
def State.peerRefuses (s : State) (u : UnitId) (cause : BitVec 8) : State :=
  match takeUnit u s.iu.exec, s.iu.exec.find? (waitsOn u) with
  | some (i, _), w =>
    if i.exports then
      (((((s.dropExec i).scramble i).poisonOutputs i).closeRef i.e)).abortTaskAt i.e.x.task Code.remoteRefused i.e.x.dpi
        ((s.unitSite u noLoc).of i.e.cmd.h) (refusedBy i.peerAddr cause)
    else match w with
      | some (_, j) => s.exportFail u j Code.remoteRefused (refusedBy j.peerAddr cause)
      | none => s
  | none, some (_, j) => s.exportFail u j Code.remoteRefused (refusedBy j.peerAddr cause)
  | none, none => match s.iu.dropped.find? fun x => x.1 == u && x.2.sends with
    | some (_, j) => s.lateFault u j Code.remoteRefused j.e.x.dpi noLoc (refusedBy j.peerAddr cause)
    | none => s

/-- An uncorrectable word that the command of a unit, counted from the oldest, reads: the word stays in error, and the task aborts; in a
command of VX or Crucible of whose elements in that word all are masked or padding it is logged, and its half is poisoned (R64, R198). One
that an abort has just abandoned can still fault (R56, R392). -/
def State.foundWord (s : State) (u : UnitId) (w nth : Nat) : State :=
  let s1 := if s.spad.bad.contains w then s else s.withSpad { s.spad with bad := s.spad.bad ++ [w] }
  let quiet (i : Issued) : Bool := (s1.quietWords i).contains w
  let note (i : Issued) : State := s1.noteWords (BitVec.ofNat 2 i.e.x.task.1) i.wordDpi [w]
  match nthOn u s.iu.exec nth, nthOn u s.iu.dropped nth with
  | some i, _ =>
    if i.noted.contains w then s
    else if quiet i then (note i).putExec { i with noted := i.noted ++ [w] }
    else (s1.dropExec i).execFault u i Code.uncorrectable (i.wordDpi w) [w] true
  | none, some i =>
    if quiet i then note i else (s1.poisonWords [w]).lateFault u i Code.uncorrectable (i.wordDpi w) noLoc (wordDetail [w])
  | none, none => s

/-- A fault that a unit finds, while its command runs or, of a structure that partitions share, at any time (R55, R151). -/
def State.foundFault (s : State) (u : UnitId) (f : FoundFault) : State :=
  match f with
  | .shared loc => (match u with
    | .mx n _ => s.shareFault (s.physMx n) loc
    | _ => s)
  | .corrected addr => s.corrected addr
  | .upset word double => s.ccUpset word double
  | .peerRefused cause => s.peerRefuses u cause
  | .uncorrectable addr nth => s.foundWord u (addr / 8) nth

/-- EXECUTION_FAULT (R55). -/
def execExecutionFault (u : UnitId) (f : FoundFault) (s : State) : Host.Outcome State Fault Refusal :=
  .next (s.follow (s.foundFault u f))

/-! ### Clocks and the core's fence -/

/-- A clock monitor detects a stopped clock (R151, R324, R440). -/
def State.stopClock (s : State) (c : ClockIn) : State :=
  match c with
  | .router => (s.withCal { s.cal with routerFenced := true }).fenceCore Code.trFault 0x42 noDpi
  | .sync => s.fenceCore Code.syncFault 0x44 noDpi
  | .fabric => (List.finRange 8).foldl (fun s p => s.dropPort p) s
  | .arrayClock n => s.shareFault n noLoc

/-- The monitor of a clock's island works: the island is not held in reset, as the router's is not in a warm one (R417, R440). -/
def State.monitors (s : State) (c : ClockIn) : Bool :=
  s.powered && (!s.bring.held || (c == .router && !s.bring.cold))

/-- CLOCK_STOP (R440). -/
def execClockStop (c : ClockIn) (s : State) : Host.Outcome State Fault Refusal :=
  .next (if s.monitors c then s.follow (s.stopClock c) else s)

/-- The unit that a core-fatal code names (R393, R394). -/
def fatalUnit (code : Code) : BitVec 8 :=
  if code = Code.ccFault ∨ code = Code.ccWatchdog then 0x41 else if code = Code.trFault then 0x42
  else if code = Code.syncFault then 0x44 else 0x40

/-- CORE_FENCE (R398): an event of one of the core-fatal codes. -/
def execCoreFence (code : BitVec 12) (dpi : W64) (s : State) : Host.Outcome State Fault Refusal :=
  .next (if s.bring.ready && 0x300#12 ≤ code && code ≤ 0x306#12 then s.follow (s.fenceCore code (fatalUnit code) dpi) else s)

/-- MGMT_FENCE (R398, R448). -/
def execMgmtFence (s : State) : Host.Outcome State Fault Refusal :=
  .next (if s.bring.ready then s.follow (s.fenceCore Code.mgmtFence 0x40 noDpi) else s)

/-- ADMISSION_WITHDRAW (R284, R398): once its admitted transfers have finished, a fenced core withdraws its admissions and its
ports go down. -/
def State.withdraw (s : State) : State :=
  if !s.rep.coreFenced || s.cal.withdrawn || s.se.slots.toList.any (fun k => k.run.isSome) then s
  else (List.finRange 8).foldl (fun s p => s.dropPort p) (s.withCal { s.cal with withdrawn := true })

/-- ADMISSION_WITHDRAW. -/
def execAdmissionWithdraw (s : State) : Host.Outcome State Fault Refusal := .next s.withdraw

end Sys2Proof.Machine
end

