-- ==== Sys2Proof/Machine/Mesh.lean ====
section
/-! DEFINITION. The transit router (R282 to R285): forwarding by the active router part, replay of a flit, and detours. -/

namespace Sys2Proof.Machine

/-! ### Forwarding (R282, R284) -/

/-- The core itself owns the port-slot of an owner field: any share but other agents (R284, R288). -/
def ownSlot (o : BitVec 16) : Bool := ownerShare o != 0 && ownerShare o != 4

/-- Output `o` of a slot forwards input `i` (R287). A core that has withdrawn leaves the slots it owns idle (R284). -/
def State.outputTakes (s : State) (w : BitVec 256) (o i : Nat) : Bool :=
  osel w o == i && i != 0 &&
  !(s.cal.withdrawn && ((5 ≤ i && ownSlot (injOwner w (i - 5))) || (4 ≤ o && ownSlot (ejOwner w (o - 4)))))

/-- The replay buffers after a slot in which flits were sent: a flit stays for the 14 slots of the hold at its receiver (R282, R283). -/
def Cal.keepSent (c : Cal) (slot : Nat) (sent : List Flit) : List (Nat × Nat) :=
  (c.replays.filter fun h => (slot + 4096 - h.1) % 4096 < 14) ++ sent.map fun f => (slot, f.2)

/-- One router cycle: the flits that arrived fourteen slots before leave by every output that names their input, and one that no
output takes is discarded and logged; `arrived` enter the TR. Those that the TR sends, and those that the core's own ports inject, stay in
their replay buffers (R283). -/
def State.forwardFlits (s : State) (slot : Nat) (arrived : List (Fin 9 × Nat)) : State :=
  let w := s.cal.router.slot slot
  let due (h : Nat × Flit) : Bool := (h.1 + 14) % 4096 == slot
  let go := (s.cal.held.filter due).map Prod.snd
  let out : List Flit := go.flatMap fun f => (List.finRange 8).filterMap fun o =>
    if s.outputTakes w o.1 f.1.1 then some (⟨o.1, by omega⟩, f.2) else none
  let s1 := s.withCal { s.cal with
    held := (s.cal.held.filter fun h => !due h) ++ (arrived.filter fun f => f.1.1 != 0).map fun f => (slot, f),
    replays := s.cal.keepSent slot (out ++ arrived.filter fun f => 5 ≤ f.1.1) }
  let s2 := if out.isEmpty then s1 else s1.emit (.flit slot out)
  (go.filter fun f => (List.range 8).all fun o => !s.outputTakes w o f.1.1).foldl
    (fun s _ => s.note Code.calMismatch 0x42 0 0 noDpi 0) s2

/-- FLIT_FORWARD (R282). -/
def execFlitForward (slot : Fin 4096) (arrived : List (Fin 9 × Nat)) (s : State) : Host.Outcome State Fault Refusal :=
  .next (if s.cal.routerFenced then s else s.forwardFlits slot.1 arrived)

/-! ### Replay of a flit (R283) -/

/-- A second parity error fails the transfer of the flit's source engine; one that has failed or ended only logs (R283). -/
def State.meshFault (s : State) (q : Fin 13 × Fin 4) : State :=
  let only (s : State) : State := s.addLog (s.logEntry Code.meshParity .taskFatal 0 0x42 0 0 noDpi 0)
  if h : q.1.1 < 8 then
    let e : Fin 8 := ⟨q.1.1, h⟩
    match s.transfer e q.2 with
    | none => only s
    | some (t, b) =>
      if t.left = 0 && t.reports = 0 then only s
      else
        let t1 := { t with left := t.left - 1, reports := if b.mcast then 0 else t.reports }
        if t.faulted then only (s.setRun e q.2 t1) else s.failTransfer e q.2 t1 b Code.meshParity 0 []
  else match s.exporter q.1.1 q.2.1 with
    | none => if s.iu.dropped.any fun x => x.2.exporting.isSome && s.exportsAs q.1.1 q.2.1 x then
        s.lateExport q.1.1 q.2.1 Code.meshParity 0 else only s
    | some (u, i, _) => s.exportFail u i Code.meshParity 0

/-- A parity error on a hop, which the log names by the input or output of the TR (R397): the flit is sent again from the replay buffer that
holds it, if that is one of this core's, and by another core else; or a second error discards it, out of the TR if it was there, and fails
the transfer of its source engine (log entry 137). -/
def State.replayFlit (s : State) (second : Bool) (flit : Flit) (xfer : Option (Fin 13 × Fin 4)) : State :=
  if !second then
    let s1 := s.note Code.meshReplay 0x42 (BitVec.ofNat 8 flit.1.1) (BitVec.ofNat 32 flit.1.1) noDpi 0
    if s.cal.replays.any fun h => h.2 == flit.2 then s1.emit (.resendFlit xfer) else s1
  else
    let s1 := s.withCal { s.cal with held := s.cal.held.eraseP fun h => h.2 == flit }
    match xfer with
    | none => s1.addLog (s1.logEntry Code.meshParity .taskFatal 0 0x42 0 0 noDpi 0)
    | some q => s1.meshFault q

/-- MESH_REPLAY (R283). -/
def execMeshReplay (second : Bool) (f : HopFlit) (s : State) : Host.Outcome State Fault Refusal :=
  .next (s.follow (s.replayFlit second f.flit f.xfer))

/-! ### Detours (R285, R419, R449) -/

/-- The router part that an order names: a detour part for 0 to 7, and for 15 the part for the intact die, which the default
calendar gives (R285, R419). -/
def Cal.ordered (c : Cal) (n : BitVec 4) : Option RouterPart :=
  if h : n.toNat < 8 then c.detours[n.toNat]
  else if n = 15#4 then c.deflt.bind Calendar.router
  else none

/-- The transit router works: its router part has been loaded, and it is not fenced (R398, R417). -/
def Cal.routes (c : Cal) : Bool := c.router.period != 0 && !c.routerFenced

/-- DETOUR_ORDER (R285): the order waits for its boundary; other numbers are ignored (R449), and so is any while the TR has no router part
(R417; log entry 118). -/
def execDetourOrder (n : BitVec 4) (s : State) : Host.Outcome State Fault Refusal :=
  .next (if (s.cal.ordered n).isSome && s.cal.routes then s.withCal { s.cal with order := some n } else s)

/-- What a detour switch logs of a transfer whose bound it extends. -/
def State.detourNote (s : State) (i : Issued) : State :=
  s.noteFor (BitVec.ofNat 2 i.e.x.task.1) Code.boundExtend 0x42 0 0 i.e.x.dpi 0

/-- The receivers of a multicast on the chip that have not reported it. -/
def McastGroup.untold (m : McastGroup) (chip : BitVec 20) (t : Transfer) : BitVec 8 :=
  t.told.foldl (fun x q => if q.1 == chip then x &&& ~~~(1#8 <<< q.2.toNat) else x) m.rxCores

/-- An on-die transfer at a detour switch: one whose far side is the failed core fails; any other sends its unacknowledged
windows again, and the extension of its bound is logged (R285). A multicast has every core of RX_CORES as a far side, and goes again, under
its own SEQ, to those that have not reported it. A store that waits for its NOTIFY alone has no window to send again. -/
def State.detourTransfer (s : State) (n : BitVec 4) (e : Fin 8) (k : Fin 4) : State :=
  match s.transfer e k with
  | none => s
  | some (t, b) =>
    let m := s.job.group b.group
    let lost := peerDetail s.id.chip (n.setWidth 3) 4
    if b.mcast then
      let rest := m.untold s.id.chip t
      if t.reports = 0 then s
      else if n.toNat < 8 && m.rxCores.getLsbD n.toNat then
        if t.faulted then s.setRun e k { t with reports := 0 }
        else s.failTransfer e k { t with reports := 0 } b Code.remoteRefused lost []
      else if rest == 0#8 then s
      else (s.emit (mcastMsg b t.data rest t.mseq)).detourNote t.i
    else if t.left = 0 || chipOf b.far != s.id.chip then s
    else if kindOf b.far == 1 + n.toNat then
      if t.faulted then s.setRun e k { t with left := 0 }
      else s.failTransfer e k { t with left := 0 } b Code.remoteRefused lost []
    else if t.notified then s
    else (s.sendRuns e t.i b t.data none 0 (restUnits s t b)).detourNote t.i

/-- An export on the die at a detour switch. -/
def State.detourExport (s : State) (n : BitVec 4) (x : UnitId × Issued) : State :=
  match x.2.exporting with
  | none => s
  | some p =>
    if p.route.isSome then s
    else if kindOf x.2.peerAddr == 1 + n.toNat then
      s.exportFail x.1 x.2 Code.remoteRefused (peerDetail s.id.chip (n.setWidth 3) 4)
    else if p.units.isEmpty then s
    else (s.emit (.memWrite p.rest)).detourNote x.2

/-- Switch the router part at the boundary, where the TR works (R285, R417): the failed core is fenced. -/
def State.switchDetour (s : State) : State :=
  match s.cal.order with
  | none => s
  | some n =>
    match if s.cal.routes then s.cal.ordered n else none with
    | none => s
    | some r =>
      let s1 := (s.withCal { s.cal with router := r, order := none }).note Code.detour 0x42 0 0 noDpi 0
      let s2 := s1.iu.exec.foldl (fun s x => s.detourExport n x) (s1.slotsInOrder.foldl (fun s q => s.detourTransfer n q.1 q.2) s1)
      if n.toNat == s.id.core.toNat then s2.fenceCore Code.trFault 0x42 noDpi else s2

/-- DETOUR_SWITCH (R285). -/
def execDetourSwitch (s : State) : Host.Outcome State Fault Refusal := .next (s.follow s.switchDetour)

end Sys2Proof.Machine
end

