-- ==== Sys2Proof/Machine/Programs.lean ====
section
/-! DEFINITION. The program commands (R34, R160, R189, R406): each is decoded, checked, issued and, on an engine, run to its
completion by the issue unit (`State.command`); what it computes is in its family's file. -/

namespace Sys2Proof.Machine

/-! ### A command given whole -/

/-- The task's fetch has taken the command (R26). -/
def State.passDpi (s : State) (x : Ctx) (c : Cmd) : State := s.setTask x.task ((s.task x.task).passed x.dpi c)

/-- Fetch may take a command of a task to decode: it has not ended, no command holds it, no logged injection is due, and the DPI lies
in the window above the task's lowest queued one (R26, R49, R172, R247, R345, R351). -/
def State.mayDecode (s : State) (x : Ctx) : Bool :=
  let k := s.task x.task
  k.holds.isEmpty && !k.fetchEnded && !s.injectDue x.task &&
  s.iu.queued.all fun e => e.x.task != x.task || x.dpi.toNat < e.x.dpi.toNat + 512

/-- A queued command is the head of its queue (R32). -/
def State.isHead (s : State) (e : Entry) : Bool := s.heads.any fun q => q.x.task == e.x.task && q.x.dpi == e.x.dpi

/-- A queued command may act now: it is the head of its queue, nothing holds it, Equinox does not, and no head that can issue comes before
it (R32, R45, R46, R54, R381). -/
def State.mayAct (s : State) (e : Entry) : Bool :=
  s.isHead e && s.verdict e true != .hold && !(s.verdict e true == .go && s.holds e) && s.goesFirst e

/-- A queued command goes through issue and, on an engine, to its completion, if it may act now; otherwise it stays in its queue. Ballast
and the forecast follow (R378, R380). -/
def State.goOn (s : State) (e : Entry) : State :=
  if s.mayAct e then
    let t := s.act e true ((s.task e.x.task).holds.contains e.x.dpi)
    s.follow (if s.verdict e true == .go then t.reballast e.cmd (s.unitOf e.cmd) else t)
  else (if s.isHead e && s.verdict e true == .go && s.holds e then s.noteHolds [e] else s).forecast

/-- A command given whole to a task that runs: decoded into its queue, unless the queue holds it already, and taken
through issue and, on an engine, to its completion in one step. -/
def State.takeCommand (s : State) (x : Ctx) (h : Header) (op : Op) : State :=
  let c : Cmd := ⟨h, op⟩
  let s0 := s.settleSwaps
  let k := s0.task x.task
  let fail (code : Code) (dpi : W64) : State := s0.abortTaskAt x.task code dpi (Site.iu.of h) 0
  if !s0.active x.task then s
  else
    match s0.iu.queued.find? fun e => e.x.task == x.task && e.x.dpi == x.dpi with
    | some e => if e.cmd = c then s0.goOn e else s
    | none =>
      if !s0.mayDecode x then s
      else
        match k.aux, s0.auxFor x op with
        | some a, none => s.follow (fail Code.illegalCommand a.1)
        | _, aux =>
          let e : Entry := ⟨x, c, aux, none, false, k.pos, k.loops, s.cycle⟩
          match s0.decodeFault e, placeFault k op with
          | some f, _ => s.follow (fail f.1 f.2)
          | none, some f => s.follow (fail f x.dpi)
          | none, none =>
            match op with
            | .vxAux _ => s0.passDpi x c
            | _ =>
              if s0.queueFull x h then s
              else
                let e1 := { e with ref := s0.versionRef c }
                (((s0.takeRef e1.ref).passDpi x c).enqueue e1).goOn e1

/-- A command given whole (log entry 2): fetched and decoded into its queue, unless the queue holds it already, and taken through issue
and, on an engine, to its completion in one step. Nothing happens while its task may not fetch or its queue is full; it stays
in its queue while it may not issue. A fault at decode aborts the task. A task that aborted in the present control cycle takes no
command, but a fault of the command comes beside its own (R56, R392). -/
def State.command (s : State) (x : Ctx) (h : Header) (op : Op) : State :=
  if s.lateFetch x.task then s.lateBy x.task (fun l => { l with fetch := false, issue := false }) fun r => r.takeCommand x h op
  else s.takeCommand x h op

/-! ### The commands -/

/-- LOOP (R48 to R50). -/
def execLoop (x : Ctx) (h : Header) (b : LoopBody) (s : State) : Host.Outcome State Fault Refusal := .next (s.command x h (.loop b))

/-- SET_EC (R36). -/
def execSetEc (x : Ctx) (h : Header) (b : SetEcBody) (s : State) : Host.Outcome State Fault Refusal := .next (s.command x h (.setEc b))

/-- SET_PD (R37, R265). -/
def execSetPd (x : Ctx) (h : Header) (b : SetPdBody) (s : State) : Host.Outcome State Fault Refusal := .next (s.command x h (.setPd b))

/-- BARRIER (R300, R301, R303). -/
def execBarrier (x : Ctx) (h : Header) (b : BarrierBody) (s : State) : Host.Outcome State Fault Refusal := .next (s.command x h (.barrier b))

/-- CAL_LOAD (R291). -/
def execCalLoad (x : Ctx) (h : Header) (b : CalLoadBody) (s : State) : Host.Outcome State Fault Refusal := .next (s.command x h (.calLoad b))

/-- REGION_SET (R69). -/
def execRegionSet (x : Ctx) (h : Header) (b : RegionSetBody) (s : State) : Host.Outcome State Fault Refusal := .next (s.command x h (.regionSet b))

/-- REGION_SWAP (R70). -/
def execRegionSwap (x : Ctx) (h : Header) (region : BitVec 6) (s : State) : Host.Outcome State Fault Refusal := .next (s.command x h (.regionSwap region))

/-- REGION_ATTR (R71). -/
def execRegionAttr (x : Ctx) (h : Header) (b : RegionAttrBody) (s : State) : Host.Outcome State Fault Refusal := .next (s.command x h (.regionAttr b))

/-- NOP (R35). -/
def execNop (x : Ctx) (h : Header) (s : State) : Host.Outcome State Fault Refusal := .next (s.command x h .nop)

/-- END (R38). -/
def execFin (x : Ctx) (h : Header) (s : State) : Host.Outcome State Fault Refusal := .next (s.command x h .fin)

/-- MM_OS (R166). -/
def execMmOs (x : Ctx) (h : Header) (b : MxBody) (s : State) : Host.Outcome State Fault Refusal := .next (s.command x h (.mmOs b))

/-- MM_ST (R167). -/
def execMmSt (x : Ctx) (h : Header) (b : MxBody) (s : State) : Host.Outcome State Fault Refusal := .next (s.command x h (.mmSt b))

/-- MM_EW (R146, R169). -/
def execMmEw (x : Ctx) (h : Header) (b : MxBody) (s : State) : Host.Outcome State Fault Refusal := .next (s.command x h (.mmEw b))

/-- MM_DRAIN (R170). -/
def execMmDrain (x : Ctx) (h : Header) (b : MxBody) (s : State) : Host.Outcome State Fault Refusal := .next (s.command x h (.mmDrain b))

/-- MASK_SET (R171). -/
def execMaskSet (x : Ctx) (h : Header) (b : MaskSetBody) (s : State) : Host.Outcome State Fault Refusal := .next (s.command x h (.maskSet b))

/-- ARRAY_MODE (R149, R172). -/
def execArrayMode (x : Ctx) (h : Header) (mode : BitVec 2) (s : State) : Host.Outcome State Fault Refusal := .next (s.command x h (.arrayMode mode))

/-- VX_MAP (R189, R191). -/
def execVxMap (x : Ctx) (h : Header) (b : VxBody) (s : State) : Host.Outcome State Fault Refusal := .next (s.command x h (.vxMap b))

/-- VX_REDUCE (R200 to R202). -/
def execVxReduce (x : Ctx) (h : Header) (b : VxBody) (s : State) : Host.Outcome State Fault Refusal := .next (s.command x h (.vxReduce b))

/-- VX_AUX (R193, R194). -/
def execVxAux (x : Ctx) (h : Header) (b : AuxBody) (s : State) : Host.Outcome State Fault Refusal := .next (s.command x h (.vxAux b))

/-- VX_PROG (R195). -/
def execVxProg (x : Ctx) (h : Header) (b : VxLoadBody) (s : State) : Host.Outcome State Fault Refusal := .next (s.command x h (.vxProg b))

/-- VX_TABLE (R195). -/
def execVxTable (x : Ctx) (h : Header) (b : VxLoadBody) (s : State) : Host.Outcome State Fault Refusal := .next (s.command x h (.vxTable b))

/-- STREAM (R76, R81). -/
def execStream (x : Ctx) (h : Header) (b : StreamBody) (s : State) : Host.Outcome State Fault Refusal := .next (s.command x h (.stream b))

/-- TRANSPOSE (R87). -/
def execTranspose (x : Ctx) (h : Header) (b : TransposeBody) (s : State) : Host.Outcome State Fault Refusal := .next (s.command x h (.transpose b))

/-- CU_MAP (R406). -/
def execCuMap (x : Ctx) (h : Header) (b : VxBody) (s : State) : Host.Outcome State Fault Refusal := .next (s.command x h (.cuMap b))

/-- CU_REDUCE (R406). -/
def execCuReduce (x : Ctx) (h : Header) (b : VxBody) (s : State) : Host.Outcome State Fault Refusal := .next (s.command x h (.cuReduce b))

/-- CU_PROG (R406, R408). -/
def execCuProg (x : Ctx) (h : Header) (b : VxLoadBody) (s : State) : Host.Outcome State Fault Refusal := .next (s.command x h (.cuProg b))

/-- CU_TABLE (R406). -/
def execCuTable (x : Ctx) (h : Header) (b : VxLoadBody) (s : State) : Host.Outcome State Fault Refusal := .next (s.command x h (.cuTable b))

end Sys2Proof.Machine
end

