-- ==== Sys2Proof/Machine/Solstice.lean ====
section
/-! DEFINITION. Solstice releases (R301 to R303, R446), calendar swaps (R303) and the end of a calendar load (R290, R291). -/

namespace Sys2Proof.Machine

/-! ### Release (R301) -/

/-- The effective set of an arrival: MEMBERS, all for 0, intersected with the membership. -/
def State.effective (s : State) (members : BitVec 8) : BitVec 8 := (if members = 0#8 then 0xFF#8 else members) &&& s.sol.memb

/-- The arrival that SY_OUT presents, as its peers see it. -/
def Arrived.shown (a : Arrived) : Arrival := ⟨a.members, a.calSwap, a.parity, a.sched⟩

/-- The arrivals that the other members of an effective set present with the same parity; none while one is missing. -/
def State.peersIn (s : State) (a : Arrived) : Option (List Arrival) :=
  let others := (List.finRange 8).filter fun c => c.1 != s.id.core.toNat && (s.effective a.members).getLsbD c.1
  others.foldr (fun c acc => match acc, s.sol.peers.find? fun p => p.1 == c && p.2.parity == a.parity with
    | some xs, some p => some (p.2 :: xs)
    | _, _ => none) (some [])

/-- Arrivals agree (R301). -/
def arrivalsAgree (a b : Arrival) : Bool := a.members == b.members && a.calSwap == b.calSwap && a.sched == b.sched

/-- The oldest arrival leaves SY_OUT, and the younger is presented. -/
def State.retireArrival (s : State) : State :=
  let rest := s.sol.out.drop 1
  let s1 := s.withSol { s.sol with out := rest }
  match rest with
  | a :: _ => s1.present a
  | [] => s1

/-- Release the oldest arrival when every core of its effective set presents one of its parity (R301): REL_INC lands, and the
release is a Solstice point (R303). Arrivals that disagree abort the task. -/
def State.solstice (s : State) : State :=
  match s.sol.out with
  | [] => s
  | a :: _ =>
    if !s.sol.memb.getLsbD s.id.core.toNat then s
    else
      match s.peersIn a with
      | none => s
      | some ps =>
        if ps.all fun p => arrivalsAgree a.shown p then
          let s1 := s.retireArrival.addEc a.relEc (a.relInc.setWidth 16)
          let s2 := s1.withEq { s1.eq with solstice := true, hot := 0 }
          if a.calSwap then
            s2.withCal { s2.cal with routerSwaps := s2.cal.routerSwaps + 1, bankSwaps := s2.cal.bankSwaps + 1 }
          else s2
        else
          s.retireArrival.abortTask a.task Code.barrierMismatch a.dpi

/-- SOLSTICE_RELEASE (R301, R302); a wire of SY_IN that was outvoted is logged. -/
def execSolsticeRelease (sy : SyncIn) (s : State) : Host.Outcome State Fault Refusal :=
  let s1 := if sy.vote then s.note Code.syncVote 0x44 0 0 noDpi 0 else s
  .next (s.follow (s1.withSol { s1.sol with peers := sy.peers }).solstice)

/-- MEMBERSHIP_CHANGE (R301, R446): a removed member drops out of the barriers that wait. -/
def execMembershipChange (mask : BitVec 8) (peers : List (Fin 8 × Arrival)) (s : State) : Host.Outcome State Fault Refusal :=
  .next (s.follow (s.withSol { s.sol with memb := mask, peers := peers }).solstice)

/-! ### Calendar swap (R303) -/

/-- One part of ACTIVE and STANDBY changes places at the boundary that follows the release of a BARRIER with CAL_SWAP; the former
ACTIVE stays VALID. Every release swaps each part once. A router part that swaps first is still STANDBY's in the registers (R471). -/
def State.swapCalendars (s : State) (bank : Bool) : State :=
  let c := s.cal
  let i := c.standbyParts
  if bank then
    if c.bankSwaps = 0 then s
    else s.withCal { c with
      bank := i.bank, standbyImg := some { i with bank := c.bank }, bankSwaps := c.bankSwaps - 1, ahead := none }
  else if c.routerSwaps = 0 then s
  else s.withCal { c with
    router := i.router.getD c.router, standbyImg := some { i with router := some c.router }, routerSwaps := c.routerSwaps - 1,
    ahead := if c.bankSwaps = c.routerSwaps then i.router else none }

/-- CALENDAR_SWAP (R303): the next boundary swaps the part that is due. While both are, a free value says whose boundary comes first:
the router's and the banks' periods run on clocks of their own (log entry 115). -/
def execCalendarSwap (s : State) : Host.Outcome State Fault Refusal :=
  .next (
    if s.cal.bankSwaps = 0 then s.swapCalendars false
    else if s.cal.routerSwaps = 0 then s.swapCalendars true
    else s.draw.2.swapCalendars (s.draw.1.getLsbD 0))

/-! ### Calendar load (R290, R291) -/

/-- The load fails: STANDBY becomes INVALID and the task aborts, or, when its job has ended, the fault is only logged. -/
def State.failLoad (s : State) (l : CalLoading) (code : Code) (detail : W64) : State :=
  let s1 := s.withCal { s.cal with standby := .invalid, standbyImg := none, loading := none }
  if l.orphan then s1.logFatal l.task code l.dpi ⟨0x30, 0, 0, none⟩ detail
  else s1.abortTaskAt l.task code l.dpi ⟨0x30, 0, 0, none⟩ detail

/-- The read of a CAL_LOAD's image ends. -/
def State.endLoad (s : State) : State :=
  match s.cal.loading with
  | none => s
  | some l =>
    match s.spad.badIn l.addr calImageLen with
    | w :: ws => (s.poisonWords (w :: ws)).failLoad l Code.uncorrectable (wordDetail (w :: ws))
    | [] =>
      let img := sliceBytes s.spad.mem l.addr calImageLen
      let r := imgRouter img
      let b := imgBank img
      if imageOk s.id (sharesOf s.job.desc) img && keepsOthers s.cal r b then
        s.withCal { s.cal with standby := .valid, standbyImg := some ⟨some r, b⟩, loading := none }
      else s.failLoad l Code.badCalendar 0

/-- CALENDAR_LOAD_COMPLETE (R291). -/
def execCalendarLoadComplete (s : State) : Host.Outcome State Fault Refusal := .next (s.follow s.endLoad)

end Sys2Proof.Machine
end

