-- ==== Sys2Proof/Machine/RvDecode.lean ====
section
/-! DEFINITION. The instructions of the control core (R332): RV64IMAFDC with Zicsr, Zifencei, Zba and Zbb, from their published
encodings (log entry 107), compressed forms read as the instructions they stand for. -/

namespace Sys2Proof.Machine

/-! ### Instructions -/

/-- A register number. -/
abbrev RvReg := BitVec 5

/-- Operations on two integers, of 64 bits or on the low words (M, Zba, Zbb). `shadd k` adds the second operand to the first one
shifted by k; its `.uw` forms take the first operand's low word. -/
inductive RvAlu where
  | add
  | sub
  | sll
  | slt
  | sltu
  | xor
  | srl
  | sra
  | or
  | and
  | andn
  | orn
  | xnor
  | mul
  | mulh
  | mulhsu
  | mulhu
  | div
  | divu
  | rem
  | remu
  | min
  | minu
  | max
  | maxu
  | rol
  | ror
  | shadd (k : Nat) (uw : Bool)
  | slluw
  deriving DecidableEq, Repr

/-- Operations on one integer (Zbb). -/
inductive RvUn where
  | clz
  | ctz
  | cpop
  | sextb
  | sexth
  | zexth
  | orcb
  | rev8
  deriving DecidableEq, Repr

/-- Atomic read-modify-write operations. -/
inductive RvAmo where
  | swap
  | add
  | xor
  | and
  | or
  | min
  | max
  | minu
  | maxu
  deriving DecidableEq, Repr

/-- Floating-point operations; `d` says binary64, `rm` is the instruction's rounding-mode code. -/
inductive RvFp where
  | add
  | sub
  | mul
  | div
  | sqrt
  | fma (negP negC : Bool)
  | sgnj (kind : Nat)
  | minMax (isMax : Bool)
  | cvtFmt
  | cmp (kind : Nat)
  | toInt (wide sgn : Bool)
  | ofInt (wide sgn : Bool)
  | moveOut
  | moveIn
  | fclass
  deriving DecidableEq, Repr

/-- An instruction. `size` is the number of bytes of an access. -/
inductive Rv where
  | lui (rd : RvReg) (imm : W64)
  | auipc (rd : RvReg) (imm : W64)
  | jal (rd : RvReg) (imm : W64)
  | jalr (rd rs1 : RvReg) (imm : W64)
  | branch (kind : BitVec 3) (rs1 rs2 : RvReg) (imm : W64)
  | load (size : Nat) (sgn : Bool) (rd rs1 : RvReg) (imm : W64)
  | store (size : Nat) (rs1 rs2 : RvReg) (imm : W64)
  | aluImm (op : RvAlu) (word : Bool) (rd rs1 : RvReg) (imm : W64)
  | alu (op : RvAlu) (word : Bool) (rd rs1 rs2 : RvReg)
  | unary (op : RvUn) (word : Bool) (rd rs1 : RvReg)
  | fence
  | lr (size : Nat) (rd rs1 : RvReg)
  | sc (size : Nat) (rd rs1 rs2 : RvReg)
  | amo (op : RvAmo) (size : Nat) (rd rs1 rs2 : RvReg)
  | csr (op : CsrOp) (imm : Bool) (rd rs1 : RvReg) (num : BitVec 12)
  | ecall
  | ebreak
  | mret
  | wfi
  | fload (size : Nat) (rd rs1 : RvReg) (imm : W64)
  | fstore (size : Nat) (rs1 rs2 : RvReg) (imm : W64)
  | fp (op : RvFp) (d : Bool) (rm : Nat) (rd rs1 rs2 rs3 : RvReg)
  deriving DecidableEq, Repr

/-! ### Fields of a 32-bit instruction -/

def rvRd (w : W32) : RvReg := fld w 7 5
def rvRs1 (w : W32) : RvReg := fld w 15 5
def rvRs2 (w : W32) : RvReg := fld w 20 5
def rvRs3 (w : W32) : RvReg := fld w 27 5
def rvF3 (w : W32) : Nat := (fld w 12 3 : BitVec 3).toNat
def rvF7 (w : W32) : Nat := (fld w 25 7 : BitVec 7).toNat
def rvImmI (w : W32) : W64 := (fld w 20 12 : BitVec 12).signExtend 64
def rvImmS (w : W32) : W64 := ((fld w 25 7 : BitVec 7) ++ (fld w 7 5 : BitVec 5)).signExtend 64
def rvImmU (w : W32) : W64 := ((fld w 12 20 : BitVec 20) ++ 0#12).signExtend 64
def rvImmB (w : W32) : W64 :=
  ((fld w 31 1 : BitVec 1) ++ (fld w 7 1 : BitVec 1) ++ (fld w 25 6 : BitVec 6) ++ (fld w 8 4 : BitVec 4) ++ 0#1).signExtend 64
def rvImmJ (w : W32) : W64 :=
  ((fld w 31 1 : BitVec 1) ++ (fld w 12 8 : BitVec 8) ++ (fld w 20 1 : BitVec 1) ++ (fld w 21 10 : BitVec 10) ++ 0#1).signExtend 64

/-- A number of bits as an immediate. -/
def rvShamt (w : W32) (n : Nat) : W64 := (fld w 20 n : BitVec n).setWidth 64

/-! ### Groups of the 32-bit encoding -/

/-- Loads. -/
def rvLoad (w : W32) : Option Rv :=
  let mk (n : Nat) (sgn : Bool) : Option Rv := some (.load n sgn (rvRd w) (rvRs1 w) (rvImmI w))
  match rvF3 w with
  | 0 => mk 1 true
  | 1 => mk 2 true
  | 2 => mk 4 true
  | 3 => mk 8 true
  | 4 => mk 1 false
  | 5 => mk 2 false
  | 6 => mk 4 false
  | _ => none

/-- Stores. -/
def rvStore (w : W32) : Option Rv :=
  if rvF3 w < 4 then some (.store (2 ^ rvF3 w) (rvRs1 w) (rvRs2 w) (rvImmS w)) else none

/-- Register and immediate. -/
def rvOpImm (w : W32) : Option Rv :=
  let mk (op : RvAlu) : Option Rv := some (.aluImm op false (rvRd w) (rvRs1 w) (rvImmI w))
  let sh (op : RvAlu) : Option Rv := some (.aluImm op false (rvRd w) (rvRs1 w) (rvShamt w 6))
  let un (op : RvUn) : Option Rv := some (.unary op false (rvRd w) (rvRs1 w))
  match rvF3 w with
  | 0 => mk .add
  | 2 => mk .slt
  | 3 => mk .sltu
  | 4 => mk .xor
  | 6 => mk .or
  | 7 => mk .and
  | 1 =>
    if (fld w 26 6 : BitVec 6) = 0 then sh .sll
    else match (fld w 20 12 : BitVec 12).toNat with
      | 0x600 => un .clz
      | 0x601 => un .ctz
      | 0x602 => un .cpop
      | 0x604 => un .sextb
      | 0x605 => un .sexth
      | _ => none
  | _ =>
    match (fld w 26 6 : BitVec 6).toNat with
    | 0x00 => sh .srl
    | 0x10 => sh .sra
    | 0x18 => sh .ror
    | _ => match (fld w 20 12 : BitVec 12).toNat with
      | 0x287 => un .orcb
      | 0x6B8 => un .rev8
      | _ => none

/-- Register and immediate on low words. -/
def rvOpImm32 (w : W32) : Option Rv :=
  let sh (op : RvAlu) : Option Rv := some (.aluImm op true (rvRd w) (rvRs1 w) (rvShamt w 5))
  let un (op : RvUn) : Option Rv := some (.unary op true (rvRd w) (rvRs1 w))
  match rvF3 w with
  | 0 => some (.aluImm .add true (rvRd w) (rvRs1 w) (rvImmI w))
  | 1 =>
    if rvF7 w = 0 then sh .sll
    else if (fld w 26 6 : BitVec 6) = 2 then some (.aluImm .slluw false (rvRd w) (rvRs1 w) (rvShamt w 6))
    else match (fld w 20 12 : BitVec 12).toNat with
      | 0x600 => un .clz
      | 0x601 => un .ctz
      | 0x602 => un .cpop
      | _ => none
  | 5 =>
    match rvF7 w with
    | 0x00 => sh .srl
    | 0x20 => sh .sra
    | 0x30 => sh .ror
    | _ => none
  | _ => none

/-- The operation of a two-register instruction by funct7 and funct3. -/
def rvAluOf (f7 f3 : Nat) : Option RvAlu :=
  match f7, f3 with
  | 0x00, 0 => some .add
  | 0x00, 1 => some .sll
  | 0x00, 2 => some .slt
  | 0x00, 3 => some .sltu
  | 0x00, 4 => some .xor
  | 0x00, 5 => some .srl
  | 0x00, 6 => some .or
  | 0x00, 7 => some .and
  | 0x20, 0 => some .sub
  | 0x20, 4 => some .xnor
  | 0x20, 5 => some .sra
  | 0x20, 6 => some .orn
  | 0x20, 7 => some .andn
  | 0x01, 0 => some .mul
  | 0x01, 1 => some .mulh
  | 0x01, 2 => some .mulhsu
  | 0x01, 3 => some .mulhu
  | 0x01, 4 => some .div
  | 0x01, 5 => some .divu
  | 0x01, 6 => some .rem
  | 0x01, 7 => some .remu
  | 0x05, 4 => some .min
  | 0x05, 5 => some .minu
  | 0x05, 6 => some .max
  | 0x05, 7 => some .maxu
  | 0x10, 2 => some (.shadd 1 false)
  | 0x10, 4 => some (.shadd 2 false)
  | 0x10, 6 => some (.shadd 3 false)
  | 0x30, 1 => some .rol
  | 0x30, 5 => some .ror
  | _, _ => none

/-- Two registers. -/
def rvOp (w : W32) : Option Rv := (rvAluOf (rvF7 w) (rvF3 w)).map fun op => .alu op false (rvRd w) (rvRs1 w) (rvRs2 w)

/-- Two registers on low words. -/
def rvOp32 (w : W32) : Option Rv :=
  let mk (op : RvAlu) (word : Bool) : Option Rv := some (.alu op word (rvRd w) (rvRs1 w) (rvRs2 w))
  match rvF7 w, rvF3 w with
  | 0x00, 0 => mk .add true
  | 0x00, 1 => mk .sll true
  | 0x00, 5 => mk .srl true
  | 0x20, 0 => mk .sub true
  | 0x20, 5 => mk .sra true
  | 0x01, 0 => mk .mul true
  | 0x01, 4 => mk .div true
  | 0x01, 5 => mk .divu true
  | 0x01, 6 => mk .rem true
  | 0x01, 7 => mk .remu true
  | 0x04, 0 => mk (.shadd 0 true) false
  | 0x04, 4 => if rvRs2 w = 0 then some (.unary .zexth false (rvRd w) (rvRs1 w)) else none
  | 0x10, 2 => mk (.shadd 1 true) false
  | 0x10, 4 => mk (.shadd 2 true) false
  | 0x10, 6 => mk (.shadd 3 true) false
  | 0x30, 1 => mk .rol true
  | 0x30, 5 => mk .ror true
  | _, _ => none

/-- Atomics. -/
def rvAtomic (w : W32) : Option Rv :=
  if rvF3 w != 2 && rvF3 w != 3 then none
  else
    let n := 2 ^ rvF3 w
    let mk (op : RvAmo) : Option Rv := some (.amo op n (rvRd w) (rvRs1 w) (rvRs2 w))
    match (fld w 27 5 : BitVec 5).toNat with
    | 0x02 => if rvRs2 w = 0 then some (.lr n (rvRd w) (rvRs1 w)) else none
    | 0x03 => some (.sc n (rvRd w) (rvRs1 w) (rvRs2 w))
    | 0x01 => mk .swap
    | 0x00 => mk .add
    | 0x04 => mk .xor
    | 0x0C => mk .and
    | 0x08 => mk .or
    | 0x10 => mk .min
    | 0x14 => mk .max
    | 0x18 => mk .minu
    | 0x1C => mk .maxu
    | _ => none

/-- SYSTEM: environment calls, MRET, WFI and the CSR instructions. -/
def rvSystem (w : W32) : Option Rv :=
  let mk (op : CsrOp) (imm : Bool) : Option Rv := some (.csr op imm (rvRd w) (rvRs1 w) (fld w 20 12))
  match rvF3 w with
  | 0 =>
    match w.toNat with
    | 0x00000073 => some .ecall
    | 0x00100073 => some .ebreak
    | 0x30200073 => some .mret
    | 0x10500073 => some .wfi
    | _ => none
  | 1 => mk .rw false
  | 2 => mk .rs false
  | 3 => mk .rc false
  | 5 => mk .rw true
  | 6 => mk .rs true
  | 7 => mk .rc true
  | _ => none

/-- Floating-point operations (OP-FP). -/
def rvOpFp (w : W32) : Option Rv :=
  let d := bit w 25
  let k := rvRs2 w
  let mk (op : RvFp) : Option Rv := some (.fp op d (rvF3 w) (rvRd w) (rvRs1 w) (rvRs2 w) 0)
  if bit w 26 then none
  else match (fld w 27 5 : BitVec 5).toNat with
    | 0x00 => mk .add
    | 0x01 => mk .sub
    | 0x02 => mk .mul
    | 0x03 => mk .div
    | 0x0B => if k = 0 then mk .sqrt else none
    | 0x04 => if rvF3 w < 3 then mk (.sgnj (rvF3 w)) else none
    | 0x05 => if rvF3 w < 2 then mk (.minMax (rvF3 w = 1)) else none
    | 0x08 => if k = (if d then 0 else 1) then mk .cvtFmt else none
    | 0x14 => if rvF3 w < 3 then mk (.cmp (rvF3 w)) else none
    | 0x18 => if k.toNat < 4 then mk (.toInt (bit k 1) (!bit k 0)) else none
    | 0x1A => if k.toNat < 4 then mk (.ofInt (bit k 1) (!bit k 0)) else none
    | 0x1C => if k ≠ 0 then none else if rvF3 w = 0 then mk .moveOut else if rvF3 w = 1 then mk .fclass else none
    | 0x1E => if k = 0 ∧ rvF3 w = 0 then mk .moveIn else none
    | _ => none

/-- Fused multiply-adds. -/
def rvFma (w : W32) (negP negC : Bool) : Option Rv :=
  if bit w 26 then none else some (.fp (.fma negP negC) (bit w 25) (rvF3 w) (rvRd w) (rvRs1 w) (rvRs2 w) (rvRs3 w))

/-- A 32-bit instruction. -/
def rvDecode32 (w : W32) : Option Rv :=
  match (fld w 0 7 : BitVec 7).toNat with
  | 0x37 => some (.lui (rvRd w) (rvImmU w))
  | 0x17 => some (.auipc (rvRd w) (rvImmU w))
  | 0x6F => some (.jal (rvRd w) (rvImmJ w))
  | 0x67 => if rvF3 w = 0 then some (.jalr (rvRd w) (rvRs1 w) (rvImmI w)) else none
  | 0x63 => if rvF3 w = 2 ∨ rvF3 w = 3 then none else some (.branch (fld w 12 3) (rvRs1 w) (rvRs2 w) (rvImmB w))
  | 0x03 => rvLoad w
  | 0x23 => rvStore w
  | 0x13 => rvOpImm w
  | 0x1B => rvOpImm32 w
  | 0x33 => rvOp w
  | 0x3B => rvOp32 w
  | 0x0F => if rvF3 w < 2 then some .fence else none
  | 0x2F => rvAtomic w
  | 0x73 => rvSystem w
  | 0x07 => if rvF3 w = 2 ∨ rvF3 w = 3 then some (.fload (2 ^ rvF3 w) (rvRd w) (rvRs1 w) (rvImmI w)) else none
  | 0x27 => if rvF3 w = 2 ∨ rvF3 w = 3 then some (.fstore (2 ^ rvF3 w) (rvRs1 w) (rvRs2 w) (rvImmS w)) else none
  | 0x43 => rvFma w false false
  | 0x47 => rvFma w false true
  | 0x4B => rvFma w true false
  | 0x4F => rvFma w true true
  | 0x53 => rvOpFp w
  | _ => none

/-! ### Compressed instructions -/

/-- A field of a compressed instruction moved to a place of an immediate. -/
def rvcBits (h : BitVec 16) (src n dst : Nat) : Nat := (fld h src n : BitVec n).toNat * 2 ^ dst

/-- Its registers: the full ones, and the three-bit ones x8 to x15. -/
def rvcRd (h : BitVec 16) : RvReg := fld h 7 5
def rvcRs2 (h : BitVec 16) : RvReg := fld h 2 5
def rvcLo (h : BitVec 16) : RvReg := (fld h 2 3 : BitVec 3).setWidth 5 + 8
def rvcHi (h : BitVec 16) : RvReg := (fld h 7 3 : BitVec 3).setWidth 5 + 8

/-- Its six-bit immediate, sign-extended, and as a shift amount. -/
def rvcImm6 (h : BitVec 16) : W64 := ((fld h 12 1 : BitVec 1) ++ (fld h 2 5 : BitVec 5)).signExtend 64
def rvcShamt (h : BitVec 16) : W64 := ((fld h 12 1 : BitVec 1) ++ (fld h 2 5 : BitVec 5)).setWidth 64

/-- Offsets of loads and stores. -/
def rvcOffW (h : BitVec 16) : W64 := BitVec.ofNat 64 (rvcBits h 10 3 3 + rvcBits h 6 1 2 + rvcBits h 5 1 6)
def rvcOffD (h : BitVec 16) : W64 := BitVec.ofNat 64 (rvcBits h 10 3 3 + rvcBits h 5 2 6)

/-- Offsets of jumps and branches. -/
def rvcJump (h : BitVec 16) : W64 :=
  (BitVec.ofNat 12 (rvcBits h 12 1 11 + rvcBits h 11 1 4 + rvcBits h 9 2 8 + rvcBits h 8 1 10 + rvcBits h 7 1 6 + rvcBits h 6 1 7 +
    rvcBits h 3 3 1 + rvcBits h 2 1 5)).signExtend 64
def rvcBranch (h : BitVec 16) : W64 :=
  (BitVec.ofNat 9 (rvcBits h 12 1 8 + rvcBits h 10 2 3 + rvcBits h 5 2 6 + rvcBits h 3 2 1 + rvcBits h 2 1 5)).signExtend 64

/-- Quadrant 0. -/
def rvcQ0 (h : BitVec 16) : Option Rv :=
  match (fld h 13 3 : BitVec 3).toNat with
  | 0 =>
    let imm := rvcBits h 11 2 4 + rvcBits h 7 4 6 + rvcBits h 6 1 2 + rvcBits h 5 1 3
    if imm = 0 then none else some (.aluImm .add false (rvcLo h) 2 (BitVec.ofNat 64 imm))
  | 1 => some (.fload 8 (rvcLo h) (rvcHi h) (rvcOffD h))
  | 2 => some (.load 4 true (rvcLo h) (rvcHi h) (rvcOffW h))
  | 3 => some (.load 8 true (rvcLo h) (rvcHi h) (rvcOffD h))
  | 5 => some (.fstore 8 (rvcHi h) (rvcLo h) (rvcOffD h))
  | 6 => some (.store 4 (rvcHi h) (rvcLo h) (rvcOffW h))
  | 7 => some (.store 8 (rvcHi h) (rvcLo h) (rvcOffD h))
  | _ => none

/-- Arithmetic of quadrant 1. -/
def rvcArith (h : BitVec 16) : Option Rv :=
  let r := rvcHi h
  let two (op : RvAlu) (word : Bool) : Option Rv := some (.alu op word r r (rvcLo h))
  match (fld h 10 2 : BitVec 2).toNat with
  | 0 => some (.aluImm .srl false r r (rvcShamt h))
  | 1 => some (.aluImm .sra false r r (rvcShamt h))
  | 2 => some (.aluImm .and false r r (rvcImm6 h))
  | _ =>
    match bit h 12, (fld h 5 2 : BitVec 2).toNat with
    | false, 0 => two .sub false
    | false, 1 => two .xor false
    | false, 2 => two .or false
    | false, _ => two .and false
    | true, 0 => two .sub true
    | true, 1 => two .add true
    | true, _ => none

/-- Quadrant 1. -/
def rvcQ1 (h : BitVec 16) : Option Rv :=
  let rd := rvcRd h
  match (fld h 13 3 : BitVec 3).toNat with
  | 0 => some (.aluImm .add false rd rd (rvcImm6 h))
  | 1 => if rd = 0 then none else some (.aluImm .add true rd rd (rvcImm6 h))
  | 2 => some (.aluImm .add false rd 0 (rvcImm6 h))
  | 3 =>
    if rvcImm6 h = 0 then none
    else if rd = 2 then
      let imm := rvcBits h 12 1 9 + rvcBits h 6 1 4 + rvcBits h 5 1 6 + rvcBits h 3 2 7 + rvcBits h 2 1 5
      some (.aluImm .add false 2 2 ((BitVec.ofNat 10 imm).signExtend 64))
    else some (.lui rd (rvcImm6 h <<< 12))
  | 4 => rvcArith h
  | 5 => some (.jal 0 (rvcJump h))
  | 6 => some (.branch 0 (rvcHi h) 0 (rvcBranch h))
  | _ => some (.branch 1 (rvcHi h) 0 (rvcBranch h))

/-- Quadrant 2. -/
def rvcQ2 (h : BitVec 16) : Option Rv :=
  let rd := rvcRd h
  let rs2 := rvcRs2 h
  let offD := BitVec.ofNat 64 (rvcBits h 12 1 5 + rvcBits h 5 2 3 + rvcBits h 2 3 6)
  let offW := BitVec.ofNat 64 (rvcBits h 12 1 5 + rvcBits h 4 3 2 + rvcBits h 2 2 6)
  let stD := BitVec.ofNat 64 (rvcBits h 10 3 3 + rvcBits h 7 3 6)
  let stW := BitVec.ofNat 64 (rvcBits h 9 4 2 + rvcBits h 7 2 6)
  match (fld h 13 3 : BitVec 3).toNat with
  | 0 => some (.aluImm .sll false rd rd (rvcShamt h))
  | 1 => some (.fload 8 rd 2 offD)
  | 2 => if rd = 0 then none else some (.load 4 true rd 2 offW)
  | 3 => if rd = 0 then none else some (.load 8 true rd 2 offD)
  | 4 =>
    if !bit h 12 then
      (if rs2 = 0 then (if rd = 0 then none else some (.jalr 0 rd 0)) else some (.alu .add false rd 0 rs2))
    else if rs2 = 0 then (if rd = 0 then some .ebreak else some (.jalr 1 rd 0))
    else some (.alu .add false rd rd rs2)
  | 5 => some (.fstore 8 2 rs2 stD)
  | 6 => some (.store 4 2 rs2 stW)
  | _ => some (.store 8 2 rs2 stD)

/-- A 16-bit instruction. -/
def rvDecode16 (h : BitVec 16) : Option Rv :=
  match (fld h 0 2 : BitVec 2).toNat with
  | 0 => rvcQ0 h
  | 1 => rvcQ1 h
  | 2 => rvcQ2 h
  | _ => none

end Sys2Proof.Machine
end

