-- ==== Sys2Proof/Machine/RvAlu.lean ====
section
/-! DEFINITION. Integer and floating-point results of the control core's instructions (R332; log entry 107). -/

namespace Sys2Proof.Machine

/-! ### Integers -/

/-- A condition as a number. -/
def flag01 {w : Nat} (b : Bool) : BitVec w := if b then 1 else 0

/-- Quotients and remainders: by zero all ones and the dividend. -/
def rvDiv {w : Nat} (a b : BitVec w) : BitVec w := if b = 0 then BitVec.allOnes w else a.sdiv b
def rvDivu {w : Nat} (a b : BitVec w) : BitVec w := if b = 0 then BitVec.allOnes w else a.udiv b
def rvRem {w : Nat} (a b : BitVec w) : BitVec w := if b = 0 then a else a.srem b
def rvRemu {w : Nat} (a b : BitVec w) : BitVec w := if b = 0 then a else a.umod b

/-- The high word of a product. -/
def rvHigh {w : Nat} (a b : Int) : BitVec w := BitVec.ofInt w (a * b / (2 ^ w : Nat))

/-- The low word of a 64-bit value, zero-extended. -/
def lowWord {w : Nat} (a : BitVec w) : BitVec w := (a.setWidth 32).setWidth w

/-- The result of an operation at a width; shifts take the low bits of their amount. -/
def RvAlu.run {w : Nat} (op : RvAlu) (a b : BitVec w) : BitVec w :=
  let n := b.toNat % w
  match op with
  | .add => a + b
  | .sub => a - b
  | .sll => a <<< n
  | .slt => flag01 (a.slt b)
  | .sltu => flag01 (a.ult b)
  | .xor => a ^^^ b
  | .srl => a >>> n
  | .sra => a.sshiftRight n
  | .or => a ||| b
  | .and => a &&& b
  | .andn => a &&& ~~~b
  | .orn => a ||| ~~~b
  | .xnor => ~~~(a ^^^ b)
  | .mul => a * b
  | .mulh => rvHigh a.toInt b.toInt
  | .mulhsu => rvHigh a.toInt b.toNat
  | .mulhu => rvHigh a.toNat b.toNat
  | .div => rvDiv a b
  | .divu => rvDivu a b
  | .rem => rvRem a b
  | .remu => rvRemu a b
  | .min => if a.slt b then a else b
  | .minu => if a.ult b then a else b
  | .max => if a.slt b then b else a
  | .maxu => if a.ult b then b else a
  | .rol => a.rotateLeft n
  | .ror => a.rotateRight n
  | .shadd k uw => ((if uw then lowWord a else a) <<< k) + b
  | .slluw => lowWord a <<< n

/-- The result in a register: an operation on low words is sign-extended. -/
def RvAlu.apply (op : RvAlu) (word : Bool) (a b : W64) : W64 :=
  if word then ((op.run (a.setWidth 32) (b.setWidth 32) : W32)).signExtend 64 else op.run a b

/-- Leading zeros of the low `n` bits, trailing zeros and set bits. -/
def leadZeros {w : Nat} (a : BitVec w) : Nat := ((List.range w).find? fun i => a.getLsbD (w - 1 - i)).getD w
def trailZeros {w : Nat} (a : BitVec w) : Nat := ((List.range w).find? fun i => a.getLsbD i).getD w
def onesIn {w : Nat} (a : BitVec w) : Nat := ((List.range w).filter fun i => a.getLsbD i).length

/-- Bytes of a doubleword, byte 0 first. -/
def dwordBytes (a : W64) : List Byte := (List.range 8).map fun i => fld a (8 * i) 8

/-- A doubleword of bytes, byte 0 first. -/
def ofDwordBytes (bs : List Byte) : W64 := BitVec.ofNat 64 (bs.foldr (fun b n => b.toNat + 256 * n) 0)

/-- The result of an operation on one integer. -/
def RvUn.run (op : RvUn) (word : Bool) (a : W64) : W64 :=
  match op with
  | .clz => BitVec.ofNat 64 (if word then leadZeros (a.setWidth 32) else leadZeros a)
  | .ctz => BitVec.ofNat 64 (if word then trailZeros (a.setWidth 32) else trailZeros a)
  | .cpop => BitVec.ofNat 64 (if word then onesIn (a.setWidth 32) else onesIn a)
  | .sextb => (a.setWidth 8).signExtend 64
  | .sexth => (a.setWidth 16).signExtend 64
  | .zexth => (a.setWidth 16).setWidth 64
  | .orcb => ofDwordBytes ((dwordBytes a).map fun b => if b = 0 then 0 else 0xFF)
  | .rev8 => ofDwordBytes (dwordBytes a).reverse

/-- The new value of an atomic operation. -/
def RvAmo.run {w : Nat} (op : RvAmo) (old b : BitVec w) : BitVec w :=
  match op with
  | .swap => b
  | .add => old + b
  | .xor => old ^^^ b
  | .and => old &&& b
  | .or => old ||| b
  | .min => if old.slt b then old else b
  | .max => if old.slt b then b else old
  | .minu => if old.ult b then old else b
  | .maxu => if old.ult b then b else old

/-- A branch is taken: 0 BEQ, 1 BNE, 4 BLT, 5 BGE, 6 BLTU, 7 BGEU. -/
def branchTaken (kind : BitVec 3) (a b : W64) : Bool :=
  match kind.toNat with
  | 0 => a == b
  | 1 => a != b
  | 4 => a.slt b
  | 5 => !a.slt b
  | 6 => a.ult b
  | _ => !a.ult b

/-- The low bytes of a value, extended. -/
def extendLow (n : Nat) (sgn : Bool) (v : W64) : W64 :=
  if sgn then (v.setWidth (8 * n)).signExtend 64 else (v.setWidth (8 * n)).setWidth 64

/-! ### Floating point -/

/-- The format of an operation. -/
def rvSpec (d : Bool) : FpSpec := if d then fp64 else fp32

/-- An operand in a register: a binary32 value must be NaN-boxed, else it is the canonical NaN. -/
def unbox (d : Bool) (v : W64) : Nat :=
  if d then v.toNat else if v >>> 32 = 0xFFFFFFFF#64 then (v.setWidth 32).toNat else fp32.nanBits

/-- A result in a register. -/
def box (d : Bool) (v : Nat) : W64 :=
  if d then BitVec.ofNat 64 v else 0xFFFFFFFF00000000#64 ||| BitVec.ofNat 64 v

/-- A sign injection: 0 the second operand's sign, 1 its opposite, 2 their exclusive or. -/
def signInject (f : FpSpec) (kind a b : Nat) : Nat :=
  let s := f.ebits + f.mbits
  let sa := a / 2 ^ s % 2
  let sb := b / 2 ^ s % 2
  let t := match kind with | 0 => sb | 1 => 1 - sb | _ => (sa + sb) % 2
  a % 2 ^ s + t * 2 ^ s

/-- Operations whose result is a floating-point value. -/
def rvFpResult (op : RvFp) (d : Bool) (r : Rm) (x y z : W64) (i : W64) : Option (W64 × FpFlags) :=
  let f := rvSpec d
  let a := unbox d x
  let b := unbox d y
  let out (q : Nat × FpFlags) : Option (W64 × FpFlags) := some (box d q.1, q.2)
  match op with
  | .add => out (f.rvAdd r a b)
  | .sub => out (f.rvSub r a b)
  | .mul => out (f.rvMul r a b)
  | .div => out (f.rvDiv r a b)
  | .sqrt => out (f.rvSqrt r a)
  | .fma negP negC => out (f.rvFma r negP negC a b (unbox d z))
  | .sgnj kind => out (signInject f kind a b, 0)
  | .minMax isMax => out (f.rvMinMax isMax a b)
  | .cvtFmt => out (rvConvert (rvSpec !d) f r (unbox (!d) x))
  | .ofInt wide sgn =>
    out (f.rvOfInt r (match wide, sgn with
      | true, true => i.toInt
      | true, false => i.toNat
      | false, true => (i.setWidth 32).toInt
      | false, false => (i.setWidth 32).toNat))
  | .moveIn => some (if d then i else box false (i.setWidth 32).toNat, 0)
  | _ => none

/-- Operations whose result is an integer. -/
def rvFpInt (op : RvFp) (d : Bool) (r : Rm) (x y : W64) : Option (W64 × FpFlags) :=
  let f := rvSpec d
  let a := unbox d x
  match op with
  | .cmp kind =>
    let q := f.rvCmp kind a (unbox d y)
    some (flag01 q.1, q.2)
  | .toInt wide sgn =>
    let q := f.rvToInt r (if wide then 64 else 32) sgn a
    some (if wide then BitVec.ofInt 64 q.1 else (BitVec.ofInt 32 q.1).signExtend 64, q.2)
  | .moveOut => some (if d then x else (x.setWidth 32).signExtend 64, 0)
  | .fclass => some (BitVec.ofNat 64 (f.rvClass a), 0)
  | _ => none

/-- The operations that round. -/
def RvFp.rounds : RvFp → Bool
  | .sgnj _ | .minMax _ | .cmp _ | .moveOut | .moveIn | .fclass => false
  | _ => true

end Sys2Proof.Machine
end

