-- ==== Sys2Proof/Machine/RvBus.lean ====
section
/-! DEFINITION. What the control core's hart reaches: its registers, the memory map (R335, R336) under physical memory protection
(R334), and its CSRs (R333, R337, R342). -/

namespace Sys2Proof.Machine

/-! ### Why an instruction does not complete -/

/-- An instruction ends in an exception of the ISA with its cause and mtval, or in a control-core fault (R336, R348). -/
inductive RvStop where
  | trap (cause : Nat) (tval : W64)
  | fatal
  deriving DecidableEq, Repr

/-- An access: its kind selects the exception codes and the protection bit. -/
inductive RvAccess where
  | fetch
  | load
  | store
  deriving DecidableEq, Repr

/-- Codes of the access-fault and address-misaligned exceptions. -/
def RvAccess.fault : RvAccess → Nat
  | .fetch => 1
  | .load => 5
  | .store => 7
def RvAccess.misaligned : RvAccess → Nat
  | .fetch => 0
  | .load => 4
  | .store => 6

/-! ### Registers -/

/-- Integer register; x0 reads as zero and discards writes. -/
def Hart.get (h : Hart) (r : RvReg) : W64 := if r = 0#5 then 0 else h.x[r.toNat]'(r.isLt)
def Hart.put (h : Hart) (r : RvReg) (v : W64) : Hart := if r = 0#5 then h else { h with x := h.x.set r.toNat v r.isLt }

/-- Floating-point register; a write marks the state dirty (mstatus.FS = 3). -/
def Hart.fget (h : Hart) (r : RvReg) : W64 := h.f[r.toNat]'(r.isLt)
def Hart.dirty (h : Hart) : Hart := { h with mstatus := h.mstatus ||| 0x6000 }
def Hart.fput (h : Hart) (r : RvReg) (v : W64) : Hart := { h.dirty with f := h.f.set r.toNat v r.isLt }

/-- The F and D extensions are on (mstatus.FS ≠ 0). -/
def Hart.fpOn (h : Hart) : Bool := fld h.mstatus 13 2 != 0#2

/-- Accrue exception flags in fcsr. -/
def Hart.accrue (h : Hart) (f : BitVec 5) : Hart :=
  if f = 0 then h else { h.dirty with fcsr := h.fcsr ||| f.setWidth 64 }

/-- M mode governs loads and stores: the mode, or MPP under mstatus.MPRV. -/
def Hart.dataMachine (h : Hart) : Bool := if bit h.mstatus 17 then fld h.mstatus 11 2 == 3#2 else h.machineMode

/-- Replace the hart. -/
def State.withHart (s : State) (h : Hart) : State := s.withCc { s.cc with hart := h }

/-! ### Physical memory protection (R334) -/

/-- A field of pmpcfg: 0 OFF, 1 TOR, 3 NAPOT. -/
def pmpMode (c : BitVec 8) : Nat := (fld c 3 2 : BitVec 2).toNat
def pmpLocked (c : BitVec 8) : Bool := bit c 7

/-- The bytes of entry `i`, from the first to one past the last, with a grain of 64 bytes. -/
def Hart.pmpRange (h : Hart) (i : Fin 16) : Nat × Nat :=
  let a := h.pmpaddr[i.1]
  match pmpMode h.pmpcfg[i.1] with
  | 1 =>
    let top (v : W64) : Nat := 4 * (v &&& ~~~0xF).toNat
    (match i with
      | ⟨0, _⟩ => 0
      | ⟨k + 1, p⟩ => top (h.pmpaddr[k]'(by omega)), top a)
  | 3 =>
    let v := a ||| 0x7
    let ones := (List.range 54).foldl (fun n k => if n = k && bit v k then k + 1 else n) 0
    let size := 2 ^ (ones + 3)
    (4 * v.toNat / size * size, 4 * v.toNat / size * size + size)
  | _ => (0, 0)

/-- The permission bit that an access needs. -/
def pmpBit : RvAccess → Nat
  | .fetch => 2
  | .load => 0
  | .store => 1

/-- An access of `n` bytes is allowed: the lowest entry that matches any byte must match all of them and give the permission, except
to M mode where it is not locked; with no match only M mode passes. -/
def Hart.pmpOk (h : Hart) (machine : Bool) (k : RvAccess) (a n : Nat) : Bool :=
  match (List.finRange 16).find? fun i => let r := h.pmpRange i; r.1 < r.2 && a < r.2 && r.1 < a + n with
  | none => machine
  | some i =>
    let r := h.pmpRange i
    let c := h.pmpcfg[i.1]
    r.1 ≤ a && a + n ≤ r.2 && ((machine && !pmpLocked c) || bit c (pmpBit k))

/-- A field written to pmpcfg: NA4 becomes OFF, the reserved W without R keeps the old field, and a locked one does not change. -/
def pmpWrite (old new : BitVec 8) : BitVec 8 :=
  if pmpLocked old || (bit new 1 && !bit new 0) then old
  else if pmpMode new = 2 then new &&& 0x87 else new &&& 0x9F

/-- Write pmpaddr `i`: ignored where it is locked, or bounds a locked TOR entry. -/
def Hart.pmpaddrWrite (h : Hart) (i : Fin 16) (v : W64) : Hart :=
  let next := match h.pmpcfg.toList[i.1 + 1]? with | some c => pmpLocked c && pmpMode c == 1 | none => false
  if pmpLocked h.pmpcfg[i.1] || next then h
  else { h with pmpaddr := h.pmpaddr.set i.1 (v &&& 0x3FFFFFFFFFFFFF) }

/-- What pmpaddr `i` reads as under the grain: bits [3:0] zero while OFF or TOR, bits [2:0] ones while NAPOT. -/
def Hart.pmpaddrRead (h : Hart) (i : Fin 16) : W64 :=
  if pmpMode h.pmpcfg[i.1] = 3 then h.pmpaddr[i.1] ||| 0x7 else h.pmpaddr[i.1] &&& ~~~0xF

/-- Eight fields of pmpcfg as one register, from entry `k`. -/
def Hart.pmpcfgRead (h : Hart) (k : Nat) : W64 :=
  BitVec.ofNat 64 (leNat ((h.pmpcfg.toList.drop k).take 8))
def Hart.pmpcfgWrite (h : Hart) (k : Nat) (v : W64) : Hart :=
  { h with pmpcfg := Vector.ofFn fun i : Fin 16 =>
      let j := i.1 - k
      if k ≤ i.1 && j < 8 then pmpWrite h.pmpcfg[i.1] (fld v (8 * j) 8) else h.pmpcfg[i.1] }

/-! ### IMEM and DMEM (R335, R336) -/

/-- Where an access of `n` bytes lies: a memory and the offset in it, or a device address. -/
inductive RvPlace where
  | imem (o : Nat)
  | dmem (o : Nat)
  | device (a : Nat)
  | none
  deriving DecidableEq, Repr

/-- The memory map of R335. -/
def rvPlace (a n : Nat) : RvPlace :=
  if a + n ≤ 0x20000 then .imem a
  else if 0x100000 ≤ a ∧ a + n ≤ 0x140000 then .dmem (a - 0x100000)
  else if 0x200000 ≤ a ∧ a < 0x205020 then .device a
  else .none

/-- The words of an access hold an uncorrectable error. -/
def Cc.badAt (c : Cc) (a n : Nat) : Bool := c.badWords.any fun w => a / 8 ≤ w && w ≤ (a + n - 1) / 8

/-- Bytes of a memory as a value. -/
def memWord (m : Store 8) (o n : Nat) : W64 := BitVec.ofNat 64 (leNat ((List.range n).map fun i => m.get (o + i)))

/-- Write the low bytes of a value. -/
def memPut (m : Store 8) (o n : Nat) (v : W64) : Store 8 :=
  (leBytes v.toNat n).zipIdx.foldl (fun (m : Store 8) p => Store.set m (o + p.2) p.1) m

/-! ### Device registers (R335, R340 to R347) -/

/-- JOB_STATE (R347): a running job whose tasks have all ended is ending. -/
def State.jobStateView (s : State) : W64 :=
  if s.job.st != .running then 0
  else (if s.tasksEnded then 2 else 1) ||| (if s.job.replays then 4 else 0)

/-- INJ_STATUS (R343). -/
def State.injStatus (s : State) : W64 :=
  (if s.cc.injBusy then 1 else 0) ||| (if s.job.st == .running && s.job.replays then 2 else 0) ||| (if s.cc.injLost then 4 else 0)

/-- A watch slot as its register (R341). -/
def Watch.toBits (w : Watch) : W64 := w.ec.setWidth 64 ||| (w.cmp.setWidth 64 <<< 6) ||| (w.thr.setWidth 64 <<< 8)

/-- A load of a device register: natural alignment and the register's own width, or an access fault. A WO register reads as zero
(R8). -/
def State.deviceLoad (s : State) (a n : Nat) : Option W64 :=
  if n = 2 && a % 2 = 0 && a < 0x200080 then some ((s.ec (BitVec.ofNat 6 ((a - 0x200000) / 2))).setWidth 64)
  else if n = 2 && a = 0x200080 then some ((s.iu.pd.setWidth 16).setWidth 64)
  else if n ≠ 8 || a % 8 ≠ 0 then none
  else if 0x201000 ≤ a && a < 0x201048 then some 0
  else if a = 0x201048 then some s.injStatus
  else if a = 0x201050 then some s.cc.injLast
  else if 0x202000 ≤ a && a < 0x202040 then (s.cc.watch.toList[(a - 0x202000) / 8]?).map Watch.toBits
  else match a with
    | 0x203000 => some s.mtime
    | 0x203008 => some s.cc.mtimecmp
    | 0x203010 => some (s.cc.wdLimit.setWidth 64)
    | 0x203018 => some 0
    | 0x204000 => some s.cc.msgDest
    | 0x204008 => some s.cc.msgArg
    | 0x204010 => some 0
    | 0x204018 => some (BitVec.ofNat 64 s.cc.msgQ.length ||| (if s.cc.msgLost then 16 else 0))
    | 0x205000 => some s.jobStateView
    | 0x205008 => some s.job.seed
    | 0x205010 => some s.job.step
    | 0x205018 => some (s.task 0).dpi
    | _ => none

/-- The RsvZ bits of a device register that takes stores; a load-only register takes none (R335). -/
def deviceRsvz (a : Nat) : Option W64 :=
  if 0x201000 ≤ a && a < 0x201048 then some 0
  else if a = 0x201048 then some (~~~0x7#64)
  else if 0x202000 ≤ a && a < 0x202040 then some (~~~0xFFFFFF#64)
  else match a with
    | 0x203008 => some 0
    | 0x203010 => some (~~~0xFFFFFFFF#64)
    | 0x203018 => some 0
    | 0x204000 => some 0
    | 0x204008 => some (~~~0xFF3F#64)
    | 0x204010 => some 0
    | 0x204018 => some (~~~0x1F#64)
    | _ => none

/-- The effect of a store to a device register. -/
def State.devicePut (s : State) (a : Nat) (v : W64) : State :=
  if a < 0x201040 || a = 0x201048 then s.injStore (a - 0x201000) v
  else if a = 0x201040 then s.submit
  else if a < 0x202040 then s.watchStore ⟨(a - 0x202000) / 8 % 8, Nat.mod_lt _ (by decide)⟩ v
  else match a with
    | 0x203008 => s.withCc { s.cc with mtimecmp := v }
    | 0x203010 => s.wdLimitStore v
    | 0x203018 => s.withCc { s.cc with wdStart := s.cycle }
    | _ => s.messageStore (a - 0x204000) v

/-- A store to a device register, or an access fault. -/
def State.deviceStore (s : State) (a n : Nat) (v : W64) : Option State :=
  if n ≠ 8 || a % 8 ≠ 0 then none
  else match deviceRsvz a with
    | none => none
    | some r => if v &&& r != 0#64 then none else some (s.devicePut a v)

/-! ### Loads and stores -/

/-- Check an access against the map, the protection and, in the memories, the alignment; `atomic` says AMO, LR or SC, which only DMEM
takes (R335). -/
def State.rvCheck (s : State) (k : RvAccess) (a n : Nat) (atomic : Bool) : Except RvStop RvPlace :=
  let h := s.cc.hart
  let bad : Except RvStop RvPlace := .error (.trap k.fault (BitVec.ofNat 64 a))
  let aligned (p : RvPlace) : Except RvStop RvPlace :=
    if a % n ≠ 0 then .error (.trap k.misaligned (BitVec.ofNat 64 a)) else .ok p
  if !h.pmpOk h.dataMachine k a n then bad
  else match rvPlace a n with
    | .imem o => if atomic || (k == .store && !h.dataMachine) then bad else aligned (.imem o)
    | .dmem o => aligned (.dmem o)
    | .device d => if atomic then bad else .ok (.device d)
    | .none => bad

/-- Load `n` bytes. -/
def State.rvLoad (s : State) (a n : Nat) (atomic : Bool) : Except RvStop W64 :=
  match s.rvCheck .load a n atomic with
  | .error e => .error e
  | .ok (.imem o) => if s.cc.badAt a n then .error .fatal else .ok (memWord s.cc.imem o n)
  | .ok (.dmem o) => if s.cc.badAt a n then .error .fatal else .ok (memWord s.cc.dmem o n)
  | .ok _ => match s.deviceLoad a n with
    | some v => .ok v
    | none => .error (.trap RvAccess.load.fault (BitVec.ofNat 64 a))

/-- Store `n` bytes: part of an uncorrectable word is a control-core fault, and a whole word takes new check bits (R336). -/
def State.rvStore (s : State) (a n : Nat) (v : W64) (atomic : Bool) : Except RvStop State :=
  let other (w : Nat) : Bool := n < 8 || w != a / 8
  let c := { s.cc with badWords := s.cc.badWords.filter other, flips := s.cc.flips.filter other }
  match s.rvCheck .store a n atomic with
  | .error e => .error e
  | .ok (.imem o) =>
    if n < 8 && s.cc.badAt a n then .error .fatal else .ok (s.withCc { c with imem := memPut s.cc.imem o n v })
  | .ok (.dmem o) =>
    if n < 8 && s.cc.badAt a n then .error .fatal else .ok (s.withCc { c with dmem := memPut s.cc.dmem o n v })
  | .ok _ => match s.deviceStore a n v with
    | some t => .ok t
    | none => .error (.trap RvAccess.store.fault (BitVec.ofNat 64 a))

/-- The single-bit errors in the words of an access of IMEM or DMEM are corrected and logged (R336). -/
def State.fixSpan (s : State) (a n : Nat) : State := (List.range ((a + n - 1) / 8 - a / 8 + 1)).foldl (fun s k => s.ccFix (a / 8 + k)) s

/-- The same for a load, an atomic access or a store of part of a word, where it passes its checks and meets no uncorrectable word. -/
def State.fixData (s : State) (k : RvAccess) (a n : Nat) (atomic : Bool) : State :=
  if (k == .store && n = 8) || s.cc.badAt a n then s
  else match s.rvCheck k a n atomic with
    | .ok (.imem _) | .ok (.dmem _) => s.fixSpan a n
    | _ => s

/-- Fetch one half-word of an instruction from IMEM. -/
def State.rvFetch (s : State) (a : W64) : Except RvStop (BitVec 16) :=
  if a.toNat + 2 ≤ 0x20000 && s.cc.hart.pmpOk s.cc.hart.machineMode .fetch a.toNat 2 then
    (if s.cc.badAt a.toNat 2 then .error .fatal else .ok ((memWord s.cc.imem a.toNat 2).setWidth 16))
  else .error (.trap RvAccess.fetch.fault a)

/-! ### CSRs (R333, R337, R342) -/

/-- mcycle and minstret: control-island cycles, above a base that a write sets (R333). -/
def State.mcycle (s : State) : W64 := BitVec.ofNat 64 s.cycle + s.cc.hart.cycleBase

/-- misa: MXL 2 with A, C, D, F, I, M and U (R333). -/
def misaValue : W64 := (2#64 <<< 62) ||| 0x10112D

/-- mstatus as it reads: UXL is 2, and SD mirrors a dirty FS. -/
def Hart.mstatusRead (h : Hart) : W64 :=
  h.mstatus ||| (2#64 <<< 32) ||| (if fld h.mstatus 13 2 == 3#2 then 1#64 <<< 63 else 0)

/-- The local interrupts and the timer, which mie enables. -/
def mieMask : W64 := 0x3FFF0080

/-- A counter that U mode reads only where mcounteren allows it. -/
def Hart.counter (h : Hart) (k : Nat) (v : W64) : Option W64 := if h.machineMode || bit h.mcounteren k then some v else none

/-- What a CSR reads as; none for one that does not exist, or that the mode or the state of the F extension forbids. -/
def State.csrRead (s : State) (n : BitVec 12) : Option W64 :=
  let h := s.cc.hart
  let c := n.toNat
  let fpu (v : W64) : Option W64 := if h.fpOn then some v else none
  if !h.machineMode && fld n 8 2 != 0#2 then none
  else if 0x800 ≤ c && c < 0x840 then (if h.sfAllowed then some (s.sfAtStart (fld n 0 6)) else none)
  else if 0x3B0 ≤ c && c < 0x3C0 then some (h.pmpaddrRead ⟨(c - 0x3B0) % 16, Nat.mod_lt _ (by decide)⟩)
  else if 0xC03 ≤ c && c < 0xC20 then h.counter (c - 0xC00) 0
  else if (0xB03 ≤ c && c < 0xB20) || (0x323 ≤ c && c < 0x340) then some 0
  else match c with
    | 0x001 => fpu (h.fcsr &&& 0x1F)
    | 0x002 => fpu ((h.fcsr >>> 5) &&& 7)
    | 0x003 => fpu (h.fcsr &&& 0xFF)
    | 0xC00 => h.counter 0 s.mcycle
    | 0xC01 => h.counter 1 s.mtime
    | 0xC02 => h.counter 2 h.minstret
    | 0xF11 => some 0
    | 0xF12 => some 0
    | 0xF13 => some 0x00020003
    | 0xF14 => some (s.id.core.setWidth 64)
    | 0xF15 => some 0
    | 0x300 => some h.mstatusRead
    | 0x301 => some misaValue
    | 0x304 => some h.mie
    | 0x305 => some h.mtvec
    | 0x306 => some h.mcounteren
    | 0x30A => some 0
    | 0x320 => some 0
    | 0x340 => some h.mscratch
    | 0x341 => some h.mepc
    | 0x342 => some h.mcause
    | 0x343 => some h.mtval
    | 0x344 => some s.mip
    | 0x3A0 => some (h.pmpcfgRead 0)
    | 0x3A2 => some (h.pmpcfgRead 8)
    | 0xB00 => some s.mcycle
    | 0xB02 => some h.minstret
    | 0x7C0 => some (if h.msfen then 1 else 0)
    | 0x7C1 => some (s.cc.evpend.setWidth 64)
    | _ => none

/-- mstatus after a write: MIE, MPIE, FS, MPRV and TW as written, and MPP where it names M or U mode. -/
def Hart.mstatusWrite (h : Hart) (v : W64) : Hart :=
  let mask : W64 := 0x226088 ||| (if fld v 11 2 == 0#2 || fld v 11 2 == 3#2 then 0x1800 else 0)
  { h with mstatus := (h.mstatus &&& ~~~mask) ||| (v &&& mask) }

/-- A write of fcsr, or of one of its two fields. -/
def Hart.fcsrWrite (h : Hart) (v : W64) : Hart := { h.dirty with fcsr := v &&& 0xFF }

/-- The hart after a write of a CSR that holds hart state; the others that can be read keep their value. -/
def Hart.csrWrite (h : Hart) (n : BitVec 12) (cycle v : W64) : Hart :=
  let c := n.toNat
  if 0x3B0 ≤ c && c < 0x3C0 then h.pmpaddrWrite ⟨(c - 0x3B0) % 16, Nat.mod_lt _ (by decide)⟩ v
  else match c with
    | 0x001 => h.fcsrWrite ((h.fcsr &&& 0xE0) ||| (v &&& 0x1F))
    | 0x002 => h.fcsrWrite ((h.fcsr &&& 0x1F) ||| ((v &&& 7) <<< 5))
    | 0x003 => h.fcsrWrite v
    | 0x300 => h.mstatusWrite v
    | 0x304 => { h with mie := v &&& mieMask }
    | 0x305 => { h with mtvec := if bit v 1 then h.mtvec else v }
    | 0x306 => { h with mcounteren := v &&& 7 }
    | 0x340 => { h with mscratch := v }
    | 0x341 => { h with mepc := v &&& ~~~1 }
    | 0x342 => { h with mcause := v }
    | 0x343 => { h with mtval := v }
    | 0x3A0 => h.pmpcfgWrite 0 v
    | 0x3A2 => h.pmpcfgWrite 8 v
    | 0xB00 => { h with cycleBase := v - cycle }
    | 0xB02 => { h with minstret := v }
    | 0x7C0 => if v >>> 1 != 0#64 then h else { h with msfen := bit v 0 }
    | _ => h

/-- Write a CSR; none for one that is read-only or may not be read. Writes of hpmcounter3 to 31 are ignored (R333), and one of the scalar file
lands in the next control cycle (R338). -/
def State.csrWrite (s : State) (n : BitVec 12) (v : W64) : Option State :=
  if (s.csrRead n).isNone then none
  else if 0xC03 ≤ n.toNat && n.toNat < 0xC20 then some s
  else if fld n 10 2 == 3#2 then none
  else if 0x800 ≤ n.toNat && n.toNat < 0x840 then some (s.queueSf (fld n 0 6) v)
  else if n = 0x7C1 then some (s.evpendWrite v)
  else some (s.withHart (s.cc.hart.csrWrite n (BitVec.ofNat 64 s.cycle) v))

end Sys2Proof.Machine
end

