-- ==== Sys2Proof/Machine/Hart.lean ====
section
/-! DEFINITION. The control core runs (R332, R342, R347, R348): the effect of an instruction, traps and returns from them, interrupts,
and one step of the hart. One instruction runs in each idle control cycle (log entry 108). -/

namespace Sys2Proof.Machine

/-! ### Traps (R342, R348) -/

/-- Take a trap to M mode: mepc, mcause and mtval; MPIE, MPP and MIE of mstatus; and the handler's address, which an interrupt takes
from its vector under mtvec mode 1. -/
def Hart.trap (h : Hart) (irq : Bool) (cause : Nat) (tval : W64) : Hart :=
  let kept : W64 := h.mstatus &&& ~~~0x1888#64
  let base := h.mtvec &&& ~~~3#64
  { h with
    mepc := h.pc, mcause := (if irq then 1#64 <<< 63 else 0) ||| BitVec.ofNat 64 cause, mtval := tval, machineMode := true,
    mstatus := kept ||| (if bit h.mstatus 3 then 0x80 else 0) ||| (if h.machineMode then 0x1800 else 0),
    pc := if irq && bit h.mtvec 0 then base + BitVec.ofNat 64 (4 * cause) else base }

/-- Return from a trap: the mode of MPP, MIE from MPIE, and the pc of mepc; MPP becomes U, and leaving M mode clears MPRV. -/
def Hart.ret (h : Hart) : Hart :=
  let toM := fld h.mstatus 11 2 == 3#2
  let kept : W64 := h.mstatus &&& ~~~0x1888#64 &&& (if toM then BitVec.allOnes 64 else ~~~0x20000#64)
  { h with pc := h.mepc, machineMode := toM, mstatus := kept ||| 0x80 ||| (if bit h.mstatus 7 then 8 else 0) }

/-- The interrupt that is taken, if any (R342): enabled in mie, with M mode's MIE or in U mode; MTIP first, then the local
sources (log entry 109). -/
def State.rvIrq (s : State) : Option Nat :=
  let h := s.cc.hart
  let p := s.mip &&& h.mie
  if h.machineMode && !bit h.mstatus 3 then none
  else if bit p 7 then some 7
  else (List.range 14).findSome? fun k => if bit p (16 + k) then some (16 + k) else none

/-! ### Instructions (R332) -/

/-- Where an instruction leaves the machine. -/
abbrev RvResult := Except RvStop State

/-- An illegal instruction of some bits. -/
def illegal (w : W64) : RvResult := .error (.trap 2 w)

/-- Write an integer register. -/
def State.rvPut (s : State) (r : RvReg) (v : W64) : State := s.withHart (s.cc.hart.put r v)

/-- Read an integer register. -/
def State.rvGet (s : State) (r : RvReg) : W64 := s.cc.hart.get r

/-- Jump, with the address after the instruction in a register. -/
def State.rvJump (s : State) (rd : RvReg) (target : W64) : State :=
  let t := s.rvPut rd s.cc.hart.pc
  t.withHart { t.cc.hart with pc := target &&& ~~~1 }

/-- Load-reserved, store-conditional and the atomic operations, on DMEM (R335). -/
def State.rvLr (s : State) (n : Nat) (rd rs1 : RvReg) : RvResult :=
  let a := s.rvGet rs1
  match s.rvLoad a.toNat n true with
  | .error e => .error e
  | .ok v =>
    let t := s.rvPut rd (extendLow n true v)
    .ok (t.withHart { t.cc.hart with resv := some a })

def State.rvSc (s : State) (n : Nat) (rd rs1 rs2 : RvReg) : RvResult :=
  let a := s.rvGet rs1
  let done (t : State) (v : W64) : State := let u := t.rvPut rd v; u.withHart { u.cc.hart with resv := none }
  match s.rvCheck .store a.toNat n true with
  | .error e => .error e
  | .ok _ =>
    if s.cc.hart.resv == some a then (s.rvStore a.toNat n (s.rvGet rs2) true).map fun t => done t 0 else .ok (done s 1)

def State.rvAmo (s : State) (op : RvAmo) (n : Nat) (rd rs1 rs2 : RvReg) : RvResult :=
  let a := s.rvGet rs1
  match s.rvCheck .store a.toNat n true with
  | .error e => .error e
  | .ok _ =>
    match s.rvLoad a.toNat n true with
    | .error .fatal => .error .fatal
    | .error (.trap _ v) => .error (.trap RvAccess.store.fault v)
    | .ok old =>
      let new := if n = 4 then (op.run (old.setWidth 32) ((s.rvGet rs2).setWidth 32)).setWidth 64 else op.run old (s.rvGet rs2)
      match s.rvStore a.toNat n new true with
      | .error e => .error e
      | .ok t => .ok (t.rvPut rd (extendLow n true old))

/-- A CSR instruction: CSRRW does not read for x0, and CSRRS and CSRRC do not write with the operand register or immediate 0. -/
def State.rvCsr (s : State) (op : CsrOp) (imm : Bool) (rd rs1 : RvReg) (n : BitVec 12) (w : W64) : RvResult :=
  let v := if imm then rs1.setWidth 64 else s.rvGet rs1
  match s.csrRead n with
  | none => illegal w
  | some old =>
    if op != .rw && rs1 == 0#5 then .ok (s.rvPut rd old)
    else match s.csrWrite n (csrNew op old v) with
      | none => illegal w
      | some t => .ok (t.rvPut rd old)

/-- A floating-point operation: its rounding mode must exist, and its flags accrue. -/
def State.rvFpOp (s : State) (op : RvFp) (d : Bool) (rm : Nat) (rd rs1 rs2 rs3 : RvReg) (w : W64) : RvResult :=
  let h := s.cc.hart
  let frm := ((h.fcsr >>> 5) &&& 7).toNat
  match if op.rounds then Rm.ofCode (if rm = 7 then frm else rm) else some .rne with
  | none => illegal w
  | some r =>
    let x := h.fget rs1
    match rvFpInt op d r x (h.fget rs2), rvFpResult op d r x (h.fget rs2) (h.fget rs3) (h.get rs1) with
    | some q, _ => .ok (s.withHart ((h.put rd q.1).accrue q.2))
    | none, some q => .ok (s.withHart ((h.fput rd q.1).accrue q.2))
    | none, none => illegal w

/-- The effect of an instruction at address `pc` of bits `w`, the pc standing after it. -/
def State.rvExec (s : State) (i : Rv) (pc w : W64) : RvResult :=
  let h := s.cc.hart
  match i with
  | .lui rd imm => .ok (s.rvPut rd imm)
  | .auipc rd imm => .ok (s.rvPut rd (pc + imm))
  | .jal rd imm => .ok (s.rvJump rd (pc + imm))
  | .jalr rd rs1 imm => .ok (s.rvJump rd (s.rvGet rs1 + imm))
  | .branch kind rs1 rs2 imm =>
    .ok (if branchTaken kind (s.rvGet rs1) (s.rvGet rs2) then s.withHart { h with pc := pc + imm } else s)
  | .load n sgn rd rs1 imm => (s.rvLoad (s.rvGet rs1 + imm).toNat n false).map fun v => s.rvPut rd (extendLow n sgn v)
  | .store n rs1 rs2 imm => s.rvStore (s.rvGet rs1 + imm).toNat n (s.rvGet rs2) false
  | .aluImm op word rd rs1 imm => .ok (s.rvPut rd (op.apply word (s.rvGet rs1) imm))
  | .alu op word rd rs1 rs2 => .ok (s.rvPut rd (op.apply word (s.rvGet rs1) (s.rvGet rs2)))
  | .unary op word rd rs1 => .ok (s.rvPut rd (op.run word (s.rvGet rs1)))
  | .fence => .ok s
  | .lr n rd rs1 => s.rvLr n rd rs1
  | .sc n rd rs1 rs2 => s.rvSc n rd rs1 rs2
  | .amo op n rd rs1 rs2 => s.rvAmo op n rd rs1 rs2
  | .csr op imm rd rs1 n => s.rvCsr op imm rd rs1 n w
  | .ecall => .error (.trap (if h.machineMode then 11 else 8) 0)
  | .ebreak => .error (.trap 3 pc)
  | .mret => if h.machineMode then .ok (s.withHart h.ret) else illegal w
  | .wfi => if h.machineMode || !bit h.mstatus 21 then .ok s else illegal w
  | .fload n rd rs1 imm =>
    if !h.fpOn then illegal w
    else (s.rvLoad (s.rvGet rs1 + imm).toNat n false).map fun v => s.withHart (h.fput rd (if n = 4 then box false v.toNat else v))
  | .fstore n rs1 rs2 imm =>
    if !h.fpOn then illegal w else s.rvStore (s.rvGet rs1 + imm).toNat n (h.fget rs2) false
  | .fp op d rm rd rs1 rs2 rs3 => if !h.fpOn then illegal w else s.rvFpOp op d rm rd rs1 rs2 rs3 w

/-- The words that an instruction reads have their single-bit errors corrected (R336); a store-conditional without its reservation, and a
floating-point access that the hart refuses, read none. -/
def State.rvFix (s : State) (i : Rv) : State :=
  let at_ (rs1 : RvReg) (imm : W64) : Nat := (s.rvGet rs1 + imm).toNat
  match i with
  | .load n _ _ rs1 imm => s.fixData .load (at_ rs1 imm) n false
  | .store n rs1 _ imm => s.fixData .store (at_ rs1 imm) n false
  | .fload n _ rs1 imm => if s.cc.hart.fpOn then s.fixData .load (at_ rs1 imm) n false else s
  | .fstore n rs1 _ imm => if s.cc.hart.fpOn then s.fixData .store (at_ rs1 imm) n false else s
  | .lr n _ rs1 => s.fixData .load (at_ rs1 0) n true
  | .amo _ n _ rs1 _ => match s.rvCheck .store (at_ rs1 0) n true with
    | .ok _ => s.fixData .load (at_ rs1 0) n true
    | .error _ => s
  | .sc n _ rs1 _ => if s.cc.hart.resv == some (s.rvGet rs1) then s.fixData .store (at_ rs1 0) n true else s
  | _ => s

/-! ### One step of the hart -/

/-- The instruction at the pc: its bits, its length, and what it is. -/
def State.rvNext (s : State) : Except RvStop (W64 × Nat × Option Rv) :=
  let pc := s.cc.hart.pc
  match s.rvFetch pc with
  | .error e => .error e
  | .ok lo =>
    if fld lo 0 2 != 3#2 then .ok (lo.setWidth 64, 2, rvDecode16 lo)
    else match s.rvFetch (pc + 2) with
      | .error e => .error e
      | .ok hi => .ok ((hi ++ lo : W32).setWidth 64, 4, rvDecode32 (hi ++ lo))

/-- An instruction that writes minstret sets it; every other one that retires counts. -/
def Rv.setsInstret : Rv → Bool
  | .csr op _ _ rs1 n => n == 0xB02#12 && (op == .rw || rs1 != 0#5)
  | _ => false

/-- Count a retired instruction (R333). -/
def State.retire (s : State) (i : Rv) : State :=
  if i.setsInstret then s else s.withHart { s.cc.hart with minstret := s.cc.hart.minstret + 1 }

/-- How an instruction that does not complete ends (R336, R348): a trap to the firmware's handler, or a control-core fault. -/
def State.rvStop (s : State) : RvStop → State
  | .trap cause tval => s.withHart (s.cc.hart.trap false cause tval)
  | .fatal => s.follow (s.fenceCore Code.ccFault 0x41 noDpi)

/-- Run the instruction at the pc; the words of IMEM and DMEM that it reads are corrected (R336). -/
def State.rvRun (s0 : State) : State :=
  let h := s0.cc.hart
  match s0.rvNext with
  | .error e => (match s0.rvFetch h.pc with
    | .ok _ => s0.fixSpan h.pc.toNat 2
    | .error _ => s0).rvStop e
  | .ok (w, n, i) =>
    let s1 := s0.fixSpan h.pc.toNat n
    let s := match i with | some i => s1.rvFix i | none => s1
    match i with
    | none => s.rvStop (.trap 2 w)
    | some i =>
      match (s.withHart { h with pc := h.pc + BitVec.ofNat 64 n }).rvExec i h.pc w with
      | .ok t => t.retire i
      | .error e => s.rvStop e

/-- A control cycle of the control core (R342, R347): a halt that is asked for comes at this instruction boundary; else an interrupt
is taken or an instruction runs. -/
def State.hartStep (s : State) : State :=
  if s.cc.halted then s
  else if !s.cc.run || s.cc.restart then s.ccHalt
  else match s.rvIrq with
    | some k => s.withHart (s.cc.hart.trap true k 0)
    | none => s.rvRun

end Sys2Proof.Machine
end

