-- ==== Sys2Proof/Machine/Windows.lean ====
section
/-! DEFINITION. The rows that are stores and CSR writes of the running control core (R335, R337, R338, R340 to R343, R346): each acts as the
instruction does, in the mode in which the hart stands, and ends in the exception that the instruction raises (log entry 24). -/

namespace Sys2Proof.Machine

/-- A store of 8 bytes to a device address: its effect, or the access fault (R335). -/
def State.ccStore (s : State) (a : Nat) (v : W64) : State :=
  match s.rvStore a 8 v false with
  | .ok t => t
  | .error e => s.rvStop e

/-- A CSR access that the mode forbids: the illegal-instruction exception. The row carries no instruction, so mtval is a free value. -/
def State.illegalCsr (s : State) : State := s.draw.2.rvStop (.trap 2 s.draw.1)

/-- SF_CSR_WRITE (R337, R338). -/
def execSfCsrWrite (idx : BitVec 6) (op : CsrOp) (value : W64) (s : State) : Host.Outcome State Fault Refusal :=
  .next (s.byCc fun s =>
    if s.cc.hart.sfAllowed then s.queueSf idx (csrNew op (s.sfAtStart idx) value) else s.illegalCsr)

/-- EVPEND_WRITE (R342): a CSR of M mode. -/
def execEvpendWrite (value : W64) (s : State) : Host.Outcome State Fault Refusal :=
  .next (s.byCc fun s => if s.cc.hart.machineMode then s.evpendWrite value else s.illegalCsr)

/-- MTIMECMP_WRITE (R340). -/
def execMtimecmpWrite (value : W64) (s : State) : Host.Outcome State Fault Refusal :=
  .next (s.byCc fun s => s.ccStore 0x203008 value)

/-- WD_LIMIT_WRITE (R340). -/
def execWdLimitWrite (value : W64) (s : State) : Host.Outcome State Fault Refusal :=
  .next (s.byCc fun s => s.ccStore 0x203010 value)

/-- WD_KICK (R340): any value restarts the period. -/
def execWdKick (s : State) : Host.Outcome State Fault Refusal := .next (s.byCc fun s => s.ccStore 0x203018 0)

/-- WATCH_WRITE (R341). -/
def execWatchWrite (slot : Fin 8) (value : W64) (s : State) : Host.Outcome State Fault Refusal :=
  .next (s.byCc fun s => s.ccStore (0x202000 + 8 * slot.1) value)

/-- INJ_CMD_WRITE (R343). -/
def execInjCmdWrite (offset : BitVec 7) (value : W64) (s : State) : Host.Outcome State Fault Refusal :=
  .next (s.byCc fun s => s.ccStore (0x201000 + offset.toNat) value)

/-- INJ_GO (R343): any value submits. -/
def execInjGo (s : State) : Host.Outcome State Fault Refusal := .next (s.byCc fun s => s.ccStore 0x201040 0)

/-- MSG_SEND (R346). -/
def execMsgSend (offset : BitVec 5) (value : W64) (s : State) : Host.Outcome State Fault Refusal :=
  .next (s.byCc fun s => s.ccStore (0x204000 + offset.toNat) value)

end Sys2Proof.Machine
end

