-- ==== Sys2Proof/Machine/Dispatch.lean ====
section
/-! DEFINITION. One arm per command of the table: each calls its meaning. -/

namespace Sys2Proof.Machine

/-- A command's effect on everything but the queue. -/
def exec (i : Instr) (s : State) : Host.Outcome State Fault Refusal :=
  match i with
  | .loop x h b => Sys2Proof.Machine.execLoop x h b s
  | .setEc x h b => Sys2Proof.Machine.execSetEc x h b s
  | .setPd x h b => Sys2Proof.Machine.execSetPd x h b s
  | .barrier x h b => Sys2Proof.Machine.execBarrier x h b s
  | .calLoad x h b => Sys2Proof.Machine.execCalLoad x h b s
  | .regionSet x h b => Sys2Proof.Machine.execRegionSet x h b s
  | .regionSwap x h region => Sys2Proof.Machine.execRegionSwap x h region s
  | .regionAttr x h b => Sys2Proof.Machine.execRegionAttr x h b s
  | .nop x h => Sys2Proof.Machine.execNop x h s
  | .fin x h => Sys2Proof.Machine.execFin x h s
  | .mmOs x h b => Sys2Proof.Machine.execMmOs x h b s
  | .mmSt x h b => Sys2Proof.Machine.execMmSt x h b s
  | .mmEw x h b => Sys2Proof.Machine.execMmEw x h b s
  | .mmDrain x h b => Sys2Proof.Machine.execMmDrain x h b s
  | .maskSet x h b => Sys2Proof.Machine.execMaskSet x h b s
  | .arrayMode x h mode => Sys2Proof.Machine.execArrayMode x h mode s
  | .vxMap x h b => Sys2Proof.Machine.execVxMap x h b s
  | .vxReduce x h b => Sys2Proof.Machine.execVxReduce x h b s
  | .vxAux x h b => Sys2Proof.Machine.execVxAux x h b s
  | .vxProg x h b => Sys2Proof.Machine.execVxProg x h b s
  | .vxTable x h b => Sys2Proof.Machine.execVxTable x h b s
  | .stream x h b => Sys2Proof.Machine.execStream x h b s
  | .transpose x h b => Sys2Proof.Machine.execTranspose x h b s
  | .cuMap x h b => Sys2Proof.Machine.execCuMap x h b s
  | .cuReduce x h b => Sys2Proof.Machine.execCuReduce x h b s
  | .cuProg x h b => Sys2Proof.Machine.execCuProg x h b s
  | .cuTable x h b => Sys2Proof.Machine.execCuTable x h b s
  | .commandFetch t data => Sys2Proof.Machine.execCommandFetch t data s
  | .commandIssue => Sys2Proof.Machine.execCommandIssue s
  | .commandComplete u => Sys2Proof.Machine.execCommandComplete u s
  | .shadowPromote e slot => Sys2Proof.Machine.execShadowPromote e slot s
  | .streamComplete e slot => Sys2Proof.Machine.execStreamComplete e slot s
  | .swapTakesEffect region => Sys2Proof.Machine.execSwapTakesEffect region s
  | .issueTimeout => Sys2Proof.Machine.execIssueTimeout s
  | .arrayReplay n p hit => Sys2Proof.Machine.execArrayReplay n p hit s
  | .vxReplay hit => Sys2Proof.Machine.execVxReplay hit s
  | .cuReplay hit => Sys2Proof.Machine.execCuReplay hit s
  | .selectionPoint => Sys2Proof.Machine.execSelectionPoint s
  | .jobLoad ext => Sys2Proof.Machine.execJobLoad ext s
  | .descriptorRefused => Sys2Proof.Machine.execDescriptorRefused s
  | .jobStop => Sys2Proof.Machine.execJobStop s
  | .jobEnd => Sys2Proof.Machine.execJobEnd s
  | .preemptSave => Sys2Proof.Machine.execPreemptSave s
  | .preemptTimeout => Sys2Proof.Machine.execPreemptTimeout s
  | .doorbell ring value => Sys2Proof.Machine.execDoorbell ring value s
  | .preempt value => Sys2Proof.Machine.execPreempt value s
  | .ringCommit ring value => Sys2Proof.Machine.execRingCommit ring value s
  | .eqCommit value => Sys2Proof.Machine.execEqCommit value s
  | .bgCommit value => Sys2Proof.Machine.execBgCommit value s
  | .fpCommit port value => Sys2Proof.Machine.execFpCommit port value s
  | .routeCommit value => Sys2Proof.Machine.execRouteCommit value s
  | .routeEntHi value => Sys2Proof.Machine.execRouteEntHi value s
  | .obsCommit value => Sys2Proof.Machine.execObsCommit value s
  | .ccCtrl value => Sys2Proof.Machine.execCcCtrl value s
  | .ccMdataRead => Sys2Proof.Machine.execCcMdataRead s
  | .ccMdataWrite value => Sys2Proof.Machine.execCcMdataWrite value s
  | .errlogPop value => Sys2Proof.Machine.execErrlogPop value s
  | .clrLost value => Sys2Proof.Machine.execClrLost value s
  | .clrPrbs port value => Sys2Proof.Machine.execClrPrbs port value s
  | .clrReplay port value => Sys2Proof.Machine.execClrReplay port value s
  | .registerWrite offset value => Sys2Proof.Machine.execRegisterWrite offset value s
  | .sfCsrWrite idx op value => Sys2Proof.Machine.execSfCsrWrite idx op value s
  | .evpendWrite value => Sys2Proof.Machine.execEvpendWrite value s
  | .mtimecmpWrite value => Sys2Proof.Machine.execMtimecmpWrite value s
  | .wdKick => Sys2Proof.Machine.execWdKick s
  | .wdLimitWrite value => Sys2Proof.Machine.execWdLimitWrite value s
  | .watchWrite slot value => Sys2Proof.Machine.execWatchWrite slot value s
  | .mtimeMatch => Sys2Proof.Machine.execMtimeMatch s
  | .watchdogExpiry => Sys2Proof.Machine.execWatchdogExpiry s
  | .injCmdWrite offset value => Sys2Proof.Machine.execInjCmdWrite offset value s
  | .injGo => Sys2Proof.Machine.execInjGo s
  | .injectionPlace => Sys2Proof.Machine.execInjectionPlace s
  | .msgSend offset value => Sys2Proof.Machine.execMsgSend offset value s
  | .controlSlotSend slot => Sys2Proof.Machine.execControlSlotSend slot s
  | .inboundWrite req addr bytes => Sys2Proof.Machine.execInboundWrite req addr bytes s
  | .readReq req addr run => Sys2Proof.Machine.execReadReq req addr run s
  | .readData e slot addr bytes => Sys2Proof.Machine.execReadData e slot addr bytes s
  | .ack e slot windows => Sys2Proof.Machine.execAck e slot windows s
  | .refuse e slot cause chip core => Sys2Proof.Machine.execRefuse e slot cause chip core s
  | .notify req ec inc => Sys2Proof.Machine.execNotify req ec inc s
  | .mcastWrite group chip core seq runs tail => Sys2Proof.Machine.execMcastWrite group chip core seq runs tail s
  | .mreport e slot result chip core => Sys2Proof.Machine.execMreport e slot result chip core s
  | .barrierMessage head ec inc => Sys2Proof.Machine.execBarrierMessage head ec inc s
  | .ctrlMessage payload chip => Sys2Proof.Machine.execCtrlMessage payload chip s
  | .releaseNotice group chip notice => Sys2Proof.Machine.execReleaseNotice group chip notice s
  | .portDownNotice port => Sys2Proof.Machine.execPortDownNotice port s
  | .flitForward slot arrived => Sys2Proof.Machine.execFlitForward slot arrived s
  | .meshReplay second f => Sys2Proof.Machine.execMeshReplay second f s
  | .meshTimeout e slot => Sys2Proof.Machine.execMeshTimeout e slot s
  | .frameReceive port f => Sys2Proof.Machine.execFrameReceive port f s
  | .linkReplay port ackSeq aEpoch => Sys2Proof.Machine.execLinkReplay port ackSeq aEpoch s
  | .transitForward port pos inport inpos u => Sys2Proof.Machine.execTransitForward port pos inport inpos u s
  | .heartbeatTick => Sys2Proof.Machine.execHeartbeatTick s
  | .heartbeatMiss port => Sys2Proof.Machine.execHeartbeatMiss port s
  | .linkTrainingComplete port => Sys2Proof.Machine.execLinkTrainingComplete port s
  | .phyUpFall port => Sys2Proof.Machine.execPhyUpFall port s
  | .fabricTimeout e slot => Sys2Proof.Machine.execFabricTimeout e slot s
  | .keyEpochFlip port => Sys2Proof.Machine.execKeyEpochFlip port s
  | .keyExpired port => Sys2Proof.Machine.execKeyExpired port s
  | .detourOrder n => Sys2Proof.Machine.execDetourOrder n s
  | .detourSwitch => Sys2Proof.Machine.execDetourSwitch s
  | .solsticeRelease sy => Sys2Proof.Machine.execSolsticeRelease sy s
  | .calendarSwap => Sys2Proof.Machine.execCalendarSwap s
  | .calendarLoadComplete => Sys2Proof.Machine.execCalendarLoadComplete s
  | .membershipChange mask peers => Sys2Proof.Machine.execMembershipChange mask peers s
  | .equinoxSample p => Sys2Proof.Machine.execEquinoxSample p s
  | .equinoxTick band toggle => Sys2Proof.Machine.execEquinoxTick band toggle s
  | .stretchChange => Sys2Proof.Machine.execStretchChange s
  | .throttleChange demand => Sys2Proof.Machine.execThrottleChange demand s
  | .islandClampRelease arith control => Sys2Proof.Machine.execIslandClampRelease arith control s
  | .backgroundLevel us => Sys2Proof.Machine.execBackgroundLevel us s
  | .scrub addr found => Sys2Proof.Machine.execScrub addr found s
  | .tileRecordDrain => Sys2Proof.Machine.execTileRecordDrain s
  | .telemetry => Sys2Proof.Machine.execTelemetry s
  | .coreFence code dpi => Sys2Proof.Machine.execCoreFence code dpi s
  | .admissionWithdraw => Sys2Proof.Machine.execAdmissionWithdraw s
  | .mgmtFence => Sys2Proof.Machine.execMgmtFence s
  | .repairRecord record => Sys2Proof.Machine.execRepairRecord record s
  | .repairApply failed => Sys2Proof.Machine.execRepairApply failed s
  | .powerOnReset => Sys2Proof.Machine.execPowerOnReset s
  | .warmReset => Sys2Proof.Machine.execWarmReset s
  | .resetRelease testHold failing => Sys2Proof.Machine.execResetRelease testHold failing s
  | .identity item => Sys2Proof.Machine.execIdentity item s
  | .lifecycle item => Sys2Proof.Machine.execLifecycle item s
  | .gradeItem item => Sys2Proof.Machine.execGradeItem item s
  | .defaultCalendar image => Sys2Proof.Machine.execDefaultCalendar image s
  | .detourPart n image => Sys2Proof.Machine.execDetourPart n image s
  | .linkKey port rx slot key => Sys2Proof.Machine.execLinkKey port rx slot key s
  | .salt port rx value => Sys2Proof.Machine.execSalt port rx value s
  | .memoryBist failing => Sys2Proof.Machine.execMemoryBist failing s
  | .logicBist failing => Sys2Proof.Machine.execLogicBist failing s
  | .knownAnswerTest runs cgMismatch => Sys2Proof.Machine.execKnownAnswerTest runs cgMismatch s
  | .sidebandTimeout => Sys2Proof.Machine.execSidebandTimeout s
  | .ready => Sys2Proof.Machine.execReady s
  | .unlock => Sys2Proof.Machine.execUnlock s
  | .powerRemoval => Sys2Proof.Machine.execPowerRemoval s
  | .clockStop c => Sys2Proof.Machine.execClockStop c s
  | .idcode => Sys2Proof.Machine.execIdcode s
  | .report => Sys2Proof.Machine.execReport s
  | .prbsCount => Sys2Proof.Machine.execPrbsCount s
  | .ijtag scan => Sys2Proof.Machine.execIjtag scan s
  | .bypass => Sys2Proof.Machine.execBypass s
  | .executionStart u => Sys2Proof.Machine.execExecutionStart u s
  | .executionFault u f => Sys2Proof.Machine.execExecutionFault u f s
  | .ccHalt => Sys2Proof.Machine.execCcHalt s

end Sys2Proof.Machine
end

