-- ==== Sys2Proof/Machine/Idle.lean ====
section
/-! DEFINITION. What the passing of a control cycle does when no command waits (log entry 2). -/

namespace Sys2Proof.Machine

/-- One control cycle passes: MTIME counts every twelfth (R340) and the quiet time of R27 grows; the control core runs an instruction
(R332); a telemetry message and a message of the message port leave (R346, R467), and owed release notices are sent (R299). An
unpowered core has no time. -/
def idleCycle (s : State) : State :=
  if !s.powered then s else ((((s.advanceTo (s.cycle + 1)).hartStep).sendTele).passMessage).sendReleases

end Sys2Proof.Machine
end

