-- ==== Sys2Proof/Machine/Read.lean ====
section
/-! DEFINITION. What a read of the setup window answers (R8, R9, R370, R457, R458): response code and data, by the tables of
R390, R396, R412 and R461 to R477. A read changes nothing but for CC_MDATA, whose read is a command of the table (R464); its answer is that command's. -/

namespace Sys2Proof.Machine

/-- The control and status block (R462). -/
def State.ctrlRead (s : State) (o : Nat) : Option W64 :=
  match o with
  | 0x00 => some s.coreStatus
  | 0x08 => some 0
  | 0x10 => some (s.rep.fence.setWidth 64)
  | 0x18 => some s.remapStatus
  | 0x20 => some (regFields [(0, bit01 s.cc.run)])
  | 0x28 => some (regFields [(0, bit01 s.cc.halted)])
  | 0x30 => some s.cc.maddr
  | _ => none

/-- A ring's block (R465). -/
def State.ringRead (s : State) (n : Fin 8) (o : Nat) : Option W64 :=
  let r := s.ringAt n
  match o with
  | 0x00 => some r.baseS
  | 0x08 => some r.cfgS
  | 0x10 => some 0
  | 0x18 => some (groupStatus r.err r.reason)
  | 0x20 => some (r.tail.setWidth 64)
  | 0x28 => some (regFields [(0, r.head.toNat), (32, r.done.toNat)])
  | _ => none

/-- The Equinox block (R390). -/
def State.eqRead (s : State) (o : Nat) : Option W64 :=
  match o with
  | 0x00 => some s.eq.stagedBand
  | 0x08 => some 0
  | 0x10 => some (groupStatus s.eq.err s.eq.reason)
  | 0x18 => some s.eqState
  | 0x20 => some (s.eq.events.setWidth 64)
  | _ => if 0x28 ≤ o && o < 0x48 then
      some (regFields ((List.range 4).map fun m => (16 * m, s.eq.temps.getD (4 * ((o - 0x28) / 8) + m) 0)))
    else none

/-- The background block (R412, R466). -/
def State.bgRead (s : State) (o : Nat) : Option W64 :=
  match o with
  | 0x00 => some s.bg.d0S
  | 0x08 => some s.bg.d1S
  | 0x10 => some s.bg.telemS
  | 0x18 => some 0
  | 0x20 => some (groupStatus s.bg.err s.bg.reason)
  | 0x28 => some s.bgState
  | _ => none

/-- The error log block (R396, R469). -/
def State.errRead (s : State) (o : Nat) : Option W64 :=
  match o with
  | 0x00 => some s.errlogState
  | 0x08 => some (s.errlogHead 0)
  | 0x10 => some (s.errlogHead 1)
  | 0x18 => some (s.errlogHead 2)
  | 0x20 => some (s.errlogHead 3)
  | 0x28 => some (match s.err.log with | e :: _ => e.detail | [] => 0)
  | 0x30 => some 0
  | 0x38 => some s.errlogSeq
  | _ => none

/-- The Slot Calendar block (R471). -/
def State.calRead (s : State) (o : Nat) : Option W64 :=
  match o with
  | 0x00 => some (regFields [(0, s.cal.bank.calId.toNat), (32, s.cal.router.calId.toNat)])
  | 0x08 => some s.calSched
  | 0x10 => some (if s.cal.standby = .valid then calIds s.cal.shown.standbyImg else 0)
  | 0x18 => some (calIds s.cal.deflt)
  | 0x20 => some (regFields (s.cal.detours.toList.zipIdx.map fun p => (p.2, bit01 p.1.isSome)))
  | _ => none

/-- A port's block (R473). The RO fields of an absent port read zero (R458). -/
def State.portRead (s : State) (p : Fin 8) (o : Nat) : Option W64 :=
  let x := s.port p
  let ro (v : W64) : Option W64 := some (if s.id.hasPort p.1 then v else 0)
  match o with
  | 0x000 => some x.staged.ctrl
  | 0x008 => some 0
  | 0x010 => some (groupStatus x.err (if s.id.hasPort p.1 then x.reason else 0))
  | 0x018 => ro x.link
  | 0x020 => ro (x.prbs.setWidth 64)
  | 0x028 => ro (regFields [(0, x.resent.toNat), (32, x.rejected.toNat)])
  | 0x030 => some 0
  | _ => if 0x100 ≤ o && o < 0x178 then some (x.staged.sched.getD ((o - 0x100) / 8) 0) else none

/-- The route window (R475). -/
def State.routeRead (s : State) (o : Nat) : Option W64 :=
  let e := s.fa.staged.get s.fa.idx.toNat
  match o with
  | 0x00 => some (s.fa.idx.setWidth 64)
  | 0x08 => some (fld e 0 64)
  | 0x10 => some (fld e 64 64)
  | 0x18 => some 0
  | 0x20 => some s.routeStatus
  | 0x28 => some s.routeSelNow
  | _ => none

/-- The observation multiplexer (R477). -/
def State.obsRead (s : State) (o : Nat) : Option W64 :=
  if o < 0x80 then some (s.su.obsS.toList.getD (o / 8) 0)
  else
    match o with
    | 0x80 => some 0
    | 0x88 => some (groupStatus s.su.obsErr s.su.obsReason)
    | 0x90 => some (regFields ((List.range 4).map fun m => (16 * m, s.su.obsCount.getD m 0)))
    | 0x98 => some (regFields ((List.range 2).map fun m => (16 * m, s.su.obsCount.getD (4 + m) 0)))
    | _ => none

/-- GRADE: a presence bit of a unit that the build lacks reads 0, and so does every RsvZ bit; VX_LANE_GROUPS is the count of
VX_GROUP_PRESENT (R9, R23). -/
def State.gradeReg (s : State) : W64 :=
  let b := s.id.build
  (s.id.grade &&& BitVec.ofNat 64 (0xFF0000000000 + (2 ^ b.arrays - 1) + 256 * (2 ^ b.vxGroups - 1) + 2 ^ 24 * (2 ^ b.ports - 1)))
    ||| regFields [(32, s.id.laneGroups)]

/-- The register at an offset; none where the window is unmapped (R457). -/
def State.registerAt (s : State) (off : Nat) : Option W64 :=
  if off < 0x28 then
    (match off with
      | 0x00 => some 0x20003
      | 0x08 => some s.capability
      | 0x10 => some s.gradeReg
      | 0x18 => some s.coreId
      | _ => some s.report)
  else if 0x100 ≤ off && off < 0x140 then s.ctrlRead (off - 0x100)
  else if 0x200 ≤ off && off < 0x400 then s.ringRead ⟨(off - 0x200) / 64 % 8, Nat.mod_lt _ (by decide)⟩ (off % 64)
  else if 0x400 ≤ off && off < 0x448 then s.eqRead (off - 0x400)
  else if 0x480 ≤ off && off < 0x4B0 then s.bgRead (off - 0x480)
  else if 0x500 ≤ off && off < 0x540 then s.errRead (off - 0x500)
  else if off = 0x580 then some s.assayState
  else if 0x600 ≤ off && off < 0x628 then s.calRead (off - 0x600)
  else if off = 0x680 then some (regFields [(0, s.id.lifecycle.toNat), (3, bit01 s.bring.unlocked)])
  else if off = 0x688 then some s.keyState
  else if 0x1000 ≤ off && off < 0x2000 then s.portRead ⟨(off - 0x1000) / 512 % 8, Nat.mod_lt _ (by decide)⟩ (off % 512)
  else if 0x2000 ≤ off && off < 0x2030 then s.routeRead (off - 0x2000)
  else if 0x3000 ≤ off && off < 0x30A0 then s.obsRead (off - 0x3000)
  else none

/-- A read at an offset: response code and data (R370, R458). -/
def State.readSetup (s : State) (offset : BitVec 16) : BitVec 3 × W64 :=
  let off := offset.toNat / 8 * 8
  if !s.bring.ready then (1, 0)
  else if s.locked && 0x3000 ≤ off && off < 0x30A0 then (4, 0)
  else if off = 0x138 then (s.ccRead.su.rsp, s.ccRead.su.rdata)
  else match s.registerAt off with
    | some v => (0, v)
    | none => (3, 0)

end Sys2Proof.Machine
end

