-- ==== Sys2Proof/Safety.lean ====
section
/-! DEFINITION. The terms the claims use: what every step keeps (R301, R337, R394, R422), when a program command takes effect
(R26, R39, R43, R45, R55), and what a command leaves unchanged. -/

namespace Sys2Proof.Machine

/-! ### What every step keeps -/

/-- The words of an array's planes and registers are in their canonical form. -/
def Array_.wordsOk (a : Array_) : Bool := a.acc0.wf && a.acc1.wf && a.st0.wf && a.st1.wf

/-- Every memory is in its canonical form: the scratchpad, the control core's two, the arrays and the route table. -/
def State.memoryOk (s : State) : Bool :=
  s.spad.mem.wf && s.cc.imem.wf && s.cc.dmem.wf && s.mx.toList.all Array_.wordsOk && s.fa.route.wf && s.fa.staged.wf

/-- The error log holds at most 64 entries (R394, R395). -/
def State.logOk (s : State) : Bool := s.err.log.length ≤ 64

/-- Bit 63 of SF47 is not stored (R337). -/
def State.sfOk (s : State) : Bool := !(s.iu.sf[47].getLsbD 63)

/-- Register x0 of the control core holds zero (R332). -/
def State.hartOk (s : State) : Bool := s.cc.hart.x[0] == 0#64

/-- Nothing waits, executes or stands in a shadow. -/
def State.allQuiet (s : State) : Bool :=
  s.iu.queued.isEmpty && s.iu.staged.isEmpty && s.iu.exec.isEmpty && s.se.slots.toList.all fun k => k.shadow.isNone

/-- A fenced core runs no job, and nothing waits, executes or stands in a shadow (R398). -/
def State.fenceOk (s : State) : Bool := !s.rep.coreFenced || (s.job.st == .idle && s.allQuiet)

/-- `n` steps from a state, each to a next state. -/
def runsTo : Nat → State → State → Prop
  | 0, s, t => s = t
  | n + 1, s, t => ∃ u, step s = .next u ∧ runsTo n u t

/-! ### When a program command takes effect -/

/-- A program command with its place, its header and its body; none for every other command. -/
def programOf : Instr → Option (Ctx × Header × Op)
  | .loop x h b => some (x, h, .loop b)
  | .setEc x h b => some (x, h, .setEc b)
  | .setPd x h b => some (x, h, .setPd b)
  | .barrier x h b => some (x, h, .barrier b)
  | .calLoad x h b => some (x, h, .calLoad b)
  | .regionSet x h b => some (x, h, .regionSet b)
  | .regionSwap x h b => some (x, h, .regionSwap b)
  | .regionAttr x h b => some (x, h, .regionAttr b)
  | .mmOs x h b => some (x, h, .mmOs b)
  | .mmSt x h b => some (x, h, .mmSt b)
  | .mmEw x h b => some (x, h, .mmEw b)
  | .mmDrain x h b => some (x, h, .mmDrain b)
  | .maskSet x h b => some (x, h, .maskSet b)
  | .arrayMode x h b => some (x, h, .arrayMode b)
  | .vxMap x h b => some (x, h, .vxMap b)
  | .vxReduce x h b => some (x, h, .vxReduce b)
  | .vxAux x h b => some (x, h, .vxAux b)
  | .vxProg x h b => some (x, h, .vxProg b)
  | .vxTable x h b => some (x, h, .vxTable b)
  | .stream x h b => some (x, h, .stream b)
  | .transpose x h b => some (x, h, .transpose b)
  | .cuMap x h b => some (x, h, .cuMap b)
  | .cuReduce x h b => some (x, h, .cuReduce b)
  | .cuProg x h b => some (x, h, .cuProg b)
  | .cuTable x h b => some (x, h, .cuTable b)
  | .nop x h => some (x, h, .nop)
  | .fin x h => some (x, h, .fin)
  | _ => none

/-- The command as its queue holds it. -/
def State.entryOf (s : State) (x : Ctx) (h : Header) (op : Op) : Entry :=
  ⟨x, ⟨h, op⟩, s.auxFor x op, s.settleSwaps.versionRef ⟨h, op⟩, false, (s.task x.task).pos, (s.task x.task).loops, s.cycle⟩

/-- The task may fetch the command, its queue does not hold it yet and a waiting VX_AUX is its own (R26, R193). -/
def State.fetches (s : State) (x : Ctx) (op : Op) : Bool :=
  s.active x.task && s.mayDecode x && !(s.iu.queued.any fun e => e.x.task == x.task && e.x.dpi == x.dpi) &&
  s.auxFor x op == (s.task x.task).aux

/-- The command is fetched and no decode check refuses it (R26, R51, R55, R193). -/
def State.decodes (s : State) (x : Ctx) (h : Header) (op : Op) : Bool :=
  s.fetches x op && (s.settleSwaps.decodeFault { s.entryOf x h op with ref := none }).isNone &&
  (placeFault (s.task x.task) op).isNone

/-- The state with the command decoded into its queue and its version reference taken (R26, R248). -/
def State.placed (s : State) (x : Ctx) (h : Header) (op : Op) : State :=
  ((s.settleSwaps.takeRef (s.entryOf x h op).ref).passDpi x ⟨h, op⟩).enqueue (s.entryOf x h op)

/-- The command decodes into a queue with a free entry, is its head, and no other head that can issue comes before it; its DPI is below
STOP_COUNT and no pre-emption pends (R32, R46, R54, R57, R364). -/
def State.heading (s : State) (x : Ctx) (h : Header) (op : Op) : Bool :=
  s.mayIssue x && s.decodes x h op && !s.queueFull x h && (s.placed x h op).isHead (s.entryOf x h op) &&
  (s.placed x h op).goesFirst (s.entryOf x h op)

/-- It heads its queue, Equinox does not hold it, its waits are met and its predicate, if it names one, has the sense it asks for
(R32, R39, R43, R381). -/
def State.executes (s : State) (x : Ctx) (h : Header) (op : Op) : Bool :=
  s.heading x h op && !(s.placed x h op).holds (s.entryOf x h op) && s.waitsMet h x.iters && s.predicated h

/-- It heads its queue, Equinox does not hold it and the issue rule lets it go (R45, R381, R479). -/
def State.issues (s : State) (x : Ctx) (h : Header) (op : Op) : Bool :=
  s.heading x h op && !(s.placed x h op).holds (s.entryOf x h op) && (s.placed x h op).verdict (s.entryOf x h op) true == .go

/-- The state in which an engine command completes, once the command has left its queue. -/
def State.begun (s : State) (x : Ctx) (h : Header) (op : Op) : State :=
  ((s.placed x h op).unqueue (s.entryOf x h op)).noteArray ((s.placed x h op).unitOf ⟨h, op⟩)

/-- The command with its views resolved and its snapshots taken (R31, R171, R192). -/
def State.issuedOf (s : State) (x : Ctx) (h : Header) (op : Op) : Issued :=
  ((s.placed x h op).unqueue (s.entryOf x h op)).issued (s.entryOf x h op)

/-- The command as it starts to execute (R222). -/
def State.startedOf (s : State) (x : Ctx) (h : Header) (op : Op) : Issued := (s.begun x h op).begin_ (s.issuedOf x h op)

/-- What the command computes. -/
def State.runNow (s : State) (x : Ctx) (h : Header) (op : Op) : Run := (s.begun x h op).runOf (s.startedOf x h op)

/-- An engine command issues and meets no fault at its start, of its data, or of a word it writes in part (R55, R64, R133). -/
def State.finishes (s : State) (x : Ctx) (h : Header) (op : Op) : Bool :=
  s.issues x h op && ((s.begun x h op).startFault (s.issuedOf x h op)).isNone &&
  ((s.begun x h op).dataFault (s.startedOf x h op)).isNone &&
  ((s.begun x h op).spad.narrow (s.runNow x h op).bytes).isEmpty

/-- It does so and sends nothing to a peer, which its completion would wait for (R42, R231). -/
def State.completes (s : State) (x : Ctx) (h : Header) (op : Op) : Bool :=
  s.finishes x h op && (s.runNow x h op).peer.isEmpty

/-! ### What a command leaves unchanged -/

/-- The increment that the signals of a command add to a counter (R28, R41, R42). -/
def bump (h : Header) (i : BitVec 6) : BitVec 16 :=
  (if h.sigA.ec = i then h.sigA.inc.setWidth 16 else 0) + (if h.sigB.ec = i then h.sigB.inc.setWidth 16 else 0)

/-- Predicates and scalar file are the same. -/
def samePdSf (s t : State) : Prop := t.iu.pd = s.iu.pd ∧ t.iu.sf = s.iu.sf

/-- The queues, the units and the state of every other task are the same. -/
def sameQueues (s t : State) (task : Fin 4) : Prop :=
  t.iu.queued = s.iu.queued ∧ t.iu.staged = s.iu.staged ∧ t.iu.exec = s.iu.exec ∧ ∀ u, u ≠ task → t.task u = s.task u

/-- Equinox is the same but for the ballast of partitions between samples (R159, R378) and the forecast (R380, R381). -/
def sameEq (s t : State) : Prop :=
  t.eq = { s.eq with fc := t.eq.fc, fcLvl := t.eq.fcLvl, fcPast := t.eq.fcPast, partBallast := t.eq.partBallast, ended := t.eq.ended }

/-- Everything that no engine command's completion touches: the identity, bring-up, calendars, Solstice, fabric, control core,
rings, log, repair, background, setup and test, and Equinox but for ballast and forecast. -/
def sameSurround (s t : State) : Prop :=
  t.pending = s.pending ∧ t.powered = s.powered ∧ t.cycle = s.cycle ∧ t.freeCtr = s.freeCtr ∧ t.id = s.id ∧ t.bring = s.bring ∧
  t.cal = s.cal ∧ t.sol = s.sol ∧ t.fp = s.fp ∧ t.fa = s.fa ∧ t.cc = s.cc ∧ t.ring = s.ring ∧ sameEq s t ∧ t.err = s.err ∧
  t.rep = s.rep ∧ t.bg = s.bg ∧ t.su = s.su ∧ t.tap = s.tap

/-- The byte that the last write to `a` gives it, or `d` where none of the writes is to `a`. -/
def lastByte (ws : Bytes) (a : Nat) (d : Byte) : Byte := match ws.reverse.find? fun p => p.1 == a with | some p => p.2 | none => d

/-- At most the state of one plane of a partition, that plane's words, and the registers of the partition have changed in an array:
its mode, its masks, the other plane and every other partition are the same. -/
def onlyPlane (a b : Array_) (p : Fin 4) (pl : Bool) : Prop :=
  b.mode = a.mode ∧ b.masks = a.masks ∧ b.plane (!pl) = a.plane (!pl) ∧ (∀ q, q ≠ p → b.part q = a.part q) ∧
  (b.part p).plane (!pl) = (a.part p).plane (!pl)

/-- The registers of a partition and the words of both are the same. -/
def sameRegs (a b : Array_) (p : Fin 4) : Prop := ∀ r, b.st r = a.st r ∧ (b.part p).reg r = (a.part p).reg r

/-- The word that fetch takes for a task (R26): from the fetch buffer, from the core's own scratchpad, else the word that other memory
gives; none where the read is refused. -/
def State.takes (s : State) (t : Fin 4) (data : Fetched) : Option CmdWord :=
  let k := s.task t
  let a := addrOff k.prog + 64 * k.pos
  match k.buffer.find? fun p => p.1 == k.pos with
  | some p => some p.2
  | none =>
    if !s.ownAddr k.prog then (match data with | .word w => some w | .refused _ => none)
    else if s.spadBytes < a + 64 || !(s.spad.badIn a 64).isEmpty then none
    else some (BitVec.ofNat 512 (leNat (s.bytes a 64)))

/-- The fetch position of a task has passed a LOOP and its body, and has left or replayed each enclosing body whose end that reaches
(R50). -/
def passesBody (s t : State) (x : Ctx) (b : LoopBody) : Prop :=
  let k := ({ s.task x.task with pos := (s.task x.task).pos + 1 + b.bodyLen.toNat } : Task).wrap 5
  (t.task x.task).loops = k.loops ∧ (t.task x.task).pos = k.pos

/-- An engine command has completed: exactly the bytes it computes are written, its signals have landed, and the queues and the
other tasks are as they were (R42). -/
def landed (s t : State) (x : Ctx) (h : Header) (op : Op) : Prop :=
  (∀ a, t.byte a = lastByte (s.runNow x h op).bytes a (s.byte a)) ∧ (∀ i, t.ec i = s.ec i + bump h i) ∧ sameQueues s t x.task

/-- The Almanac entries are the same; only tensor records, tile records and the finite state may differ. -/
def sameEntries (s t : State) : Prop := (t.alm.entries.map fun e => (e.1, e.2.1)) = s.alm.entries.map fun e => (e.1, e.2.1)

/-- What was sent is `l`, then at most forecasts (R380). -/
def sentBefore (s t : State) (l : List Msg) : Prop := ∃ ls : List Nat, t.out = s.out ++ l ++ ls.map Msg.forecast

/-- Nothing was sent but forecasts (R380). -/
def onlyForecasts (s t : State) : Prop := sentBefore s t []

/-- The two states are the same but for ballast, the forecast and the messages that tell of it (R378, R380). -/
def upToPower (s t : State) : Prop := onlyForecasts s t ∧ sameEq s t ∧ (t.withEq s.eq).withOut s.out = s

/-- An event with this code is in the log, unless the log was full (R395). -/
def logged (s t : State) (code : Code) : Prop := s.err.log.length < 64 → ∃ e ∈ t.err.log, e.code = code

/-- An event with this code is in the log, unless the log is full: a fault that followed may have displaced it (R395). -/
def noted (t : State) (code : Code) : Prop := t.err.log.length < 64 → ∃ e ∈ t.err.log, e.code = code

/-- A fault at this DPI can abort the task: it runs and the DPI is not at or above its STOP_COUNT (R57). -/
def State.abortable (s : State) (u : Fin 4) (dpi : W64) : Bool :=
  s.running u && ((s.task u).stopCount == 0#64 || dpi == noDpi || dpi < (s.task u).stopCount)

/-- The task has aborted with this fault, and nothing of it waits or runs (R56). -/
def aborted (t : State) (u : Fin 4) (code : Code) (dpi : W64) : Prop :=
  (t.task u).st = .ended 1 ∧ (t.task u).fault = some (code, dpi) ∧ (∀ e ∈ t.iu.queued, e.x.task ≠ u) ∧
  ∀ q ∈ t.iu.staged ++ t.iu.exec, q.2.e.x.task ≠ u

/-- The control core has taken an exception and no more: the pc, the mode and the interrupt enable are saved, and its handler runs in M mode
(R332, R348). -/
def tookTrap (s t : State) (cause : Nat) : Prop :=
  let h := s.cc.hart
  let g := t.cc.hart
  g.mepc = h.pc ∧ g.mcause = BitVec.ofNat 64 cause ∧ g.machineMode = true ∧ g.pc = h.mtvec &&& ~~~3#64 ∧
  bit g.mstatus 7 = bit h.mstatus 3 ∧ bit g.mstatus 3 = false ∧ (fld g.mstatus 11 2 : BitVec 2) = (if h.machineMode then 3#2 else 0#2) ∧
  g.x = h.x ∧ g.f = h.f ∧ t.cc = { s.cc with hart := g } ∧ (t.withCc s.cc).withFreeCtr s.freeCtr = s

/-- The protection of R335 lets the control core store 8 bytes at an address. -/
def State.mayStore (s : State) (a : Nat) : Bool := s.cc.hart.pmpOk s.cc.hart.dataMachine .store a 8

/-- Only the setup port's response differs from `u`: code and data are answered (R370). -/
def answers (u : State) (code : BitVec 3) (data : W64) : Host.Outcome State Fault Refusal := .next (u.respond code data)

end Sys2Proof.Machine
end

