-- ==== Sys2Proof/Certificates/Slice0/Obligations.lean ====
section
/-! DEFINITION. The statements for the provers. Each docstring names the rules of spec/ that its statement follows. The terms
(`executes`, `completes`, `bump` and the frames) are those of Safety.lean. -/

section
open Sys2Proof Sys2Proof.Machine

/-! ### The queue and whole-machine rules -/

/-- One step takes the command at the front of the queue and runs it with the queue's rest. -/
def Obligations.StepRunsFront : Prop :=
  ∀ (s : State) (c : Instr) (rest : List Instr), s.pending = c :: rest → step s = exec c (s.withPending rest)

/-- On an empty queue one control cycle passes on a powered core; an unpowered core has no time (log entry 2, the model's choice). MTIME
counts every twelfth cycle (R340). In it a control core that is halted runs nothing; one that runs takes an enabled interrupt, MTIP first,
in M mode only with MIE set (R342), or runs the instruction at its pc (log entry 108, the model's choice): ECALL and an illegal instruction
trap to the handler at mtvec with the pc, the cause and the status saved (R348, R332), MRET returns to mepc in the mode of MPP, and a
computation writes its result to its register and no other, and the pc goes on past it. What mtval holds (the word of an illegal instruction,
0 for ECALL and an interrupt) and that MPP holds the former mode are log entry 107, presumed. The loads, stores, branches, CSR accesses and
floating-point instructions of the control core, and those with an immediate, are left out. -/
def Obligations.StepIdles : Prop :=
  (∀ s : State, s.pending = [] → ∃ t, step s = .next t ∧ t.pending = [] ∧
    (s.powered = true → t.cycle = s.cycle + 1 ∧ t.mtime = BitVec.ofNat 64 ((s.cycle + 1) / 12)) ∧
    (s.powered = true → s.cc.halted = true → t.cc.hart = s.cc.hart ∧ t.cc.imem = s.cc.imem ∧ t.cc.dmem = s.cc.dmem) ∧
    (s.powered = false → t = s)) ∧
  ∀ s : State, s.pending = [] → s.powered = true → s.cc.halted = false → s.cc.run = true → s.cc.restart = false →
    (let u := s.advanceTo (s.cycle + 1)
     let h := s.cc.hart
     let base := h.mtvec &&& ~~~3#64
     let saved (t : State) : Prop := t.cc.hart.mepc = h.pc ∧ t.cc.hart.machineMode = true ∧ bit t.cc.hart.mstatus 7 = bit h.mstatus 3 ∧
       bit t.cc.hart.mstatus 3 = false ∧ (fld t.cc.hart.mstatus 11 2 : BitVec 2) = (if h.machineMode then 3#2 else 0#2) ∧
       t.cc.hart.x = h.x ∧ t.cc.hart.f = h.f ∧ t.cc.hart.mie = h.mie ∧ t.cc.hart.mtvec = h.mtvec
     ∃ t, step s = .next t ∧
      (h.machineMode = true → bit h.mstatus 3 = false → u.rvIrq = none) ∧
      (h.machineMode = false ∨ bit h.mstatus 3 = true → bit (u.mip &&& h.mie) 7 = true → u.rvIrq = some 7) ∧
      (∀ k, u.rvIrq = some k → bit (u.mip &&& h.mie) k = true ∧ saved t ∧ t.cc.hart.mtval = 0 ∧
        t.cc.hart.mcause = (1#64 <<< 63) ||| BitVec.ofNat 64 k ∧
        t.cc.hart.pc = (if bit h.mtvec 0 then base + BitVec.ofNat 64 (4 * k) else base)) ∧
      (∀ w n, u.rvIrq = none → u.rvNext = .ok (w, n, some .ecall) → saved t ∧ t.cc.hart.pc = base ∧
        t.cc.hart.mcause = (if h.machineMode then 11 else 8) ∧ t.cc.hart.mtval = 0) ∧
      (∀ w n, u.rvIrq = none → u.rvNext = .ok (w, n, none) → saved t ∧ t.cc.hart.pc = base ∧ t.cc.hart.mcause = 2 ∧
        t.cc.hart.mtval = w) ∧
      (∀ w n, u.rvIrq = none → u.rvNext = .ok (w, n, some .mret) → h.machineMode = true →
        t.cc.hart.pc = h.mepc ∧ (t.cc.hart.machineMode = true ↔ (fld h.mstatus 11 2 : BitVec 2) = 3#2) ∧
        bit t.cc.hart.mstatus 3 = bit h.mstatus 7 ∧ t.cc.hart.x = h.x) ∧
      (∀ w n op word rd rs1 rs2, u.rvIrq = none → u.rvNext = .ok (w, n, some (.alu op word rd rs1 rs2)) →
        t.cc.hart.pc = h.pc + BitVec.ofNat 64 n ∧
        (∀ r : RvReg, t.cc.hart.get r = if r = rd ∧ rd ≠ 0#5 then op.apply word (h.get rs1) (h.get rs2) else h.get r) ∧
        t.cc.hart.f = h.f ∧ t.cc.hart.mstatus = h.mstatus ∧ t.cc.hart.machineMode = h.machineMode ∧
        t.cc.imem = s.cc.imem ∧ t.cc.dmem = s.cc.dmem))

/-- No command stops the block: each answers a next state, whatever the state, and its effect is on everything but the queue of
commands. -/
def Obligations.ExecAnswersNext : Prop := ∀ (c : Instr) (s : State), ∃ t, exec c s = .next t ∧ t.pending = s.pending

/-- The state while a reset is held before bring-up: every store zero, every entry of the region table invalid, EQ_BAND,
BG_DEADLINE and MTIMECMP at their reset values, the control core halted, no job, READY low, phase 0 (R67, R340, R390, R412, R422,
R426, R466); and what every step keeps holds of it. -/
def Obligations.ResetState : Prop :=
  State.reset.pending = [] ∧ State.reset.memoryOk = true ∧ State.reset.logOk = true ∧ State.reset.sfOk = true ∧
  State.reset.hartOk = true ∧ State.reset.fenceOk = true ∧
  (∀ a, State.reset.byte a = 0) ∧ (∀ r, State.reset.region r = Region.empty) ∧ (∀ i, State.reset.ec i = 0) ∧
  (∀ i, State.reset.pd i = false) ∧ (∀ i, i ≠ 47#6 → State.reset.sf i = 0) ∧
  (∀ n p, (State.reset.array n).part p = Part.empty) ∧ State.reset.vx = VecState.empty ∧ State.reset.cu = VecState.empty ∧
  State.reset.eq.band = 0x00006C039628E628#64 ∧ State.reset.bg.d0 = 0x0000006400030D40#64 ∧
  State.reset.bg.d1 = 0x00002710000003E8#64 ∧ State.reset.cc.mtimecmp = BitVec.allOnes 64 ∧ State.reset.cc.halted = true ∧
  State.reset.cc.run = false ∧ State.reset.job.st = .idle ∧ State.reset.bring.ready = false ∧ State.reset.bring.phase = 0 ∧
  (∀ n, (State.reset.ringAt n).tail = 0 ∧ (State.reset.ringAt n).head = 0 ∧ (State.reset.ringAt n).done = 0) ∧
  State.reset.err.log = [] ∧ State.reset.rep.fence = 0

/-- Every step keeps the scratchpad, the control core's memories, the words of the arrays and the route table in their canonical form:
indices strictly rising and no entry equal to zero, which an unlisted byte or word reads as. -/
def Obligations.MemoryStaysCanonical : Prop :=
  ∀ s t : State, s.memoryOk = true → step s = .next t → t.memoryOk = true

/-- Every step keeps the error log at 64 entries at most (R394, R395), never stores bit 63 of SF47 (R337), and leaves register x0 of
the control core at zero (R332). -/
def Obligations.BoundsStay : Prop :=
  ∀ s t : State, s.logOk = true → s.sfOk = true → s.hartOk = true → step s = .next t →
    t.logOk = true ∧ t.sfOk = true ∧ t.hartOk = true

/-- Every step keeps this: a fenced core runs no job, and nothing waits in a queue, a staging slot or a shadow, or executes (R284, R398).
It leaves the fence only through a reset (R399) or with its power (R389): no other command clears it or starts a transfer, so that no
command issues, starts an engine or enters a slot. -/
def Obligations.FenceLasts : Prop :=
  (∀ s t : State, s.fenceOk = true → step s = .next t → t.fenceOk = true) ∧
  (∀ (c : Instr) (s t : State), s.rep.coreFenced = true → s.fenceOk = true → exec c s = .next t →
    c ≠ .powerOnReset → c ≠ .warmReset → c ≠ .unlock → c ≠ .powerRemoval →
    t.rep.coreFenced = true ∧ t.job.st = .idle ∧ t.allQuiet = true ∧
    ∀ e k, (t.slot e k).run.isSome = true → (s.slot e k).run.isSome = true) ∧
  ∀ s t : State, s.rep.coreFenced = true → s.fenceOk = true → s.pending = [] → step s = .next t →
    t.rep.coreFenced = true ∧ t.job.st = .idle ∧ t.allQuiet = true ∧ t.se = s.se

/-! ### CTL commands -/

/-- SET_EC: its body's fields, every other bit zero; at issue it writes VALUE, or adds it modulo 2^16; its signals land; nothing
else of the state changes but its task's fetch state and the forecast (R36, with R41 and R42 for the counters it does not name, and R380). -/
def Obligations.SetEc : Prop :=
  (∀ (w : CmdWord) (c : Cmd) (b : SetEcBody), parseCmd w = .ok c → c.op = .setEc b →
    b.ec = fld w 128 6 ∧ b.mode = bit w 134 ∧ bit w 135 = false ∧ b.value = fld w 136 16 ∧ fld w 152 360 = 0#360) ∧
  ∀ (s : State) (x : Ctx) (h : Header) (b : SetEcBody), s.executes x h (.setEc b) = true →
    ∃ t, exec (.setEc x h b) s = .next t ∧
      (∀ i, t.ec i = (if i = b.ec then (if b.mode then s.ec i + b.value else b.value) else s.ec i) + bump h i) ∧
      samePdSf s t ∧ sameQueues s t x.task ∧ upToPower s.settleSwaps (t.withIu s.iu)

/-- SET_PD writes one predicate at issue: the immediate, a bit of the scalar file, or a counter's comparison with its threshold
(R37, R39). One that is an arrival sample does the same outside replay mode, and appends one record of KIND 2 with the task, the value
and the DPI to the log of a job that keeps one; in replay mode it writes the value that the log gives for its task and DPI (R265, R359).
Nothing else changes but its task's fetch state, the counters its signals name and the forecast (R380). -/
def Obligations.SetPd : Prop :=
  (∀ (s : State) (x : Ctx) (h : Header) (b : SetPdBody), s.executes x h (.setPd b) = true →
    (isSample s b = true → s.job.replays = false ∧ (s.job.logs = true → s.job.logPos + 16 ≤ s.job.logLen)) →
    ∃ t, exec (.setPd x h b) s = .next t ∧
      t.pd b.pd = (if b.src = 0#2 then b.imm
        else if b.src = 1#2 then (s.sf b.sfIdx).getLsbD b.sfBit.toNat
        else cmpHolds b.cmp (s.ec b.ecIdx) b.thr) ∧
      (∀ i, i ≠ b.pd → t.pd i = s.pd i) ∧ (∀ i, t.ec i = s.ec i + bump h i) ∧ t.iu.sf = s.iu.sf ∧
      sameQueues s t x.task ∧ upToPower (s.settleSwaps.withJob t.job) (t.withIu s.iu) ∧
      t.job = (if isSample s b then (s.job.append 2 x.task.1 (if t.pd b.pd then 1 else 0) x.dpi []).1 else s.job) ∧
      t.job.logPos = s.job.logPos + (if isSample s b && s.job.logs then 16 else 0)) ∧
  ∀ (s : State) (x : Ctx) (h : Header) (b : SetPdBody) (v : Bool) (j : Job), s.executes x h (.setPd b) = true →
    isSample s b = true → s.job.replays = true → s.job.loggedSample x.task x.dpi = some (v, j) →
    (b.src = 2#2 → v = true → cmpHolds b.cmp (s.ec b.ecIdx) b.thr = true) →
    ∃ t, exec (.setPd x h b) s = .next t ∧ t.pd b.pd = v ∧ (∀ i, i ≠ b.pd → t.pd i = s.pd i) ∧
      (∀ i, t.ec i = s.ec i + bump h i) ∧ t.iu.sf = s.iu.sf ∧ sameQueues s t x.task ∧
      upToPower (s.settleSwaps.withJob j) (t.withIu s.iu)

/-- LOOP enters its body COUNT times, or passes it when COUNT is 0; the count is the immediate, or bits [31:0] of a scalar-file
entry whose upper half is zero (R48 to R50). The task's DPI moves past the LOOP. END stops the task's fetch and ends it DONE once
nothing else of the task waits or runs (R38). -/
def Obligations.LoopAndEnd : Prop :=
  (∀ (s : State) (x : Ctx) (h : Header) (b : LoopBody), s.executes x h (.loop b) = true → loopFault s b = none →
    ∃ t, exec (.loop x h b) s = .next t ∧
      (0 < loopCount s b → (t.task x.task).loops =
        (s.task x.task).loops ++ [⟨(s.task x.task).pos + 1, b.bodyLen.toNat, loopCount s b, 0⟩] ∧
        (t.task x.task).pos = (s.task x.task).pos + 1) ∧
      (loopCount s b = 0 → passesBody s t x b) ∧
      ((s.task x.task).dpi = x.dpi → (t.task x.task).dpi = x.dpi + 1) ∧
      (∀ i, t.ec i = s.ec i) ∧ samePdSf s t ∧ sameQueues s t x.task ∧ upToPower s.settleSwaps (t.withIu s.iu)) ∧
  ∀ (s : State) (x : Ctx) (h : Header), s.executes x h .fin = true → endReady s x = true →
    ∃ t, exec (.fin x h) s = .next t ∧ (t.task x.task).st = .ended 0 ∧ (t.task x.task).fetchEnded = true ∧
      (∀ i, t.ec i = s.ec i) ∧ samePdSf s t ∧ sameQueues s t x.task ∧ upToPower s.settleSwaps (t.withIu s.iu)

/-- NOP does nothing but its signals (R35). MASK_SET writes the two masks of its own MX queue and no other (R171). ARRAY_MODE sets
the mode of a quiet array, whose planes and registers become EMPTY and whose masks become all ones (R149, R171, R172). Nothing else changes
but the task's fetch state, ballast and the forecast (R378, R380). -/
def Obligations.NopMaskMode : Prop :=
  (∀ (s : State) (x : Ctx) (h : Header), s.executes x h .nop = true → s.partBad h = false →
    ∃ t, exec (.nop x h) s = .next t ∧ (∀ i, t.ec i = s.ec i + bump h i) ∧ samePdSf s t ∧ sameQueues s t x.task ∧
      upToPower s.settleSwaps (t.withIu s.iu)) ∧
  (∀ (s : State) (x : Ctx) (h : Header) (b : MaskSetBody), s.executes x h (.maskSet b) = true →
    s.partBad h = false →
    ∃ t, exec (.maskSet x h b) s = .next t ∧
      (t.array (mxArray h)).maskOf (isBack h) (mxPart h) = ⟨b.row, b.block⟩ ∧
      (∀ n back p, ¬ (n = mxArray h ∧ back = isBack h ∧ p = mxPart h) →
        (t.array n).maskOf back p = (s.array n).maskOf back p) ∧
      (∀ n, (t.array n).parts = (s.array n).parts ∧ (t.array n).acc0 = (s.array n).acc0 ∧
        (t.array n).acc1 = (s.array n).acc1 ∧ (t.array n).st0 = (s.array n).st0 ∧ (t.array n).st1 = (s.array n).st1 ∧
        (t.array n).mode = (s.array n).mode) ∧
      (∀ i, t.ec i = s.ec i + bump h i) ∧ samePdSf s t ∧ sameQueues s t x.task ∧
      upToPower s.settleSwaps ((t.withIu s.iu).withMx s.mx)) ∧
  ∀ (s : State) (x : Ctx) (h : Header) (mode : BitVec 2), s.executes x h (.arrayMode mode) = true →
    (s.placed x h (.arrayMode mode)).arrayQuiet (s.entryOf x h (.arrayMode mode)) = true →
    ∃ t, exec (.arrayMode x h mode) s = .next t ∧ t.array (mxArray h) = Array_.empty mode ∧
      (∀ n, n ≠ mxArray h → t.array n = s.array n) ∧ (∀ i, t.ec i = s.ec i + bump h i) ∧ samePdSf s t ∧
      sameQueues s t x.task ∧ upToPower s.settleSwaps ((t.withIu s.iu).withMx s.mx)

/-- BARRIER adds an arrival behind those that wait, two at most, presents it on SY_OUT when none waits before it, and with
CAL_SWAP stops new admissions (R300, R301, R303). CAL_LOAD makes STANDBY LOADING from its source (R291). -/
def Obligations.BarrierAndLoad : Prop :=
  (∀ (s : State) (x : Ctx) (h : Header) (b : BarrierBody), s.executes x h (.barrier b) = true → barrierFault s b = none →
    barrierReady s b = true →
    ∃ t a, exec (.barrier x h b) s = .next t ∧ t.sol.out = s.sol.out ++ [a] ∧ a.task = x.task ∧ a.dpi = x.dpi ∧
      a.members = b.members ∧ a.relEc = b.relEc ∧ a.relInc = b.relInc ∧ a.calSwap = b.calSwap ∧
      a.parity = (s.sol.sent % 2 == 1) ∧ t.sol.sent = s.sol.sent + 1 ∧ t.sol.out.length ≤ 2 ∧
      t.cal = s.cal ∧ (b.calSwap = true → t.swapPends = true) ∧
      sentBefore s t (if s.sol.out.isEmpty then [.arrival a.members a.calSwap a.parity a.sched] else []) ∧
      (∀ i, t.ec i = s.ec i + bump h i) ∧ samePdSf s t ∧ sameQueues s t x.task ∧ t.spad = s.spad) ∧
  ∀ (s : State) (x : Ctx) (h : Header) (b : CalLoadBody), s.executes x h (.calLoad b) = true →
    calLoadFault s.settleSwaps b = none → calLoadReady s = true →
    ∃ t, exec (.calLoad x h b) s = .next t ∧ t.cal.standby = .loading ∧ t.cal.standbyImg = none ∧
      t.cal.router = s.cal.router ∧ t.cal.bank = s.cal.bank ∧
      (t.cal.loading.map fun l => (l.task, l.dpi, l.addr)) = some (x.task, x.dpi,
        (s.settleSwaps.region b.region).halfBase ((s.settleSwaps.region b.region).physical b.half) + 64 * b.offset.toNat) ∧
      (∀ i, t.ec i = s.ec i + bump h i) ∧ samePdSf s t ∧ sameQueues s t x.task ∧ t.spad = s.spad

/-- REGION_SET replaces one entry of the region table by a well-formed one, in the layout of R66, once nothing uses the region
(R67, R69). REGION_ATTR sets or clears FROZEN and BACKGROUND and clears poison bits of its own region only (R71). No other region
and no byte of the scratchpad changes. -/
def Obligations.RegionSetAttr : Prop :=
  (∀ (s : State) (x : Ctx) (h : Header) (b : RegionSetBody), s.executes x h (.regionSet b) = true →
    regionSetFault s.settleSwaps b = none → regionSetReady s.settleSwaps b = true →
    ∃ t, exec (.regionSet x h b) s = .next t ∧ t.region b.region = Region.ofBits b.entry ∧
      (∀ r, r ≠ b.region → t.region r = s.settleSwaps.region r) ∧ t.spad = s.spad ∧
      (∀ i, t.ec i = s.ec i + bump h i) ∧ samePdSf s t ∧ sameQueues s t x.task) ∧
  ∀ (s : State) (x : Ctx) (h : Header) (b : RegionAttrBody), s.executes x h (.regionAttr b) = true →
    (s.settleSwaps.region b.region).valid = true → regionAttrReady s.settleSwaps b = true →
    ∃ t, exec (.regionAttr x h b) s = .next t ∧
      (t.region b.region).frozen = (((s.settleSwaps.region b.region).frozen || b.setFrozen) && !b.clrFrozen) ∧
      (t.region b.region).background = (((s.settleSwaps.region b.region).background || b.setBg) && !b.clrBg) ∧
      (∀ half, (t.region b.region).poisoned half =
        ((s.settleSwaps.region b.region).poisoned half &&
          !(b.clrPoisonCur && half == (s.settleSwaps.region b.region).physical false) &&
          !(b.clrPoisonNext && half == (s.settleSwaps.region b.region).physical true))) ∧
      (t.region b.region).base = (s.settleSwaps.region b.region).base ∧
      (t.region b.region).size = (s.settleSwaps.region b.region).size ∧
      (t.region b.region).curIsB = (s.settleSwaps.region b.region).curIsB ∧
      (∀ r, r ≠ b.region → t.region r = s.settleSwaps.region r) ∧ t.spad = s.spad ∧
      (∀ i, t.ec i = s.ec i + bump h i) ∧ samePdSf s t ∧ sameQueues s t x.task

/-- REGION_SWAP on a split region that is not frozen: CUR and NEXT change places and VBIT flips at once when the retiring half
holds no reference; otherwise SWAP_PENDING is set and SWAP_TAKES_EFFECT does so once none is held (R70, R250). -/
def Obligations.RegionSwap : Prop :=
  (∀ (s : State) (x : Ctx) (h : Header) (r : BitVec 6), s.executes x h (.regionSwap r) = true →
    (s.settleSwaps.region r).split = true → (s.settleSwaps.region r).frozen = false →
    (s.settleSwaps.region r).swapPending = false →
    ∃ t, exec (.regionSwap x h r) s = .next t ∧
      ((s.settleSwaps.region r).refs ((s.settleSwaps.region r).curIsB) = 0 →
        (t.region r).curIsB = !(s.settleSwaps.region r).curIsB ∧ (t.region r).vbit = !(s.settleSwaps.region r).vbit ∧
        (t.region r).swapPending = false) ∧
      ((s.settleSwaps.region r).refs ((s.settleSwaps.region r).curIsB) ≠ 0 →
        t.region r = { s.settleSwaps.region r with swapPending := true }) ∧
      (∀ q, q ≠ r → t.region q = s.settleSwaps.region q) ∧ t.spad = s.spad ∧
      (∀ i, t.ec i = s.ec i + bump h i) ∧ samePdSf s t ∧ sameQueues s t x.task) ∧
  ∀ (s : State) (k : Fin 64), (s.region (BitVec.ofNat 6 k)).swapPending = true →
    (s.region (BitVec.ofNat 6 k)).refs ((s.region (BitVec.ofNat 6 k)).physical false) = 0 →
    ∃ t, exec (.swapTakesEffect k) s = .next t ∧
      t.region (BitVec.ofNat 6 k) = { s.region (BitVec.ofNat 6 k) with
        curIsB := !(s.region (BitVec.ofNat 6 k)).curIsB, vbit := !(s.region (BitVec.ofNat 6 k)).vbit, swapPending := false } ∧
      t.withRg s.rg = s ∧ ∀ r, r ≠ BitVec.ofNat 6 k → t.region r = s.region r

/-- A command whose predicate has the other sense is skipped when its waits are met: it completes in its issue cycle, does no work
and undergoes no check at issue; with SILENT = 0 its signals land, with SILENT = 1 none does (R43). A LOOP that is skipped passes
its body (R50). -/
def Obligations.SkippedCommand : Prop :=
  ∀ (c : Instr) (s : State) (x : Ctx) (h : Header) (op : Op), programOf c = some (x, h, op) → s.heading x h op = true →
    s.waitsMet h x.iters = true → h.pen = true → s.pd h.psel ≠ h.psense →
    ∃ t, exec c s = .next t ∧ (∀ i, t.ec i = s.ec i + (if h.silent then 0 else bump h i)) ∧ samePdSf s t ∧
      sameQueues s t x.task ∧ (∀ b, op = .loop b → passesBody s t x b) ∧
      upToPower s.settleSwaps (t.withIu s.iu)

/-- A program command that a decode check refuses, that of its place in a body included (R51, R193), aborts its task with that check's
code and the DPI that it reports: the task ends, the fault is reported and logged, and the command does nothing, its signals included
(R42, R55, R56). -/
def Obligations.DecodeFaultAborts : Prop :=
  ∀ (c : Instr) (s : State) (x : Ctx) (h : Header) (op : Op) (f : Code × W64), programOf c = some (x, h, op) →
    s.fetches x op = true →
    (let d := s.settleSwaps.decodeFault { s.entryOf x h op with ref := none }
     d = some f ∨ (d = none ∧ placeFault (s.task x.task) op = some f.1 ∧ f.2 = x.dpi)) →
    s.abortable x.task f.2 = true →
    ∃ t, exec c s = .next t ∧ aborted t x.task f.1 f.2 ∧ logged s t f.1 ∧ (∀ i, t.ec i = s.ec i) ∧ samePdSf s t ∧
      (∀ u, u ≠ x.task → t.task u = s.task u)

/-! ### Matrix commands -/

/-- MM_OS with END = HOLD: each enabled element of the M × N extent becomes the chain of K steps in ascending order, from +0 or from
its own word (R135, R166), the rest of the partition is +0 or unchanged as START says, and the plane is HELD by the command's
queue (R133). Whatever its END, the command writes the bytes that its drain computes, and its signals land. -/
def Obligations.MmOs : Prop :=
  ∀ (s : State) (x : Ctx) (h : Header) (b : MxBody), s.completes x h (.mmOs b) = true → s.memoryOk = true →
    ∃ t, exec (.mmOs x h b) s = .next t ∧ landed s t x h (.mmOs b) ∧ samePdSf s t ∧ sameSurround s t ∧ t.vx = s.vx ∧ t.cu = s.cu ∧
      sameEntries s t ∧ (∀ n, n ≠ mxArray h → t.array n = s.array n) ∧ (mxNonEmpty b = false → t.mx = s.mx) ∧
      (mxNonEmpty b = true → b.p.hold = true →
        onlyPlane (s.array (mxArray h)) (t.array (mxArray h)) (mxPart h) b.p.plane ∧
        sameRegs (s.array (mxArray h)) (t.array (mxArray h)) (mxPart h) ∧
        ((t.array (mxArray h)).part (mxPart h)).plane b.p.plane = .held (isBack h) ∧
        ∃ va vb, viewAt (s.issuedOf x h (.mmOs b)).views 0 = some va ∧ viewAt (s.issuedOf x h (.mmOs b)).views 1 = some vb ∧
          ∀ k, Store.get ((t.array (mxArray h)).plane b.p.plane) k =
            (let g := geom (s.array (mxArray h)).mode (mxPart h).1
             let old := Store.get ((s.array (mxArray h)).plane b.p.plane) k
             let start := if b.p.start || !g.has k then old else 0#40
             let r := k / 256 - g.row0
             let c := k % 256 - g.col0
             if g.has k && r < b.p.m.toNat && c < b.p.n.toNat && enabled (s.issuedOf x h (.mmOs b)).masks b.p r c then
               toF40 (osChain va.format vb.format (fun j => s.elem va j r) (fun j => s.elem vb j c) b.p.k.toNat (ofF40 start))
             else start))

/-- MM_EW with END = HOLD replaces each enabled word of the extent by OP of it and its operand, a scalar, a row, a column or a
matrix, and changes no other word of the plane (R146, R169). -/
def Obligations.MmEw : Prop :=
  ∀ (s : State) (x : Ctx) (h : Header) (b : MxBody), s.completes x h (.mmEw b) = true → s.memoryOk = true →
    ∃ t, exec (.mmEw x h b) s = .next t ∧ landed s t x h (.mmEw b) ∧ samePdSf s t ∧ sameSurround s t ∧ t.vx = s.vx ∧ t.cu = s.cu ∧
      sameEntries s t ∧ (∀ n, n ≠ mxArray h → t.array n = s.array n) ∧ (mxNonEmpty b = false → t.mx = s.mx) ∧
      (mxNonEmpty b = true → b.p.hold = true →
        onlyPlane (s.array (mxArray h)) (t.array (mxArray h)) (mxPart h) b.p.plane ∧
        sameRegs (s.array (mxArray h)) (t.array (mxArray h)) (mxPart h) ∧
        ((t.array (mxArray h)).part (mxPart h)).plane b.p.plane = .held (isBack h) ∧
        ∀ k, Store.get ((t.array (mxArray h)).plane b.p.plane) k =
          (let g := geom (s.array (mxArray h)).mode (mxPart h).1
           let old := Store.get ((s.array (mxArray h)).plane b.p.plane) k
           let r := k / 256 - g.row0
           let c := k % 256 - g.col0
           let i := s.issuedOf x h (.mmEw b)
           if g.has k && r < b.p.m.toNat && c < b.p.n.toNat && enabled i.masks b.p r c then
             toF40 (ewOp b.p.op (ofF40 old) (ewOperand s i b.p (viewAt i.views 0) r c))
           else old))

/-- MM_ST with END = HOLD. With SLOAD = 0 each enabled element of the extent gains the balanced sum over the register's partition dimension
(R137, R138, R167), and the registers stay. With SLOAD = 1 it gains the sums of all tiles in turn, each over the elements of view 1 that the
tile holds; the register of each of the last two tiles ends loaded under view 1's format tag, region and the command's version, with the
tile's elements as its words and 0 elsewhere in the partition (log entry 97, the model's choice), and records the header's VERSION bit even
where VTAG_VALID is 0 (log entry 98, the model's choice); a register that no tile used stays (R132, R134, R167). -/
def Obligations.MmSt : Prop :=
  ∀ (s : State) (x : Ctx) (h : Header) (b : MxBody), s.completes x h (.mmSt b) = true → s.memoryOk = true →
    ∃ t, exec (.mmSt x h b) s = .next t ∧ landed s t x h (.mmSt b) ∧ samePdSf s t ∧ sameSurround s t ∧ t.vx = s.vx ∧ t.cu = s.cu ∧
      sameEntries s t ∧ (∀ n, n ≠ mxArray h → t.array n = s.array n) ∧ (mxNonEmpty b = false → t.mx = s.mx) ∧
      (let n := mxArray h
       let p := mxPart h
       let g := geom (s.array n).mode p.1
       let i := s.issuedOf x h (.mmSt b)
       let start (k : Nat) : BitVec 40 := if b.p.start || !g.has k then Store.get ((s.array n).plane b.p.plane) k else 0#40
       let row (k : Nat) : Nat := if stIs b.p then k % 256 - g.col0 else k / 256 - g.row0
       let col (k : Nat) : Nat := if stIs b.p then k / 256 - g.row0 else k % 256 - g.col0
       let touched (k : Nat) : Bool := g.has k && decide (row k < b.p.m.toNat) && decide (col k < b.p.n.toNat) &&
         enabled i.masks b.p (k / 256 - g.row0) (k % 256 - g.col0)
       (mxNonEmpty b = true → b.p.hold = true → onlyPlane (s.array n) (t.array n) p b.p.plane ∧
         ((t.array n).part p).plane b.p.plane = .held (isBack h)) ∧
       (mxNonEmpty b = true → b.p.hold = true → b.p.sload = false → b.p.k ≠ 0#17 →
         ∃ vv l, viewAt i.views 0 = some vv ∧ ((s.array n).part p).reg b.p.sreg = some l ∧ sameRegs (s.array n) (t.array n) p ∧
           ∀ k, Store.get ((t.array n).plane b.p.plane) k =
             if touched k then
               toF40 (add40 (ofF40 (start k)) (stDot s i b.p g vv l ((s.array n).st b.p.sreg) 0 (row k) (col k)))
             else start k) ∧
       (mxNonEmpty b = true → b.p.hold = true → b.p.sload = true → b.p.k ≠ 0#17 →
         ∃ vv v, viewAt i.views 0 = some vv ∧ viewAt i.views 1 = some v ∧
           (∀ k, Store.get ((t.array n).plane b.p.plane) k =
             if touched k then
               (List.range (tiles g b.p)).foldl (fun (w : BitVec 40) q => toF40 (add40 (ofF40 w)
                 (stDot s i b.p g vv (loadRecord i v) (loadTile s b.p g v q []) q (row k) (col k)))) (start k)
             else start k) ∧
           (∀ q, q < tiles g b.p → tiles g b.p ≤ q + 2 →
             ((t.array n).part p).reg (tileReg b.p q) = some ⟨v.fmt, v.region, v.halfB, h.version, true, v.q⟩ ∧
             ∀ k, Store.get ((t.array n).st (tileReg b.p q)) k =
               if !g.has k then Store.get ((s.array n).st (tileReg b.p q)) k
               else
                 let pr := k / 256 - g.row0
                 let pc := k % 256 - g.col0
                 let red := if stRow b.p then pc else pr
                 let out := if stRow b.p then pr else pc
                 if out < b.p.n.toNat && red < redLen g b.p && q * redLen g b.p + red < b.p.k.toNat then
                   let w := if stRow b.p then s.rawAt v pr (q * redLen g b.p + pc) else s.rawAt v (q * redLen g b.p + pr) pc
                   stWord v.format w.1 w.2
                 else 0#32) ∧
           (tiles g b.p = 1 → (t.array n).st (!b.p.sreg) = (s.array n).st (!b.p.sreg) ∧
             ((t.array n).part p).reg (!b.p.sreg) = ((s.array n).part p).reg (!b.p.sreg))) ∧
       (mxNonEmpty b = true → b.p.hold = true → b.p.k = 0#17 → sameRegs (s.array n) (t.array n) p ∧
         ∀ k, Store.get ((t.array n).plane b.p.plane) k = start k))

/-- MM_DRAIN leaves the plane EMPTY and its words as they are, and without a chain changes nothing else in the arrays. Drained plainly
as FP32 with OUTMODE = 0 and CVT = 0, each enabled element of view 2 holds the plane's word rounded to nearest even (R98, R101, R146,
R170, R173). -/
def Obligations.MmDrain : Prop :=
  ∀ (s : State) (x : Ctx) (h : Header) (b : MxBody), s.completes x h (.mmDrain b) = true → s.memoryOk = true →
    ∃ t, exec (.mmDrain x h b) s = .next t ∧ landed s t x h (.mmDrain b) ∧ samePdSf s t ∧ sameSurround s t ∧ t.vx = s.vx ∧
      t.cu = s.cu ∧ sameEntries s t ∧ (∀ n, n ≠ mxArray h → t.array n = s.array n) ∧ (mxNonEmpty b = false → t.mx = s.mx) ∧
      (mxNonEmpty b = true → ((t.array (mxArray h)).part (mxPart h)).plane b.p.plane = .empty ∧
        (t.array (mxArray h)).plane b.p.plane = (s.array (mxArray h)).plane b.p.plane) ∧
      (mxNonEmpty b = true → h.fuse = 0#8 → t.array (mxArray h) = (s.array (mxArray h)).setPart (mxPart h)
        (((s.array (mxArray h)).part (mxPart h)).setPlane b.p.plane .empty)) ∧
      (mxNonEmpty b = true → h.fuse = 0#8 → b.p.outmode = false → b.p.cvt = 0#8 →
        ∃ v, viewAt (s.issuedOf x h (.mmDrain b)).views 2 = some v ∧
          (v.format = .f32 → v.q = 0 → ∀ r c k, r < b.p.m.toNat → c < b.p.n.toNat → k < 4 →
            enabled (s.issuedOf x h (.mmDrain b)).masks b.p r c = true →
            t.byte (v.addr + r * v.stride + 4 * c + k) =
              (leBytes (Fmt.convElem .f32 .rne (cvtOvf 0#8) 0 (accAt ((s.array (mxArray h)).plane b.p.plane)
                (geom (s.array (mxArray h)).mode (mxPart h).1) r c)).bits 4).getD k 0))

/-! ### Vector commands and image loads -/

/-- VX_MAP and CU_MAP write the bytes of their results and nothing else, leave every slot, table, array and predicate as it was, and
their signals land (R191, R406). Without a VX_AUX and a chain, and into FP32 with CVT = 0, the element [r, j] of view 2 holds the
program's result there. -/
def Obligations.VectorMaps : Prop :=
  ∀ (c : Instr) (s : State) (x : Ctx) (h : Header) (b : VxBody), (c = .vxMap x h b ∨ c = .cuMap x h b) →
    ∀ op, programOf c = some (x, h, op) → s.completes x h op = true → s.memoryOk = true →
    ∃ t, exec c s = .next t ∧ landed s t x h op ∧ samePdSf s t ∧ t.vx = s.vx ∧ t.cu = s.cu ∧ t.mx = s.mx ∧ sameEntries s t ∧
      ((s.begun x h op).quietWords (s.issuedOf x h op) = [] → sameSurround s t) ∧
      (h.fuse = 0#8 → b.p.cvt = 0#8 → (s.issuedOf x h op).e.aux = none → b.v2.rows ≠ 0#16 → b.v2.cols ≠ 0#16 →
        ∃ v p, viewAt (s.issuedOf x h op).views 2 = some v ∧
          (s.vecOf (s.onCu ⟨h, op⟩)).prog b.p.prog = some p ∧
          (v.format = .f32 → v.q = 0 → ∀ r j k, r < b.v2.rows.toNat → j < b.v2.cols.toNat → k < 4 →
            t.byte (v.addr + r * v.stride + 4 * j + k) =
              (leBytes (Fmt.convElem .f32 .rne (cvtOvf 0#8) 0 (vxElem s (s.issuedOf x h op) b p r j)).bits 4).getD k 0))

/-- VX_REDUCE and CU_REDUCE write the bytes of their results; with PD_EN the named predicate becomes the truth of the ALL result,
false over an empty domain, and with SFW_EN the named scalar-file entry its FP32 word; no other predicate and no other entry changes
(R200 to R202, R406). -/
def Obligations.VectorReductions : Prop :=
  ∀ (c : Instr) (s : State) (x : Ctx) (h : Header) (b : VxBody), (c = .vxReduce x h b ∨ c = .cuReduce x h b) →
    ∀ op, programOf c = some (x, h, op) → s.completes x h op = true → s.memoryOk = true →
    ∃ t p, exec c s = .next t ∧ (s.vecOf (s.onCu ⟨h, op⟩)).prog b.p.prog = some p ∧ landed s t x h op ∧
      (let i := s.issuedOf x h op
       let all := (vxReduced s i b b.v0.rows.toNat b.v0.cols.toNat (vxElem s i b p)).2
       (b.p.pdEn = true → t.pd b.p.pdIdx = (!(b.v0.rows == 0#16 || b.v0.cols == 0#16) && all.truth)) ∧
       (∀ k, ¬ (b.p.pdEn = true ∧ k = b.p.pdIdx) → t.pd k = s.pd k) ∧
       (b.p.sfwEn = true → t.iu.sf[b.p.sfw.toNat]'(b.p.sfw.isLt) =
         (if b.p.sfw = 47#6 then (fld (sfwWord s i b all) 0 63 : BitVec 63).setWidth 64 else sfwWord s i b all)) ∧
       (∀ k : BitVec 6, ¬ (b.p.sfwEn = true ∧ k = b.p.sfw) → t.iu.sf[k.toNat]'(k.isLt) = s.iu.sf[k.toNat]'(k.isLt))) ∧
      t.vx = s.vx ∧ t.cu = s.cu ∧ t.mx = s.mx ∧ sameEntries s t ∧
      ((s.begun x h op).quietWords (s.issuedOf x h op) = [] → sameSurround s t)

/-- VX_PROG and CU_PROG write consecutive program slots from FIRST with the rows of view 0, VX_TABLE and CU_TABLE one function
table; no other slot or table changes, nor a byte of the scratchpad (R195, R406). A VX command of a job whose VX is fenced loads
Crucible (R53). VX_AUX waits for the command with the next DPI (R193). -/
def Obligations.VectorLoads : Prop :=
  (∀ (c : Instr) (s : State) (x : Ctx) (h : Header) (b : VxLoadBody), (c = .vxProg x h b ∨ c = .cuProg x h b) →
    ∀ op, programOf c = some (x, h, op) → s.completes x h op = true →
    ∃ t v, exec c s = .next t ∧ viewAt (s.issuedOf x h op).views 0 = some v ∧
      (∀ k : Fin 32, (t.vecOf (s.onCu ⟨h, op⟩)).progs[k] =
        if b.first.toNat ≤ k.1 ∧ k.1 < b.first.toNat + v.rows then
          some (BitVec.ofNat 1024 (leNat (s.bytes (v.addr + (k.1 - b.first.toNat) * v.stride) 128)))
        else (s.vecOf (s.onCu ⟨h, op⟩)).progs[k]) ∧
      (t.vecOf (s.onCu ⟨h, op⟩)).tables = (s.vecOf (s.onCu ⟨h, op⟩)).tables ∧
      t.vecOf (!s.onCu ⟨h, op⟩) = s.vecOf (!s.onCu ⟨h, op⟩) ∧ t.spad = s.spad ∧ t.mx = s.mx ∧ samePdSf s t ∧
      (∀ i, t.ec i = s.ec i + bump h i) ∧ sameQueues s t x.task ∧ sameSurround s t) ∧
  (∀ (c : Instr) (s : State) (x : Ctx) (h : Header) (b : VxLoadBody), (c = .vxTable x h b ∨ c = .cuTable x h b) →
    ∀ op, programOf c = some (x, h, op) → s.completes x h op = true →
    ∃ t v, exec c s = .next t ∧ viewAt (s.issuedOf x h op).views 0 = some v ∧
      (∀ k : Fin 8, (t.vecOf (s.onCu ⟨h, op⟩)).tables[k] =
        if k.1 = b.first.toNat then some (tableImage s v) else (s.vecOf (s.onCu ⟨h, op⟩)).tables[k]) ∧
      (t.vecOf (s.onCu ⟨h, op⟩)).progs = (s.vecOf (s.onCu ⟨h, op⟩)).progs ∧
      t.vecOf (!s.onCu ⟨h, op⟩) = s.vecOf (!s.onCu ⟨h, op⟩) ∧ t.spad = s.spad ∧ t.mx = s.mx ∧ samePdSf s t ∧
      (∀ i, t.ec i = s.ec i + bump h i) ∧ sameQueues s t x.task ∧ sameSurround s t) ∧
  ∀ (s : State) (x : Ctx) (h : Header) (b : AuxBody), s.decodes x h (.vxAux b) = true →
    ∃ t, exec (.vxAux x h b) s = .next t ∧ (t.task x.task).aux = some (x.dpi, b) ∧
      ((s.task x.task).dpi = x.dpi → (t.task x.task).dpi = x.dpi + 1) ∧ (∀ i, t.ec i = s.ec i) ∧ samePdSf s t ∧
      sameQueues s t x.task ∧ t.withIu s.iu = s.settleSwaps

/-! ### Streams and transposes -/

/-- A STREAM that issues enters its idle slot: a load asks for each window or run of its far side, a store sends the bytes of each, and a
multicast sends once and waits for a report from every receiver; in replay mode one whose receivers still owe release notices stays in the
shadow, and a transfer that reaches its receivers uses up the notices of those that do not drop it (R77, R81, R84, R298, R299, R311; that
notices count from the last transfer delivered, and tell what each receiver's log records as dropped, is log entry 48, the model's choice).
Into an occupied slot it goes as the shadow and sends nothing (R81). No signal lands before it completes, and no byte of the scratchpad
changes. A store that meets an uncorrectable word as it is admitted aborts its task instead (R64). -/
def Obligations.StreamArms : Prop :=
  ∀ (s : State) (x : Ctx) (h : Header) (b : StreamBody), s.issues x h (.stream b) = true →
    ∃ t, exec (.stream x h b) s = .next t ∧
      (let eng := s.physSe h
       let k := streamSlot b
       let busy := (s.slot eng k).run.isSome
       let bad := storeBad (s.placed x h (.stream b)) { s.issuedOf x h (.stream b) with
          views := [some (streamView (s.placed x h (.stream b)) (s.entryOf x h (.stream b)) b)] } b
       (busy = true ∨ s.noticesDue b = true ∨ bad = [] →
         t.spad = s.spad ∧ (∀ i, t.ec i = s.ec i) ∧ samePdSf s t ∧ sameQueues s t x.task ∧
         (∀ f q, ¬ (f = eng ∧ q = k) → t.slot f q = s.slot f q)) ∧
       (busy = true ∨ s.noticesDue b = true → onlyForecasts s t ∧ t.fp = s.fp ∧ (t.slot eng k).run = (s.slot eng k).run ∧
         (t.slot eng k).shadow.map (fun i => (i.e.x, i.e.cmd)) = some (x, ⟨h, .stream b⟩)) ∧
       (busy = false → bad = [] → b.mcast = false →
         ∃ tr us, t.slot eng k = ⟨some tr, none⟩ ∧ tr.i.e.x = x ∧ tr.i.e.cmd = ⟨h, .stream b⟩ ∧
           tr.i.localBase = streamBase s.settleSwaps (s.entryOf x h (.stream b)) b ∧
           us = (if b.total = 0 ∨ s.isOwn b.far then [] else streamUnits s b) ∧ tr.left = us.length ∧ tr.reports = 0 ∧
           (chipOf b.far = s.id.chip → tr.route = none) ∧
           (b.total ≠ 0 → chipOf b.far ≠ s.id.chip → tr.route = (s.routeFor (chipOf b.far)).map Prod.fst ∧
             ∀ r, tr.route = some r → tr.path = s.routeSel r) ∧
           tr.data = (if b.dir && !us.isEmpty then farImage s tr.i b else []) ∧
           onlyForecasts (s.sendRuns eng tr.i b tr.data tr.route tr.path us) t ∧
           t.fp = (s.sendRuns eng tr.i b tr.data tr.route tr.path us).fp ∧
           (tr.route = none → t.fp = s.fp ∧ sentBefore s t (if us = [] then []
             else if b.dir then [.memWrite ((farImage s tr.i b).filter fun p =>
               us.any fun u => u.1 ≤ p.1 % 2 ^ 40 && p.1 % 2 ^ 40 < u.1 + u.2)]
             else us.map fun u => .memRead (globalAt b.far u.1) u.2))) ∧
       (busy = false → bad = [] → b.mcast = true → s.noticesDue b = false →
         ∃ tr, t.slot eng k = ⟨some tr, none⟩ ∧ tr.i.e.x = x ∧ tr.i.e.cmd = ⟨h, .stream b⟩ ∧ tr.left = 0 ∧
           tr.reports = (if b.total = 0 then 0 else (s.job.group b.group).receivers) ∧
           tr.data = farImage s tr.i b ∧ tr.mseq = (s.job.group b.group).sent ∧
           (t.job.group b.group).sent = (s.job.group b.group).sent + 1 ∧
           (t.job.group b.group).notices = (if b.total = 0 then (s.job.group b.group).notices
             else (s.job.group b.group).notices.filter (s.dropsNext b.group)) ∧
           (b.total = 0 → onlyForecasts s t ∧ t.fp = s.fp) ∧
           (b.total ≠ 0 → onlyForecasts (s.sendMcast eng tr.i b tr.data tr.mseq) t ∧
             t.fp = (s.sendMcast eng tr.i b tr.data tr.mseq).fp ∧
             ((s.job.group b.group).remote = false →
               t.fp = s.fp ∧ sentBefore s t [mcastMsg b tr.data (s.job.group b.group).rxCores tr.mseq]))) ∧
       (busy = false → s.noticesDue b = false → bad ≠ [] →
         aborted t x.task Code.uncorrectable x.dpi ∧ logged s t Code.uncorrectable ∧ (∀ i, t.ec i = s.ec i) ∧ samePdSf s t))

/-- TRANSPOSE copies element [r, c] of view 0 to element [c, r] of view 1, byte for byte, writes nothing else, and leaves its
transpose unit free (R87, R89). -/
def Obligations.TransposeCopies : Prop :=
  ∀ (s : State) (x : Ctx) (h : Header) (b : TransposeBody), s.completes x h (.transpose b) = true → s.memoryOk = true →
    ∃ t va vb, exec (.transpose x h b) s = .next t ∧ landed s t x h (.transpose b) ∧
      viewAt (s.issuedOf x h (.transpose b)).views 0 = some va ∧ viewAt (s.issuedOf x h (.transpose b)).views 1 = some vb ∧
      (∀ r c k, r < va.rows → c < va.cols → k < va.format.bits / 8 →
        t.byte (vb.addr + c * vb.stride + va.format.bits / 8 * r + k) =
          s.byte (va.addr + r * va.stride + va.format.bits / 8 * c + k)) ∧
      t.tuFree (s.physTu (tuIndex h)) = true ∧ (∀ n, n ≠ s.physTu (tuIndex h) → t.tuFree n = s.tuFree n) ∧
      samePdSf s t ∧ t.mx = s.mx ∧ t.vx = s.vx ∧ t.cu = s.cu ∧ t.alm = s.alm ∧ sameSurround s t
/-! ### The issue unit and the engines, step by step -/

/-- COMMAND_FETCH of a word that decodes, given by the fetch buffer, by the core's own scratchpad or by other memory: the command waits
at the end of its queue with the task's next DPI, the task, the indices of its loops and the VX_AUX before it; the DPI advances by 1, and no
other task changes (R26, R28, R29, R193, R351). A VX_AUX waits for the command after it instead. The header's fields lie where R28 places
them. A refused read aborts the task with REMOTE_REFUSED (R308), and an uncorrectable word of the own scratchpad, which fetch reads itself, with
UNCORRECTABLE (R64; both of the own scratchpad by log entry 83, an inference). The commands that a resumed job skips are left out. -/
def Obligations.FetchQueues : Prop :=
  (∀ (s : State) (t : Fin 4) (d : Fetched) (w : CmdWord) (c : Cmd), s.mayFetch t = true → s.takes t d = some w →
    parseCmd w = .ok c → (s.task t).skip.contains (s.task t).dpi = false →
    (let x : Ctx := ⟨t, (s.task t).dpi, (s.task t).loops.map Loop.idx⟩
     let aux := s.auxFor x c.op
     aux = (s.task t).aux →
     s.settleSwaps.decodeFault ⟨x, c, aux, none, false, (s.task t).pos, (s.task t).loops, s.cycle⟩ = none →
     placeFault (s.task t) c.op = none →
     ∃ u, exec (.commandFetch t d) s = .next u ∧ (∀ q, q ≠ t → u.task q = s.task q) ∧ u.iu.staged = s.iu.staged ∧
       u.iu.exec = s.iu.exec ∧ (∀ i, u.ec i = s.ec i) ∧ samePdSf s u ∧ u.spad = s.spad ∧
       ((∀ b, c.op ≠ .vxAux b) → s.queueFull x c.h = false → (u.task t).dpi = (s.task t).dpi + 1 ∧ (u.task t).aux = none ∧
         ∃ e, u.iu.queued = s.iu.queued ++ [e] ∧ e.cmd = c ∧ e.x = x ∧ e.aux = aux ∧ e.injected = false) ∧
       (∀ b, c.op = .vxAux b → u.iu.queued = s.iu.queued ∧ (u.task t).dpi = (s.task t).dpi + 1 ∧
         (u.task t).aux = some ((s.task t).dpi, b)) ∧
       ((∀ b, c.op ≠ .vxAux b) → s.queueFull x c.h = true → u.iu = s.iu) ∧
       c.h.queue = fld w 8 5 ∧ c.h.silent = bit w 13 ∧ c.h.pen = bit w 14 ∧ c.h.psense = bit w 15 ∧ c.h.psel = fld w 16 4 ∧
       c.h.part = fld w 20 2 ∧ c.h.version = bit w 22 ∧ c.h.vtag = bit w 23 ∧ c.h.fuse = fld w 24 8 ∧
       c.h.waitA = ⟨fld w 32 6, fld w 38 2, fld w 40 16, fld w 56 4⟩ ∧ c.h.vstage = fld w 60 4 ∧
       c.h.waitB = ⟨fld w 64 6, fld w 70 2, fld w 72 16, fld w 88 4⟩ ∧ c.h.mbatch = fld w 92 8 ∧
       c.h.sigA = ⟨fld w 100 6, fld w 106 8⟩ ∧ c.h.sigB = ⟨fld w 114 6, fld w 120 8⟩)) ∧
  ∀ (s : State) (t : Fin 4) (d : Fetched), s.mayFetch t = true →
    (s.task t).buffer.find? (fun p => p.1 == (s.task t).pos) = none → s.abortable t (s.task t).dpi = true →
    ∃ u, exec (.commandFetch t d) s = .next u ∧
      (let own := s.ownAddr (s.task t).prog
       let a := addrOff (s.task t).prog + 64 * (s.task t).pos
       ((own = false ∧ ∃ cause, d = .refused cause) ∨ (own = true ∧ s.spadBytes < a + 64) →
         aborted u t Code.remoteRefused (s.task t).dpi ∧ logged s u Code.remoteRefused) ∧
       (own = true → a + 64 ≤ s.spadBytes → s.spad.badIn a 64 ≠ [] →
         aborted u t Code.uncorrectable (s.task t).dpi ∧ logged s u Code.uncorrectable))

/-- COMMAND_ISSUE takes the queue head with the lowest DPI of those that can issue and that Equinox does not hold, on ties the lowest task
(R46, R351, R381), the heads of a folded array's other logical arrays left out while the one that it ran last has one (R54); an engine
command then waits in its unit's staging slot, out of its queue, with no effect yet (R45). A head that Equinox holds sets FCAST_HOLD (R381),
and no ballast is left on a partition that has a command (R378). -/
def Obligations.IssueLowest : Prop :=
  (∀ (s : State) (e : Entry), s.settleSwaps.pick = some e →
    (∀ q ∈ s.settleSwaps.readyHeads, s.settleSwaps.heldBack q = false →
      s.settleSwaps.foldedOut s.settleSwaps.readyHeads q = false →
      e.x.dpi ≤ q.x.dpi ∧ (e.x.dpi = q.x.dpi → e.x.task ≤ q.x.task)) ∧
    (s.settleSwaps.verdict e false = .go → s.issueLate = none →
      (match e.cmd.op with
        | .mmOs _ | .mmSt _ | .mmEw _ | .mmDrain _ | .vxMap _ | .vxReduce _ | .vxProg _ | .vxTable _ | .cuMap _
        | .cuReduce _ | .cuProg _ | .cuTable _ | .transpose _ => True
        | _ => False) →
      ∃ t i, exec .commandIssue s = .next t ∧ t.iu.staged = s.iu.staged ++ [(s.unitOf e.cmd, i)] ∧ i.e = e ∧
        i.sf = s.sfSnapshot ∧ t.iu.exec = s.iu.exec ∧
        t.iu.queued = s.iu.queued.filter (fun q => !(q.x.task == e.x.task && q.x.dpi == e.x.dpi)) ∧
        (∀ j, t.ec j = s.ec j) ∧ samePdSf s t ∧ t.spad = s.spad ∧ t.mx = s.mx)) ∧
  ∀ s : State, ∃ t, exec .commandIssue s = .next t ∧ (∀ p ∈ t.eq.partBallast, t.agentBusy p.1 = false) ∧
    (s.settleSwaps.heldHeads ≠ [] → t.eq.events.getLsbD 4 = true)

/-- EXECUTION_START moves a unit's staged command to execution, on an idle unit, on VX or Crucible behind the one whose last pass has
entered the pipeline (R204), or on a partition behind a command in its last steps and those that drain before it (R144): the steps of all but
the last are over then, and their planes are DRAINING. A matrix command with an extent is then building, or draining, its plane, and ATTN_FWD
holds a companion plane that it finds EMPTY (R133, R222). COMMAND_COMPLETE of the oldest command of a unit, or of one that keeps its result
while those before it drain (R144), lands what it computes: exactly its bytes are written, its signals land and it leaves execution (R42); one
that has sent bytes to another core waits with its signals until the peer has acknowledged all of them, and a notify after them, which the
last ACK brings about (R231). -/
def Obligations.StartAndComplete : Prop :=
  (∀ (s : State) (u : UnitId) (i : Issued) (rest : List (UnitId × Issued)), s.mayStart u = true →
    (takeUnit u s.iu.staged).isSome = true →
    (let s0 := s.unitAhead u
     let s1 := s0.withIu { s0.iu with staged := rest }
     takeUnit u s0.iu.staged = some (i, rest) → s1.startFault i = none →
     ∃ t, exec (.executionStart u) s = .next t ∧ t.iu.staged = rest ∧ t.iu.exec = s0.iu.exec ++ [(u, s1.begin_ i)] ∧
       (∀ b, i.e.cmd.op.mx? = some b → mxNonEmpty b = true →
         ((t.array (mxArray i.e.cmd.h)).part (mxPart i.e.cmd.h)).plane b.p.plane = buildState i.e.cmd b ∧
         (i.e.cmd.h.fuse = 0x10#8 →
           ((s0.array (mxArray i.e.cmd.h)).part (mxPart i.e.cmd.h)).plane (!b.p.plane) = .empty →
           ((t.array (mxArray i.e.cmd.h)).part (mxPart i.e.cmd.h)).plane (!b.p.plane) = .held (isBack i.e.cmd.h))) ∧
       (∀ j, t.ec j = s.ec j) ∧ samePdSf s t ∧ t.spad = s0.spad ∧ t.iu.queued = s0.iu.queued ∧
       ((s.iu.onUnit u).length ≤ 1 → s0 = s) ∧
       (∀ a c b, s.iu.onUnit u = [(u, a), (u, c)] → a.e.cmd.op.mx? = some b → a.drains = true → a.stepped = false →
         mxStepReads s a b = [] →
         ((s0.array (mxArray a.e.cmd.h)).part (mxPart a.e.cmd.h)).plane b.p.plane = .draining ∧ s0.spad = s.spad ∧
         s0.iu.queued = s.iu.queued))) ∧
  (∀ (s : State) (u : UnitId) (n : Nat) (i : Issued),
    (let k := completing (s.iu.onUnit u) n
     let s0 := s.endAhead u k
     let s1 := s0.dropExec i
     let r := s1.runOf i
     (s.iu.onUnit u)[k]? = some (u, i) → (s0.iu.onUnit u).any (fun x => sameCmd x.2 i) = true → s0.memoryOk = true → s1.dataFault i = none → s0.spad.narrow r.bytes = [] →
     ∃ t, exec (.commandComplete ⟨u, n⟩) s = .next t ∧ t.iu.staged = s0.iu.staged ∧ t.iu.queued = s0.iu.queued ∧ (k = 0 → s0 = s) ∧
       (k ≠ 0 → k = n ∧ i.drains = false) ∧
       (r.peer = [] → t.iu.exec = s1.iu.exec ∧ (∀ a, t.byte a = lastByte r.bytes a (s0.byte a)) ∧
         ∀ j, t.ec j = s.ec j + bump i.e.cmd.h j) ∧
       (r.peer ≠ [] → s.isOwn i.peerAddr = false → (∀ a, t.byte a = lastByte r.bytes a (s0.byte a)) ∧
         (∀ j, t.ec j = s.ec j) ∧ ∃ p, p.bytes = r.peer ∧ p.notified = false ∧
           t.iu.exec = s1.iu.exec ++ [(u, { i with exporting := some p })]))) ∧
  ∀ (s : State) (a : Fin 13) (k : Fin 4) (n : Nat) (u : UnitId) (i : Issued) (p : Exporting), 8 ≤ a.1 →
    s.exporter a.1 k.1 = some (u, i, p) → n ≠ 0 →
    ∃ t, exec (.ack a k n) s = .next t ∧ t.spad = s.spad ∧ t.iu.queued = s.iu.queued ∧
      (p.notified = true ∨ (p.units.drop n = [] ∧ i.peerInc = 0#8) →
        t.iu.exec = s.iu.exec.filter (fun q => !sameCmd q.2 i) ∧ ∀ j, t.ec j = s.ec j + bump i.e.cmd.h j) ∧
      (p.notified = false → p.units.drop n ≠ [] →
        t.iu.exec = (s.iu.exec.filter fun q => !sameCmd q.2 i) ++
          [(u, { i with exporting := some { p with units := p.units.drop n } })] ∧ ∀ j, t.ec j = s.ec j) ∧
      (p.notified = false → p.units.drop n = [] → i.peerInc ≠ 0#8 →
        t.iu.exec = (s.iu.exec.filter fun q => !sameCmd q.2 i) ++
          [(u, { i with exporting := some { p with units := [], notified := true } })] ∧ ∀ j, t.ec j = s.ec j)

/-- SHADOW_PROMOTE admits the shadow of an idle slot (R82). STREAM_COMPLETE of a transfer that waits for nothing frees its slot,
lands what it writes in the core's own scratchpad, adds a notify for this core, and performs the signals of a transfer whose task has not
aborted (R14, R80, R82, R261). A notify for another core must have been acknowledged. -/
def Obligations.TransfersMove : Prop :=
  (∀ (s : State) (e : Fin 8) (k : Fin 4) (i : Issued) (b : StreamBody), s.slot e k = ⟨none, some i⟩ →
    i.streamBody = some b → (b.total == 0 || streamGranted s e b) = true → s.noticesDue b = false → storeBad s i b = [] →
    ∃ t tr, exec (.shadowPromote e k) s = .next t ∧ t.slot e k = ⟨some tr, none⟩ ∧ tr.i = i ∧
      (∀ f q, ¬ (f = e ∧ q = k) → t.slot f q = s.slot f q) ∧ (∀ j, t.ec j = s.ec j) ∧ t.spad = s.spad) ∧
  ∀ (s : State) (e : Fin 8) (k : Fin 4) (tr : Transfer) (b : StreamBody), (s.slot e k).run = some tr →
    tr.i.streamBody = some b → tr.left = 0 → tr.reports = 0 → b.mcast = false → s.memoryOk = true →
    (farNotify s b = true → tr.notified = true ∨ tr.faulted = true) →
    (ownCopy s tr b).2 = [] →
    ∃ t, exec (.streamComplete e k) s = .next t ∧ (t.slot e k).run = none ∧ (t.slot e k).shadow = (s.slot e k).shadow ∧
      (∀ f q, ¬ (f = e ∧ q = k) → t.slot f q = s.slot f q) ∧
      (∀ a, t.byte a = lastByte (ownCopy s tr b).1 a (s.byte a)) ∧
      (∀ j, t.ec j = s.ec j +
        (if b.notify && b.total != 0 && s.isOwn b.far && !tr.faulted && b.notifyEc == j then b.notifyInc.setWidth 16 else 0) +
        (if tr.orphan then 0 else bump tr.i.e.cmd.h j)) ∧ samePdSf s t ∧ t.iu.queued = s.iu.queued ∧ onlyForecasts s t

/-- ISSUE_TIMEOUT in a job that runs: time passes to the end of the quiet 2^24 control cycles (R27; that the row brings the time with it is
log entry 25, the model's choice), and every running task aborts with ISSUE_TIMEOUT (R27, R351) and the lowest DPI it had not issued (log
entry 76, an inference: R27 and R351 name no DPI); no counter changes, and no scalar-file entry but by a CSR write that was to land
(R338). -/
def Obligations.TimeoutAborts : Prop :=
  ∀ s : State, s.job.st = .running → s.rep.coreFenced = false →
    ∃ t, exec .issueTimeout s = .next t ∧ t.iu.quiet = 0 ∧ s.cycle + (2 ^ 24 - s.iu.quiet) = t.cycle ∧
      (∀ u, s.abortable u (s.lowestDpi u) = true → aborted t u Code.issueTimeout (s.lowestDpi u)) ∧
      (∀ u, s.running u = false → t.task u = s.task u) ∧ (∀ i, t.ec i = s.ec i) ∧ t.iu.pd = s.iu.pd ∧
      (s.iu.sfNext = [] → t.iu.sf = s.iu.sf)

/-- A parity error of a step of an array, of VX or of Crucible, and a mismatch of the two copies of a counter-generator block, replays the
command once, which is logged: the command keeps its place among those in flight (R204) and nothing else happens; a second one, or one that
may not be replayed, aborts its task with the unit's parity code, or with CG_MISMATCH, and its signals do not land (R155, R156, R205, R237,
R410). A program slot or table in error becomes EMPTY and aborts (R205). -/
def Obligations.ParityReplays : Prop :=
  (∀ (s : State) (n p : Fin 4) (hit : ParityHit) (i : Issued) (code : Code), nthOn (.mx n p) s.iu.exec hit.nth = some i →
    (hit.kind = .steps ∧ code = Code.arrayParity) ∨ (hit.kind = .cgMismatch false ∧ code = Code.cgMismatch) →
    ∃ t, exec (.arrayReplay n p hit) s = .next t ∧
      (i.replayed = false → t.iu.exec = (s.iu.exec.map fun q => if sameCmd q.2 i then (q.1, { i with replayed := true }) else q) ∧
        logged s t Code.arrayReplay ∧
        t.spad = s.spad ∧ t.mx = s.mx ∧ t.iu.tasks = s.iu.tasks) ∧
      (i.replayed = true → s.abortable i.e.x.task i.e.x.dpi = true → aborted t i.e.x.task code i.e.x.dpi) ∧
      (∀ j, t.ec j = s.ec j) ∧ samePdSf s t) ∧
  (∀ (s : State) (n p : Fin 4) (hit : ParityHit) (i : Issued) (code : Code), nthOn (.mx n p) s.iu.exec hit.nth = some i →
    ((hit.kind = .heldPlane ∨ hit.kind = .heldRegister ∨ hit.kind = .drain) ∧ code = Code.arrayParity) ∨
      (hit.kind = .cgMismatch true ∧ code = Code.cgMismatch) →
    s.abortable i.e.x.task i.e.x.dpi = true →
    ∃ t, exec (.arrayReplay n p hit) s = .next t ∧ aborted t i.e.x.task code i.e.x.dpi ∧ logged s t code ∧
      (∀ j, t.ec j = s.ec j) ∧ samePdSf s t) ∧
  (∀ (c : ParityAt → Instr) (u : UnitId) (loc : PhysLoc) (nth : Nat) (replay parity : Code),
    (c = (fun a => .vxReplay ⟨a, loc, nth⟩) ∧ u = .vx ∧ replay = Code.vxReplay ∧ parity = Code.vxParity) ∨
    (c = (fun a => .cuReplay ⟨a, loc, nth⟩) ∧ u = .cu ∧ replay = Code.cuReplay ∧ parity = Code.cuParity) →
    ∀ (s : State) (i : Issued), nthOn u s.iu.exec nth = some i →
    (∀ (at_ : ParityAt) (code : Code), (at_ = .steps ∧ code = parity) ∨ (∃ d, at_ = .cgMismatch d ∧ code = Code.cgMismatch) →
      ∃ t, exec (c at_) s = .next t ∧ (∀ j, t.ec j = s.ec j) ∧ samePdSf s t ∧
        ((!i.replayed && !i.aliases && !scatAdd i.e.auxBody) = true →
          t.iu.exec = (s.iu.exec.map fun q => if sameCmd q.2 i then (q.1, { i with replayed := true }) else q) ∧
          logged s t replay ∧ t.spad = s.spad ∧ t.iu.tasks = s.iu.tasks) ∧
        ((!i.replayed && !i.aliases && !scatAdd i.e.auxBody) = false →
          s.abortable i.e.x.task i.e.x.dpi = true → aborted t i.e.x.task code i.e.x.dpi)) ∧
    (s.abortable i.e.x.task i.e.x.dpi = true →
      (∀ k : Fin 32, ∃ t, exec (c (.progSlot k)) s = .next t ∧ aborted t i.e.x.task parity i.e.x.dpi ∧
        (t.vecOf (u == .cu)).progs[k] = none) ∧
      ∀ k : Fin 8, ∃ t, exec (c (.table k)) s = .next t ∧ aborted t i.e.x.task parity i.e.x.dpi ∧
        (t.vecOf (u == .cu)).tables[k] = none))

/-- EXECUTION_FAULT: an uncorrectable word that a command reads, counted from the oldest of its unit (R204), aborts its task with
UNCORRECTABLE, at the DPI of the command or of the VX_AUX whose view holds the word (R193), and poisons the valid halves the command writes,
those that it exports into among them (R55, R56, R64, R72, R231); a word of which a command of VX or Crucible reads masked elements only is
logged, its half is poisoned, and the command goes on (R64, R198); a single error that the bank corrects is only logged (R64); a peer that
refuses an exported tile aborts with REMOTE_REFUSED (R231); a fault of a structure that an array's partitions share fences the physical
array, with a command there or none, and aborts every running task that owns a partition of it (R151); an array that the core lacks has none
(R3). An upset of IMEM or DMEM marks its word, which the next read finds (R336; log entry 117, the model's choice). No signal lands. -/
def Obligations.ExecutionFaults : Prop :=
  (∀ (s : State) (u : UnitId) (addr nth : Nat) (i : Issued), nthOn u s.iu.exec nth = some i → i.noted.contains (addr / 8) = false →
    (let w := addr / 8
     let s1 := if s.spad.bad.contains w then s else s.withSpad { s.spad with bad := s.spad.bad ++ [w] }
     ((s1.quietWords i).contains w = false → s.abortable i.e.x.task (i.wordDpi w) = true →
       ∃ t, exec (.executionFault u (.uncorrectable addr nth)) s = .next t ∧
         aborted t i.e.x.task Code.uncorrectable (i.wordDpi w) ∧ logged s t Code.uncorrectable ∧ w ∈ t.spad.bad ∧
         (∀ r ∈ s.outHalves i, (s.region r.1).valid = true → (s.region r.1).split = true → (t.region r.1).poisoned r.2 = true) ∧
         (∀ j, t.ec j = s.ec j) ∧ samePdSf s t) ∧
     ((s1.quietWords i).contains w = true →
       ∃ t, exec (.executionFault u (.uncorrectable addr nth)) s = .next t ∧ logged s t Code.uncorrectable ∧ w ∈ t.spad.bad ∧
         t.spad.mem = s.spad.mem ∧ (∀ r, s.locate (8 * w) = some r → (t.region r.1).poisoned r.2 = true) ∧
         t.iu.tasks = s.iu.tasks ∧ t.iu.queued = s.iu.queued ∧ t.iu.staged = s.iu.staged ∧
         t.iu.exec = (s.iu.exec.map fun q => if sameCmd q.2 i then (q.1, { i with noted := i.noted ++ [w] }) else q) ∧
         (∀ j, t.ec j = s.ec j) ∧ samePdSf s t))) ∧
  (∀ (s : State) (u : UnitId) (addr : Nat), addr < s.spadBytes → s.spad.bad.contains (addr / 8) = false →
    ∃ t, exec (.executionFault u (.corrected addr)) s = .next t ∧ logged s t Code.eccCorrected ∧ t.spad = s.spad ∧ t.rg = s.rg ∧
      t.iu = s.iu ∧ t.mx = s.mx) ∧
  (∀ (s : State) (u : UnitId) (cause : BitVec 8) (i : Issued) (rest : List (UnitId × Issued)),
    takeUnit u s.iu.exec = some (i, rest) → i.exports = true → s.abortable i.e.x.task i.e.x.dpi = true →
    ∃ t, exec (.executionFault u (.peerRefused cause)) s = .next t ∧
      aborted t i.e.x.task Code.remoteRefused i.e.x.dpi ∧ logged s t Code.remoteRefused ∧ (∀ j, t.ec j = s.ec j) ∧ samePdSf s t) ∧
  (∀ (s : State) (u : UnitId) (w : Nat) (double : Bool), (ccWord (8 * w)).isSome = true →
    ∃ t, exec (.executionFault u (.upset w double)) s = .next t ∧ t.cc.imem = s.cc.imem ∧ t.cc.dmem = s.cc.dmem ∧ t.iu = s.iu ∧
      t.spad = s.spad ∧ (double = true → w ∈ t.cc.badWords ∧ w ∉ t.cc.flips) ∧
      (double = false → w ∈ t.cc.flips ∧ t.cc.badWords = s.cc.badWords)) ∧
  (∀ (s : State) (n p : Fin 4) (loc : PhysLoc), s.id.hasArray (s.physMx n).1 = false →
    ∃ t, exec (.executionFault (.mx n p) (.shared loc)) s = .next t ∧ t.rep = s.rep ∧ t.err = s.err ∧ t.iu = s.iu ∧ t.mx = s.mx) ∧
  ∀ (s : State) (n p : Fin 4) (loc : PhysLoc), s.id.hasArray (s.physMx n).1 = true →
    ∃ t, exec (.executionFault (.mx n p) (.shared loc)) s = .next t ∧ t.rep.fence = s.rep.fence ||| (1#32 <<< (s.physMx n).1) ∧
      (∀ u, s.running u = true → (s.task u).stopCount = 0#64 → s.ownsArray u (s.physMx n) = true → (t.task u).st = .ended 1 ∧
        ((t.task u).fault.map fun f => f.1) = some Code.arrayShared) ∧
      (∀ u, s.ownsArray u (s.physMx n) = false → t.task u = s.task u) ∧ (∀ j, t.ec j = s.ec j) ∧ samePdSf s t
/-! ### Jobs -/

/-- A selection point takes a pending ring of the highest class that has one, reads the descriptor at its HEAD and increments HEAD; no
other ring changes (R352, R354). A descriptor whose read is refused is closed with DONE incremented and a message of status REFUSED and
code BAD_JOB, and no completion record is written; its USER_TAG is open (R355, log entry 16). -/
def Obligations.SelectionPoint : Prop :=
  (∀ (s : State) (n : Fin 8), s.bring.ready = true → s.rep.coreFenced = false → s.job.st = .idle → s.rep.pending = none →
    s.pickRing = some n →
    (s.ringAt n).isPending = true ∧
    (∀ m, (s.ringAt m).isPending = true → ringClass (s.ringAt m).cfg ≤ ringClass (s.ringAt n).cfg) ∧
    ∃ t, exec .selectionPoint s = .next t ∧ t.job.st = .reading ∧ t.job.ring = n ∧ t.job.slot = (s.ringAt n).head ∧
      t.ringAt n = { s.ringAt n with head := (s.ringAt n).head + 1 } ∧ (∀ m, m ≠ n → t.ringAt m = s.ringAt m) ∧
      t.out = s.out ++ [.memRead ((s.ringAt n).slotAddr (s.ringAt n).head) 256] ∧
      ((t.withRing s.ring).withJob s.job).withOut s.out = s) ∧
  ∀ s : State, s.job.st = .reading → s.rep.pending = none →
    ∃ t tag, exec .descriptorRefused s = .next t ∧ t.job.st = .idle ∧
      (t.ringAt s.job.ring).done = (s.ringAt s.job.ring).done + 1 ∧ (∀ m, m ≠ s.job.ring → t.ringAt m = s.ringAt m) ∧
      t.out = s.out ++ [.ctrl (ctrlMessage s.id (BitVec.ofNat 3 s.job.ring.1) s.job.slot 4 0x201 noDpi tag)] ∧
      logged s t Code.badJob ∧ t.iu = { s.iu with queued := [] } ∧ t.spad = s.spad

/-- JOB_LOAD of a job whose checks pass starts it: counters, predicates and scalar file 0, arrays EMPTY in the modes of the descriptor, VX
EMPTY (R358), and Crucible too (log entry 20, an inference: R358 names VX only), the region table loaded, every task of NTASKS running from
its program address at DPI 0, and JOB_START latched (R342, R349, R357, R358); a job that keeps a log writes its records of job start there
(R127, R359); resumed jobs are left out. Each route entry takes the path that its rules select, and one without a live path is reported
(R317, R326). One whose checks fail is refused: a message of status REFUSED with the code of the first check that fails (R358, R361, R362).
-/
def Obligations.JobLoad : Prop :=
  (∀ (s : State) (ext : Bytes) (d : BitVec 2048),
    d = BitVec.ofNat 2048 (imgNat (s.getImage ext ((s.ringAt s.job.ring).slotAddr s.job.slot) 256) 0 256) →
    s.job.st = .reading → badJob s.id d (s.loadImages ext d).regions = false →
    jobFault s ext (s.loadImages ext d) = none → resumes d = false →
    ∃ t, exec (.jobLoad ext) s = .next t ∧ t.job.st = .running ∧ t.job.desc = d ∧ t.iu.pd = 0 ∧ (∀ i, t.ec i = 0) ∧
      (∀ i : BitVec 6, t.iu.sf[i.toNat]'(i.isLt) = 0) ∧ t.iu.queued = [] ∧ t.iu.staged = [] ∧ t.iu.exec = [] ∧
      (∀ n, t.array n = Array_.empty (jobMode d n)) ∧ t.vx = VecState.empty ∧ t.cu = VecState.empty ∧ t.rg.tab = imageTable (s.loadImages ext d).regions ∧
      (∀ k, t.task k = newTask d k) ∧ (∀ k, k.1 < numTasks d → (t.task k).st = .running ∧ (t.task k).dpi = 0 ∧
        (t.task k).prog = fld d (8 * taskAt k.1) 64) ∧
      t.alm.finite = true ∧ t.cc.evpend.getLsbD 8 = true ∧ t.ring = s.ring ∧
      t.fa.sel = s.selectRoutes ∧ t.fa.route = s.fa.route ∧
      (let kept := dAddr d 0x60 ≠ 0#64 ∧ bit d 16 = false
       let u := s.putImage (dAddr d 0x60) t.job.logPos t.job.log
       t.spad = (if kept then u.spad else s.spad) ∧
       t.out = (if kept then u.out else s.out) ++ ((s.selectRoutes.filter fun p => p.2 = 3#2).map fun p =>
         .noPath (fld (s.fa.route.get p.1) 8 20) (fld (s.fa.route.get p.1) 28 20)))) ∧
  ∀ (s : State) (ext : Bytes) (d : BitVec 2048) (code : Code),
    d = BitVec.ofNat 2048 (imgNat (s.getImage ext ((s.ringAt s.job.ring).slotAddr s.job.slot) 256) 0 256) →
    s.job.st = .reading → s.rep.pending = none →
    ((badJob s.id d (s.loadImages ext d).regions = true ∧ code = Code.badJob) ∨
      (badJob s.id d (s.loadImages ext d).regions = false ∧ jobFault s ext (s.loadImages ext d) = some code)) →
    ∃ t, exec (.jobLoad ext) s = .next t ∧ t.job.st = .idle ∧
      (t.ringAt s.job.ring).done = (s.ringAt s.job.ring).done + 1 ∧
      t.out.getLast? = some (.ctrl (ctrlMessage s.id (BitVec.ofNat 3 s.job.ring.1) s.job.slot 4 (code.setWidth 16) noDpi
        (dAddr d 0x88))) ∧ logged s t code ∧ t.iu = { s.iu with queued := [] }

/-- JOB_END of a job whose tasks have all ended and whose engines are idle: DONE increments, the last thing sent, but for a forecast, is the
completion message with the most severe status and the reported fault, JOB_END is latched, and no job runs (R351, R360 to R362). JOB_STOP does
the same of a job with a task that its STOP_COUNT ended, whose commands at and above it go from their queues unissued (R57). -/
def Obligations.JobEnds : Prop :=
  ∀ (c : Instr) (s u : State), u = s.settleSwaps.stopTasks → s.job.st = .running → s.job.lastMsg = none →
    s.rep.coreFenced = false → s.rep.pending = none → u.jobDone = true →
    (c = .jobEnd ∨ (c = .jobStop ∧ u.statuses.contains 2 = true)) →
    ∃ t, exec c s = .next t ∧ t.job.st = .idle ∧ (t.ringAt s.job.ring).done = (s.ringAt s.job.ring).done + 1 ∧
      (∀ m, m ≠ s.job.ring → t.ringAt m = s.ringAt m) ∧ t.cc.evpend.getLsbD 9 = true ∧
      t.iu.queued = [] ∧
      (∃ (before : List Msg) (ls : List Nat), t.out = before ++ [.ctrl (ctrlMessage s.id (BitVec.ofNat 3 s.job.ring.1) s.job.slot
        (BitVec.ofNat 16 (worstStatus u.statuses)) u.reported.1 u.reported.2 s.job.userTag)] ++ ls.map Msg.forecast) ∧
      (∀ i, t.ec i = s.ec i) ∧ samePdSf s t

/-- A write of 1 to PREEMPT after READY requests the pre-emption of a running pre-emptible job and latches PREEMPT_REQ; of a job whose
descriptor is being read or checked the request is kept until it starts (log entry 136, an inference); any other request is ignored (R364),
a write of 0 does nothing, and one of a RsvZ bit is refused (R9, R459). PREEMPT_SAVE of a drained job ends it PREEMPTED with its record and
message (R365, R366). PREEMPT_TIMEOUT aborts every running task of a job whose arrival is still unreleased 2^24 control cycles after the
request (R365), with a DPI of all ones (log entry 34, an inference: R365 names none); that the row brings the time with it is log entry 25,
the model's choice. -/
def Obligations.Preemption : Prop :=
  (∀ s : State, s.bring.ready = true →
    ∃ t, exec (.preempt 1) s = answers t 0 0 ∧
      ((s.job.st == .running && preemptible s.job.desc && !s.job.preempt) = true →
        t.job = { s.job with preempt := true, preemptAt := s.cycle } ∧ t.cc.evpend = s.cc.evpend ||| (1#16 <<< 11) ∧
        (t.withJob s.job).withCc s.cc = s) ∧
      (s.job.st = .reading → t = s.withJob { s.job with asked := true }) ∧
      (s.job.st ≠ .reading → (s.job.st == .running && preemptible s.job.desc && !s.job.preempt) = false → t = s) ∧
      exec (.preempt 0) s = answers s 0 0 ∧
      ∀ v : W64, v >>> 1 ≠ 0#64 → exec (.preempt v) s = answers (s.withSu { s.su with werr := true, wreason := 1 }) 2 0) ∧
  (∀ s : State, s.stopTasks.drained = true → s.rep.pending = none →
    ∃ t, exec .preemptSave s = .next t ∧ t.job.st = .idle ∧ t.job.preempt = false ∧
      (t.ringAt s.job.ring).done = (s.ringAt s.job.ring).done + 1 ∧ t.iu.queued = [] ∧ t.cc.evpend.getLsbD 9 = true ∧
      ∃ (before : List Msg) (ls : List Nat), t.out = before ++ [.ctrl (ctrlMessage s.id (BitVec.ofNat 3 s.job.ring.1) s.job.slot 3
        s.stopTasks.reported.1 s.stopTasks.reported.2 s.job.userTag)] ++ ls.map Msg.forecast) ∧
  ∀ s : State, s.job.st = .running → s.job.preempt = true → s.sol.out ≠ [] →
    ∃ t, exec .preemptTimeout s = .next t ∧ (∀ u, s.running u = true → aborted t u Code.preemptTimeout noDpi) ∧
      (∀ u, s.running u = false → t.task u = s.task u) ∧ t.cycle = max s.cycle (s.job.preemptAt + 2 ^ 24) ∧
      (∀ i, t.ec i = s.ec i) ∧ t.iu.pd = s.iu.pd ∧ (s.iu.sfNext = [] → t.iu.sf = s.iu.sf)

/-- A doorbell after READY: a set RsvZ bit, a disabled ring, and a value beyond the slot count or behind TAIL are refused with the
ring's error and REASON 1, 3 and 2 and leave TAIL as it is; a value equal to TAIL is ignored; any other becomes TAIL. No other ring
changes (R353, R459). -/
def Obligations.Doorbell : Prop :=
  ∀ (s : State) (n : Fin 8) (v : W64), s.bring.ready = true →
    ∃ t, (∀ m, m ≠ n → t.ringAt m = s.ringAt m) ∧ t.out = s.out ∧ t.iu = s.iu ∧
      (let r := s.ringAt n
       let x : W32 := v.setWidth 32
       if v >>> 32 ≠ 0#64 then
         exec (.doorbell n v) s = answers t 2 0 ∧ t.ringAt n = { r with err := true, reason := 1 }
       else if ringEn r.cfg = false then
         exec (.doorbell n v) s = answers t 2 0 ∧ t.ringAt n = { r with err := true, reason := 3 }
       else if x = r.tail then exec (.doorbell n v) s = answers t 0 0 ∧ t = s
       else if 2 ^ ringLog2 r.cfg < (x - r.head).toNat ∨ 2 ^ 31 ≤ (x - r.tail).toNat then
         exec (.doorbell n v) s = answers t 2 0 ∧ t.ringAt n = { r with err := true, reason := 2 }
       else exec (.doorbell n v) s = answers t 0 0 ∧ t.ringAt n = { r with tail := x })

/-! ### Setup registers -/

/-- Before READY every write and read of the setup window is refused with NOT_READY and changes nothing but the response (R12, R370,
R458). -/
def Obligations.NotReadyWrites : Prop :=
  ∀ (c : Instr) (s : State), s.bring.ready = false →
    (match c with
      | .doorbell _ _ | .preempt _ | .ringCommit _ _ | .eqCommit _ | .bgCommit _ | .fpCommit _ _ | .routeCommit _ | .routeEntHi _
      | .obsCommit _ | .ccCtrl _ | .ccMdataRead | .ccMdataWrite _ | .errlogPop _ | .clrLost _ | .clrPrbs _ _ | .clrReplay _ _
      | .registerWrite _ _ => True
      | _ => False) →
    exec c s = answers s 1 0

/-- A write of 1 to a COMMIT register after READY applies the staged values of its group, as a whole, when they pass the group's checks,
and is refused otherwise with the group's ERR and REASON, the applied values unchanged; a value with a RsvZ bit is refused with REASON 1
and 0 commits nothing (R371, R372, R474, R476, R478). That BG_COMMIT starts the wait for the next telemetry message again at every commit is
log entry 114, an inference. -/
def Obligations.Commits : Prop :=
  (∀ (s : State) (n : Fin 8), s.bring.ready = true →
    ∃ t, t.iu = s.iu ∧ t.out = s.out ∧ (∀ m, m ≠ n → t.ringAt m = s.ringAt m) ∧
      (match s.ringRefusal n with
        | some k => exec (.ringCommit n 1) s = answers t 2 0 ∧ t = s.setRing n { s.ringAt n with err := true, reason := k }
        | none => exec (.ringCommit n 1) s = answers t 0 0 ∧ (t.ringAt n).base = (s.ringAt n).baseS ∧
            (t.ringAt n).cfg = (s.ringAt n).cfgS ∧
            ((s.ringAt n).baseS = (s.ringAt n).base ∧ ringLog2 (s.ringAt n).cfgS = ringLog2 (s.ringAt n).cfg →
              (t.ringAt n).tail = (s.ringAt n).tail ∧ (t.ringAt n).head = (s.ringAt n).head ∧
              (t.ringAt n).done = (s.ringAt n).done) ∧
            ((s.ringAt n).baseS ≠ (s.ringAt n).base ∨ ringLog2 (s.ringAt n).cfgS ≠ ringLog2 (s.ringAt n).cfg →
              (t.ringAt n).tail = 0 ∧ (t.ringAt n).head = 0 ∧ (t.ringAt n).done = 0))) ∧
  (∀ s : State, s.bring.ready = true →
    exec (.eqCommit 1) s = (if bandBad s.eq.stagedBand then answers (s.withEq { s.eq with err := true, reason := 2 }) 2 0
      else answers (s.withEq { s.eq with band := s.eq.stagedBand }) 0 0) ∧
    exec (.bgCommit 1) s = (if (fld s.bg.d0S 0 32 : W32) = 0 ∨ (fld s.bg.d0S 32 32 : W32) = 0 ∨ (fld s.bg.d1S 0 32 : W32) = 0 ∨
        (fld s.bg.d1S 32 32 : W32) = 0 then answers (s.withBg { s.bg with err := true, reason := 2 }) 2 0
      else answers (s.withBg { s.bg with
        d0 := s.bg.d0S, d1 := s.bg.d1S, telem := s.bg.telemS, teleDue := s.tick10 + 100 * s.bg.telemS.toNat }) 0 0) ∧
    exec (.routeCommit 1) s = (if s.badRoutes ≠ [] then answers (s.withFa { s.fa with err := true, reason := 2 }) 2 0
      else if s.job.st ≠ .idle then answers (s.withFa { s.fa with err := true, reason := 3 }) 2 0
      else answers (s.withFa { s.fa with route := s.fa.staged }) 0 0) ∧
    exec (.obsCommit 1) s = (if s.locked then answers s 4 0
      else if (List.range 64).all fun i => s.obsNames i then answers (s.withSu { s.su with obs := s.su.obsS }) 0 0
      else answers (s.withSu { s.su with obsErr := true, obsReason := 2 }) 2 0)) ∧
  (∀ (s : State) (p : Fin 8), s.bring.ready = true →
    (s.id.hasPort p.1 = false → ∀ v, exec (.fpCommit p v) s =
      answers (s.setPort p { s.port p with err := true, reason := 1 }) 2 0) ∧
    (s.id.hasPort p.1 = true → ∀ k, s.portRefusal p = some k → exec (.fpCommit p 1) s =
      answers (s.setPort p { s.port p with err := true, reason := k }) 2 0) ∧
    (s.id.hasPort p.1 = true → s.portRefusal p = none →
      ∃ t, exec (.fpCommit p 1) s = answers t 0 0 ∧ (t.port p).applied = (s.port p).staged ∧
        (t.port p).staged = (s.port p).staged ∧ (∀ q, q ≠ p → t.port q = s.port q) ∧ t.withFp s.fp = s)) ∧
  ∀ (s : State) (v : W64), s.bring.ready = true → v >>> 1 ≠ 0#64 →
    exec (.eqCommit v) s = answers (s.withEq { s.eq with err := true, reason := 1 }) 2 0 ∧
    exec (.bgCommit v) s = answers (s.withBg { s.bg with err := true, reason := 1 }) 2 0 ∧
    exec (.routeCommit v) s = answers (s.withFa { s.fa with err := true, reason := 1 }) 2 0 ∧
    (∀ n, exec (.ringCommit n v) s = answers (s.setRing n { s.ringAt n with err := true, reason := 1 }) 2 0) ∧
    exec (.eqCommit 0) s = answers s 0 0 ∧ exec (.bgCommit 0) s = answers s 0 0 ∧ exec (.routeCommit 0) s = answers s 0 0

/-- Writes after READY that act at once: ROUTE_ENT_HI stages the upper half of the entry at INDEX and advances INDEX (R475);
ERRLOG_POP removes the oldest entry and CLR_LOST clears the lost counts, each by its bit of one register (R396); CLR_PRBS and CLR_REPLAY
clear the counts of a present port, and an absent one refuses them (R473, R458); a write of a staged register is held and applies
nothing (R8, R314, R390, R465, R466, R475); a RsvZ bit refuses a write with REASON 1 (R9, R459); a read-only register ignores a write and
an unmapped offset answers BAD_ADDRESS (R458). -/
def Obligations.SetupWrites : Prop :=
  (∀ (s : State) (v : W64), s.bring.ready = true → s.memoryOk = true →
    ∃ t, exec (.routeEntHi v) s = answers t 0 0 ∧ t.fa.idx = s.fa.idx + 1 ∧ t.fa.route = s.fa.route ∧
      t.fa.staged.get s.fa.idx.toNat = v ++ (fld (s.fa.staged.get s.fa.idx.toNat) 0 64 : BitVec 64) ∧
      (∀ k, k ≠ s.fa.idx.toNat → t.fa.staged.get k = s.fa.staged.get k) ∧ t.withFa s.fa = s) ∧
  (∀ (c : Instr) (s : State) (v : W64), s.bring.ready = true → (c = .errlogPop v ∨ c = .clrLost v) →
    (v >>> 2 ≠ 0#64 → exec c s = answers (s.withSu { s.su with werr := true, wreason := 1 }) 2 0) ∧
    (v >>> 2 = 0#64 → exec c s = answers (s.withErr { s.err with
      log := if bit v 0 then s.err.log.drop 1 else s.err.log, lostMinor := if bit v 1 then 0 else s.err.lostMinor,
      lostMajor := if bit v 1 then 0 else s.err.lostMajor }) 0 0)) ∧
  (∀ (c : Instr) (s : State) (p : Fin 8) (v : W64), s.bring.ready = true → (c = .clrPrbs p v ∨ c = .clrReplay p v) →
    (v >>> 2 ≠ 0#64 ∨ s.id.hasPort p.1 = false →
      exec c s = answers (s.setPort p { s.port p with err := true, reason := 1 }) 2 0) ∧
    (v >>> 2 = 0#64 → s.id.hasPort p.1 = true → exec c s = answers (s.setPort p { s.port p with
      prbs := if bit v 0 then 0 else (s.port p).prbs, resent := if bit v 1 then 0 else (s.port p).resent,
      rejected := if bit v 1 then 0 else (s.port p).rejected }) 0 0)) ∧
  ∀ (s : State) (v : W64), s.bring.ready = true →
    (∀ n : Fin 8, exec (.registerWrite (BitVec.ofNat 16 (0x200 + 64 * n.1)) v) s =
        answers (s.setRing n { s.ringAt n with baseS := v }) 0 0 ∧
      exec (.registerWrite (BitVec.ofNat 16 (0x208 + 64 * n.1)) v) s =
        (if v >>> 7 = 0#64 then answers (s.setRing n { s.ringAt n with cfgS := v }) 0 0
         else answers (s.setRing n { s.ringAt n with err := true, reason := 1 }) 2 0)) ∧
    exec (.registerWrite 0x0400 v) s =
      (if (fld v 35 5 : BitVec 5) = 0#5 ∧ v >>> 48 = 0#64 ∧ 100 ≤ (fld v 40 8 : BitVec 8).toNat ∧ (fld v 40 8 : BitVec 8).toNat ≤ 108
       then answers (s.withEq { s.eq with stagedBand := v }) 0 0 else answers (s.withEq { s.eq with err := true, reason := 1 }) 2 0) ∧
    exec (.registerWrite 0x0480 v) s = answers (s.withBg { s.bg with d0S := v }) 0 0 ∧
    exec (.registerWrite 0x0488 v) s = answers (s.withBg { s.bg with d1S := v }) 0 0 ∧
    exec (.registerWrite 0x0490 v) s = (if v >>> 16 = 0#64 then answers (s.withBg { s.bg with telemS := v }) 0 0
      else answers (s.withBg { s.bg with err := true, reason := 1 }) 2 0) ∧
    (∀ p : Fin 8, exec (.registerWrite (BitVec.ofNat 16 (0x1000 + 512 * p.1)) v) s =
        (if v >>> 5 = 0#64 then answers (s.setPort p { s.port p with staged := { (s.port p).staged with ctrl := v } }) 0 0
         else answers (s.setPort p { s.port p with err := true, reason := 1 }) 2 0) ∧
      ∀ k : Fin 15, exec (.registerWrite (BitVec.ofNat 16 (0x1100 + 512 * p.1 + 8 * k.1)) v) s =
        answers (s.setPort p { s.port p with
          staged := { (s.port p).staged with sched := (s.port p).staged.sched.set k.1 v } }) 0 0) ∧
    exec (.registerWrite 0x2000 v) s = (if v >>> 12 = 0#64 then answers (s.withFa { s.fa with idx := v.setWidth 12 }) 0 0
      else answers (s.withFa { s.fa with err := true, reason := 1 }) 2 0) ∧
    exec (.registerWrite 0x2008 v) s = answers (s.withFa { s.fa with
      staged := s.fa.staged.set s.fa.idx.toNat ((fld (s.fa.staged.get s.fa.idx.toNat) 64 64 : BitVec 64) ++ v) }) 0 0 ∧
    (∀ o ∈ ([0x0000, 0x0008, 0x0010, 0x0018, 0x0020, 0x0110, 0x0118, 0x0128, 0x0418, 0x0428, 0x0430, 0x04A8, 0x0500, 0x0580, 0x0600,
        0x0680, 0x0688, 0x2028] : List (BitVec 16)), exec (.registerWrite o v) s = answers s 0 0) ∧
    ∀ o ∈ ([0x0028, 0x00F8, 0x0140, 0x0700, 0x2030, 0x30A0, 0x4000, 0xFFF8] : List (BitVec 16)),
      exec (.registerWrite o v) s = answers s 3 0

/-! ### Control core -/

/-- CC_CTRL and the halt: a 1 while HALTED is 1 starts the core in the boot state of R347; a 0 halts it at the next instruction boundary, where
HALTED rises; a 1 after a 0 lets the halt complete and then restarts the core in the boot state; a write that does not change CC_RUN has no
effect (R463). In the boot state the hart and the watchdog's limit are as R347 says, the watchdog's count starts, and IMEM, DMEM, the windows
and every other part of the control core keep their contents. -/
def Obligations.CcControl : Prop :=
  ∀ s : State,
    (let booted := s.withCc { s.cc with
       run := true, halted := false, restart := false, hart := Hart.boot, wdLimit := 0, wdStart := s.cycle }
     booted.cc.imem = s.cc.imem ∧ booted.cc.dmem = s.cc.dmem ∧ booted.cc.hart.pc = 0 ∧ booted.cc.hart.machineMode = true ∧
     bit booted.cc.hart.mstatus 3 = false ∧ booted.cc.hart.mtvec = 0 ∧ booted.cc.hart.msfen = false ∧
     (∀ k : Fin 16, booted.cc.hart.pmpcfg[k] = 0) ∧
     (s.bring.ready = true →
       (s.cc.halted = true → s.cc.run = false → exec (.ccCtrl 1) s = answers booted 0 0) ∧
       (s.cc.run = true → exec (.ccCtrl 0) s = answers (s.withCc { s.cc with run := false, restart := false }) 0 0) ∧
       (s.cc.halted = false → s.cc.run = false →
         exec (.ccCtrl 1) s = answers (s.withCc { s.cc with run := true, restart := true }) 0 0) ∧
       ∀ v : W64, v >>> 1 = 0#64 → bit v 0 = s.cc.run → exec (.ccCtrl v) s = answers s 0 0) ∧
     (s.cc.halted = false →
       (s.cc.restart = true → exec .ccHalt s = .next booted) ∧
       (s.cc.restart = false → s.cc.run = false → exec .ccHalt s = .next (s.withCc { s.cc with halted := true })) ∧
       (s.cc.restart = false → s.cc.run = true → exec .ccHalt s = .next s)) ∧
     (s.cc.halted = true → exec .ccHalt s = .next s))

/-- CC_MDATA of a halted core after READY: a write stores the word at CC_MADDR, which a read then returns, changes no other byte of the
two memories, clears an uncorrectable error there, and adds 8 to CC_MADDR; a read changes no memory and adds 8, corrects and logs a single
error, and is refused over an uncorrectable one (R336; where errors come from is log entry 117, the model's choice). An access while the core
runs is refused with WREASON 3, one outside the memories with WREASON 2 (R335, R464); that either leaves CC_MADDR as it was is log entry 36,
an inference where the access lies outside the memories. -/
def Obligations.CcMemory : Prop :=
  (∀ (s : State) (v : W64), s.bring.ready = true → s.cc.halted = true → s.memoryOk = true →
    ∀ d o, ccWord s.cc.maddr.toNat = some (d, o) →
    ∃ t, exec (.ccMdataWrite v) s = answers t 0 0 ∧ t.cc.maddr = (s.cc.maddr + 8) &&& 0x1FFFF8 ∧ t.withCc s.cc = s ∧
      (∀ k, k < 8 → (if d then t.cc.dmem else t.cc.imem).get (o + k) = (leBytes v.toNat 8).getD k 0) ∧
      (∀ a, ¬ (o ≤ a ∧ a < o + 8) → (if d then t.cc.dmem else t.cc.imem).get a = (if d then s.cc.dmem else s.cc.imem).get a) ∧
      (if d then t.cc.imem else t.cc.dmem) = (if d then s.cc.imem else s.cc.dmem) ∧
      (s.cc.maddr.toNat / 8) ∉ t.cc.badWords) ∧
  (∀ s : State, s.bring.ready = true → s.cc.halted = true → ∀ d o, ccWord s.cc.maddr.toNat = some (d, o) →
    (let w := s.cc.maddr.toNat / 8
     let word := BitVec.ofNat 64 (leNat ((List.range 8).map fun k => (if d then s.cc.dmem else s.cc.imem).get (o + k)))
     let next := (s.cc.maddr + 8) &&& 0x1FFFF8
     ∃ t, ∃ code : BitVec 3, ∃ data : W64, exec .ccMdataRead s = answers t code data ∧
       t.cc.maddr = next ∧ t.cc.imem = s.cc.imem ∧ t.cc.dmem = s.cc.dmem ∧ t.cc.badWords = s.cc.badWords ∧
       (w ∉ s.cc.badWords → code = 0 ∧ data = word ∧ t.su = s.su ∧ w ∉ t.cc.flips ∧
         (w ∈ s.cc.flips → logged s t Code.eccCorrected) ∧ (w ∉ s.cc.flips → t.withCc s.cc = s)) ∧
       (w ∈ s.cc.badWords → code = 2 ∧ data = 0 ∧ t.su.werr = true ∧ t.su.wreason = 2))) ∧
  ∀ (s : State) (v : W64), s.bring.ready = true →
    (s.cc.halted = false → exec .ccMdataRead s = answers (s.withSu { s.su with werr := true, wreason := 3 }) 2 0 ∧
      exec (.ccMdataWrite v) s = answers (s.withSu { s.su with werr := true, wreason := 3 }) 2 0) ∧
    (s.cc.halted = true → ccWord s.cc.maddr.toNat = none →
      exec .ccMdataRead s = answers (s.withSu { s.su with werr := true, wreason := 2 }) 2 0 ∧
      exec (.ccMdataWrite v) s = answers (s.withSu { s.su with werr := true, wreason := 2 }) 2 0)

/-- The stores and CSR writes of the running control core, each as the instruction does in the hart's mode (log entry 24, an inference): an
SF entry by CSRRW, CSRRS and CSRRC, in M mode or with MSFEN set, from the value at the start of the control cycle and landing in the next
one, with bit 63 of SF47 not written (R337, R338); a 1 in EVPEND in M mode clears a latched source, and a RsvZ bit leaves the register as it
is (R9, R342); MTIMECMP, the watchdog's kick and limit (R340), a watch slot (R341), the injection window's words while none is pending
(R343), and the message port's registers (R346). A CSR that the mode forbids takes the illegal-instruction exception (R337, R342, R348); a
store that the protection, the alignment or a RsvZ bit forbids takes the store access fault at its address (R335, R348; the status it saves
is log entry 107, presumed). None of them changes a counter, and a halted core stores nothing. -/
def Obligations.CcStores : Prop :=
  (∀ (s : State) (k : BitVec 6) (op : CsrOp) (v : W64), s.cc.halted = false →
    (s.cc.hart.machineMode = false → s.cc.hart.msfen = false →
      ∃ t, exec (.sfCsrWrite k op v) s = .next t ∧ tookTrap s t 2 ∧ t.iu = s.iu) ∧
    ((∀ p ∈ s.iu.sfOld, p.1 ≠ k) → s.sfAtStart k = s.sf k) ∧
    (s.cc.hart.machineMode = true ∨ s.cc.hart.msfen = true →
      (let w := match op with | .rw => v | .rs => s.sfAtStart k ||| v | .rc => s.sfAtStart k &&& ~~~v
       ∃ t, exec (.sfCsrWrite k op v) s = .next t ∧ t = s.withIu { s.iu with sfNext := s.iu.sfNext ++ [(k, w)] } ∧
        ∀ c, s.cycle < c → s.iu.sfNext = [] →
          (t.advanceTo c).sf k = (if k = 47#6 then ((fld w 0 63 : BitVec 63).setWidth 64) |||
            (if s.alm.finite then 1#64 <<< 63 else 0) else w) ∧ ∀ j, j ≠ k → (t.advanceTo c).sf j = s.sf j))) ∧
  (∀ (s : State) (v : W64), s.cc.halted = false →
    (s.cc.hart.machineMode = true → exec (.evpendWrite v) s = .next (if v &&& ~~~0x1B00#64 = 0#64 then
      s.withCc { s.cc with evpend := s.cc.evpend &&& ~~~(v.setWidth 16) } else s)) ∧
    (s.cc.hart.machineMode = false → ∃ t, exec (.evpendWrite v) s = .next t ∧ tookTrap s t 2) ∧
    (s.mayStore 0x203008 = true → exec (.mtimecmpWrite v) s = .next (s.withCc { s.cc with mtimecmp := v })) ∧
    (s.mayStore 0x203018 = true → exec .wdKick s = .next (s.withCc { s.cc with wdStart := s.cycle })) ∧
    (s.mayStore 0x203010 = true → v >>> 32 = 0#64 →
      exec (.wdLimitWrite v) s = .next (s.withCc { s.cc with wdLimit := v.setWidth 32, wdStart := s.cycle })) ∧
    (v >>> 24 = 0#64 → ∀ n : Fin 8, s.mayStore (0x202000 + 8 * n.1) = true → ∃ t, exec (.watchWrite n v) s = .next t ∧
      t.cc.watch[n] = ⟨fld v 0 6, fld v 6 2, fld v 8 16⟩ ∧ (∀ m : Fin 8, m ≠ n → t.cc.watch[m] = s.cc.watch[m]) ∧
      t.withCc s.cc = s) ∧
    (∀ k : Fin 8, s.mayStore (0x201000 + 8 * k.1) = true → s.cc.injBusy = false →
      ∃ t, exec (.injCmdWrite (BitVec.ofNat 7 (8 * k.1)) v) s = .next t ∧ (fld t.cc.injCmd (64 * k.1) 64 : W64) = v ∧
      (∀ m : Fin 8, m ≠ k → (fld t.cc.injCmd (64 * m.1) 64 : W64) = fld s.cc.injCmd (64 * m.1) 64) ∧ t.withCc s.cc = s) ∧
    (∀ k : Fin 8, s.mayStore (0x201000 + 8 * k.1) = true → s.cc.injBusy = true →
      exec (.injCmdWrite (BitVec.ofNat 7 (8 * k.1)) v) s = .next (s.withCc { s.cc with injLost := true })) ∧
    (s.mayStore 0x204000 = true → exec (.msgSend 0x00 v) s = .next (s.withCc { s.cc with msgDest := v })) ∧
    (s.mayStore 0x204010 = true →
      (s.cc.msgQ.length < 8 → 1 ≤ kindOf s.cc.msgDest → kindOf s.cc.msgDest ≤ 8 → offsetOf s.cc.msgDest = 0 →
        (fld s.cc.msgArg 8 8 : BitVec 8) ≠ 0 → exec (.msgSend 0x10 v) s = .next (s.withCc { s.cc with
          msgQ := s.cc.msgQ ++ [.barrier ⟨s.cc.msgDest, s.messageSrc⟩ (fld s.cc.msgArg 0 6) (fld s.cc.msgArg 8 8)] })) ∧
      (8 ≤ s.cc.msgQ.length → exec (.msgSend 0x10 v) s = .next (s.withCc { s.cc with msgLost := true })))) ∧
  (∀ (s : State) (c : Instr) (a : Nat) (v : W64), s.cc.halted = false →
    ((c = .mtimecmpWrite v ∧ a = 0x203008) ∨ (c = .wdKick ∧ a = 0x203018) ∨ (c = .wdLimitWrite v ∧ a = 0x203010) ∨
      (∃ n, c = .watchWrite n v ∧ a = 0x202000 + 8 * n.1) ∨ (∃ o, c = .injCmdWrite o v ∧ a = 0x201000 + o.toNat) ∨
      (c = .injGo ∧ a = 0x201040) ∨ (∃ o, c = .msgSend o v ∧ a = 0x204000 + o.toNat)) →
    (s.mayStore a = false ∨ a % 8 ≠ 0 ∨ (c = .wdLimitWrite v ∧ v >>> 32 ≠ 0#64) ∨ (∃ n, c = .watchWrite n v ∧ v >>> 24 ≠ 0#64) ∨
      (c = .msgSend 0x08 v ∧ v &&& ~~~0xFF3F#64 ≠ 0#64) ∨ (c = .msgSend 0x18 v ∧ v >>> 5 ≠ 0#64)) →
    ∃ t, exec c s = .next t ∧ tookTrap s t 7 ∧ t.cc.hart.mtval = BitVec.ofNat 64 a) ∧
  ∀ (s : State) (k : BitVec 6) (op : CsrOp) (v : W64), s.cc.halted = true →
    exec (.sfCsrWrite k op v) s = .next s ∧ exec (.evpendWrite v) s = .next s ∧ exec (.mtimecmpWrite v) s = .next s ∧
    exec .wdKick s = .next s ∧ exec (.wdLimitWrite v) s = .next s ∧ (∀ o, exec (.msgSend o v) s = .next s) ∧
    (∀ o, exec (.injCmdWrite o v) s = .next s) ∧ (∀ n, exec (.watchWrite n v) s = .next s) ∧ exec .injGo s = .next s

/-- MTIME_MATCH: time passes until MTIME reaches MTIMECMP, and MTIP pends (R340). WATCHDOG_EXPIRY of an enabled watchdog fences the core
with CC_WATCHDOG when its period is over (R340, R348, R398), the control core running or halted (log entry 37, an inference). That each row brings
the time up to its instant is log entry 25, the model's choice. -/
def Obligations.Timers : Prop :=
  (∀ s : State, s.cycle < 2 ^ 64 →
    ∃ t, exec .mtimeMatch s = .next t ∧ t.cycle = max s.cycle (12 * s.cc.mtimecmp.toNat) ∧ s.cc.mtimecmp ≤ t.mtime ∧
      t.mip.getLsbD 7 = true ∧ t.cc = s.cc ∧ (t.withCycle s.cycle).withIu s.iu = s) ∧
  (∀ s : State, s.cc.wdLimit ≠ 0 → s.rep.coreFenced = false →
    ∃ t, exec .watchdogExpiry s = .next t ∧ t.cycle = max s.cycle (s.cc.wdStart + 12 * s.cc.wdLimit.toNat) ∧
      t.rep.coreFenced = true ∧ t.rep.fenceCode = Code.ccWatchdog ∧ logged s t Code.ccWatchdog ∧ t.iu.queued = [] ∧
      t.iu.staged = [] ∧ t.iu.exec = [] ∧ (∀ u, s.running u = true → (t.task u).st = .ended 5) ∧ (∀ i, t.ec i = s.ec i)) ∧
  ∀ s : State, s.cc.wdLimit = 0 → exec .watchdogExpiry s = .next s

/-- INJ_GO submits the staged command when a job runs that is neither replayed nor pre-empted, and the SF writes that retired before it have
landed then (R344); it sets LOST while a submission is pending, with no job that runs, and after a pre-emption request, in replay mode too
(log entry 135, the model's choice), and a submission in replay mode is discarded otherwise (R343, R345, R364). A placement waits while the
command's queue is full, while a command that it depends on has not issued (R172, R247; log entry 123, the model's choice), and while a
resumed job has not come to where it was saved. INJECTION_PLACE
of a submission that decodes puts it at the end of its queue with task 0's next DPI, which advances, records it in the log of a job that
keeps one (R359), and frees the window (R344); one that a decode check refuses aborts task 0 with its code (R344, R348). -/
def Obligations.Injection : Prop :=
  (∀ s : State, s.cc.halted = false → s.mayStore 0x201040 = true →
    (let lost := s.cc.injBusy || !(s.job.st == .running && s.job.lastMsg.isNone) || s.job.preempt || s.rep.coreFenced
     exec .injGo s = .next (if lost then s.withCc { s.cc with injLost := true }
       else if s.job.replays then s else s.landSf.withCc { s.cc with injBusy := true, injPend := some s.cc.injCmd }))) ∧
  (∀ (s : State) (w : CmdWord), s.mayInject = true → s.cc.injPend = some w → s.job.loggedInject 0 (s.task 0).dpi = none →
    (s.settleSwaps.injRoom w = false ∨ (s.task 0).skip ≠ []) → (s.task 0).wasInjected = false →
    ∃ t, exec .injectionPlace s = .next t ∧ upToPower s t) ∧
  ∀ (s : State) (w : CmdWord), s.mayInject = true → s.cc.injPend = some w → (s.task 0).skip = [] → s.job.loggedInject 0 (s.task 0).dpi = none →
    s.settleSwaps.injRoom w = true →
    (let x : Ctx := ⟨0, (s.task 0).dpi, []⟩
     let j := s.job.append 5 0 0 (s.task 0).dpi (leBytes w.toNat 64)
     j.2 = true →
     ∃ t, exec .injectionPlace s = .next t ∧ t.cc.injBusy = false ∧ t.cc.injPend = none ∧ (∀ u, u ≠ 0 → t.task u = s.task u) ∧
       (∀ i, t.ec i = s.ec i) ∧ samePdSf s t ∧
       (∀ c, parseCmd w = .ok c →
         s.settleSwaps.decodeFault ⟨x, c, none, none, true, (s.task 0).pos, (s.task 0).loops, s.cycle⟩ = none →
         (∃ e, t.iu.queued = s.iu.queued ++ [e] ∧ e.cmd = c ∧ e.x = x ∧ e.injected = true ∧ e.aux = none) ∧
         (t.task 0).dpi = (s.task 0).dpi + 1 ∧ t.cc.injLast = (s.task 0).dpi ∧ t.job = j.1) ∧
       (∀ c f, parseCmd w = .ok c →
         s.settleSwaps.decodeFault ⟨x, c, none, none, true, (s.task 0).pos, (s.task 0).loops, s.cycle⟩ = some f →
         s.abortable 0 f.2 = true → aborted t 0 f.1 f.2 ∧ logged s t f.1 ∧ t.cc.injLast = s.cc.injLast))

/-! ### Messages and arrivals -/

/-- A BARRIER message for this core adds its increment to the counter it names, unless the core is fenced; one for another core of the
membership is passed to it with its sender, and any other of this chip is discarded and logged (R320; log entry 90, the model's choice). A
message for another chip goes to the control slot of its entry's selected egress port, or to the core that has the port, and is discarded
where the entry is DEAD (R320); without a job the selection is the one that a job start would make (log entry 80, the model's choice). A
CTRL message for this chip goes to its management block (R319, R320). CONTROL_SLOT_SEND of a live port that is up sends sixteen flits: the
control flit with the next FSEQ, the last good FSEQ received, NAK, IDLE 0, HB and a CRC that holds over what is sent, and the 60 units that
the schedule fills and at most two messages, BARRIER before CTRL, in their places (R309, R312, R319); it is kept for resending (R322). A
port that is down sends absent frames, FSEQ and FCOUNT counting on (R323, R324), and one in pattern mode the generator's flits (R329); a
down port takes a PATTERN of its applied control word at the start of a link period (R474). Before GRADE every port of the build counts as
one (log entry 79, the model's choice), and where a frame lies in its link period is log entry 103, an inference. -/
def Obligations.Messages : Prop :=
  (∀ (s : State) (m : BarrierHead) (ec : BitVec 6) (inc : BitVec 8), s.live = true → chipOf m.dest = s.id.chip →
    (let k := kindOf m.dest
     (k = 1 + s.id.core.toNat → s.rep.coreFenced = false →
      ∃ t, exec (.barrierMessage m ec inc) s = .next t ∧ t.ec ec = s.ec ec + inc.setWidth 16 ∧
        (∀ i, i ≠ ec → t.ec i = s.ec i) ∧ samePdSf s t ∧ t.withIu s.iu = s) ∧
     (k = 1 + s.id.core.toNat → s.rep.coreFenced = true → exec (.barrierMessage m ec inc) s = .next s) ∧
     (k ≠ 1 + s.id.core.toNat → 1 ≤ k → k ≤ 8 → s.sol.memb.getLsbD (k - 1) = true →
      exec (.barrierMessage m ec inc) s = .next (s.emit (.routeMsg (k - 1) (.barrier m ec inc)))) ∧
     (k ≠ 1 + s.id.core.toNat → k = 0 ∨ 8 < k ∨ s.sol.memb.getLsbD (k - 1) = false →
      ∃ t, exec (.barrierMessage m ec inc) s = .next t ∧ logged s t Code.msgDiscarded ∧ t.out = s.out ∧ t.iu = s.iu))) ∧
  (∀ (s : State) (m : BarrierHead) (ec : BitVec 6) (inc : BitVec 8) (k : Nat) (e : BitVec 128), s.live = true →
    chipOf m.dest ≠ s.id.chip → s.routeFor (chipOf m.dest) = some (k, e) →
    (let sel := s.selNow k e
     let q := routePort e sel.toNat
     ∃ t, exec (.barrierMessage m ec inc) s = .next t ∧ t.iu = s.iu ∧
      (sel = 3#2 → logged s t Code.msgDiscarded ∧ t.out = s.out ∧ t.fp = s.fp) ∧
      (sel ≠ 3#2 → q / 8 = s.id.core.toNat → t.withFp s.fp = s ∧
        ∀ p : Fin 8, t.port p = if p.1 = q % 8 then { s.port p with msgs := (s.port p).msgs ++ [.barrier m ec inc] } else s.port p) ∧
      (sel ≠ 3#2 → q / 8 ≠ s.id.core.toNat → t = s.emit (.routeMsg (q / 8) (.barrier m ec inc))))) ∧
  (∀ (s : State) (payload : BitVec 128), s.live = true →
    exec (.ctrlMessage payload s.id.chip) s = .next (s.emit (.toMgmt (.ctrl s.id.chip payload)))) ∧
  (∀ (s : State) (p : Fin 8) (handed : List OutPacket), s.powered = true → s.live = true → s.id.mayHavePort p.1 = true →
    s.cc.msgQ = [] → (s.port p).up = true → (s.port p).pattern = 0 → (s.port p).fcount.toNat + 1 < 2 ^ 48 →
    s.portFenced p = false →
    (let x := ((handed.foldl (fun s o => s.queueUnits p o) s).port p).atPeriod
     let m := fillSlot x.msgs
     let a := x.fill s.id.core
     ∃ t, ∃ f : Frame, exec (.controlSlotSend ⟨p, handed⟩) s = .next t ∧ t.out = s.out ++ [.frame p f.flits] ∧ f.flits.length = 16 ∧
      f.fseq = x.txSeq ∧ f.ackSeq = x.rxLast ∧ f.nak = x.nak ∧ f.aEpoch = x.rxEpoch ∧ f.idle = 0 ∧ f.hb = x.hb ∧
      f.keyEpoch = x.txEpoch ∧ f.crcBad = false ∧
      (encTx x.applied.ctrl = false → f.tag = 0 ∧ f.rawUnits = a.units ++ [msgUnit m.1 0, msgUnit m.1 1]) ∧
      m.1.length ≤ 2 ∧ a.units.length = 60 ∧
      t.port p = { x with
        txSeq := x.txSeq + 1, fcount := x.fcount + 1, msgs := m.2, queue := a.queue, egress := a.egress, sent := (t.port p).sent } ∧
      (t.port p).sent.length ≤ 40 ∧ (t.port p).sent.getLast? = some ⟨x.txSeq, x.txEpoch, f.flits, a.keys⟩ ∧
      (∀ q, q ≠ p → t.port q = s.port q) ∧ (t.withFp s.fp).withOut s.out = s)) ∧
  (∀ (s : State) (p : Fin 8), s.powered = true → s.id.mayHavePort p.1 = true → (s.port p).atPeriod.pattern = 0 →
    (s.live = true → s.cc.msgQ = []) → ((s.port p).up = true → (s.port p).fcount.toNat + 1 < 2 ^ 48) →
    (s.port p).up = false ∨ s.live = false ∨ s.portFenced p = true →
    ∃ t, ∃ f : Frame, exec (.controlSlotSend ⟨p, []⟩) s = .next t ∧ t.out = s.out ++ [.frame p f.flits] ∧ f.flits.length = 16 ∧
      f.idle = 0x5A ∧ f.fseq = (s.port p).txSeq ∧ f.hb = (if s.live then (s.port p).hb else 0) ∧ f.crcBad = false ∧
      (encTx (s.port p).applied.ctrl = false → f.rawUnits = List.replicate 62 0) ∧
      t.port p = { (s.port p).atPeriod with txSeq := (s.port p).txSeq + 1, fcount := (s.port p).fcount + 1 } ∧
      (∀ q, q ≠ p → t.port q = s.port q) ∧ (t.withFp s.fp).withOut s.out = s) ∧
  ∀ (s : State) (p : Fin 8), s.powered = true → s.id.mayHavePort p.1 = true → (s.port p).up = false →
    (s.live = true → s.cc.msgQ = []) →
    (let x := (s.port p).atPeriod
     (periodFrame (s.port p).fcount = 0 → x.pattern = patternOf (s.port p).applied.ctrl) ∧
     (periodFrame (s.port p).fcount ≠ 0 → x = s.port p) ∧
     (x.pattern ≠ 0 → exec (.controlSlotSend ⟨p, []⟩) s = .next ((s.setPort p { x with
        lfsr := (prbsFlits x.pattern 16 x.lfsr).2 }).emit (.frame p (prbsFlits x.pattern 16 x.lfsr).1))))

/-- An inbound write of one 256-byte window whose bytes all lie in valid regions that are not frozen is written whole and acknowledged;
one that leaves them is refused with cause 1, one to a frozen region with cause 3, one that writes an uncorrectable word in part with cause
8, and none of these writes anything (R64, R75, R308). A read request of one window of valid regions that are not poisoned is answered
with its bytes; outside them it is refused with cause 1, over a poisoned half with cause 2; single errors of the words it reads are
corrected and logged (R64). A core that has withdrawn or is not READY refuses with cause 4 (R284), and logs nothing of it (log entry 42, an
inference). On the chip an answer is a message; to another chip it is a packet of agent 13 for its origin positions at the port that leads back,
with the header of R310 (R306, R308, R311, R315; what of a header it keeps is log entry 128, the model's choice). -/
def Obligations.Inbound : Prop :=
  (∀ (s : State) (q : Requester) (addr : Nat) (bs : List Byte), bs ≠ [] → addr / 256 = (addr + bs.length - 1) / 256 →
    s.memoryOk = true →
    ∃ t u : State, exec (.inboundWrite q addr bs) s = .next t ∧ (∀ i, t.ec i = s.ec i) ∧
      (s.live = false → t = s.refuseRun q addr bs.length 4) ∧
      (s.live = true → s.allBytes addr bs.length (fun _ _ => true) = false →
        t = u.refuseRun q addr bs.length 1 ∧ t.spad = s.spad ∧ logged s t Code.inboundRefused) ∧
      (s.live = true → s.allBytes addr bs.length (fun _ _ => true) = true →
        s.allBytes addr bs.length (fun g _ => !g.frozen) = false →
        t = u.refuseRun q addr bs.length 3 ∧ t.spad = s.spad ∧ logged s t Code.inboundRefused) ∧
      (s.live = true → s.allBytes addr bs.length (fun _ _ => true) = true →
        s.allBytes addr bs.length (fun g _ => !g.frozen) = true → s.spad.narrow (placeBytes addr bs) ≠ [] →
        t = u.refuseRun q addr bs.length 8 ∧ t.spad.mem = s.spad.mem ∧ logged s t Code.uncorrectable ∧
        ∀ w ∈ s.spad.narrow (placeBytes addr bs), ∀ r, s.locate (8 * w) = some r → (t.region r.1).poisoned r.2 = true) ∧
      (s.live = true → s.allBytes addr bs.length (fun _ _ => true) = true →
        s.allBytes addr bs.length (fun g _ => !g.frozen) = true → s.spad.narrow (placeBytes addr bs) = [] →
        (∀ k, k < bs.length → t.byte (addr + k) = bs.getD k 0) ∧
        (∀ a, ¬ (addr ≤ a ∧ a < addr + bs.length) → t.byte a = s.byte a) ∧
        t = u.ackRun q addr bs.length ∧ u.withSpad s.spad = s) ∧ u.id = s.id ∧ u.fp = s.fp) ∧
  (∀ (s : State) (q : Requester) (addr len : Nat), 0 < len → addr / 256 = (addr + len - 1) / 256 →
    ∃ t u : State, exec (.readReq q addr ⟨len, []⟩) s = .next t ∧ t.spad = s.spad ∧ (∀ i, t.ec i = s.ec i) ∧ u.id = s.id ∧ u.fp = s.fp ∧
      (s.live = false → t = s.refuseRun q addr len 4) ∧
      (s.live = true → s.allBytes addr len (fun _ _ => true) = false →
        t = u.refuseRun q addr len 1 ∧ logged s t Code.inboundRefused) ∧
      (s.live = true → s.allBytes addr len (fun _ _ => true) = true →
        s.allBytes addr len (fun r h => !r.poisoned h) = false →
        t = u.refuseRun q addr len 2 ∧ logged s t Code.inboundRefused) ∧
      (s.live = true → s.allBytes addr len (fun _ _ => true) = true →
        s.allBytes addr len (fun r h => !r.poisoned h) = true → s.spad.badIn addr len = [] → t = s.dataRun q addr len)) ∧
  (∀ (s : State) (q : Requester) (addr len a : Nat) (single : List Nat), 0 < len → addr / 256 = (addr + len - 1) / 256 →
    s.live = true → s.allBytes addr len (fun _ _ => true) = true → s.allBytes addr len (fun r h => !r.poisoned h) = true →
    s.spad.badIn addr len = [] → a ∈ single → addr ≤ a → a < addr + len → a < s.spadBytes →
    ∃ t more, exec (.readReq q addr ⟨len, single⟩) s = .next t ∧ t.spad = s.spad ∧ t.fp = (s.dataRun q addr len).fp ∧
      t.out = (s.dataRun q addr len).out ++ more ∧ logged s t Code.eccCorrected ∧ t.iu = s.iu ∧ t.rg = s.rg) ∧
  ∀ (s : State) (q : Requester) (addr len : Nat) (cause : BitVec 8),
    (q.chip = s.id.chip → s.ackRun q addr len = s.emit (.ack q) ∧ s.refuseRun q addr len cause = s.emit (.refuse q cause) ∧
      s.dataRun q addr len = s.emit (.readData q (s.bytes addr len))) ∧
    (q.chip ≠ s.id.chip → q.back.1 / 8 = s.id.core.toNat → 0 < len → addr / 256 = (addr + len - 1) / 256 → addr < 2 ^ 40 →
      ∀ p : Fin 8, p.1 = q.back.1 % 8 → ∃ a r d,
        (s.ackRun q addr len).fp = (s.queueUnits p ⟨s.id.core, 13, 0, noDpi, false, [a]⟩).fp ∧
        (s.refuseRun q addr len cause).fp = (s.queueUnits p ⟨s.id.core, 13, 0, noDpi, false, [r]⟩).fp ∧
        (s.dataRun q addr len).fp = (s.queueUnits p ⟨s.id.core, 13, 0, noDpi, false, d⟩).fp ∧
        (headOf a).op = opAck ∧ (headOf r).op = opRefuse ∧ (headOf r).first = cause ∧ (headOf (d.headD 0)).op = opReadData ∧
        (headOf (d.headD 0)).first.toNat = addr % 256 ∧ packetRun d = s.bytes addr len ∧
        ∀ h ∈ [headOf a, headOf r, headOf (d.headD 0)], h.chip = s.id.chip ∧ h.core = s.id.core ∧ h.agent = 13 ∧
          h.lastw = q.lastw ∧ h.last.toNat = (addr + len - 1) % 256)

/-- The responses to a transfer's own windows or runs: READ_DATA keeps the data of one window or run of a load and counts it, and no byte is
visible before STREAM_COMPLETE (R14, R77, R306); ACK counts acknowledgements of a store, and the last one lets its NOTIFY to another core
leave, which is acknowledged in turn (R261); MREPORT counts a receiver's report once (R285), and for a drop on the chip its bit of LATE_MASK
(R298); a REFUSE that is no path down, MESH_TIMEOUT and FABRIC_TIMEOUT fail the transfer: its task aborts with the code and a load's
destination half is poisoned (R79, R296, R308, R326). -/
def Obligations.Responses : Prop :=
  (∀ (s : State) (e : Fin 8) (k : Fin 4) (tr : Transfer) (b : StreamBody) (addr : Nat) (bs : List Byte),
    s.transfer e k = some (tr, b) → b.dir = false → tr.left ≠ 0 → (streamUnits s b).contains (addr, bs.length) = true →
    ∃ t, exec (.readData e k addr bs) s = .next t ∧
      (t.slot e k).run = some { tr with left := tr.left - 1, got := tr.got ++ [(addr, bs)] } ∧ t.withSe s.se = s ∧
      ∀ f q, ¬ (f = e ∧ q = k) → t.slot f q = s.slot f q) ∧
  (∀ (s : State) (e : Fin 8) (k : Fin 4) (tr : Transfer) (b : StreamBody) (n : Nat), s.transfer e k = some (tr, b) →
    b.dir = true → tr.left ≠ 0 →
    (let last := farNotify s b = true ∧ tr.notified = false ∧ tr.faulted = false ∧ tr.left ≤ n
     ∃ t, exec (.ack ⟨e.1, by omega⟩ k n) s = .next t ∧
      (¬ last → (t.slot e k).run = some { tr with left := tr.left - n } ∧ ((t.withSe s.se).withEq s.eq).withOut s.out = s ∧
        onlyForecasts s t) ∧
      (last → (t.slot e k).run = some { tr with left := 1, notified := true } ∧
        (tr.route = none → .notify b.far b.notifyEc b.notifyInc ∈ t.out ∧ t.fp = s.fp) ∧
        (∀ r, tr.route = some r →
          t.fp = (s.sendPackets (s.egressPort r tr.path) e.1 tr.i.e.x.task tr.i.e.x.dpi
            [notifyPacket (s.sender e.1) b.far b.notifyEc b.notifyInc]).fp)) ∧
      (∀ i, t.ec i = s.ec i) ∧ t.iu = s.iu ∧ t.spad = s.spad)) ∧
  (∀ (s : State) (e : Fin 8) (k : Fin 4) (tr : Transfer) (b : StreamBody) (core : BitVec 3), s.transfer e k = some (tr, b) →
    b.mcast = true → tr.reports ≠ 0 → (s.id.chip, core) ∉ tr.told →
    ∃ t u : State, exec (.mreport e k 0 s.id.chip core) s = .next t ∧
      (t.slot e k).run = some { tr with reports := tr.reports - 1, told := tr.told ++ [(s.id.chip, core)] } ∧
      ((t.withSe s.se).withEq s.eq).withOut s.out = s ∧ onlyForecasts s t ∧
      exec (.mreport e k 1 s.id.chip core) s = .next u ∧ (u.slot e k).run = some { tr with
        reports := tr.reports - 1, told := tr.told ++ [(s.id.chip, core)], drops := tr.drops + 1,
        lateMask := tr.lateMask ||| (1#8 <<< core.toNat) } ∧
      ((u.withSe s.se).withEq s.eq).withOut s.out = s ∧ onlyForecasts s u) ∧
  (∀ (s : State) (e : Fin 8) (k : Fin 4) (tr : Transfer) (b : StreamBody) (result : BitVec 2) (chip : BitVec 20) (core : BitVec 3),
    s.transfer e k = some (tr, b) → (chip, core) ∈ tr.told →
    ∃ t, exec (.mreport e k result chip core) s = .next t ∧ t.se = s.se ∧ (t.withEq s.eq).withOut s.out = s ∧ onlyForecasts s t) ∧
  ∀ (c : Instr) (s : State) (e : Fin 8) (k : Fin 4) (tr : Transfer) (b : StreamBody) (code : Code),
    s.transfer e k = some (tr, b) → b.mcast = false → tr.left ≠ 0 → tr.faulted = false → tr.orphan = false →
    s.abortable tr.i.e.x.task tr.i.e.x.dpi = true →
    ((∃ cause chip core, c = .refuse ⟨e.1, by omega⟩ k cause chip core ∧ (cause ≠ 5#8 ∨ tr.route = none) ∧
        code = Code.remoteRefused) ∨
      (c = .meshTimeout ⟨e.1, by omega⟩ k ∧ tr.route = none ∧ code = Code.meshTimeout) ∨
      (c = .fabricTimeout ⟨e.1, by omega⟩ k ∧ tr.route ≠ none ∧ code = Code.fabricTimeout)) →
    ∃ t, exec c s = .next t ∧ aborted t tr.i.e.x.task code tr.i.e.x.dpi ∧ logged s t code ∧
      (b.dir = false → (s.region b.region).valid = true → (s.region b.region).split = true →
        (t.region b.region).poisoned tr.halfB = true) ∧ (∀ j, t.ec j = s.ec j) ∧ samePdSf s t

/-- NOTIFY adds its increment and is acknowledged (R41, R261), and a core that is not live refuses it with cause 4 (R284; that nothing is
logged of it is log entry 42, an inference). MCAST_WRITE that a receiver delivers lands its bytes and its notify and reports delivery; one
that is not released, or in replay mode one that the log records, is dropped: no byte changes, RLATE counts and a drop is reported and
logged (R298, R299); one that a window check stops, or that finds a core not live, is refused (R75, R284). A delivered transfer leaves the
receiver owing a release notice (log entry 49, an inference), and a dropped one does not. One that a detour switch sends again is reported
as it was taken; its bytes are written again, and nothing counts or notifies twice (R285). From the fabric the chip's entry at MROUTE
delivers it to its local cores and replicates it onto its ports (R317), and an index of no multicast entry is logged as CAL_MISMATCH (log
entry 106, the model's choice). RELEASE_NOTICE counts for its group in a running job (R299), a second one of a receiver not again; it tells
the drops that the receiver's log records (log entry 48, the model's choice). PORT_DOWN_NOTICE marks the port down and moves the selection
of each entry that used it to the next live path (R325). -/
def Obligations.NotifyAndMulticast : Prop :=
  (∀ (s : State) (q : Requester) (ec : BitVec 6) (inc : BitVec 8),
    (s.live = true → ∃ t u : State, exec (.notify q ec inc) s = .next t ∧ t.ec ec = s.ec ec + inc.setWidth 16 ∧
      (∀ i, i ≠ ec → t.ec i = s.ec i) ∧ samePdSf s t ∧ t = u.ackNotify q ec inc ∧ u.withIu s.iu = s ∧
      (q.chip = s.id.chip → t.out = s.out ++ [.ack q] ∧ t.fp = s.fp)) ∧
    (s.live = false → exec (.notify q ec inc) s = .next (s.refuseNotify q ec inc 4) ∧
      (q.chip = s.id.chip → s.refuseNotify q ec inc 4 = s.emit (.refuse q 4)))) ∧
  (∀ (s : State) (g : BitVec 12) (chip : BitVec 20) (core : BitVec 3) (seq : BitVec 16) (rs : List (Nat × List Byte))
    (note : Option (BitVec 6 × BitVec 8)) (back : Fin 64), s.memoryOk = true →
    (let drops := if s.job.st == .running && s.job.replays then (s.loggedDrop (mdropKey g chip core seq)).isSome
       else !s.released (s.job.group g)
     ∃ t u : State, exec (.mcastWrite g chip core seq rs ⟨note, none, back⟩) s = .next t ∧ u.id = s.id ∧ u.fp = s.fp ∧
      (∀ r, chip = s.id.chip → u.reportMcast g chip core seq rs back r = u.emit (.mreport g chip core seq r)) ∧
      (s.live = false → t = s.reportMcast g chip core seq rs back 2) ∧
      (s.live = true → s.writeCause (runWrites rs) ≠ none →
        t = u.reportMcast g chip core seq rs back 2 ∧ t.spad.mem = s.spad.mem ∧ ∀ i, t.ec i = s.ec i) ∧
      (s.live = true → s.writeCause (runWrites rs) = none → (s.job.group g).took chip core seq = none → drops = false →
        (∀ a, t.byte a = lastByte (runWrites rs) a (s.byte a)) ∧ t = u.reportMcast g chip core seq rs back 0 ∧ u.out = s.out ∧
        (t.job.group g).taken.getLast? = some ⟨chip, core, seq, true⟩ ∧
        (t.job.group g).delivered = (s.job.group g).delivered + 1 ∧ (t.job.group g).owes = true ∧
        (∀ i, t.ec i = s.ec i + (match note with | some n => if n.1 = i then n.2.setWidth 16 else 0 | none => 0))) ∧
      (s.live = true → s.writeCause (runWrites rs) = none → (s.job.group g).took chip core seq = none → drops = true →
        t.spad = s.spad ∧ t = u.reportMcast g chip core seq rs back 1 ∧ (t.job.group g).owes = (s.job.group g).owes ∧
        (t.job.group g).taken.getLast? = some ⟨chip, core, seq, false⟩ ∧
        (t.job.group g).delivered = (s.job.group g).delivered ∧
        (∀ i, t.ec i = s.ec i + (if i = (s.job.group g).rlateEc then 1 else 0)) ∧ logged s t Code.mcastDrop) ∧
      ∀ d, s.live = true → s.writeCause (runWrites rs) = none → (s.job.group g).took chip core seq = some d →
        t = u.reportMcast g chip core seq rs back (if d then 0 else 1) ∧ u.withSpad s.spad = s ∧
        ∀ a, t.byte a = if d then lastByte (runWrites rs) a (s.byte a) else s.byte a)) ∧
  (∀ (s : State) (g : BitVec 12) (chip : BitVec 20) (core : BitVec 3) (seq : BitVec 16) (rs : List (Nat × List Byte))
    (note : Option (BitVec 6 × BitVec 8)) (r : BitVec 12) (back : Fin 64), s.live = true →
    (let e := s.fa.route.get r.toNat
     ∃ t u : State, exec (.mcastWrite g chip core seq rs ⟨note, some r, back⟩) s = .next t ∧
      exec (.mcastWrite g chip core seq rs ⟨note, none, back⟩) s = .next u ∧
      (routeValid e = false ∨ routeMcast e = false → logged s t Code.calMismatch ∧ t.spad = s.spad ∧ t.iu = s.iu) ∧
      (routeValid e = true → routeMcast e = true →
        t.spad = (if bit e (8 + s.id.core.toNat) then u.spad else s.spad) ∧
        (∀ i, t.ec i = (if bit e (8 + s.id.core.toNat) then u.ec i else s.ec i)) ∧
        (∀ c, c < 8 → c ≠ s.id.core.toNat → bit e (8 + c) = true → .mcastTo c g chip core seq rs note ∈ t.out) ∧
        ∀ q, q < 64 → bit e (16 + q) = true → .mcastOn q g chip core seq rs note ∈ t.out))) ∧
  (∀ (s : State) (g : BitVec 12) (chip : BitVec 20) (core : BitVec 3) (drops : List W64), s.job.st = .running →
    ∃ t, exec (.releaseNotice g chip ⟨core, drops⟩) s = .next t ∧
      (∀ x, x ∈ (t.job.group g).drops ↔ x ∈ (s.job.group g).drops ∨ ∃ d ∈ drops, x = (chip, core, d)) ∧
      (t.job.group g).notices = (s.job.group g).notices ++
        (if (s.job.group g).notices.contains (chip, core) then [] else [(chip, core)]) ∧
      (∀ k, k ≠ g → t.job.group k = s.job.group k) ∧ t.withJob s.job = s) ∧
  (∀ (s : State) (p : Fin 64), s.live = true → s.job.st ≠ .running →
    exec (.portDownNotice p) s = .next (s.withFa { s.fa with portLive := s.fa.portLive &&& ~~~(1#64 <<< p.1) })) ∧
  ∀ (s : State) (p : Fin 64), s.live = true → s.job.st = .running → (s.fa.sel.map Prod.fst).Nodup →
    (let u := s.withFa { s.fa with portLive := s.fa.portLive &&& ~~~(1#64 <<< p.1) }
     ∃ t, exec (.portDownNotice p) s = .next t ∧ t.fa.portLive = u.fa.portLive ∧ t.fa.route = s.fa.route ∧
      (∀ k v, (k, v) ∈ u.entriesOn p.1 → t.routeSel k = u.pathFrom (s.fa.route.get k) (v + 1)) ∧
      (∀ k, (∀ v, (k, v) ∉ u.entriesOn p.1) → t.routeSel k = s.routeSel k) ∧
      ∀ k v, (k, v) ∈ u.entriesOn p.1 → u.pathFrom (s.fa.route.get k) (v + 1) = 3#2 →
        .noPath (fld (s.fa.route.get k) 8 20) (fld (s.fa.route.get k) 28 20) ∈ t.out)

/-! ### Router and links -/

/-- FLIT_FORWARD in a slot sends each flit that arrived fourteen slots before by every output whose OSEL names its input, save that a core
that has withdrawn leaves the slots it owns idle, and holds the new arrivals (R282, R284, R287); a flit that no output takes is discarded
and logged. A flit with one parity error is logged, under the input or output of the router, and sent again where a replay buffer of this
core holds it, as it holds what the core has just sent (log entry 137, the model's choice); a second error takes it out of the router and
aborts the task of the transfer it belongs to with MESH_PARITY (R283). A detour order for a part that the core holds waits for its boundary,
where the part becomes the active router part and the switch is logged; the core whose own number it carries is fenced, and a transfer to
the failed core aborts with REMOTE_REFUSED (R285). A router without a router part, or fenced, takes no order (R417; log entry 118, an
inference). -/
def Obligations.Router : Prop :=
  (∀ (s : State) (slot : Fin 4096) (arrived : List (Fin 9 × Nat)), s.cal.routerFenced = false →
    (let w := s.cal.router.slot slot
     let takes (o : Fin 9) (i : Fin 9) : Prop := o.1 < 8 ∧ osel w o.1 = i.1 ∧ i.1 ≠ 0 ∧ (s.cal.withdrawn = true →
       ¬ (5 ≤ i.1 ∧ ownSlot (injOwner w (i.1 - 5)) = true) ∧ ¬ (4 ≤ o.1 ∧ ownSlot (ejOwner w (o.1 - 4)) = true))
     ∃ t outs, exec (.flitForward slot arrived) s = .next t ∧
      (∀ o : Fin 9, ∀ f, (o, f) ∈ outs ↔ ∃ a i, (a, (i, f)) ∈ s.cal.held ∧ (a + 14) % 4096 = slot.1 ∧ takes o i) ∧
      (outs = [] → t.out = s.out) ∧ (outs ≠ [] → t.out = s.out ++ [.flit slot.1 outs]) ∧
      (∀ a i f, (a, (i, f)) ∈ s.cal.held → (a + 14) % 4096 = slot.1 → (∀ o, ¬ takes o i) → logged s t Code.calMismatch) ∧
      t.cal.held = (s.cal.held.filter fun h => !((h.1 + 14) % 4096 == slot.1)) ++
        ((arrived.filter fun f => f.1.1 != 0).map fun f => (slot.1, f)) ∧
      (∀ o f, (o, f) ∈ outs → (slot.1, f) ∈ t.cal.replays) ∧ ∀ f ∈ arrived, 5 ≤ f.1.1 → (slot.1, f.2) ∈ t.cal.replays)) ∧
  (∀ (s : State) (flit : Fin 9 × Nat) (x : Option (Fin 13 × Fin 4)),
    (∃ t, exec (.meshReplay false ⟨flit, x⟩) s = .next t ∧
      ((∃ a, (a, flit.2) ∈ s.cal.replays) → .resendFlit x ∈ t.out) ∧
      ((∀ a, (a, flit.2) ∉ s.cal.replays) → ∀ y, .resendFlit y ∈ t.out → .resendFlit y ∈ s.out) ∧
      (s.err.log.length < 64 → ∃ e ∈ t.err.log, e.code = Code.meshReplay ∧ e.sub = BitVec.ofNat 8 flit.1.1) ∧ t.cal = s.cal ∧
      t.iu = s.iu ∧ t.spad = s.spad) ∧
    ∃ t, exec (.meshReplay true ⟨flit, x⟩) s = .next t ∧ t.cal.held = s.cal.held.eraseP (fun h => h.2 == flit) ∧
      (x = none → logged s t Code.meshParity ∧ t.iu = s.iu ∧ t.spad = s.spad)) ∧
  (∀ (s : State) (flit : Fin 9 × Nat) (e : Fin 8) (k : Fin 4) (tr : Transfer) (b : StreamBody), s.transfer e k = some (tr, b) →
    tr.left ≠ 0 → tr.faulted = false → s.abortable tr.i.e.x.task tr.i.e.x.dpi = true →
    ∃ t, exec (.meshReplay true ⟨flit, some (⟨e.1, by omega⟩, k)⟩) s = .next t ∧
      aborted t tr.i.e.x.task Code.meshParity tr.i.e.x.dpi ∧ logged s t Code.meshParity) ∧
  (∀ (s : State) (n : BitVec 4),
    (s.cal.routes = true →
      exec (.detourOrder n) s = .next (if (s.cal.ordered n).isSome then s.withCal { s.cal with order := some n } else s)) ∧
    (s.cal.routes = false → exec (.detourOrder n) s = .next s ∧ exec .detourSwitch s = .next (s.follow s))) ∧
  (∀ (s : State) (n : BitVec 4) (r : RouterPart), s.cal.routes = true → s.cal.order = some n → s.cal.ordered n = some r →
    s.rep.coreFenced = false →
    ∃ t, exec .detourSwitch s = .next t ∧ t.cal.router = r ∧ t.cal.order = none ∧ noted t Code.detour ∧
      (n.toNat = s.id.core.toNat → t.rep.coreFenced = true ∧ t.rep.fenceCode = Code.trFault) ∧
      (n.toNat ≠ s.id.core.toNat → t.rep = s.rep ∧
        ((∀ e k, (s.slot e k).run = none) → (∀ x ∈ s.iu.exec, x.2.exporting = none) → t.iu = s.iu))) ∧
  ∀ (s : State) (n : BitVec 4) (r : RouterPart) (e : Fin 8) (k : Fin 4) (tr : Transfer) (b : StreamBody),
    s.cal.routes = true → s.cal.order = some n → s.cal.ordered n = some r → n.toNat ≠ s.id.core.toNat →
    s.transfer e k = some (tr, b) →
    b.mcast = false → chipOf b.far = s.id.chip → kindOf b.far = 1 + n.toNat → tr.left ≠ 0 → tr.faulted = false →
    (∀ f q, ¬ (f = e ∧ q = k) → (s.slot f q).run = none) → s.abortable tr.i.e.x.task tr.i.e.x.dpi = true →
    ∃ t, exec .detourSwitch s = .next t ∧ aborted t tr.i.e.x.task Code.remoteRefused tr.i.e.x.dpi

/-- A sound frame with the expected FSEQ on a port that is up is accepted; one that fails a check is rejected: NAK rises, frames after
it are discarded until it arrives again, and the fourth rejection of it takes the link down, which for its tag alone is LINK_AUTH (R321,
R322, R328). A second absent frame in succession takes it down as well (R324). LINK_REPLAY sends the kept frames after the one a NAK names
again, unchanged, and counts them; the bounds that it extends are logged (R322). TRANSIT_FORWARD puts the units of an ingress position into
the egress position that names it; on a port that is down each packet that begins among them is answered with a REFUSE of cause 5
(R315, R325), which the ingress port's core places in a reverse position, and where there is none CAL_MISMATCH is logged (log entry 130, an
inference). Frames that NAK discards do not count as rejected (log entry 51), and a NAK that names no kept frame has all of them sent again (log
entry 53; both inferences). -/
def Obligations.Frames : Prop :=
  (∀ (s : State) (p : Fin 8) (f : Frame), s.live = true → s.id.hasPort p.1 = true → s.portFenced p = false →
    (s.port p).pattern = 0 → (s.port p).up = true →
    (let x := s.port p
     let inSeq := f.fseq = x.expected f.keyEpoch
     let sound := frameBroken f = false ∧ x.tagFails f = false
     ∃ t, exec (.frameReceive p f) s = .next t ∧ (∀ q, q ≠ p → (t.port q).up = (s.port q).up) ∧
      (inSeq → sound →
        (t.port p).rxLast = f.fseq ∧ (t.port p).rxEpoch = f.keyEpoch ∧ (t.port p).rxCount = x.rxFcount f.keyEpoch + 1 ∧
        (t.port p).nak = false ∧ (t.port p).rejects = 0 ∧ (t.port p).peerHb = f.hb ∧
        ((t.port p).absent = true ↔ f.idle = 0x5A#8) ∧ ((t.port p).up = false ↔ f.idle = 0x5A#8 ∧ 1 ≤ x.absRun)) ∧
      (¬ inSeq → x.nak = true → t = s.setPort p { x with phyUp := true }) ∧
      ((¬ inSeq ∧ x.nak = false) ∨ (inSeq ∧ ¬ sound) →
        (t.port p).rejected = addSat32 x.rejected 1 ∧ (t.port p).rxLast = x.rxLast ∧
        (x.rejects < 3 → (t.port p).nak = true ∧ (t.port p).rejects = x.rejects + 1 ∧ (t.port p).up = true) ∧
        (3 ≤ x.rejects → (t.port p).up = false ∧
          (inSeq → frameBroken f = false → 3 ≤ x.tagRejects → noted t Code.linkAuth))))) ∧
  (∀ (s : State) (p : Fin 8) (seq : BitVec 12) (ep : Bool), s.live = true → (s.port p).up = true →
    framesAfter (s.port p).sent seq ep ≠ [] →
    (let fs := framesAfter (s.port p).sent seq ep
     ∃ t, exec (.linkReplay p seq ep) s = .next t ∧
      (t.port p).resent = addSat32 (s.port p).resent fs.length ∧ (t.port p).sent = (s.port p).sent ∧ logged s t Code.linkReplay ∧
      t.iu = s.iu ∧ t.se = s.se ∧ t.out = s.out ++ fs.map (fun f => .frame p f.flits) ∧
      (∀ f ∈ fs, ∀ k ∈ f.keys, s.awaits k = true → s.err.log.length < 63 → ∃ n ∈ t.err.log, n.code = Code.boundExtend))) ∧
  (∀ (s : State) (p : Fin 8) (pos : Fin 60) (inport : Fin 64) (inpos : Fin 60) (skip : Nat) (units : List (BitVec 128)),
    s.live = true →
    (let w := schedEntry (s.port p).sched pos.1
     (fld w 0 2 : BitVec 2) = 2#2 → (fld w 2 6 : BitVec 6).toNat = inport.1 → (fld w 8 6 : BitVec 6).toNat = inpos.1 →
     inport.1 / 8 ≠ s.id.core.toNat →
     ∃ t, exec (.transitForward p pos inport inpos ⟨skip, units⟩) s = .next t ∧
      ((s.port p).up = true → t = s.setPort p { s.port p with
        egress := (pos.1, units) :: (s.port p).egress.filter fun e => !(e.1 == pos.1) }) ∧
      ((s.port p).up = false → t = s.withOut (s.out ++ (headsIn skip units).map fun u =>
        .pathDown inport.1 inpos.1 (pathDownRefusal (s.sender 14) u))))) ∧
  (∀ (s : State) (p q : Fin 8) (pos : Fin 60) (inport : Fin 64) (inpos : Fin 60) (skip : Nat) (units : List (BitVec 128)) (h : HeldPos)
    (x : BitVec 128), s.live = true → (s.port p).up = false → inport.1 / 8 = s.id.core.toNat → inport.1 % 8 = q.1 →
    ((s.port q).held.find? fun h => h.pos == inpos.1) = some h → headsIn h.skip h.units = [x] →
    (let w := schedEntry (s.port p).sched pos.1
     let back := (s.port q).reversePos (8 * s.id.core.toNat + p.1)
     (fld w 0 2 : BitVec 2) = 2#2 → (fld w 2 6 : BitVec 6).toNat = inport.1 → (fld w 8 6 : BitVec 6).toNat = inpos.1 →
     ∃ t, exec (.transitForward p pos inport inpos ⟨skip, units⟩) s = .next t ∧ t.out = s.out ∧
      (∀ e, back = some e → (t.port q).egress = ((s.port q).addEgress e (pathDownRefusal (s.sender 14) x)).egress) ∧
      (back = none → (t.port q).egress = (s.port q).egress ∧ logged s t Code.calMismatch) ∧
      (headOf (pathDownRefusal (s.sender 14) x)).op = opRefuse ∧ (headOf (pathDownRefusal (s.sender 14) x)).first = 5)) ∧
  ∀ (s : State) (p q : Fin 8) (pos : Fin 60) (inport : Fin 64) (inpos : Fin 60) (skip : Nat) (units : List (BitVec 128)) (h : HeldPos),
    s.live = true → (s.port p).up = true → inport.1 / 8 = s.id.core.toNat → inport.1 % 8 = q.1 →
    ((s.port q).held.find? fun h => h.pos == inpos.1) = some h →
    (let w := schedEntry (s.port p).sched pos.1
     (fld w 0 2 : BitVec 2) = 2#2 → (fld w 2 6 : BitVec 6).toNat = inport.1 → (fld w 8 6 : BitVec 6).toNat = inpos.1 →
     ∃ t, exec (.transitForward p pos inport inpos ⟨skip, units⟩) s = .next t ∧
      (t.port p).egress = (pos.1, h.units) :: (s.port p).egress.filter (fun e => !(e.1 == pos.1)) ∧
      (∀ y ∈ (t.port q).held, y.pos = inpos.1 → y.done = true) ∧ t.withFp s.fp = s)

/-- HEARTBEAT_TICK counts HB on every present port of a live core (R323). The fourth interval without a new heartbeat in succession, and
a fall of PHY_UP, take the link down, which is announced and logged (R324, R325, R447). After four good intervals a trained port comes up
with FSEQ and FCOUNT 0 (R324, R328). A commanded key epoch flip takes effect at the start of a link period, where FCOUNT mod 17 is 0 (log entry
103, an inference), once FCOUNT is at least 64; an
FCOUNT that would reach 2^48 takes the link down as KEY_EXPIRED (R328, R474). -/
def Obligations.LinkEvents : Prop :=
  (∀ s : State, s.live = true → ∃ t, exec .heartbeatTick s = .next t ∧ t.withFp s.fp = s ∧
    ∀ p, t.port p = if s.id.hasPort p.1 then { s.port p with hb := (s.port p).hb + 1 } else s.port p) ∧
  (∀ (s : State) (p : Fin 8), s.id.hasPort p.1 = true → (s.port p).pattern = 0 →
    ∃ t, exec (.heartbeatMiss p) s = .next t ∧
      ((s.port p).misses + 1 < 4 → t = s.setPort p { s.port p with misses := (s.port p).misses + 1, good := 0 }) ∧
      (4 ≤ (s.port p).misses + 1 → (t.port p).up = false ∧ ((s.port p).up = true → noted t Code.linkDown))) ∧
  (∀ (s : State) (p : Fin 8), (s.port p).up = true →
    ∃ t, exec (.phyUpFall p) s = .next t ∧ (t.port p).up = false ∧ (t.port p).phyUp = false ∧
      .portDown ((8 * s.id.core.toNat + p.1) % 64) ∈ t.out ∧ noted t Code.linkDown ∧
      t.fa.portLive.getLsbD ((8 * s.id.core.toNat + p.1) % 64) = false ∧
      (s.job.st ≠ .running → (∀ q, q ≠ p → t.port q = s.port q) ∧ t.iu = s.iu)) ∧
  (∀ (s : State) (p : Fin 8), s.live = true → s.id.hasPort p.1 = true → s.portFenced p = false →
    (s.port p).pattern = 0 → (s.port p).phyUp = true → (s.port p).up = false → 4 ≤ (s.port p).good →
    ∃ t, exec (.linkTrainingComplete p) s = .next t ∧ (t.port p).up = true ∧ (t.port p).txSeq = 0 ∧ (t.port p).fcount = 0 ∧
      (t.port p).rxAny = false ∧ (t.port p).sent = [] ∧ (t.port p).applied = (s.port p).applied ∧ (t.port p).keys = (s.port p).keys ∧
      (∀ q, q ≠ p → t.port q = s.port q) ∧ t.withFp s.fp = s) ∧
  (∀ (s : State) (p : Fin 8), epochOf (s.port p).applied.ctrl ≠ (s.port p).txEpoch → 64 ≤ (s.port p).fcount.toNat →
    periodFrame (s.port p).fcount = 0 →
    exec (.keyEpochFlip p) s = .next (s.setPort p { s.port p with
      txEpoch := epochOf (s.port p).applied.ctrl, txSeq := 0, fcount := 0 })) ∧
  (∀ (s : State) (p : Fin 8), (s.port p).fcount.toNat < 64 ∨ periodFrame (s.port p).fcount ≠ 0 →
    exec (.keyEpochFlip p) s = .next s) ∧
  ∀ (s : State) (p : Fin 8), (s.port p).up = true → 2 ^ 48 ≤ (s.port p).fcount.toNat + 1 →
    ∃ t, exec (.keyExpired p) s = .next t ∧ (t.port p).up = false ∧ noted t Code.keyExpired

/-! ### Solstice and calendars -/

/-- The oldest arrival is released when every other member of its effective set presents an arrival of its parity that agrees:
it leaves SY_OUT, REL_INC lands, one with CAL_SWAP owes a swap of each calendar part, and the release is a Solstice point; a member that
disagrees aborts the task with BARRIER_MISMATCH, and nothing is released while one is missing (R301, R303). MEMBERSHIP_CHANGE does the same
with the new membership (R446). A wire that is outvoted is logged (R302). -/
def Obligations.Solstice : Prop :=
  ∀ (c : Instr) (s u : State) (a : Arrived) (rest : List Arrived) (peers : List (Fin 8 × Arrival)),
    ((c = .solsticeRelease ⟨peers, false⟩ ∧ u = s.withSol { s.sol with peers := peers }) ∨
      (c = .solsticeRelease ⟨peers, true⟩ ∧
        u = (s.note Code.syncVote 0x44 0 0 noDpi 0).withSol { s.sol with peers := peers } ∧ logged s u Code.syncVote) ∨
      (∃ mask, c = .membershipChange mask peers ∧ u = s.withSol { s.sol with memb := mask, peers := peers })) →
    s.sol.out = a :: rest → u.sol.memb.getLsbD s.id.core.toNat = true →
    ∃ t, exec c s = .next t ∧
      (u.peersIn a = none → (t.withEq s.eq).withOut s.out = u ∧ onlyForecasts s t) ∧
      (∀ ps, u.peersIn a = some ps → (∀ p ∈ ps, arrivalsAgree a.shown p = true) →
        t.sol.out = rest ∧ t.ec a.relEc = s.ec a.relEc + a.relInc.setWidth 16 ∧ (∀ i, i ≠ a.relEc → t.ec i = s.ec i) ∧
        t.eq.solstice = true ∧ t.eq.hot = 0 ∧ t.cal = { s.cal with
          routerSwaps := s.cal.routerSwaps + (if a.calSwap then 1 else 0), bankSwaps := s.cal.bankSwaps + (if a.calSwap then 1 else 0) } ∧
        t.err = u.err ∧ ∃ l : List Nat, t.out = s.out ++ (match rest with
          | b :: _ => [.arrival b.members b.calSwap b.parity b.sched]
          | [] => []) ++ l.map Msg.forecast) ∧
      (∀ ps, u.peersIn a = some ps → ¬ (∀ p ∈ ps, arrivalsAgree a.shown p = true) → s.abortable a.task a.dpi = true →
        aborted t a.task Code.barrierMismatch a.dpi ∧ t.sol.out = rest ∧ (∀ i, t.ec i = s.ec i))

/-- CALENDAR_SWAP, once its BARRIER is released, exchanges one part of the active calendar with that of STANDBY, which stays in its state:
the former part is kept there, and a router part that swaps first shows as STANDBY's until the bank part follows (R471); a swap that no
release owes does nothing, and while both parts are due a free value says which comes first (R303; the model's choice, log entry 115).
CALENDAR_LOAD_COMPLETE of an image that passes its checks makes STANDBY VALID; any other makes it INVALID and aborts the task with
BAD_CALENDAR, and an uncorrectable word of the image with UNCORRECTABLE (R64, R290, R291). -/
def Obligations.CalendarSteps : Prop :=
  (∀ s : State, ∃ t, exec .calendarSwap s = .next t ∧
    (let bankFirst := s.draw.1.getLsbD 0
     let both := s.cal.routerSwaps ≠ 0 ∧ s.cal.bankSwaps ≠ 0
     (s.cal.routerSwaps = 0 → s.cal.bankSwaps = 0 → t = s) ∧
     ((t.withCal s.cal).withFreeCtr s.freeCtr = s ∧ t.freeCtr = s.freeCtr + if both then 1 else 0) ∧
     ((s.cal.routerSwaps ≠ 0 ∧ s.cal.bankSwaps = 0) ∨ (both ∧ bankFirst = false) →
       t.cal = { s.cal with
         router := s.cal.standbyParts.router.getD s.cal.router, routerSwaps := s.cal.routerSwaps - 1,
         standbyImg := some ⟨some s.cal.router, s.cal.standbyParts.bank⟩,
         ahead := if s.cal.bankSwaps = s.cal.routerSwaps then s.cal.standbyParts.router else none }) ∧
     ((s.cal.routerSwaps = 0 ∧ s.cal.bankSwaps ≠ 0) ∨ (both ∧ bankFirst = true) →
       t.cal = { s.cal with
         bank := s.cal.standbyParts.bank, bankSwaps := s.cal.bankSwaps - 1,
         standbyImg := some ⟨s.cal.standbyParts.router, s.cal.bank⟩, ahead := none }))) ∧
  ∀ (s : State) (l : CalLoading), s.cal.loading = some l →
    (let img := sliceBytes s.spad.mem l.addr calImageLen
     let ok := imageOk s.id (sharesOf s.job.desc) img && keepsOthers s.cal (imgRouter img) (imgBank img)
     ∃ t, exec .calendarLoadComplete s = .next t ∧ t.cal.loading = none ∧ t.cal.router = s.cal.router ∧ t.cal.bank = s.cal.bank ∧
      (s.spad.badIn l.addr calImageLen = [] → ok = true →
        t.cal.standby = .valid ∧ t.cal.standbyImg = some ⟨some (imgRouter img), imgBank img⟩ ∧
        ((t.withCal s.cal).withEq s.eq).withOut s.out = s ∧ onlyForecasts s t) ∧
      (s.spad.badIn l.addr calImageLen ≠ [] ∨ ok = false → t.cal.standby = .invalid) ∧
      (s.spad.badIn l.addr calImageLen = [] → ok = false → l.orphan = false → s.abortable l.task l.dpi = true →
        aborted t l.task Code.badCalendar l.dpi) ∧
      (s.spad.badIn l.addr calImageLen ≠ [] → l.orphan = false → s.abortable l.task l.dpi = true →
        aborted t l.task Code.uncorrectable l.dpi))

/-! ### Equinox and background -/

/-- Every tenth sample is a tick (R373). A tick follows the tick mean w: the power emergency stretch rises by 1 with w above 240 W, rises by
1 when a run of ten ticks above CEILING ends with no Solstice point in it, and falls by 1 with w at most CEILING - 10 W; a Solstice point
starts the run again, and so does a run's tenth tick (R384; the latter is log entry 145, the model's choice). Target, pending throttle and
thermal stretch follow R379 and R383. The band comes from EQ_BAND, or from the port, which is sampled at every tick whatever BAND_SRC says
(R450) and whose band takes effect at the tick after the one that accepts it; one that breaks R372 is ignored and sets an event (R375). A
tick changes nothing outside Equinox. -/
def Obligations.EquinoxTick : Prop :=
  (∀ (s : State) (band : BitVec 33) (toggle : Bool), s.bring.ready = true → s.eq.samples = 10 →
    ∃ t, exec (.equinoxTick band toggle) s = .next t ∧ (t.withEq s.eq).withOut s.out = s ∧ onlyForecasts s t ∧ t.eq.samples = 0 ∧
      (let w := s.eq.mean
       let ceiling := 40 * bandCeiling t.eq.inUse
       let run := if ceiling < w then s.eq.hot + 1 else 0
       let tmax := s.eq.temps.foldl max 0
       t.eq.spw = s.eq.spw + (if 9600 < w then 1 else 0) + (if run = 10 then 1 else 0) - (if w + 400 ≤ ceiling then 1 else 0) ∧
       t.eq.hot = (if run = 10 then 0 else run) ∧
       t.eq.target = min (max w (40 * bandFloor t.eq.inUse)) ceiling ∧
       t.eq.pendThrottle = (if ceiling < w ∧ s.eq.throttle < 8 then s.eq.throttle + 1
         else if 0 < s.eq.throttle ∧ w * (16 + s.eq.throttle + s.eq.stretch) + 400 * (15 + s.eq.throttle + s.eq.stretch) ≤
           ceiling * (15 + s.eq.throttle + s.eq.stretch) then s.eq.throttle - 1
         else s.eq.throttle) ∧
       t.eq.sth = (if tmax + 8 ≤ tripOf t.eq.inUse then s.eq.sth - 1 else s.eq.sth)) ∧
      (bit s.eq.band 34 = false → t.eq.inUse = s.eq.band) ∧
      (bit s.eq.band 34 = true →
        (fld t.eq.inUse 0 33 : BitVec 33) = s.eq.portBand.getD (fld s.eq.inUse 0 33) ∧
        (fld t.eq.inUse 33 31 : BitVec 31) = fld s.eq.band 33 31) ∧
      t.eq.tgl = toggle ∧
      (toggle = s.eq.tgl → t.eq.portBand = s.eq.portBand) ∧
      (toggle ≠ s.eq.tgl → bandBad (withPortBand s.eq.band band) = false → t.eq.portBand = some band) ∧
      (toggle ≠ s.eq.tgl → bandBad (withPortBand s.eq.band band) = true →
        t.eq.portBand = s.eq.portBand ∧ t.eq.events.getLsbD 3 = true)) ∧
  (∀ (s : State) (band : BitVec 33) (toggle : Bool), s.eq.samples ≠ 10 → exec (.equinoxTick band toggle) s = .next s) ∧
  ∀ (s : State) (peers : List (Fin 8 × Arrival)) (a : Arrived) (rest : List Arrived) (ps : List Arrival),
    s.sol.out = a :: rest → s.sol.memb.getLsbD s.id.core.toNat = true →
    (s.withSol { s.sol with peers := peers }).peersIn a = some ps → (∀ p ∈ ps, arrivalsAgree a.shown p = true) →
    ∃ t, exec (.solsticeRelease ⟨peers, false⟩) s = .next t ∧ t.eq.hot = 0

/-- A sample moves the set point toward the target by at most RAMP, places ballast that exceeds neither the request nor BALLAST_LIMIT,
and none while ballast may not run (R377, R379); the sensors of absent units read 0 (R374), the thermal stretch rises by 1 when TMAX is at
least TRIP, and a reading of 110 °C fences the core with THERMAL_LIMIT (R383). A crossing whose supplies differ by more than 150 mV, whose
hottest sensors differ by more than 20 °C, or whose clocks differ by more than 2.0 is logged and clamped (R388; log entry 87, the model's
choice, on how clamps add). STRETCH_CHANGE makes the stretch the sum of its components, limited to 11 - t (R383); THROTTLE_CHANGE takes the
greater of the pending level and the port's demand, only after a Solstice point (R379, R382), and a change is logged (R385). A clamp of
a side that the release names is released once its cause has been absent for ten samples, 10 µs (R388). -/
def Obligations.EquinoxClock : Prop :=
  (∀ (s : State) (p : PowerSample), s.bring.ready = true → s.rep.coreFenced = false →
    (let temps := readings s.id p.temps
     let tmax := temps.foldl max 0
     ∃ t, exec (.equinoxSample p) s = .next t ∧
      t.eq.sp = (if s.eq.sp ≤ s.eq.target then min s.eq.target (s.eq.sp + 5 * bandRamp s.eq.inUse)
        else max s.eq.target (s.eq.sp - 5 * bandRamp s.eq.inUse)) ∧
      t.eq.ballast ≤ t.eq.sp - 10 * p.work ∧ t.eq.ballast ≤ 40 * bandBallast s.eq.inUse ∧
      (s.ballastOk = false → t.eq.ballast = 0) ∧ t.eq.pw.length ≤ 10 ∧ t.eq.pw.getLast? = some p.work ∧
      t.eq.samples = s.eq.samples % 10 + 1 ∧ t.eq.temps = temps ∧ .sensors temps (decide (440 ≤ tmax)) ∈ t.out ∧
      (∀ k, k < 8 → s.id.hasArray (k / 2) = false → temps[k]? = some 0) ∧
      (∀ k, 8 ≤ k → k < 10 → s.id.hasVx = false → temps[k]? = some 0) ∧
      t.eq.sth = s.eq.sth + (if tripOf s.eq.inUse ≤ tmax then 1 else 0) ∧
      (tmax < 440 → t.iu = s.iu ∧ t.spad = s.spad ∧ t.rep = s.rep ∧ t.job.st = s.job.st) ∧
      (440 ≤ tmax → t.rep.coreFenced = true ∧ t.rep.fenceCode = Code.thermalLimit ∧
        (p.crossings = [] → p.parity = [] → logged s t Code.thermalLimit)) ∧
      (p.crossings = [] → t.eq.clamps = s.eq.clamps.map fun c => { c with absent := c.absent + 1 }) ∧
      (∀ m, p.crossings = [m] → p.parity = [] →
        (let fast := max m.clockA m.clockB
         let slow := min m.clockA m.clockB
         let hotA := (temps.take 10).foldl max 0
         let hotB := ((temps.drop 10).take 3).foldl max 0
         let wide := 150 < m.supply ∨ 80 < max hotA hotB - min hotA hotB
         (wide ∨ 2 * slow < fast → noted t Code.islandLimit ∧ t.eq.events.getLsbD 2 = true) ∧
         (wide → ∃ c ∈ t.eq.clamps, c.crossing = 0 ∧ c.ratio = false ∧ c.absent = 0) ∧
         (2 * slow < fast → ∃ c ∈ t.eq.clamps, c.crossing = 0 ∧ c.ratio = true ∧ c.absent = 0))))) ∧
  (∀ s : State, s.bring.ready = true → ∃ t, exec .stretchChange s = .next t ∧ t.eq.throttle = s.eq.throttle ∧
    t.eq.stretch = min (s.eq.sth + s.eq.spw + s.eq.clamped false) (11 - s.eq.throttle) ∧
    (t.eq.stretch ≠ s.eq.stretch → logged s t Code.boundExtend ∧ .power t.eq.throttle t.eq.stretch ∈ t.out) ∧ t.iu = s.iu ∧
    t.spad = s.spad) ∧
  (∀ (s : State) (demand : BitVec 4), s.bring.ready = true → s.eq.solstice = true →
    ∃ t, exec (.throttleChange demand) s = .next t ∧ t.eq.throttle = min 8 (max s.eq.pendThrottle demand.toNat) ∧
      t.eq.stretch = min (s.eq.sth + s.eq.spw + s.eq.clamped false) (11 - t.eq.throttle) ∧ t.eq.solstice = false ∧
      (t.eq.throttle + t.eq.stretch ≠ s.eq.throttle + s.eq.stretch → logged s t Code.boundExtend) ∧ t.iu = s.iu ∧
      t.spad = s.spad) ∧
  (∀ (s : State) (demand : BitVec 4), s.eq.solstice = false → exec (.throttleChange demand) s = .next s) ∧
  ∀ (s : State) (arith control : Bool), ∃ t, exec (.islandClampRelease arith control) s = .next t ∧ t.withEq s.eq = s ∧
    t.eq = { s.eq with clamps := t.eq.clamps } ∧ List.Sublist t.eq.clamps s.eq.clamps ∧
    ∀ c, c ∈ t.eq.clamps ↔ c ∈ s.eq.clamps ∧ (c.absent < 10 ∨ (if c.control then control else arith) = false)

/-- A class is at level 2 from its deadline, at level 1 from three quarters of it, at level 0 below half of it, and keeps its level between;
entering level 2 is logged (R413). Its age is that of the scrub pass, of the oldest tile record that waits, of the oldest telemetry message,
and of the oldest admitted background transfer (R412), at the microsecond that BACKGROUND_LEVEL names (the model's choice, log entry 2). A
scrub read, of a logical bank's word or a spare bank's, repairs nothing it cannot: a single error is only logged, an uncorrectable one stays
and poisons the half that holds it, and no byte changes (R64); a pass ends, and the next begins, after as many reads as the 34 banks have
words, in any order (R412; log entry 113, the model's choice). A drained tile record leaves the queue for the Assay buffer (R116). A
telemetry period queues one message at its end, or skips it when four wait, and both take a sequence number (R467); the instants at which
one is due are log entry 114, an inference. -/
def Obligations.BackgroundWork : Prop :=
  (∀ (s0 : State) (us : Nat), s0.bring.ready = true → ∃ t s, exec (.backgroundLevel us) s0 = .next t ∧
    s = s0.advanceTo (1200 * us) ∧ t.cycle = max s0.cycle (1200 * us) ∧ s.tick10 = t.cycle / 12 ∧
    s.classAge 0 = s.tick10 - s.bg.passStart ∧
    (∀ x rest, s.alm.tileAge = x :: rest → (∀ y ∈ rest, x ≤ y) → x ≤ s.tick10 → s.classAge 1 = s.tick10 - x) ∧
    (∀ x rest, s.bg.teleQ = x :: rest → (∀ y ∈ rest, x.1 ≤ y.1) → x.1 ≤ s.tick10 → s.classAge 2 = s.tick10 - x.1) ∧
    (s.alm.tileAge = [] → s.classAge 1 = 0) ∧ (s.bg.teleQ = [] → s.classAge 2 = 0) ∧ (s.backStreams = [] → s.classAge 3 = 0) ∧
    (∀ x ∈ s.backStreams, s.tick10 - x ≤ s.classAge 3) ∧
    (∀ c : Fin 4,
      (100 * s.bg.deadline c.1 ≤ s.classAge c → t.bg.level[c.1] = 2 ∧
        (s.bg.level[c.1] ≠ 2 → logged s t Code.backgroundOverdue)) ∧
      (s.classAge c < 100 * s.bg.deadline c.1 → 75 * s.bg.deadline c.1 ≤ s.classAge c → t.bg.level[c.1] = 1) ∧
      (s.classAge c < 50 * s.bg.deadline c.1 → t.bg.level[c.1] = 0) ∧
      (50 * s.bg.deadline c.1 ≤ s.classAge c → s.classAge c < 75 * s.bg.deadline c.1 → t.bg.level[c.1] = s.bg.level[c.1])) ∧
    t.iu = s.iu ∧ t.spad = s.spad) ∧
  (∀ (s : State) (addr : Nat) (found : EccKind), s.bring.ready = true →
    ∃ t, exec (.scrub addr found) s = .next t ∧ t.spad.mem = s.spad.mem ∧ t.iu = s.iu ∧
      (s.bg.passWords + 1 < 34 * (s.spadBytes / 256) → t.bg = { s.bg with passWords := s.bg.passWords + 1 }) ∧
      (34 * (s.spadBytes / 256) ≤ s.bg.passWords + 1 → t.bg = { s.bg with passWords := 0, passStart := s.tick10 }) ∧
      (found = .clean → addr / 8 ∉ s.spad.bad → t.withBg s.bg = s) ∧
      (found = .single → addr / 8 ∉ s.spad.bad → t.spad = s.spad ∧ t.rg = s.rg ∧ logged s t Code.eccCorrected) ∧
      (found = .double ∨ addr / 8 ∈ s.spad.bad → addr / 8 ∈ t.spad.bad ∧ logged s t Code.uncorrectable ∧
        ∀ r, s.locate (8 * (addr / 8)) = some r → (t.region r.1).poisoned r.2 = true)) ∧
  (∀ s : State, ∃ t, exec .tileRecordDrain s = .next t ∧ (s.alm.tiles = [] → t = s) ∧
    ∀ r rest, s.alm.tiles = r :: rest → t.alm.tiles = rest ∧ t.alm.tileCount = s.alm.tileCount + 1 ∧ t.iu = s.iu ∧
      (s.ownAddr (s.job.assayBuf + BitVec.ofNat 64 (192 * s.alm.tileCount)) = false → t.spad = s.spad ∧
        t.out = s.out ++ [.memWrite (placeBytes (s.job.assayBuf + BitVec.ofNat 64 (192 * s.alm.tileCount)).toNat
          (leBytes r.toNat 192))])) ∧
  ∀ s : State, s.bring.ready = true → ∃ t, exec .telemetry s = .next t ∧ (s.bg.telem = 0 → t = s) ∧
    (s.bg.telem ≠ 0 → t.cycle = max s.cycle (12 * s.bg.teleDue) ∧ t.bg.teleSeq = s.bg.teleSeq + 1 ∧
      t.bg.teleDue = s.bg.teleDue + 100 * s.bg.telem.toNat ∧
      t.bg.teleQ = (if s.bg.teleQ.length < 4 then
        s.bg.teleQ ++ [(t.tick10, (s.advanceTo (12 * s.bg.teleDue)).teleMessage)] else s.bg.teleQ) ∧
      t.withBg s.bg = s.advanceTo (12 * s.bg.teleDue))

/-! ### Fences and repair -/

/-- A core-fatal event fences a core that is READY: fetch and issue stop, every queue is empty, running tasks end FENCED, no job runs, the
control core halts (log entry 144, the model's choice), the FENCED message, with the ring and the slot also of a job whose descriptor is
being read or checked (R462), and the fence notice leave, and counters, predicates, scalar file, calendars and ports stay (R284, R362,
R398). A stopped clock does that for the router and sync islands, the router's in a held warm reset too (R417; that clocks are watched
before READY is log entry 64, an inference), takes every port down for the fabric island, and fences an array that the core has (R151,
R440), whose tasks abort at the DPI of their command there (log entry 73, an inference). A fenced core withdraws once no transfer runs
(R284). A record that breaks no check is held pending, or applied at bring-up; one that breaks a check is refused and logged, and one that
leaves a failing location uncovered fails bring-up with cause 4 (R403, R424; the cause is log entry 61, an inference); REPAIR_APPLY puts its
fences and bank map in force, and a unit whose self-test fails stays fenced, which is logged (R403). A record whose beats come out of order
is discarded (R449). -/
def Obligations.FencesAndRepair : Prop :=
  (∀ (c : Instr) (s : State) (code : Code) (dpi : W64), s.bring.ready = true → s.rep.coreFenced = false →
    ((c = .coreFence code dpi ∧ 0x300 ≤ code ∧ code ≤ 0x306) ∨ (c = .mgmtFence ∧ code = Code.mgmtFence ∧ dpi = noDpi)) →
    ∃ t, exec c s = .next t ∧ t.rep.coreFenced = true ∧ t.rep.fenceCode = code ∧ t.rep.fence = s.rep.fence ∧
      t.iu.queued = [] ∧ t.iu.staged = [] ∧ t.iu.exec = [] ∧ (∀ u, s.running u = true → (t.task u).st = .ended 5) ∧
      t.job.st = .idle ∧ t.cc.halted = true ∧ .fenceNotice code ∈ t.out ∧
      (s.job.st ≠ .reading → .ctrl (s.fencedMessage code dpi) ∈ t.out) ∧
      (s.job.st = .reading → ∃ tag, .ctrl (ctrlMessage s.id (BitVec.ofNat 3 s.job.ring.1) s.job.slot 5 (code.setWidth 16) dpi tag) ∈ t.out) ∧
      (∀ m, s.job.lastMsg = some m → .ctrl m ∈ t.out) ∧ logged s t code ∧ (∀ i, t.ec i = s.ec i) ∧
      samePdSf s t ∧ t.cal = s.cal ∧ t.fp = s.fp) ∧
  (∀ s : State, s.powered = true → s.bring.held = false →
    (∃ t, exec (.clockStop .router) s = .next t ∧ t.rep.coreFenced = true ∧ t.cal.routerFenced = true ∧ t.cal.routes = false ∧
      (s.rep.coreFenced = false → t.rep.fenceCode = Code.trFault)) ∧
    (∃ t, exec (.clockStop .sync) s = .next t ∧ t.rep.coreFenced = true ∧ t.cal = s.cal ∧
      (s.rep.coreFenced = false → t.rep.fenceCode = Code.syncFault)) ∧
    (∃ t, exec (.clockStop .fabric) s = .next t ∧ ∀ p, (t.port p).up = false) ∧
    ∀ n : Fin 4, ∃ t, exec (.clockStop (.arrayClock n)) s = .next t ∧
      (s.id.hasArray n.1 = false → t.rep = s.rep ∧ t.iu = s.iu) ∧
      (s.id.hasArray n.1 = true → t.rep.fence = s.rep.fence ||| (1#32 <<< n.1) ∧
        ∀ u, s.ownsArray u n = true → s.abortable u (s.arrayDpi u n) = true →
          aborted t u Code.arrayShared (s.arrayDpi u n) ∧ logged s t Code.arrayShared)) ∧
  (∀ s : State, s.powered = true → s.bring.held = true → s.bring.cold = false →
    ∃ t, exec (.clockStop .router) s = .next t ∧ t.rep.coreFenced = true ∧ t.cal.routerFenced = true) ∧
  (∀ s : State, s.rep.coreFenced = true → s.cal.withdrawn = false → (∀ q k, (s.slot q k).run = none) →
    ∃ t, exec .admissionWithdraw s = .next t ∧ t.cal.withdrawn = true ∧ ∀ p, (t.port p).up = false) ∧
  (∀ (s : State) (r : BitVec 2048), s.inPhase 5 = true → ∃ t, exec (.repairRecord ⟨r, true⟩) s = .next t ∧
    (recOk s.id r = true → (∀ f ∈ s.bring.failing, failCovered s.id r f = true) →
      t.bring.phase = 6 ∧ t.rep.fence = recFence r ∧ t.rep.record = some r ∧ t.spad.bankMap = recBanks r) ∧
    (¬ (recOk s.id r = true ∧ ∀ f ∈ s.bring.failing, failCovered s.id r f = true) →
      t.bring.failed = true ∧ t.bring.cause = 4 ∧ t.rep = s.rep) ∧
    (recOk s.id r = false → noted t Code.repairRefused)) ∧
  (∀ (s : State) (r : BitVec 2048), s.works = true → ∃ t, exec (.repairRecord ⟨r, true⟩) s = .next t ∧
    (recOk s.id r = true → t.rep.pending = some r) ∧
    (recOk s.id r = false → t.rep.pending = s.rep.pending ∧ logged s t Code.repairRefused) ∧ t.rep.fence = s.rep.fence ∧
    t.rep.record = s.rep.record ∧ t.spad = s.spad ∧ t.iu = s.iu) ∧
  (∀ (s : State) (r : BitVec 2048), s.powered = true → ∃ t, exec (.repairRecord ⟨r, false⟩) s = .next t ∧ t.rep = s.rep ∧
    t.bring = s.bring ∧ logged s t Code.msgDiscarded) ∧
  ∀ (s : State) (failed : BitVec 32) (r : BitVec 2048), s.works = true → s.rep.pending = some r → s.job.st = .idle →
    s.job.lastMsg = none → ∃ t, exec (.repairApply failed) s = .next t ∧ t.rep.record = some r ∧ t.rep.pending = none ∧
      t.rep.fence = recFence r ||| (s.rep.fence &&& ~~~(recFence r) &&& failed) ∧ t.spad.bankMap = recBanks r ∧
      t.spad.mem = s.spad.mem ∧
      ((∃ k, k < 26 ∧ (s.rep.fence &&& ~~~(recFence r) &&& failed).getLsbD k = true) → logged s t Code.selftestFail)

/-! ### Resets, bring-up and test -/

/-- A power-on or warm reset, and UNLOCK in PRODUCTION, leave every store zero and bring-up at phase 0 with the reset held; the lifecycle
state, GRADE, the repair state and the bank map stay (R422), with them the other identity items, the build's parameters and the maker (log
entry 63, an inference), and the readings on the sensor outputs (R454), not those of the registers (R390); a warm reset leaves the router
part in force, the observation selectors, the TAP but for the internal chains, which close and lose what scan shift loaded (R436), and the
test-hold latch, and only UNLOCK sets the unlock latch (R16, R417, R418, R432); a forecast that stood and a slowed clock are withdrawn on
their ports (R450). Power removal leaves no state (R389). RESET_RELEASE zeroises and verifies, and enters phase 2, whose items it requests,
stops after phase 1 with TEST_HOLD, or fails with cause 1 and the store that read back non-zero (R421, R423, R426, R436). -/
def Obligations.Resets : Prop :=
  (∀ (c : Instr) (s : State), (c = .powerOnReset ∨
      (s.powered = true ∧ (s.bring.held && s.bring.cold) = false ∧
        (c = .warmReset ∨ (c = .unlock ∧ s.id.lifecycle = 3)))) →
    ∃ t, exec c s = .next t ∧
      t.bring = { Bring.start with
        cold := t.bring.cold, unlocked := t.bring.unlocked, testHold := t.bring.testHold } ∧
      (t.bring.cold = true ↔ c = .powerOnReset) ∧ (t.bring.unlocked = true ↔ c = .unlock) ∧ t.powered = true ∧
      t.bring.testHold = (if c = .powerOnReset then false else s.bring.testHold) ∧
      (c ≠ .powerOnReset → t.su.obs = s.su.obs) ∧ t.eq = { Eqx.zero_ with tsOut := s.eq.tsOut } ∧
      t.tap = (if c = .powerOnReset then Tap.zero_ else { s.tap with chains := false, scan := [] }) ∧
      t.spad = { Spad.zero_ with bankMap := s.spad.bankMap } ∧ t.rg = RegionTable.zero_ ∧ t.iu = Iu.zero_ ∧
      (∀ n p, (t.array n).part p = Part.empty) ∧ t.vx = VecState.empty ∧ t.cu = VecState.empty ∧ t.job = Job.zero_ ∧
      t.cc = Cc.zero_ ∧ t.err = Err.zero_ ∧ t.id = s.id ∧ t.rep.fence = s.rep.fence ∧ t.rep.record = s.rep.record ∧
      t.rep.coreFenced = false ∧ t.cal.router = (if c = .powerOnReset then RouterPart.empty else s.cal.router) ∧
      t.cal.withdrawn = true ∧ t.out = s.out ++ (if s.eq.fc then [.forecast 0] else []) ++
        (if s.eq.throttle = 0 ∧ s.eq.stretch = 0 then [] else [.power 0 0])) ∧
  (∀ s : State, (s.powered = false ∨ (s.bring.held && s.bring.cold) = true) → exec .warmReset s = .next s) ∧
  (∀ s : State, (s.powered = false ∨ (s.bring.held && s.bring.cold) = true ∨ s.id.lifecycle ≠ 3) → exec .unlock s = .next s) ∧
  (∀ s : State, ∃ t, exec .powerRemoval s = .next t ∧ t.powered = false ∧ t.id = Ident.undelivered s.id.build ∧
    t.spad = Spad.zero_ ∧ t.iu = Iu.zero_ ∧ t.rep = Repair.zero_ ∧ t.cal = Cal.zero_ ∧ t.cc = Cc.zero_) ∧
  ∀ (s : State) (hold : Bool) (failing : Option FailLoc), s.powered = true → s.bring.held = true →
    ∃ t, exec (.resetRelease hold failing) s = .next t ∧ t.bring.held = false ∧ t.bring.testHold = hold ∧
      (∀ a, t.byte a = 0) ∧ t.rg = RegionTable.zero_ ∧ (∀ i, t.ec i = 0) ∧ t.id = s.id ∧ t.rep = s.rep ∧
      t.cal = { s.cal with replays := [] } ∧
      (failing = none → t.bring.zeroOk = true ∧ t.bring.phase = (if hold then 1 else 2) ∧ t.err = Err.zero_ ∧
        t.out = s.out ++ (if hold then [] else [.itemRequest [1, 2, 3]])) ∧
      (∀ f, failing = some f → t.bring.failed = true ∧ t.bring.cause = 1 ∧ t.bring.unit = f.unit ∧ t.bring.loc = f.loc ∧
        t.inTestHold = false ∧ logged s t Code.bringupFail ∧ t.out = s.out ++ [.sideband 2 t.report, .mgReport t.report])

/-- Each phase of bring-up takes its item: identity, lifecycle state and GRADE in phase 2; the self-tests; the default calendar and the
detour parts in phase 6; the known-answer test, which passes when two runs without an error are compared, ends phase 7 and with it phase 8,
whose zeroise clears the error log (log entry 65, an inference); a wait that ends fails with cause 2; READY rises from phase 9 (R421 to
R427, R429, R449). An item outside its window, or with beats out of order, is discarded and logged (R449). Keys and SALTs are held from the
end of phase 1 where the build has them (R327); the lifecycle can refuse key slots (R430), and GRADE drops those of a port that it fuses off
(R3). The TAP's instructions select their registers, a code that the table does not list the bypass register (R435), and BYPASS loads a free
one of the codes that select it (the model's choice, log entry 116); the internal chains open, and scan shift loads them, in test hold only,
and not under the lock (R431, R436); what the IEEE 1687 network holds is free (log entry 127, the model's choice). -/
def Obligations.BringUpAndTest : Prop :=
  (∀ (s : State) (item : W64), s.inPhase 2 = true →
    (∃ t, exec (.identity item) s = .next t ∧ t.bring.gotId = true ∧
      t.id = { s.id with chip := fld item 0 20, core := fld item 20 3, mfr := fld item 23 11, memNom := fld item 34 14,
                         hbNom := fld item 48 14 }) ∧
    (∃ t, exec (.lifecycle item) s = .next t ∧ t.bring.gotLife = true ∧ t.id = { s.id with lifecycle := fld item 0 3 }) ∧
    (∃ t, exec (.gradeItem item) s = .next t ∧ t.bring.gotGrade = true ∧ t.id = { s.id with grade := item, graded := true } ∧
      (∀ p : Fin 8, t.id.mayHavePort p.1 = false → (t.port p).keyFull = 0 ∧ (t.port p).saltFull = 0) ∧
      (∀ p : Fin 8, t.id.mayHavePort p.1 = true → t.port p = s.port p) ∧
      (s.bring.gotId = true → s.bring.gotLife = true → 1 ≤ s.id.lifecycle → s.id.lifecycle ≤ 4 →
        item.getLsbD 0 = true → 0 < s.id.build.arrays → item.getLsbD 8 = true → 0 < s.id.build.vxGroups → t.bring.phase = 3 ∧
        t.bring.failed = false) ∧
      (s.bring.gotId = true → s.bring.gotLife = true → 1 ≤ s.id.lifecycle → s.id.lifecycle ≤ 4 →
        fld item 0 4 = 0#4 ∨ fld item 8 16 = 0#16 → t.bring.failed = true ∧ t.bring.cause = 7))) ∧
  (∀ (s : State) (item : W64), s.powered = true → s.inPhase 2 = false → ∃ t, exec (.identity item) s = .next t ∧ t.id = s.id ∧
    t.bring = s.bring ∧ logged s t Code.msgDiscarded) ∧
  (∀ (s : State) (fs : List FailLoc), s.inPhase 3 = true → ∃ t, exec (.memoryBist fs) s = .next t ∧ t.bring.phase = 4 ∧
    t.bring.failing = s.bring.failing ++ fs) ∧
  (∀ (s : State) (fs : List FailLoc), s.inPhase 4 = true → ∃ t, exec (.logicBist fs) s = .next t ∧
    ((∀ f ∈ s.bring.failing ++ fs, failCoverable f = true) → t.bring.phase = 5 ∧ t.bring.failed = false) ∧
    (¬ (∀ f ∈ s.bring.failing ++ fs, failCoverable f = true) → t.bring.failed = true ∧ t.bring.cause = 3)) ∧
  (∀ (s : State) (fs : List FailLoc), s.inTestHold = true →
    exec (.memoryBist fs) s = .next (s.withBring { s.bring with failing := s.bring.failing ++ fs }) ∧
    exec (.logicBist fs) s = .next (s.withBring { s.bring with failing := s.bring.failing ++ fs })) ∧
  (∀ (s : State) (img : Bytes), s.inPhase 6 = true → ∃ t, exec (.defaultCalendar ⟨img, true⟩) s = .next t ∧
    (imageOk s.id defaultShares img = true → t.bring.gotCal = true ∧ t.cal.bank = imgBank img ∧ t.cal.standby = .invalid ∧
      (s.bring.cold = true → t.cal.router = imgRouter img)) ∧
    (imageOk s.id defaultShares img = false → t.bring.failed = true ∧ t.bring.cause = 5 ∧ t.cal = s.cal)) ∧
  (∀ (s : State) (n : Fin 8) (img : Bytes), s.inPhase 6 = true → ∃ t, exec (.detourPart n ⟨img, true⟩) s = .next t ∧
    (detourOk s.id img = true → t.cal.detours[n.1] = some (imgRouter img) ∧ t.bring.gotDetour.getLsbD n.1 = true) ∧
    (detourOk s.id img = false → t.bring.failed = true ∧ t.bring.cause = 5 ∧ t.cal = s.cal)) ∧
  (∀ (s : State) (n : Fin 8) (img : Bytes), s.powered = true →
    (∃ t, exec (.detourPart n ⟨img, false⟩) s = .next t ∧ t.cal = s.cal ∧ t.bring = s.bring ∧ logged s t Code.msgDiscarded) ∧
    ∃ t, exec (.defaultCalendar ⟨img, false⟩) s = .next t ∧ t.cal = s.cal ∧ t.bring = s.bring ∧ logged s t Code.msgDiscarded) ∧
  (∀ (s : State) (p : Fin 8) (rx slot : Bool) (key : BitVec 256) (v : BitVec 32), s.afterPhase1 = true → s.hasKeys p = true →
    (s.keysRefused = true → exec (.linkKey p rx slot key) s = .next s) ∧
    (s.keysRefused = false → ∃ t, exec (.linkKey p rx slot key) s = .next t ∧
      (t.port p).keys.toList = (s.port p).keys.toList.set ((if rx then 2 else 0) + if slot then 1 else 0) key ∧
      (∀ q, q ≠ p → t.port q = s.port q) ∧ t.withFp s.fp = s) ∧
    ∃ t, exec (.salt p rx v) s = .next t ∧ (t.port p).salts.toList = (s.port p).salts.toList.set (if rx then 1 else 0) v ∧
      (∀ q, q ≠ p → t.port q = s.port q) ∧ t.withFp s.fp = s) ∧
  (∀ (s : State) (cg : Bool), s.inPhase 7 = true →
    ∃ t, exec (.knownAnswerTest ⟨[], []⟩ cg) s = .next t ∧
      (cg = false → t.bring.phase = 9 ∧ t.bring.failed = false ∧ t.err = Err.zero_) ∧
      (cg = true → t.bring.failed = true ∧ t.bring.cause = 6)) ∧
  (∀ (s : State) (k i : Nat) (flips : W32) (other : List KatFlaw), s.inPhase 7 = true → 1 ≤ k → k ≤ 10 → i < 4096 → flips ≠ 0 →
    s.rep.fence.getLsbD 4 = false → (∀ f ∈ other, f.kernel ≠ k ∨ f.element ≠ i) →
    ∃ t, exec (.knownAnswerTest ⟨[⟨k, i, flips⟩], other⟩ false) s = .next t ∧ t.bring.failed = true ∧ t.bring.cause = 6) ∧
  (∀ s : State, (s.inPhase 2 || s.inPhase 5 || s.inPhase 6) = true → ∃ t, exec .sidebandTimeout s = .next t ∧
    t.bring.failed = true ∧ t.bring.cause = 2) ∧
  (∀ s : State, s.inPhase 9 = true → ∃ t, exec .ready s = .next t ∧ t.bring.ready = true ∧ t.cal.withdrawn = false ∧
    t.eq.sp = 40 * bandFloor s.eq.inUse ∧ t.eq.target = 40 * bandFloor s.eq.inUse ∧ .mgReport t.report ∈ t.out) ∧
  ∀ s : State, s.powered = true →
    (∃ t, exec .idcode s = .next t ∧ t.tap.ir = 1 ∧ fld t.tap.dr 0 1 = 1#1 ∧ fld t.tap.dr 1 11 = s.id.mfr ∧
      fld t.tap.dr 12 16 = 0x1E7C#16 ∧ fld t.tap.dr 28 4 = 3#4 ∧ t.withTap s.tap = s) ∧
    (∃ t, exec .report s = .next t ∧ t.tap.ir = 2 ∧ fld t.tap.dr 0 64 = s.report ∧ t.withTap s.tap = s) ∧
    (∃ t, exec .prbsCount s = .next t ∧ t.tap.ir = 3 ∧ (∀ p : Fin 8, fld t.tap.dr (32 * p.1) 32 = (s.port p).prbs) ∧
      t.withTap s.tap = s) ∧
    (∀ o shift, ∃ t, exec (.ijtag ⟨o, shift⟩) s = .next t ∧ t.tap.ir = 8 ∧ t.tap.chains = (o && s.inTestHold && !s.locked) ∧
      t.tap.scan = (if t.tap.chains then shift.getD s.tap.scan else s.tap.scan) ∧
      (t.withTap s.tap).withFreeCtr s.freeCtr = s) ∧
    (∀ code : BitVec 5, code ≠ 1#5 → code ≠ 2#5 → code ≠ 3#5 → s.tapReg code = 0) ∧
    ∃ t, exec .bypass s = .next t ∧ t.tap.ir ≠ 1#5 ∧ t.tap.ir ≠ 2#5 ∧ t.tap.ir ≠ 3#5 ∧ t.tap.ir ≠ 8#5 ∧ t.tap.dr = 0 ∧
      t.tap.chains = s.tap.chains ∧ (t.withTap s.tap).withFreeCtr s.freeCtr = s
end
end

