-- ==== Sys2Proof/Laws/State.lean ====
section
/-! SUPPORT. What each replacement of a field of the state changes, and that it changes nothing else: one lemma per field
per update. -/

namespace Sys2Proof.Machine

@[simp] theorem State.withPending_pending (s : State) (x : List Instr) : (s.withPending x).pending = x := rfl
@[simp] theorem State.withPending_out (s : State) (x : List Instr) : (s.withPending x).out = s.out := rfl
@[simp] theorem State.withPending_freeCtr (s : State) (x : List Instr) : (s.withPending x).freeCtr = s.freeCtr := rfl
@[simp] theorem State.withPending_powered (s : State) (x : List Instr) : (s.withPending x).powered = s.powered := rfl
@[simp] theorem State.withPending_cycle (s : State) (x : List Instr) : (s.withPending x).cycle = s.cycle := rfl
@[simp] theorem State.withPending_id (s : State) (x : List Instr) : (s.withPending x).id = s.id := rfl
@[simp] theorem State.withPending_bring (s : State) (x : List Instr) : (s.withPending x).bring = s.bring := rfl
@[simp] theorem State.withPending_spad (s : State) (x : List Instr) : (s.withPending x).spad = s.spad := rfl
@[simp] theorem State.withPending_rg (s : State) (x : List Instr) : (s.withPending x).rg = s.rg := rfl
@[simp] theorem State.withPending_iu (s : State) (x : List Instr) : (s.withPending x).iu = s.iu := rfl
@[simp] theorem State.withPending_mx (s : State) (x : List Instr) : (s.withPending x).mx = s.mx := rfl
@[simp] theorem State.withPending_vx (s : State) (x : List Instr) : (s.withPending x).vx = s.vx := rfl
@[simp] theorem State.withPending_cu (s : State) (x : List Instr) : (s.withPending x).cu = s.cu := rfl
@[simp] theorem State.withPending_se (s : State) (x : List Instr) : (s.withPending x).se = s.se := rfl
@[simp] theorem State.withPending_tu (s : State) (x : List Instr) : (s.withPending x).tu = s.tu := rfl
@[simp] theorem State.withPending_alm (s : State) (x : List Instr) : (s.withPending x).alm = s.alm := rfl
@[simp] theorem State.withPending_cal (s : State) (x : List Instr) : (s.withPending x).cal = s.cal := rfl
@[simp] theorem State.withPending_sol (s : State) (x : List Instr) : (s.withPending x).sol = s.sol := rfl
@[simp] theorem State.withPending_fp (s : State) (x : List Instr) : (s.withPending x).fp = s.fp := rfl
@[simp] theorem State.withPending_fa (s : State) (x : List Instr) : (s.withPending x).fa = s.fa := rfl
@[simp] theorem State.withPending_cc (s : State) (x : List Instr) : (s.withPending x).cc = s.cc := rfl
@[simp] theorem State.withPending_ring (s : State) (x : List Instr) : (s.withPending x).ring = s.ring := rfl
@[simp] theorem State.withPending_job (s : State) (x : List Instr) : (s.withPending x).job = s.job := rfl
@[simp] theorem State.withPending_eq (s : State) (x : List Instr) : (s.withPending x).eq = s.eq := rfl
@[simp] theorem State.withPending_err (s : State) (x : List Instr) : (s.withPending x).err = s.err := rfl
@[simp] theorem State.withPending_rep (s : State) (x : List Instr) : (s.withPending x).rep = s.rep := rfl
@[simp] theorem State.withPending_bg (s : State) (x : List Instr) : (s.withPending x).bg = s.bg := rfl
@[simp] theorem State.withPending_su (s : State) (x : List Instr) : (s.withPending x).su = s.su := rfl
@[simp] theorem State.withPending_tap (s : State) (x : List Instr) : (s.withPending x).tap = s.tap := rfl
@[simp] theorem State.withOut_pending (s : State) (x : List Msg) : (s.withOut x).pending = s.pending := rfl
@[simp] theorem State.withOut_out (s : State) (x : List Msg) : (s.withOut x).out = x := rfl
@[simp] theorem State.withOut_freeCtr (s : State) (x : List Msg) : (s.withOut x).freeCtr = s.freeCtr := rfl
@[simp] theorem State.withOut_powered (s : State) (x : List Msg) : (s.withOut x).powered = s.powered := rfl
@[simp] theorem State.withOut_cycle (s : State) (x : List Msg) : (s.withOut x).cycle = s.cycle := rfl
@[simp] theorem State.withOut_id (s : State) (x : List Msg) : (s.withOut x).id = s.id := rfl
@[simp] theorem State.withOut_bring (s : State) (x : List Msg) : (s.withOut x).bring = s.bring := rfl
@[simp] theorem State.withOut_spad (s : State) (x : List Msg) : (s.withOut x).spad = s.spad := rfl
@[simp] theorem State.withOut_rg (s : State) (x : List Msg) : (s.withOut x).rg = s.rg := rfl
@[simp] theorem State.withOut_iu (s : State) (x : List Msg) : (s.withOut x).iu = s.iu := rfl
@[simp] theorem State.withOut_mx (s : State) (x : List Msg) : (s.withOut x).mx = s.mx := rfl
@[simp] theorem State.withOut_vx (s : State) (x : List Msg) : (s.withOut x).vx = s.vx := rfl
@[simp] theorem State.withOut_cu (s : State) (x : List Msg) : (s.withOut x).cu = s.cu := rfl
@[simp] theorem State.withOut_se (s : State) (x : List Msg) : (s.withOut x).se = s.se := rfl
@[simp] theorem State.withOut_tu (s : State) (x : List Msg) : (s.withOut x).tu = s.tu := rfl
@[simp] theorem State.withOut_alm (s : State) (x : List Msg) : (s.withOut x).alm = s.alm := rfl
@[simp] theorem State.withOut_cal (s : State) (x : List Msg) : (s.withOut x).cal = s.cal := rfl
@[simp] theorem State.withOut_sol (s : State) (x : List Msg) : (s.withOut x).sol = s.sol := rfl
@[simp] theorem State.withOut_fp (s : State) (x : List Msg) : (s.withOut x).fp = s.fp := rfl
@[simp] theorem State.withOut_fa (s : State) (x : List Msg) : (s.withOut x).fa = s.fa := rfl
@[simp] theorem State.withOut_cc (s : State) (x : List Msg) : (s.withOut x).cc = s.cc := rfl
@[simp] theorem State.withOut_ring (s : State) (x : List Msg) : (s.withOut x).ring = s.ring := rfl
@[simp] theorem State.withOut_job (s : State) (x : List Msg) : (s.withOut x).job = s.job := rfl
@[simp] theorem State.withOut_eq (s : State) (x : List Msg) : (s.withOut x).eq = s.eq := rfl
@[simp] theorem State.withOut_err (s : State) (x : List Msg) : (s.withOut x).err = s.err := rfl
@[simp] theorem State.withOut_rep (s : State) (x : List Msg) : (s.withOut x).rep = s.rep := rfl
@[simp] theorem State.withOut_bg (s : State) (x : List Msg) : (s.withOut x).bg = s.bg := rfl
@[simp] theorem State.withOut_su (s : State) (x : List Msg) : (s.withOut x).su = s.su := rfl
@[simp] theorem State.withOut_tap (s : State) (x : List Msg) : (s.withOut x).tap = s.tap := rfl
@[simp] theorem State.withFreeCtr_pending (s : State) (x : Nat) : (s.withFreeCtr x).pending = s.pending := rfl
@[simp] theorem State.withFreeCtr_out (s : State) (x : Nat) : (s.withFreeCtr x).out = s.out := rfl
@[simp] theorem State.withFreeCtr_freeCtr (s : State) (x : Nat) : (s.withFreeCtr x).freeCtr = x := rfl
@[simp] theorem State.withFreeCtr_powered (s : State) (x : Nat) : (s.withFreeCtr x).powered = s.powered := rfl
@[simp] theorem State.withFreeCtr_cycle (s : State) (x : Nat) : (s.withFreeCtr x).cycle = s.cycle := rfl
@[simp] theorem State.withFreeCtr_id (s : State) (x : Nat) : (s.withFreeCtr x).id = s.id := rfl
@[simp] theorem State.withFreeCtr_bring (s : State) (x : Nat) : (s.withFreeCtr x).bring = s.bring := rfl
@[simp] theorem State.withFreeCtr_spad (s : State) (x : Nat) : (s.withFreeCtr x).spad = s.spad := rfl
@[simp] theorem State.withFreeCtr_rg (s : State) (x : Nat) : (s.withFreeCtr x).rg = s.rg := rfl
@[simp] theorem State.withFreeCtr_iu (s : State) (x : Nat) : (s.withFreeCtr x).iu = s.iu := rfl
@[simp] theorem State.withFreeCtr_mx (s : State) (x : Nat) : (s.withFreeCtr x).mx = s.mx := rfl
@[simp] theorem State.withFreeCtr_vx (s : State) (x : Nat) : (s.withFreeCtr x).vx = s.vx := rfl
@[simp] theorem State.withFreeCtr_cu (s : State) (x : Nat) : (s.withFreeCtr x).cu = s.cu := rfl
@[simp] theorem State.withFreeCtr_se (s : State) (x : Nat) : (s.withFreeCtr x).se = s.se := rfl
@[simp] theorem State.withFreeCtr_tu (s : State) (x : Nat) : (s.withFreeCtr x).tu = s.tu := rfl
@[simp] theorem State.withFreeCtr_alm (s : State) (x : Nat) : (s.withFreeCtr x).alm = s.alm := rfl
@[simp] theorem State.withFreeCtr_cal (s : State) (x : Nat) : (s.withFreeCtr x).cal = s.cal := rfl
@[simp] theorem State.withFreeCtr_sol (s : State) (x : Nat) : (s.withFreeCtr x).sol = s.sol := rfl
@[simp] theorem State.withFreeCtr_fp (s : State) (x : Nat) : (s.withFreeCtr x).fp = s.fp := rfl
@[simp] theorem State.withFreeCtr_fa (s : State) (x : Nat) : (s.withFreeCtr x).fa = s.fa := rfl
@[simp] theorem State.withFreeCtr_cc (s : State) (x : Nat) : (s.withFreeCtr x).cc = s.cc := rfl
@[simp] theorem State.withFreeCtr_ring (s : State) (x : Nat) : (s.withFreeCtr x).ring = s.ring := rfl
@[simp] theorem State.withFreeCtr_job (s : State) (x : Nat) : (s.withFreeCtr x).job = s.job := rfl
@[simp] theorem State.withFreeCtr_eq (s : State) (x : Nat) : (s.withFreeCtr x).eq = s.eq := rfl
@[simp] theorem State.withFreeCtr_err (s : State) (x : Nat) : (s.withFreeCtr x).err = s.err := rfl
@[simp] theorem State.withFreeCtr_rep (s : State) (x : Nat) : (s.withFreeCtr x).rep = s.rep := rfl
@[simp] theorem State.withFreeCtr_bg (s : State) (x : Nat) : (s.withFreeCtr x).bg = s.bg := rfl
@[simp] theorem State.withFreeCtr_su (s : State) (x : Nat) : (s.withFreeCtr x).su = s.su := rfl
@[simp] theorem State.withFreeCtr_tap (s : State) (x : Nat) : (s.withFreeCtr x).tap = s.tap := rfl
@[simp] theorem State.withPowered_pending (s : State) (x : Bool) : (s.withPowered x).pending = s.pending := rfl
@[simp] theorem State.withPowered_out (s : State) (x : Bool) : (s.withPowered x).out = s.out := rfl
@[simp] theorem State.withPowered_freeCtr (s : State) (x : Bool) : (s.withPowered x).freeCtr = s.freeCtr := rfl
@[simp] theorem State.withPowered_powered (s : State) (x : Bool) : (s.withPowered x).powered = x := rfl
@[simp] theorem State.withPowered_cycle (s : State) (x : Bool) : (s.withPowered x).cycle = s.cycle := rfl
@[simp] theorem State.withPowered_id (s : State) (x : Bool) : (s.withPowered x).id = s.id := rfl
@[simp] theorem State.withPowered_bring (s : State) (x : Bool) : (s.withPowered x).bring = s.bring := rfl
@[simp] theorem State.withPowered_spad (s : State) (x : Bool) : (s.withPowered x).spad = s.spad := rfl
@[simp] theorem State.withPowered_rg (s : State) (x : Bool) : (s.withPowered x).rg = s.rg := rfl
@[simp] theorem State.withPowered_iu (s : State) (x : Bool) : (s.withPowered x).iu = s.iu := rfl
@[simp] theorem State.withPowered_mx (s : State) (x : Bool) : (s.withPowered x).mx = s.mx := rfl
@[simp] theorem State.withPowered_vx (s : State) (x : Bool) : (s.withPowered x).vx = s.vx := rfl
@[simp] theorem State.withPowered_cu (s : State) (x : Bool) : (s.withPowered x).cu = s.cu := rfl
@[simp] theorem State.withPowered_se (s : State) (x : Bool) : (s.withPowered x).se = s.se := rfl
@[simp] theorem State.withPowered_tu (s : State) (x : Bool) : (s.withPowered x).tu = s.tu := rfl
@[simp] theorem State.withPowered_alm (s : State) (x : Bool) : (s.withPowered x).alm = s.alm := rfl
@[simp] theorem State.withPowered_cal (s : State) (x : Bool) : (s.withPowered x).cal = s.cal := rfl
@[simp] theorem State.withPowered_sol (s : State) (x : Bool) : (s.withPowered x).sol = s.sol := rfl
@[simp] theorem State.withPowered_fp (s : State) (x : Bool) : (s.withPowered x).fp = s.fp := rfl
@[simp] theorem State.withPowered_fa (s : State) (x : Bool) : (s.withPowered x).fa = s.fa := rfl
@[simp] theorem State.withPowered_cc (s : State) (x : Bool) : (s.withPowered x).cc = s.cc := rfl
@[simp] theorem State.withPowered_ring (s : State) (x : Bool) : (s.withPowered x).ring = s.ring := rfl
@[simp] theorem State.withPowered_job (s : State) (x : Bool) : (s.withPowered x).job = s.job := rfl
@[simp] theorem State.withPowered_eq (s : State) (x : Bool) : (s.withPowered x).eq = s.eq := rfl
@[simp] theorem State.withPowered_err (s : State) (x : Bool) : (s.withPowered x).err = s.err := rfl
@[simp] theorem State.withPowered_rep (s : State) (x : Bool) : (s.withPowered x).rep = s.rep := rfl
@[simp] theorem State.withPowered_bg (s : State) (x : Bool) : (s.withPowered x).bg = s.bg := rfl
@[simp] theorem State.withPowered_su (s : State) (x : Bool) : (s.withPowered x).su = s.su := rfl
@[simp] theorem State.withPowered_tap (s : State) (x : Bool) : (s.withPowered x).tap = s.tap := rfl
@[simp] theorem State.withCycle_pending (s : State) (x : Nat) : (s.withCycle x).pending = s.pending := rfl
@[simp] theorem State.withCycle_out (s : State) (x : Nat) : (s.withCycle x).out = s.out := rfl
@[simp] theorem State.withCycle_freeCtr (s : State) (x : Nat) : (s.withCycle x).freeCtr = s.freeCtr := rfl
@[simp] theorem State.withCycle_powered (s : State) (x : Nat) : (s.withCycle x).powered = s.powered := rfl
@[simp] theorem State.withCycle_cycle (s : State) (x : Nat) : (s.withCycle x).cycle = x := rfl
@[simp] theorem State.withCycle_id (s : State) (x : Nat) : (s.withCycle x).id = s.id := rfl
@[simp] theorem State.withCycle_bring (s : State) (x : Nat) : (s.withCycle x).bring = s.bring := rfl
@[simp] theorem State.withCycle_spad (s : State) (x : Nat) : (s.withCycle x).spad = s.spad := rfl
@[simp] theorem State.withCycle_rg (s : State) (x : Nat) : (s.withCycle x).rg = s.rg := rfl
@[simp] theorem State.withCycle_iu (s : State) (x : Nat) : (s.withCycle x).iu = s.iu := rfl
@[simp] theorem State.withCycle_mx (s : State) (x : Nat) : (s.withCycle x).mx = s.mx := rfl
@[simp] theorem State.withCycle_vx (s : State) (x : Nat) : (s.withCycle x).vx = s.vx := rfl
@[simp] theorem State.withCycle_cu (s : State) (x : Nat) : (s.withCycle x).cu = s.cu := rfl
@[simp] theorem State.withCycle_se (s : State) (x : Nat) : (s.withCycle x).se = s.se := rfl
@[simp] theorem State.withCycle_tu (s : State) (x : Nat) : (s.withCycle x).tu = s.tu := rfl
@[simp] theorem State.withCycle_alm (s : State) (x : Nat) : (s.withCycle x).alm = s.alm := rfl
@[simp] theorem State.withCycle_cal (s : State) (x : Nat) : (s.withCycle x).cal = s.cal := rfl
@[simp] theorem State.withCycle_sol (s : State) (x : Nat) : (s.withCycle x).sol = s.sol := rfl
@[simp] theorem State.withCycle_fp (s : State) (x : Nat) : (s.withCycle x).fp = s.fp := rfl
@[simp] theorem State.withCycle_fa (s : State) (x : Nat) : (s.withCycle x).fa = s.fa := rfl
@[simp] theorem State.withCycle_cc (s : State) (x : Nat) : (s.withCycle x).cc = s.cc := rfl
@[simp] theorem State.withCycle_ring (s : State) (x : Nat) : (s.withCycle x).ring = s.ring := rfl
@[simp] theorem State.withCycle_job (s : State) (x : Nat) : (s.withCycle x).job = s.job := rfl
@[simp] theorem State.withCycle_eq (s : State) (x : Nat) : (s.withCycle x).eq = s.eq := rfl
@[simp] theorem State.withCycle_err (s : State) (x : Nat) : (s.withCycle x).err = s.err := rfl
@[simp] theorem State.withCycle_rep (s : State) (x : Nat) : (s.withCycle x).rep = s.rep := rfl
@[simp] theorem State.withCycle_bg (s : State) (x : Nat) : (s.withCycle x).bg = s.bg := rfl
@[simp] theorem State.withCycle_su (s : State) (x : Nat) : (s.withCycle x).su = s.su := rfl
@[simp] theorem State.withCycle_tap (s : State) (x : Nat) : (s.withCycle x).tap = s.tap := rfl
@[simp] theorem State.withId_pending (s : State) (x : Ident) : (s.withId x).pending = s.pending := rfl
@[simp] theorem State.withId_out (s : State) (x : Ident) : (s.withId x).out = s.out := rfl
@[simp] theorem State.withId_freeCtr (s : State) (x : Ident) : (s.withId x).freeCtr = s.freeCtr := rfl
@[simp] theorem State.withId_powered (s : State) (x : Ident) : (s.withId x).powered = s.powered := rfl
@[simp] theorem State.withId_cycle (s : State) (x : Ident) : (s.withId x).cycle = s.cycle := rfl
@[simp] theorem State.withId_id (s : State) (x : Ident) : (s.withId x).id = x := rfl
@[simp] theorem State.withId_bring (s : State) (x : Ident) : (s.withId x).bring = s.bring := rfl
@[simp] theorem State.withId_spad (s : State) (x : Ident) : (s.withId x).spad = s.spad := rfl
@[simp] theorem State.withId_rg (s : State) (x : Ident) : (s.withId x).rg = s.rg := rfl
@[simp] theorem State.withId_iu (s : State) (x : Ident) : (s.withId x).iu = s.iu := rfl
@[simp] theorem State.withId_mx (s : State) (x : Ident) : (s.withId x).mx = s.mx := rfl
@[simp] theorem State.withId_vx (s : State) (x : Ident) : (s.withId x).vx = s.vx := rfl
@[simp] theorem State.withId_cu (s : State) (x : Ident) : (s.withId x).cu = s.cu := rfl
@[simp] theorem State.withId_se (s : State) (x : Ident) : (s.withId x).se = s.se := rfl
@[simp] theorem State.withId_tu (s : State) (x : Ident) : (s.withId x).tu = s.tu := rfl
@[simp] theorem State.withId_alm (s : State) (x : Ident) : (s.withId x).alm = s.alm := rfl
@[simp] theorem State.withId_cal (s : State) (x : Ident) : (s.withId x).cal = s.cal := rfl
@[simp] theorem State.withId_sol (s : State) (x : Ident) : (s.withId x).sol = s.sol := rfl
@[simp] theorem State.withId_fp (s : State) (x : Ident) : (s.withId x).fp = s.fp := rfl
@[simp] theorem State.withId_fa (s : State) (x : Ident) : (s.withId x).fa = s.fa := rfl
@[simp] theorem State.withId_cc (s : State) (x : Ident) : (s.withId x).cc = s.cc := rfl
@[simp] theorem State.withId_ring (s : State) (x : Ident) : (s.withId x).ring = s.ring := rfl
@[simp] theorem State.withId_job (s : State) (x : Ident) : (s.withId x).job = s.job := rfl
@[simp] theorem State.withId_eq (s : State) (x : Ident) : (s.withId x).eq = s.eq := rfl
@[simp] theorem State.withId_err (s : State) (x : Ident) : (s.withId x).err = s.err := rfl
@[simp] theorem State.withId_rep (s : State) (x : Ident) : (s.withId x).rep = s.rep := rfl
@[simp] theorem State.withId_bg (s : State) (x : Ident) : (s.withId x).bg = s.bg := rfl
@[simp] theorem State.withId_su (s : State) (x : Ident) : (s.withId x).su = s.su := rfl
@[simp] theorem State.withId_tap (s : State) (x : Ident) : (s.withId x).tap = s.tap := rfl
@[simp] theorem State.withBring_pending (s : State) (x : Bring) : (s.withBring x).pending = s.pending := rfl
@[simp] theorem State.withBring_out (s : State) (x : Bring) : (s.withBring x).out = s.out := rfl
@[simp] theorem State.withBring_freeCtr (s : State) (x : Bring) : (s.withBring x).freeCtr = s.freeCtr := rfl
@[simp] theorem State.withBring_powered (s : State) (x : Bring) : (s.withBring x).powered = s.powered := rfl
@[simp] theorem State.withBring_cycle (s : State) (x : Bring) : (s.withBring x).cycle = s.cycle := rfl
@[simp] theorem State.withBring_id (s : State) (x : Bring) : (s.withBring x).id = s.id := rfl
@[simp] theorem State.withBring_bring (s : State) (x : Bring) : (s.withBring x).bring = x := rfl
@[simp] theorem State.withBring_spad (s : State) (x : Bring) : (s.withBring x).spad = s.spad := rfl
@[simp] theorem State.withBring_rg (s : State) (x : Bring) : (s.withBring x).rg = s.rg := rfl
@[simp] theorem State.withBring_iu (s : State) (x : Bring) : (s.withBring x).iu = s.iu := rfl
@[simp] theorem State.withBring_mx (s : State) (x : Bring) : (s.withBring x).mx = s.mx := rfl
@[simp] theorem State.withBring_vx (s : State) (x : Bring) : (s.withBring x).vx = s.vx := rfl
@[simp] theorem State.withBring_cu (s : State) (x : Bring) : (s.withBring x).cu = s.cu := rfl
@[simp] theorem State.withBring_se (s : State) (x : Bring) : (s.withBring x).se = s.se := rfl
@[simp] theorem State.withBring_tu (s : State) (x : Bring) : (s.withBring x).tu = s.tu := rfl
@[simp] theorem State.withBring_alm (s : State) (x : Bring) : (s.withBring x).alm = s.alm := rfl
@[simp] theorem State.withBring_cal (s : State) (x : Bring) : (s.withBring x).cal = s.cal := rfl
@[simp] theorem State.withBring_sol (s : State) (x : Bring) : (s.withBring x).sol = s.sol := rfl
@[simp] theorem State.withBring_fp (s : State) (x : Bring) : (s.withBring x).fp = s.fp := rfl
@[simp] theorem State.withBring_fa (s : State) (x : Bring) : (s.withBring x).fa = s.fa := rfl
@[simp] theorem State.withBring_cc (s : State) (x : Bring) : (s.withBring x).cc = s.cc := rfl
@[simp] theorem State.withBring_ring (s : State) (x : Bring) : (s.withBring x).ring = s.ring := rfl
@[simp] theorem State.withBring_job (s : State) (x : Bring) : (s.withBring x).job = s.job := rfl
@[simp] theorem State.withBring_eq (s : State) (x : Bring) : (s.withBring x).eq = s.eq := rfl
@[simp] theorem State.withBring_err (s : State) (x : Bring) : (s.withBring x).err = s.err := rfl
@[simp] theorem State.withBring_rep (s : State) (x : Bring) : (s.withBring x).rep = s.rep := rfl
@[simp] theorem State.withBring_bg (s : State) (x : Bring) : (s.withBring x).bg = s.bg := rfl
@[simp] theorem State.withBring_su (s : State) (x : Bring) : (s.withBring x).su = s.su := rfl
@[simp] theorem State.withBring_tap (s : State) (x : Bring) : (s.withBring x).tap = s.tap := rfl
@[simp] theorem State.withSpad_pending (s : State) (x : Spad) : (s.withSpad x).pending = s.pending := rfl
@[simp] theorem State.withSpad_out (s : State) (x : Spad) : (s.withSpad x).out = s.out := rfl
@[simp] theorem State.withSpad_freeCtr (s : State) (x : Spad) : (s.withSpad x).freeCtr = s.freeCtr := rfl
@[simp] theorem State.withSpad_powered (s : State) (x : Spad) : (s.withSpad x).powered = s.powered := rfl
@[simp] theorem State.withSpad_cycle (s : State) (x : Spad) : (s.withSpad x).cycle = s.cycle := rfl
@[simp] theorem State.withSpad_id (s : State) (x : Spad) : (s.withSpad x).id = s.id := rfl
@[simp] theorem State.withSpad_bring (s : State) (x : Spad) : (s.withSpad x).bring = s.bring := rfl
@[simp] theorem State.withSpad_spad (s : State) (x : Spad) : (s.withSpad x).spad = x := rfl
@[simp] theorem State.withSpad_rg (s : State) (x : Spad) : (s.withSpad x).rg = s.rg := rfl
@[simp] theorem State.withSpad_iu (s : State) (x : Spad) : (s.withSpad x).iu = s.iu := rfl
@[simp] theorem State.withSpad_mx (s : State) (x : Spad) : (s.withSpad x).mx = s.mx := rfl
@[simp] theorem State.withSpad_vx (s : State) (x : Spad) : (s.withSpad x).vx = s.vx := rfl
@[simp] theorem State.withSpad_cu (s : State) (x : Spad) : (s.withSpad x).cu = s.cu := rfl
@[simp] theorem State.withSpad_se (s : State) (x : Spad) : (s.withSpad x).se = s.se := rfl
@[simp] theorem State.withSpad_tu (s : State) (x : Spad) : (s.withSpad x).tu = s.tu := rfl
@[simp] theorem State.withSpad_alm (s : State) (x : Spad) : (s.withSpad x).alm = s.alm := rfl
@[simp] theorem State.withSpad_cal (s : State) (x : Spad) : (s.withSpad x).cal = s.cal := rfl
@[simp] theorem State.withSpad_sol (s : State) (x : Spad) : (s.withSpad x).sol = s.sol := rfl
@[simp] theorem State.withSpad_fp (s : State) (x : Spad) : (s.withSpad x).fp = s.fp := rfl
@[simp] theorem State.withSpad_fa (s : State) (x : Spad) : (s.withSpad x).fa = s.fa := rfl
@[simp] theorem State.withSpad_cc (s : State) (x : Spad) : (s.withSpad x).cc = s.cc := rfl
@[simp] theorem State.withSpad_ring (s : State) (x : Spad) : (s.withSpad x).ring = s.ring := rfl
@[simp] theorem State.withSpad_job (s : State) (x : Spad) : (s.withSpad x).job = s.job := rfl
@[simp] theorem State.withSpad_eq (s : State) (x : Spad) : (s.withSpad x).eq = s.eq := rfl
@[simp] theorem State.withSpad_err (s : State) (x : Spad) : (s.withSpad x).err = s.err := rfl
@[simp] theorem State.withSpad_rep (s : State) (x : Spad) : (s.withSpad x).rep = s.rep := rfl
@[simp] theorem State.withSpad_bg (s : State) (x : Spad) : (s.withSpad x).bg = s.bg := rfl
@[simp] theorem State.withSpad_su (s : State) (x : Spad) : (s.withSpad x).su = s.su := rfl
@[simp] theorem State.withSpad_tap (s : State) (x : Spad) : (s.withSpad x).tap = s.tap := rfl
@[simp] theorem State.withRg_pending (s : State) (x : RegionTable) : (s.withRg x).pending = s.pending := rfl
@[simp] theorem State.withRg_out (s : State) (x : RegionTable) : (s.withRg x).out = s.out := rfl
@[simp] theorem State.withRg_freeCtr (s : State) (x : RegionTable) : (s.withRg x).freeCtr = s.freeCtr := rfl
@[simp] theorem State.withRg_powered (s : State) (x : RegionTable) : (s.withRg x).powered = s.powered := rfl
@[simp] theorem State.withRg_cycle (s : State) (x : RegionTable) : (s.withRg x).cycle = s.cycle := rfl
@[simp] theorem State.withRg_id (s : State) (x : RegionTable) : (s.withRg x).id = s.id := rfl
@[simp] theorem State.withRg_bring (s : State) (x : RegionTable) : (s.withRg x).bring = s.bring := rfl
@[simp] theorem State.withRg_spad (s : State) (x : RegionTable) : (s.withRg x).spad = s.spad := rfl
@[simp] theorem State.withRg_rg (s : State) (x : RegionTable) : (s.withRg x).rg = x := rfl
@[simp] theorem State.withRg_iu (s : State) (x : RegionTable) : (s.withRg x).iu = s.iu := rfl
@[simp] theorem State.withRg_mx (s : State) (x : RegionTable) : (s.withRg x).mx = s.mx := rfl
@[simp] theorem State.withRg_vx (s : State) (x : RegionTable) : (s.withRg x).vx = s.vx := rfl
@[simp] theorem State.withRg_cu (s : State) (x : RegionTable) : (s.withRg x).cu = s.cu := rfl
@[simp] theorem State.withRg_se (s : State) (x : RegionTable) : (s.withRg x).se = s.se := rfl
@[simp] theorem State.withRg_tu (s : State) (x : RegionTable) : (s.withRg x).tu = s.tu := rfl
@[simp] theorem State.withRg_alm (s : State) (x : RegionTable) : (s.withRg x).alm = s.alm := rfl
@[simp] theorem State.withRg_cal (s : State) (x : RegionTable) : (s.withRg x).cal = s.cal := rfl
@[simp] theorem State.withRg_sol (s : State) (x : RegionTable) : (s.withRg x).sol = s.sol := rfl
@[simp] theorem State.withRg_fp (s : State) (x : RegionTable) : (s.withRg x).fp = s.fp := rfl
@[simp] theorem State.withRg_fa (s : State) (x : RegionTable) : (s.withRg x).fa = s.fa := rfl
@[simp] theorem State.withRg_cc (s : State) (x : RegionTable) : (s.withRg x).cc = s.cc := rfl
@[simp] theorem State.withRg_ring (s : State) (x : RegionTable) : (s.withRg x).ring = s.ring := rfl
@[simp] theorem State.withRg_job (s : State) (x : RegionTable) : (s.withRg x).job = s.job := rfl
@[simp] theorem State.withRg_eq (s : State) (x : RegionTable) : (s.withRg x).eq = s.eq := rfl
@[simp] theorem State.withRg_err (s : State) (x : RegionTable) : (s.withRg x).err = s.err := rfl
@[simp] theorem State.withRg_rep (s : State) (x : RegionTable) : (s.withRg x).rep = s.rep := rfl
@[simp] theorem State.withRg_bg (s : State) (x : RegionTable) : (s.withRg x).bg = s.bg := rfl
@[simp] theorem State.withRg_su (s : State) (x : RegionTable) : (s.withRg x).su = s.su := rfl
@[simp] theorem State.withRg_tap (s : State) (x : RegionTable) : (s.withRg x).tap = s.tap := rfl
@[simp] theorem State.withIu_pending (s : State) (x : Iu) : (s.withIu x).pending = s.pending := rfl
@[simp] theorem State.withIu_out (s : State) (x : Iu) : (s.withIu x).out = s.out := rfl
@[simp] theorem State.withIu_freeCtr (s : State) (x : Iu) : (s.withIu x).freeCtr = s.freeCtr := rfl
@[simp] theorem State.withIu_powered (s : State) (x : Iu) : (s.withIu x).powered = s.powered := rfl
@[simp] theorem State.withIu_cycle (s : State) (x : Iu) : (s.withIu x).cycle = s.cycle := rfl
@[simp] theorem State.withIu_id (s : State) (x : Iu) : (s.withIu x).id = s.id := rfl
@[simp] theorem State.withIu_bring (s : State) (x : Iu) : (s.withIu x).bring = s.bring := rfl
@[simp] theorem State.withIu_spad (s : State) (x : Iu) : (s.withIu x).spad = s.spad := rfl
@[simp] theorem State.withIu_rg (s : State) (x : Iu) : (s.withIu x).rg = s.rg := rfl
@[simp] theorem State.withIu_iu (s : State) (x : Iu) : (s.withIu x).iu = x := rfl
@[simp] theorem State.withIu_mx (s : State) (x : Iu) : (s.withIu x).mx = s.mx := rfl
@[simp] theorem State.withIu_vx (s : State) (x : Iu) : (s.withIu x).vx = s.vx := rfl
@[simp] theorem State.withIu_cu (s : State) (x : Iu) : (s.withIu x).cu = s.cu := rfl
@[simp] theorem State.withIu_se (s : State) (x : Iu) : (s.withIu x).se = s.se := rfl
@[simp] theorem State.withIu_tu (s : State) (x : Iu) : (s.withIu x).tu = s.tu := rfl
@[simp] theorem State.withIu_alm (s : State) (x : Iu) : (s.withIu x).alm = s.alm := rfl
@[simp] theorem State.withIu_cal (s : State) (x : Iu) : (s.withIu x).cal = s.cal := rfl
@[simp] theorem State.withIu_sol (s : State) (x : Iu) : (s.withIu x).sol = s.sol := rfl
@[simp] theorem State.withIu_fp (s : State) (x : Iu) : (s.withIu x).fp = s.fp := rfl
@[simp] theorem State.withIu_fa (s : State) (x : Iu) : (s.withIu x).fa = s.fa := rfl
@[simp] theorem State.withIu_cc (s : State) (x : Iu) : (s.withIu x).cc = s.cc := rfl
@[simp] theorem State.withIu_ring (s : State) (x : Iu) : (s.withIu x).ring = s.ring := rfl
@[simp] theorem State.withIu_job (s : State) (x : Iu) : (s.withIu x).job = s.job := rfl
@[simp] theorem State.withIu_eq (s : State) (x : Iu) : (s.withIu x).eq = s.eq := rfl
@[simp] theorem State.withIu_err (s : State) (x : Iu) : (s.withIu x).err = s.err := rfl
@[simp] theorem State.withIu_rep (s : State) (x : Iu) : (s.withIu x).rep = s.rep := rfl
@[simp] theorem State.withIu_bg (s : State) (x : Iu) : (s.withIu x).bg = s.bg := rfl
@[simp] theorem State.withIu_su (s : State) (x : Iu) : (s.withIu x).su = s.su := rfl
@[simp] theorem State.withIu_tap (s : State) (x : Iu) : (s.withIu x).tap = s.tap := rfl
@[simp] theorem State.withMx_pending (s : State) (x : Vector Array_ 4) : (s.withMx x).pending = s.pending := rfl
@[simp] theorem State.withMx_out (s : State) (x : Vector Array_ 4) : (s.withMx x).out = s.out := rfl
@[simp] theorem State.withMx_freeCtr (s : State) (x : Vector Array_ 4) : (s.withMx x).freeCtr = s.freeCtr := rfl
@[simp] theorem State.withMx_powered (s : State) (x : Vector Array_ 4) : (s.withMx x).powered = s.powered := rfl
@[simp] theorem State.withMx_cycle (s : State) (x : Vector Array_ 4) : (s.withMx x).cycle = s.cycle := rfl
@[simp] theorem State.withMx_id (s : State) (x : Vector Array_ 4) : (s.withMx x).id = s.id := rfl
@[simp] theorem State.withMx_bring (s : State) (x : Vector Array_ 4) : (s.withMx x).bring = s.bring := rfl
@[simp] theorem State.withMx_spad (s : State) (x : Vector Array_ 4) : (s.withMx x).spad = s.spad := rfl
@[simp] theorem State.withMx_rg (s : State) (x : Vector Array_ 4) : (s.withMx x).rg = s.rg := rfl
@[simp] theorem State.withMx_iu (s : State) (x : Vector Array_ 4) : (s.withMx x).iu = s.iu := rfl
@[simp] theorem State.withMx_mx (s : State) (x : Vector Array_ 4) : (s.withMx x).mx = x := rfl
@[simp] theorem State.withMx_vx (s : State) (x : Vector Array_ 4) : (s.withMx x).vx = s.vx := rfl
@[simp] theorem State.withMx_cu (s : State) (x : Vector Array_ 4) : (s.withMx x).cu = s.cu := rfl
@[simp] theorem State.withMx_se (s : State) (x : Vector Array_ 4) : (s.withMx x).se = s.se := rfl
@[simp] theorem State.withMx_tu (s : State) (x : Vector Array_ 4) : (s.withMx x).tu = s.tu := rfl
@[simp] theorem State.withMx_alm (s : State) (x : Vector Array_ 4) : (s.withMx x).alm = s.alm := rfl
@[simp] theorem State.withMx_cal (s : State) (x : Vector Array_ 4) : (s.withMx x).cal = s.cal := rfl
@[simp] theorem State.withMx_sol (s : State) (x : Vector Array_ 4) : (s.withMx x).sol = s.sol := rfl
@[simp] theorem State.withMx_fp (s : State) (x : Vector Array_ 4) : (s.withMx x).fp = s.fp := rfl
@[simp] theorem State.withMx_fa (s : State) (x : Vector Array_ 4) : (s.withMx x).fa = s.fa := rfl
@[simp] theorem State.withMx_cc (s : State) (x : Vector Array_ 4) : (s.withMx x).cc = s.cc := rfl
@[simp] theorem State.withMx_ring (s : State) (x : Vector Array_ 4) : (s.withMx x).ring = s.ring := rfl
@[simp] theorem State.withMx_job (s : State) (x : Vector Array_ 4) : (s.withMx x).job = s.job := rfl
@[simp] theorem State.withMx_eq (s : State) (x : Vector Array_ 4) : (s.withMx x).eq = s.eq := rfl
@[simp] theorem State.withMx_err (s : State) (x : Vector Array_ 4) : (s.withMx x).err = s.err := rfl
@[simp] theorem State.withMx_rep (s : State) (x : Vector Array_ 4) : (s.withMx x).rep = s.rep := rfl
@[simp] theorem State.withMx_bg (s : State) (x : Vector Array_ 4) : (s.withMx x).bg = s.bg := rfl
@[simp] theorem State.withMx_su (s : State) (x : Vector Array_ 4) : (s.withMx x).su = s.su := rfl
@[simp] theorem State.withMx_tap (s : State) (x : Vector Array_ 4) : (s.withMx x).tap = s.tap := rfl
@[simp] theorem State.withVx_pending (s : State) (x : VecState) : (s.withVx x).pending = s.pending := rfl
@[simp] theorem State.withVx_out (s : State) (x : VecState) : (s.withVx x).out = s.out := rfl
@[simp] theorem State.withVx_freeCtr (s : State) (x : VecState) : (s.withVx x).freeCtr = s.freeCtr := rfl
@[simp] theorem State.withVx_powered (s : State) (x : VecState) : (s.withVx x).powered = s.powered := rfl
@[simp] theorem State.withVx_cycle (s : State) (x : VecState) : (s.withVx x).cycle = s.cycle := rfl
@[simp] theorem State.withVx_id (s : State) (x : VecState) : (s.withVx x).id = s.id := rfl
@[simp] theorem State.withVx_bring (s : State) (x : VecState) : (s.withVx x).bring = s.bring := rfl
@[simp] theorem State.withVx_spad (s : State) (x : VecState) : (s.withVx x).spad = s.spad := rfl
@[simp] theorem State.withVx_rg (s : State) (x : VecState) : (s.withVx x).rg = s.rg := rfl
@[simp] theorem State.withVx_iu (s : State) (x : VecState) : (s.withVx x).iu = s.iu := rfl
@[simp] theorem State.withVx_mx (s : State) (x : VecState) : (s.withVx x).mx = s.mx := rfl
@[simp] theorem State.withVx_vx (s : State) (x : VecState) : (s.withVx x).vx = x := rfl
@[simp] theorem State.withVx_cu (s : State) (x : VecState) : (s.withVx x).cu = s.cu := rfl
@[simp] theorem State.withVx_se (s : State) (x : VecState) : (s.withVx x).se = s.se := rfl
@[simp] theorem State.withVx_tu (s : State) (x : VecState) : (s.withVx x).tu = s.tu := rfl
@[simp] theorem State.withVx_alm (s : State) (x : VecState) : (s.withVx x).alm = s.alm := rfl
@[simp] theorem State.withVx_cal (s : State) (x : VecState) : (s.withVx x).cal = s.cal := rfl
@[simp] theorem State.withVx_sol (s : State) (x : VecState) : (s.withVx x).sol = s.sol := rfl
@[simp] theorem State.withVx_fp (s : State) (x : VecState) : (s.withVx x).fp = s.fp := rfl
@[simp] theorem State.withVx_fa (s : State) (x : VecState) : (s.withVx x).fa = s.fa := rfl
@[simp] theorem State.withVx_cc (s : State) (x : VecState) : (s.withVx x).cc = s.cc := rfl
@[simp] theorem State.withVx_ring (s : State) (x : VecState) : (s.withVx x).ring = s.ring := rfl
@[simp] theorem State.withVx_job (s : State) (x : VecState) : (s.withVx x).job = s.job := rfl
@[simp] theorem State.withVx_eq (s : State) (x : VecState) : (s.withVx x).eq = s.eq := rfl
@[simp] theorem State.withVx_err (s : State) (x : VecState) : (s.withVx x).err = s.err := rfl
@[simp] theorem State.withVx_rep (s : State) (x : VecState) : (s.withVx x).rep = s.rep := rfl
@[simp] theorem State.withVx_bg (s : State) (x : VecState) : (s.withVx x).bg = s.bg := rfl
@[simp] theorem State.withVx_su (s : State) (x : VecState) : (s.withVx x).su = s.su := rfl
@[simp] theorem State.withVx_tap (s : State) (x : VecState) : (s.withVx x).tap = s.tap := rfl
@[simp] theorem State.withCu_pending (s : State) (x : VecState) : (s.withCu x).pending = s.pending := rfl
@[simp] theorem State.withCu_out (s : State) (x : VecState) : (s.withCu x).out = s.out := rfl
@[simp] theorem State.withCu_freeCtr (s : State) (x : VecState) : (s.withCu x).freeCtr = s.freeCtr := rfl
@[simp] theorem State.withCu_powered (s : State) (x : VecState) : (s.withCu x).powered = s.powered := rfl
@[simp] theorem State.withCu_cycle (s : State) (x : VecState) : (s.withCu x).cycle = s.cycle := rfl
@[simp] theorem State.withCu_id (s : State) (x : VecState) : (s.withCu x).id = s.id := rfl
@[simp] theorem State.withCu_bring (s : State) (x : VecState) : (s.withCu x).bring = s.bring := rfl
@[simp] theorem State.withCu_spad (s : State) (x : VecState) : (s.withCu x).spad = s.spad := rfl
@[simp] theorem State.withCu_rg (s : State) (x : VecState) : (s.withCu x).rg = s.rg := rfl
@[simp] theorem State.withCu_iu (s : State) (x : VecState) : (s.withCu x).iu = s.iu := rfl
@[simp] theorem State.withCu_mx (s : State) (x : VecState) : (s.withCu x).mx = s.mx := rfl
@[simp] theorem State.withCu_vx (s : State) (x : VecState) : (s.withCu x).vx = s.vx := rfl
@[simp] theorem State.withCu_cu (s : State) (x : VecState) : (s.withCu x).cu = x := rfl
@[simp] theorem State.withCu_se (s : State) (x : VecState) : (s.withCu x).se = s.se := rfl
@[simp] theorem State.withCu_tu (s : State) (x : VecState) : (s.withCu x).tu = s.tu := rfl
@[simp] theorem State.withCu_alm (s : State) (x : VecState) : (s.withCu x).alm = s.alm := rfl
@[simp] theorem State.withCu_cal (s : State) (x : VecState) : (s.withCu x).cal = s.cal := rfl
@[simp] theorem State.withCu_sol (s : State) (x : VecState) : (s.withCu x).sol = s.sol := rfl
@[simp] theorem State.withCu_fp (s : State) (x : VecState) : (s.withCu x).fp = s.fp := rfl
@[simp] theorem State.withCu_fa (s : State) (x : VecState) : (s.withCu x).fa = s.fa := rfl
@[simp] theorem State.withCu_cc (s : State) (x : VecState) : (s.withCu x).cc = s.cc := rfl
@[simp] theorem State.withCu_ring (s : State) (x : VecState) : (s.withCu x).ring = s.ring := rfl
@[simp] theorem State.withCu_job (s : State) (x : VecState) : (s.withCu x).job = s.job := rfl
@[simp] theorem State.withCu_eq (s : State) (x : VecState) : (s.withCu x).eq = s.eq := rfl
@[simp] theorem State.withCu_err (s : State) (x : VecState) : (s.withCu x).err = s.err := rfl
@[simp] theorem State.withCu_rep (s : State) (x : VecState) : (s.withCu x).rep = s.rep := rfl
@[simp] theorem State.withCu_bg (s : State) (x : VecState) : (s.withCu x).bg = s.bg := rfl
@[simp] theorem State.withCu_su (s : State) (x : VecState) : (s.withCu x).su = s.su := rfl
@[simp] theorem State.withCu_tap (s : State) (x : VecState) : (s.withCu x).tap = s.tap := rfl
@[simp] theorem State.withSe_pending (s : State) (x : Streams) : (s.withSe x).pending = s.pending := rfl
@[simp] theorem State.withSe_out (s : State) (x : Streams) : (s.withSe x).out = s.out := rfl
@[simp] theorem State.withSe_freeCtr (s : State) (x : Streams) : (s.withSe x).freeCtr = s.freeCtr := rfl
@[simp] theorem State.withSe_powered (s : State) (x : Streams) : (s.withSe x).powered = s.powered := rfl
@[simp] theorem State.withSe_cycle (s : State) (x : Streams) : (s.withSe x).cycle = s.cycle := rfl
@[simp] theorem State.withSe_id (s : State) (x : Streams) : (s.withSe x).id = s.id := rfl
@[simp] theorem State.withSe_bring (s : State) (x : Streams) : (s.withSe x).bring = s.bring := rfl
@[simp] theorem State.withSe_spad (s : State) (x : Streams) : (s.withSe x).spad = s.spad := rfl
@[simp] theorem State.withSe_rg (s : State) (x : Streams) : (s.withSe x).rg = s.rg := rfl
@[simp] theorem State.withSe_iu (s : State) (x : Streams) : (s.withSe x).iu = s.iu := rfl
@[simp] theorem State.withSe_mx (s : State) (x : Streams) : (s.withSe x).mx = s.mx := rfl
@[simp] theorem State.withSe_vx (s : State) (x : Streams) : (s.withSe x).vx = s.vx := rfl
@[simp] theorem State.withSe_cu (s : State) (x : Streams) : (s.withSe x).cu = s.cu := rfl
@[simp] theorem State.withSe_se (s : State) (x : Streams) : (s.withSe x).se = x := rfl
@[simp] theorem State.withSe_tu (s : State) (x : Streams) : (s.withSe x).tu = s.tu := rfl
@[simp] theorem State.withSe_alm (s : State) (x : Streams) : (s.withSe x).alm = s.alm := rfl
@[simp] theorem State.withSe_cal (s : State) (x : Streams) : (s.withSe x).cal = s.cal := rfl
@[simp] theorem State.withSe_sol (s : State) (x : Streams) : (s.withSe x).sol = s.sol := rfl
@[simp] theorem State.withSe_fp (s : State) (x : Streams) : (s.withSe x).fp = s.fp := rfl
@[simp] theorem State.withSe_fa (s : State) (x : Streams) : (s.withSe x).fa = s.fa := rfl
@[simp] theorem State.withSe_cc (s : State) (x : Streams) : (s.withSe x).cc = s.cc := rfl
@[simp] theorem State.withSe_ring (s : State) (x : Streams) : (s.withSe x).ring = s.ring := rfl
@[simp] theorem State.withSe_job (s : State) (x : Streams) : (s.withSe x).job = s.job := rfl
@[simp] theorem State.withSe_eq (s : State) (x : Streams) : (s.withSe x).eq = s.eq := rfl
@[simp] theorem State.withSe_err (s : State) (x : Streams) : (s.withSe x).err = s.err := rfl
@[simp] theorem State.withSe_rep (s : State) (x : Streams) : (s.withSe x).rep = s.rep := rfl
@[simp] theorem State.withSe_bg (s : State) (x : Streams) : (s.withSe x).bg = s.bg := rfl
@[simp] theorem State.withSe_su (s : State) (x : Streams) : (s.withSe x).su = s.su := rfl
@[simp] theorem State.withSe_tap (s : State) (x : Streams) : (s.withSe x).tap = s.tap := rfl
@[simp] theorem State.withTu_pending (s : State) (x : Transposers) : (s.withTu x).pending = s.pending := rfl
@[simp] theorem State.withTu_out (s : State) (x : Transposers) : (s.withTu x).out = s.out := rfl
@[simp] theorem State.withTu_freeCtr (s : State) (x : Transposers) : (s.withTu x).freeCtr = s.freeCtr := rfl
@[simp] theorem State.withTu_powered (s : State) (x : Transposers) : (s.withTu x).powered = s.powered := rfl
@[simp] theorem State.withTu_cycle (s : State) (x : Transposers) : (s.withTu x).cycle = s.cycle := rfl
@[simp] theorem State.withTu_id (s : State) (x : Transposers) : (s.withTu x).id = s.id := rfl
@[simp] theorem State.withTu_bring (s : State) (x : Transposers) : (s.withTu x).bring = s.bring := rfl
@[simp] theorem State.withTu_spad (s : State) (x : Transposers) : (s.withTu x).spad = s.spad := rfl
@[simp] theorem State.withTu_rg (s : State) (x : Transposers) : (s.withTu x).rg = s.rg := rfl
@[simp] theorem State.withTu_iu (s : State) (x : Transposers) : (s.withTu x).iu = s.iu := rfl
@[simp] theorem State.withTu_mx (s : State) (x : Transposers) : (s.withTu x).mx = s.mx := rfl
@[simp] theorem State.withTu_vx (s : State) (x : Transposers) : (s.withTu x).vx = s.vx := rfl
@[simp] theorem State.withTu_cu (s : State) (x : Transposers) : (s.withTu x).cu = s.cu := rfl
@[simp] theorem State.withTu_se (s : State) (x : Transposers) : (s.withTu x).se = s.se := rfl
@[simp] theorem State.withTu_tu (s : State) (x : Transposers) : (s.withTu x).tu = x := rfl
@[simp] theorem State.withTu_alm (s : State) (x : Transposers) : (s.withTu x).alm = s.alm := rfl
@[simp] theorem State.withTu_cal (s : State) (x : Transposers) : (s.withTu x).cal = s.cal := rfl
@[simp] theorem State.withTu_sol (s : State) (x : Transposers) : (s.withTu x).sol = s.sol := rfl
@[simp] theorem State.withTu_fp (s : State) (x : Transposers) : (s.withTu x).fp = s.fp := rfl
@[simp] theorem State.withTu_fa (s : State) (x : Transposers) : (s.withTu x).fa = s.fa := rfl
@[simp] theorem State.withTu_cc (s : State) (x : Transposers) : (s.withTu x).cc = s.cc := rfl
@[simp] theorem State.withTu_ring (s : State) (x : Transposers) : (s.withTu x).ring = s.ring := rfl
@[simp] theorem State.withTu_job (s : State) (x : Transposers) : (s.withTu x).job = s.job := rfl
@[simp] theorem State.withTu_eq (s : State) (x : Transposers) : (s.withTu x).eq = s.eq := rfl
@[simp] theorem State.withTu_err (s : State) (x : Transposers) : (s.withTu x).err = s.err := rfl
@[simp] theorem State.withTu_rep (s : State) (x : Transposers) : (s.withTu x).rep = s.rep := rfl
@[simp] theorem State.withTu_bg (s : State) (x : Transposers) : (s.withTu x).bg = s.bg := rfl
@[simp] theorem State.withTu_su (s : State) (x : Transposers) : (s.withTu x).su = s.su := rfl
@[simp] theorem State.withTu_tap (s : State) (x : Transposers) : (s.withTu x).tap = s.tap := rfl
@[simp] theorem State.withAlm_pending (s : State) (x : Alm) : (s.withAlm x).pending = s.pending := rfl
@[simp] theorem State.withAlm_out (s : State) (x : Alm) : (s.withAlm x).out = s.out := rfl
@[simp] theorem State.withAlm_freeCtr (s : State) (x : Alm) : (s.withAlm x).freeCtr = s.freeCtr := rfl
@[simp] theorem State.withAlm_powered (s : State) (x : Alm) : (s.withAlm x).powered = s.powered := rfl
@[simp] theorem State.withAlm_cycle (s : State) (x : Alm) : (s.withAlm x).cycle = s.cycle := rfl
@[simp] theorem State.withAlm_id (s : State) (x : Alm) : (s.withAlm x).id = s.id := rfl
@[simp] theorem State.withAlm_bring (s : State) (x : Alm) : (s.withAlm x).bring = s.bring := rfl
@[simp] theorem State.withAlm_spad (s : State) (x : Alm) : (s.withAlm x).spad = s.spad := rfl
@[simp] theorem State.withAlm_rg (s : State) (x : Alm) : (s.withAlm x).rg = s.rg := rfl
@[simp] theorem State.withAlm_iu (s : State) (x : Alm) : (s.withAlm x).iu = s.iu := rfl
@[simp] theorem State.withAlm_mx (s : State) (x : Alm) : (s.withAlm x).mx = s.mx := rfl
@[simp] theorem State.withAlm_vx (s : State) (x : Alm) : (s.withAlm x).vx = s.vx := rfl
@[simp] theorem State.withAlm_cu (s : State) (x : Alm) : (s.withAlm x).cu = s.cu := rfl
@[simp] theorem State.withAlm_se (s : State) (x : Alm) : (s.withAlm x).se = s.se := rfl
@[simp] theorem State.withAlm_tu (s : State) (x : Alm) : (s.withAlm x).tu = s.tu := rfl
@[simp] theorem State.withAlm_alm (s : State) (x : Alm) : (s.withAlm x).alm = x := rfl
@[simp] theorem State.withAlm_cal (s : State) (x : Alm) : (s.withAlm x).cal = s.cal := rfl
@[simp] theorem State.withAlm_sol (s : State) (x : Alm) : (s.withAlm x).sol = s.sol := rfl
@[simp] theorem State.withAlm_fp (s : State) (x : Alm) : (s.withAlm x).fp = s.fp := rfl
@[simp] theorem State.withAlm_fa (s : State) (x : Alm) : (s.withAlm x).fa = s.fa := rfl
@[simp] theorem State.withAlm_cc (s : State) (x : Alm) : (s.withAlm x).cc = s.cc := rfl
@[simp] theorem State.withAlm_ring (s : State) (x : Alm) : (s.withAlm x).ring = s.ring := rfl
@[simp] theorem State.withAlm_job (s : State) (x : Alm) : (s.withAlm x).job = s.job := rfl
@[simp] theorem State.withAlm_eq (s : State) (x : Alm) : (s.withAlm x).eq = s.eq := rfl
@[simp] theorem State.withAlm_err (s : State) (x : Alm) : (s.withAlm x).err = s.err := rfl
@[simp] theorem State.withAlm_rep (s : State) (x : Alm) : (s.withAlm x).rep = s.rep := rfl
@[simp] theorem State.withAlm_bg (s : State) (x : Alm) : (s.withAlm x).bg = s.bg := rfl
@[simp] theorem State.withAlm_su (s : State) (x : Alm) : (s.withAlm x).su = s.su := rfl
@[simp] theorem State.withAlm_tap (s : State) (x : Alm) : (s.withAlm x).tap = s.tap := rfl
@[simp] theorem State.withCal_pending (s : State) (x : Cal) : (s.withCal x).pending = s.pending := rfl
@[simp] theorem State.withCal_out (s : State) (x : Cal) : (s.withCal x).out = s.out := rfl
@[simp] theorem State.withCal_freeCtr (s : State) (x : Cal) : (s.withCal x).freeCtr = s.freeCtr := rfl
@[simp] theorem State.withCal_powered (s : State) (x : Cal) : (s.withCal x).powered = s.powered := rfl
@[simp] theorem State.withCal_cycle (s : State) (x : Cal) : (s.withCal x).cycle = s.cycle := rfl
@[simp] theorem State.withCal_id (s : State) (x : Cal) : (s.withCal x).id = s.id := rfl
@[simp] theorem State.withCal_bring (s : State) (x : Cal) : (s.withCal x).bring = s.bring := rfl
@[simp] theorem State.withCal_spad (s : State) (x : Cal) : (s.withCal x).spad = s.spad := rfl
@[simp] theorem State.withCal_rg (s : State) (x : Cal) : (s.withCal x).rg = s.rg := rfl
@[simp] theorem State.withCal_iu (s : State) (x : Cal) : (s.withCal x).iu = s.iu := rfl
@[simp] theorem State.withCal_mx (s : State) (x : Cal) : (s.withCal x).mx = s.mx := rfl
@[simp] theorem State.withCal_vx (s : State) (x : Cal) : (s.withCal x).vx = s.vx := rfl
@[simp] theorem State.withCal_cu (s : State) (x : Cal) : (s.withCal x).cu = s.cu := rfl
@[simp] theorem State.withCal_se (s : State) (x : Cal) : (s.withCal x).se = s.se := rfl
@[simp] theorem State.withCal_tu (s : State) (x : Cal) : (s.withCal x).tu = s.tu := rfl
@[simp] theorem State.withCal_alm (s : State) (x : Cal) : (s.withCal x).alm = s.alm := rfl
@[simp] theorem State.withCal_cal (s : State) (x : Cal) : (s.withCal x).cal = x := rfl
@[simp] theorem State.withCal_sol (s : State) (x : Cal) : (s.withCal x).sol = s.sol := rfl
@[simp] theorem State.withCal_fp (s : State) (x : Cal) : (s.withCal x).fp = s.fp := rfl
@[simp] theorem State.withCal_fa (s : State) (x : Cal) : (s.withCal x).fa = s.fa := rfl
@[simp] theorem State.withCal_cc (s : State) (x : Cal) : (s.withCal x).cc = s.cc := rfl
@[simp] theorem State.withCal_ring (s : State) (x : Cal) : (s.withCal x).ring = s.ring := rfl
@[simp] theorem State.withCal_job (s : State) (x : Cal) : (s.withCal x).job = s.job := rfl
@[simp] theorem State.withCal_eq (s : State) (x : Cal) : (s.withCal x).eq = s.eq := rfl
@[simp] theorem State.withCal_err (s : State) (x : Cal) : (s.withCal x).err = s.err := rfl
@[simp] theorem State.withCal_rep (s : State) (x : Cal) : (s.withCal x).rep = s.rep := rfl
@[simp] theorem State.withCal_bg (s : State) (x : Cal) : (s.withCal x).bg = s.bg := rfl
@[simp] theorem State.withCal_su (s : State) (x : Cal) : (s.withCal x).su = s.su := rfl
@[simp] theorem State.withCal_tap (s : State) (x : Cal) : (s.withCal x).tap = s.tap := rfl
@[simp] theorem State.withSol_pending (s : State) (x : Sol) : (s.withSol x).pending = s.pending := rfl
@[simp] theorem State.withSol_out (s : State) (x : Sol) : (s.withSol x).out = s.out := rfl
@[simp] theorem State.withSol_freeCtr (s : State) (x : Sol) : (s.withSol x).freeCtr = s.freeCtr := rfl
@[simp] theorem State.withSol_powered (s : State) (x : Sol) : (s.withSol x).powered = s.powered := rfl
@[simp] theorem State.withSol_cycle (s : State) (x : Sol) : (s.withSol x).cycle = s.cycle := rfl
@[simp] theorem State.withSol_id (s : State) (x : Sol) : (s.withSol x).id = s.id := rfl
@[simp] theorem State.withSol_bring (s : State) (x : Sol) : (s.withSol x).bring = s.bring := rfl
@[simp] theorem State.withSol_spad (s : State) (x : Sol) : (s.withSol x).spad = s.spad := rfl
@[simp] theorem State.withSol_rg (s : State) (x : Sol) : (s.withSol x).rg = s.rg := rfl
@[simp] theorem State.withSol_iu (s : State) (x : Sol) : (s.withSol x).iu = s.iu := rfl
@[simp] theorem State.withSol_mx (s : State) (x : Sol) : (s.withSol x).mx = s.mx := rfl
@[simp] theorem State.withSol_vx (s : State) (x : Sol) : (s.withSol x).vx = s.vx := rfl
@[simp] theorem State.withSol_cu (s : State) (x : Sol) : (s.withSol x).cu = s.cu := rfl
@[simp] theorem State.withSol_se (s : State) (x : Sol) : (s.withSol x).se = s.se := rfl
@[simp] theorem State.withSol_tu (s : State) (x : Sol) : (s.withSol x).tu = s.tu := rfl
@[simp] theorem State.withSol_alm (s : State) (x : Sol) : (s.withSol x).alm = s.alm := rfl
@[simp] theorem State.withSol_cal (s : State) (x : Sol) : (s.withSol x).cal = s.cal := rfl
@[simp] theorem State.withSol_sol (s : State) (x : Sol) : (s.withSol x).sol = x := rfl
@[simp] theorem State.withSol_fp (s : State) (x : Sol) : (s.withSol x).fp = s.fp := rfl
@[simp] theorem State.withSol_fa (s : State) (x : Sol) : (s.withSol x).fa = s.fa := rfl
@[simp] theorem State.withSol_cc (s : State) (x : Sol) : (s.withSol x).cc = s.cc := rfl
@[simp] theorem State.withSol_ring (s : State) (x : Sol) : (s.withSol x).ring = s.ring := rfl
@[simp] theorem State.withSol_job (s : State) (x : Sol) : (s.withSol x).job = s.job := rfl
@[simp] theorem State.withSol_eq (s : State) (x : Sol) : (s.withSol x).eq = s.eq := rfl
@[simp] theorem State.withSol_err (s : State) (x : Sol) : (s.withSol x).err = s.err := rfl
@[simp] theorem State.withSol_rep (s : State) (x : Sol) : (s.withSol x).rep = s.rep := rfl
@[simp] theorem State.withSol_bg (s : State) (x : Sol) : (s.withSol x).bg = s.bg := rfl
@[simp] theorem State.withSol_su (s : State) (x : Sol) : (s.withSol x).su = s.su := rfl
@[simp] theorem State.withSol_tap (s : State) (x : Sol) : (s.withSol x).tap = s.tap := rfl
@[simp] theorem State.withFp_pending (s : State) (x : Vector Port 8) : (s.withFp x).pending = s.pending := rfl
@[simp] theorem State.withFp_out (s : State) (x : Vector Port 8) : (s.withFp x).out = s.out := rfl
@[simp] theorem State.withFp_freeCtr (s : State) (x : Vector Port 8) : (s.withFp x).freeCtr = s.freeCtr := rfl
@[simp] theorem State.withFp_powered (s : State) (x : Vector Port 8) : (s.withFp x).powered = s.powered := rfl
@[simp] theorem State.withFp_cycle (s : State) (x : Vector Port 8) : (s.withFp x).cycle = s.cycle := rfl
@[simp] theorem State.withFp_id (s : State) (x : Vector Port 8) : (s.withFp x).id = s.id := rfl
@[simp] theorem State.withFp_bring (s : State) (x : Vector Port 8) : (s.withFp x).bring = s.bring := rfl
@[simp] theorem State.withFp_spad (s : State) (x : Vector Port 8) : (s.withFp x).spad = s.spad := rfl
@[simp] theorem State.withFp_rg (s : State) (x : Vector Port 8) : (s.withFp x).rg = s.rg := rfl
@[simp] theorem State.withFp_iu (s : State) (x : Vector Port 8) : (s.withFp x).iu = s.iu := rfl
@[simp] theorem State.withFp_mx (s : State) (x : Vector Port 8) : (s.withFp x).mx = s.mx := rfl
@[simp] theorem State.withFp_vx (s : State) (x : Vector Port 8) : (s.withFp x).vx = s.vx := rfl
@[simp] theorem State.withFp_cu (s : State) (x : Vector Port 8) : (s.withFp x).cu = s.cu := rfl
@[simp] theorem State.withFp_se (s : State) (x : Vector Port 8) : (s.withFp x).se = s.se := rfl
@[simp] theorem State.withFp_tu (s : State) (x : Vector Port 8) : (s.withFp x).tu = s.tu := rfl
@[simp] theorem State.withFp_alm (s : State) (x : Vector Port 8) : (s.withFp x).alm = s.alm := rfl
@[simp] theorem State.withFp_cal (s : State) (x : Vector Port 8) : (s.withFp x).cal = s.cal := rfl
@[simp] theorem State.withFp_sol (s : State) (x : Vector Port 8) : (s.withFp x).sol = s.sol := rfl
@[simp] theorem State.withFp_fp (s : State) (x : Vector Port 8) : (s.withFp x).fp = x := rfl
@[simp] theorem State.withFp_fa (s : State) (x : Vector Port 8) : (s.withFp x).fa = s.fa := rfl
@[simp] theorem State.withFp_cc (s : State) (x : Vector Port 8) : (s.withFp x).cc = s.cc := rfl
@[simp] theorem State.withFp_ring (s : State) (x : Vector Port 8) : (s.withFp x).ring = s.ring := rfl
@[simp] theorem State.withFp_job (s : State) (x : Vector Port 8) : (s.withFp x).job = s.job := rfl
@[simp] theorem State.withFp_eq (s : State) (x : Vector Port 8) : (s.withFp x).eq = s.eq := rfl
@[simp] theorem State.withFp_err (s : State) (x : Vector Port 8) : (s.withFp x).err = s.err := rfl
@[simp] theorem State.withFp_rep (s : State) (x : Vector Port 8) : (s.withFp x).rep = s.rep := rfl
@[simp] theorem State.withFp_bg (s : State) (x : Vector Port 8) : (s.withFp x).bg = s.bg := rfl
@[simp] theorem State.withFp_su (s : State) (x : Vector Port 8) : (s.withFp x).su = s.su := rfl
@[simp] theorem State.withFp_tap (s : State) (x : Vector Port 8) : (s.withFp x).tap = s.tap := rfl
@[simp] theorem State.withFa_pending (s : State) (x : Fa) : (s.withFa x).pending = s.pending := rfl
@[simp] theorem State.withFa_out (s : State) (x : Fa) : (s.withFa x).out = s.out := rfl
@[simp] theorem State.withFa_freeCtr (s : State) (x : Fa) : (s.withFa x).freeCtr = s.freeCtr := rfl
@[simp] theorem State.withFa_powered (s : State) (x : Fa) : (s.withFa x).powered = s.powered := rfl
@[simp] theorem State.withFa_cycle (s : State) (x : Fa) : (s.withFa x).cycle = s.cycle := rfl
@[simp] theorem State.withFa_id (s : State) (x : Fa) : (s.withFa x).id = s.id := rfl
@[simp] theorem State.withFa_bring (s : State) (x : Fa) : (s.withFa x).bring = s.bring := rfl
@[simp] theorem State.withFa_spad (s : State) (x : Fa) : (s.withFa x).spad = s.spad := rfl
@[simp] theorem State.withFa_rg (s : State) (x : Fa) : (s.withFa x).rg = s.rg := rfl
@[simp] theorem State.withFa_iu (s : State) (x : Fa) : (s.withFa x).iu = s.iu := rfl
@[simp] theorem State.withFa_mx (s : State) (x : Fa) : (s.withFa x).mx = s.mx := rfl
@[simp] theorem State.withFa_vx (s : State) (x : Fa) : (s.withFa x).vx = s.vx := rfl
@[simp] theorem State.withFa_cu (s : State) (x : Fa) : (s.withFa x).cu = s.cu := rfl
@[simp] theorem State.withFa_se (s : State) (x : Fa) : (s.withFa x).se = s.se := rfl
@[simp] theorem State.withFa_tu (s : State) (x : Fa) : (s.withFa x).tu = s.tu := rfl
@[simp] theorem State.withFa_alm (s : State) (x : Fa) : (s.withFa x).alm = s.alm := rfl
@[simp] theorem State.withFa_cal (s : State) (x : Fa) : (s.withFa x).cal = s.cal := rfl
@[simp] theorem State.withFa_sol (s : State) (x : Fa) : (s.withFa x).sol = s.sol := rfl
@[simp] theorem State.withFa_fp (s : State) (x : Fa) : (s.withFa x).fp = s.fp := rfl
@[simp] theorem State.withFa_fa (s : State) (x : Fa) : (s.withFa x).fa = x := rfl
@[simp] theorem State.withFa_cc (s : State) (x : Fa) : (s.withFa x).cc = s.cc := rfl
@[simp] theorem State.withFa_ring (s : State) (x : Fa) : (s.withFa x).ring = s.ring := rfl
@[simp] theorem State.withFa_job (s : State) (x : Fa) : (s.withFa x).job = s.job := rfl
@[simp] theorem State.withFa_eq (s : State) (x : Fa) : (s.withFa x).eq = s.eq := rfl
@[simp] theorem State.withFa_err (s : State) (x : Fa) : (s.withFa x).err = s.err := rfl
@[simp] theorem State.withFa_rep (s : State) (x : Fa) : (s.withFa x).rep = s.rep := rfl
@[simp] theorem State.withFa_bg (s : State) (x : Fa) : (s.withFa x).bg = s.bg := rfl
@[simp] theorem State.withFa_su (s : State) (x : Fa) : (s.withFa x).su = s.su := rfl
@[simp] theorem State.withFa_tap (s : State) (x : Fa) : (s.withFa x).tap = s.tap := rfl
@[simp] theorem State.withCc_pending (s : State) (x : Cc) : (s.withCc x).pending = s.pending := rfl
@[simp] theorem State.withCc_out (s : State) (x : Cc) : (s.withCc x).out = s.out := rfl
@[simp] theorem State.withCc_freeCtr (s : State) (x : Cc) : (s.withCc x).freeCtr = s.freeCtr := rfl
@[simp] theorem State.withCc_powered (s : State) (x : Cc) : (s.withCc x).powered = s.powered := rfl
@[simp] theorem State.withCc_cycle (s : State) (x : Cc) : (s.withCc x).cycle = s.cycle := rfl
@[simp] theorem State.withCc_id (s : State) (x : Cc) : (s.withCc x).id = s.id := rfl
@[simp] theorem State.withCc_bring (s : State) (x : Cc) : (s.withCc x).bring = s.bring := rfl
@[simp] theorem State.withCc_spad (s : State) (x : Cc) : (s.withCc x).spad = s.spad := rfl
@[simp] theorem State.withCc_rg (s : State) (x : Cc) : (s.withCc x).rg = s.rg := rfl
@[simp] theorem State.withCc_iu (s : State) (x : Cc) : (s.withCc x).iu = s.iu := rfl
@[simp] theorem State.withCc_mx (s : State) (x : Cc) : (s.withCc x).mx = s.mx := rfl
@[simp] theorem State.withCc_vx (s : State) (x : Cc) : (s.withCc x).vx = s.vx := rfl
@[simp] theorem State.withCc_cu (s : State) (x : Cc) : (s.withCc x).cu = s.cu := rfl
@[simp] theorem State.withCc_se (s : State) (x : Cc) : (s.withCc x).se = s.se := rfl
@[simp] theorem State.withCc_tu (s : State) (x : Cc) : (s.withCc x).tu = s.tu := rfl
@[simp] theorem State.withCc_alm (s : State) (x : Cc) : (s.withCc x).alm = s.alm := rfl
@[simp] theorem State.withCc_cal (s : State) (x : Cc) : (s.withCc x).cal = s.cal := rfl
@[simp] theorem State.withCc_sol (s : State) (x : Cc) : (s.withCc x).sol = s.sol := rfl
@[simp] theorem State.withCc_fp (s : State) (x : Cc) : (s.withCc x).fp = s.fp := rfl
@[simp] theorem State.withCc_fa (s : State) (x : Cc) : (s.withCc x).fa = s.fa := rfl
@[simp] theorem State.withCc_cc (s : State) (x : Cc) : (s.withCc x).cc = x := rfl
@[simp] theorem State.withCc_ring (s : State) (x : Cc) : (s.withCc x).ring = s.ring := rfl
@[simp] theorem State.withCc_job (s : State) (x : Cc) : (s.withCc x).job = s.job := rfl
@[simp] theorem State.withCc_eq (s : State) (x : Cc) : (s.withCc x).eq = s.eq := rfl
@[simp] theorem State.withCc_err (s : State) (x : Cc) : (s.withCc x).err = s.err := rfl
@[simp] theorem State.withCc_rep (s : State) (x : Cc) : (s.withCc x).rep = s.rep := rfl
@[simp] theorem State.withCc_bg (s : State) (x : Cc) : (s.withCc x).bg = s.bg := rfl
@[simp] theorem State.withCc_su (s : State) (x : Cc) : (s.withCc x).su = s.su := rfl
@[simp] theorem State.withCc_tap (s : State) (x : Cc) : (s.withCc x).tap = s.tap := rfl
@[simp] theorem State.withRing_pending (s : State) (x : Vector Ring 8) : (s.withRing x).pending = s.pending := rfl
@[simp] theorem State.withRing_out (s : State) (x : Vector Ring 8) : (s.withRing x).out = s.out := rfl
@[simp] theorem State.withRing_freeCtr (s : State) (x : Vector Ring 8) : (s.withRing x).freeCtr = s.freeCtr := rfl
@[simp] theorem State.withRing_powered (s : State) (x : Vector Ring 8) : (s.withRing x).powered = s.powered := rfl
@[simp] theorem State.withRing_cycle (s : State) (x : Vector Ring 8) : (s.withRing x).cycle = s.cycle := rfl
@[simp] theorem State.withRing_id (s : State) (x : Vector Ring 8) : (s.withRing x).id = s.id := rfl
@[simp] theorem State.withRing_bring (s : State) (x : Vector Ring 8) : (s.withRing x).bring = s.bring := rfl
@[simp] theorem State.withRing_spad (s : State) (x : Vector Ring 8) : (s.withRing x).spad = s.spad := rfl
@[simp] theorem State.withRing_rg (s : State) (x : Vector Ring 8) : (s.withRing x).rg = s.rg := rfl
@[simp] theorem State.withRing_iu (s : State) (x : Vector Ring 8) : (s.withRing x).iu = s.iu := rfl
@[simp] theorem State.withRing_mx (s : State) (x : Vector Ring 8) : (s.withRing x).mx = s.mx := rfl
@[simp] theorem State.withRing_vx (s : State) (x : Vector Ring 8) : (s.withRing x).vx = s.vx := rfl
@[simp] theorem State.withRing_cu (s : State) (x : Vector Ring 8) : (s.withRing x).cu = s.cu := rfl
@[simp] theorem State.withRing_se (s : State) (x : Vector Ring 8) : (s.withRing x).se = s.se := rfl
@[simp] theorem State.withRing_tu (s : State) (x : Vector Ring 8) : (s.withRing x).tu = s.tu := rfl
@[simp] theorem State.withRing_alm (s : State) (x : Vector Ring 8) : (s.withRing x).alm = s.alm := rfl
@[simp] theorem State.withRing_cal (s : State) (x : Vector Ring 8) : (s.withRing x).cal = s.cal := rfl
@[simp] theorem State.withRing_sol (s : State) (x : Vector Ring 8) : (s.withRing x).sol = s.sol := rfl
@[simp] theorem State.withRing_fp (s : State) (x : Vector Ring 8) : (s.withRing x).fp = s.fp := rfl
@[simp] theorem State.withRing_fa (s : State) (x : Vector Ring 8) : (s.withRing x).fa = s.fa := rfl
@[simp] theorem State.withRing_cc (s : State) (x : Vector Ring 8) : (s.withRing x).cc = s.cc := rfl
@[simp] theorem State.withRing_ring (s : State) (x : Vector Ring 8) : (s.withRing x).ring = x := rfl
@[simp] theorem State.withRing_job (s : State) (x : Vector Ring 8) : (s.withRing x).job = s.job := rfl
@[simp] theorem State.withRing_eq (s : State) (x : Vector Ring 8) : (s.withRing x).eq = s.eq := rfl
@[simp] theorem State.withRing_err (s : State) (x : Vector Ring 8) : (s.withRing x).err = s.err := rfl
@[simp] theorem State.withRing_rep (s : State) (x : Vector Ring 8) : (s.withRing x).rep = s.rep := rfl
@[simp] theorem State.withRing_bg (s : State) (x : Vector Ring 8) : (s.withRing x).bg = s.bg := rfl
@[simp] theorem State.withRing_su (s : State) (x : Vector Ring 8) : (s.withRing x).su = s.su := rfl
@[simp] theorem State.withRing_tap (s : State) (x : Vector Ring 8) : (s.withRing x).tap = s.tap := rfl
@[simp] theorem State.withJob_pending (s : State) (x : Job) : (s.withJob x).pending = s.pending := rfl
@[simp] theorem State.withJob_out (s : State) (x : Job) : (s.withJob x).out = s.out := rfl
@[simp] theorem State.withJob_freeCtr (s : State) (x : Job) : (s.withJob x).freeCtr = s.freeCtr := rfl
@[simp] theorem State.withJob_powered (s : State) (x : Job) : (s.withJob x).powered = s.powered := rfl
@[simp] theorem State.withJob_cycle (s : State) (x : Job) : (s.withJob x).cycle = s.cycle := rfl
@[simp] theorem State.withJob_id (s : State) (x : Job) : (s.withJob x).id = s.id := rfl
@[simp] theorem State.withJob_bring (s : State) (x : Job) : (s.withJob x).bring = s.bring := rfl
@[simp] theorem State.withJob_spad (s : State) (x : Job) : (s.withJob x).spad = s.spad := rfl
@[simp] theorem State.withJob_rg (s : State) (x : Job) : (s.withJob x).rg = s.rg := rfl
@[simp] theorem State.withJob_iu (s : State) (x : Job) : (s.withJob x).iu = s.iu := rfl
@[simp] theorem State.withJob_mx (s : State) (x : Job) : (s.withJob x).mx = s.mx := rfl
@[simp] theorem State.withJob_vx (s : State) (x : Job) : (s.withJob x).vx = s.vx := rfl
@[simp] theorem State.withJob_cu (s : State) (x : Job) : (s.withJob x).cu = s.cu := rfl
@[simp] theorem State.withJob_se (s : State) (x : Job) : (s.withJob x).se = s.se := rfl
@[simp] theorem State.withJob_tu (s : State) (x : Job) : (s.withJob x).tu = s.tu := rfl
@[simp] theorem State.withJob_alm (s : State) (x : Job) : (s.withJob x).alm = s.alm := rfl
@[simp] theorem State.withJob_cal (s : State) (x : Job) : (s.withJob x).cal = s.cal := rfl
@[simp] theorem State.withJob_sol (s : State) (x : Job) : (s.withJob x).sol = s.sol := rfl
@[simp] theorem State.withJob_fp (s : State) (x : Job) : (s.withJob x).fp = s.fp := rfl
@[simp] theorem State.withJob_fa (s : State) (x : Job) : (s.withJob x).fa = s.fa := rfl
@[simp] theorem State.withJob_cc (s : State) (x : Job) : (s.withJob x).cc = s.cc := rfl
@[simp] theorem State.withJob_ring (s : State) (x : Job) : (s.withJob x).ring = s.ring := rfl
@[simp] theorem State.withJob_job (s : State) (x : Job) : (s.withJob x).job = x := rfl
@[simp] theorem State.withJob_eq (s : State) (x : Job) : (s.withJob x).eq = s.eq := rfl
@[simp] theorem State.withJob_err (s : State) (x : Job) : (s.withJob x).err = s.err := rfl
@[simp] theorem State.withJob_rep (s : State) (x : Job) : (s.withJob x).rep = s.rep := rfl
@[simp] theorem State.withJob_bg (s : State) (x : Job) : (s.withJob x).bg = s.bg := rfl
@[simp] theorem State.withJob_su (s : State) (x : Job) : (s.withJob x).su = s.su := rfl
@[simp] theorem State.withJob_tap (s : State) (x : Job) : (s.withJob x).tap = s.tap := rfl
@[simp] theorem State.withEq_pending (s : State) (x : Eqx) : (s.withEq x).pending = s.pending := rfl
@[simp] theorem State.withEq_out (s : State) (x : Eqx) : (s.withEq x).out = s.out := rfl
@[simp] theorem State.withEq_freeCtr (s : State) (x : Eqx) : (s.withEq x).freeCtr = s.freeCtr := rfl
@[simp] theorem State.withEq_powered (s : State) (x : Eqx) : (s.withEq x).powered = s.powered := rfl
@[simp] theorem State.withEq_cycle (s : State) (x : Eqx) : (s.withEq x).cycle = s.cycle := rfl
@[simp] theorem State.withEq_id (s : State) (x : Eqx) : (s.withEq x).id = s.id := rfl
@[simp] theorem State.withEq_bring (s : State) (x : Eqx) : (s.withEq x).bring = s.bring := rfl
@[simp] theorem State.withEq_spad (s : State) (x : Eqx) : (s.withEq x).spad = s.spad := rfl
@[simp] theorem State.withEq_rg (s : State) (x : Eqx) : (s.withEq x).rg = s.rg := rfl
@[simp] theorem State.withEq_iu (s : State) (x : Eqx) : (s.withEq x).iu = s.iu := rfl
@[simp] theorem State.withEq_mx (s : State) (x : Eqx) : (s.withEq x).mx = s.mx := rfl
@[simp] theorem State.withEq_vx (s : State) (x : Eqx) : (s.withEq x).vx = s.vx := rfl
@[simp] theorem State.withEq_cu (s : State) (x : Eqx) : (s.withEq x).cu = s.cu := rfl
@[simp] theorem State.withEq_se (s : State) (x : Eqx) : (s.withEq x).se = s.se := rfl
@[simp] theorem State.withEq_tu (s : State) (x : Eqx) : (s.withEq x).tu = s.tu := rfl
@[simp] theorem State.withEq_alm (s : State) (x : Eqx) : (s.withEq x).alm = s.alm := rfl
@[simp] theorem State.withEq_cal (s : State) (x : Eqx) : (s.withEq x).cal = s.cal := rfl
@[simp] theorem State.withEq_sol (s : State) (x : Eqx) : (s.withEq x).sol = s.sol := rfl
@[simp] theorem State.withEq_fp (s : State) (x : Eqx) : (s.withEq x).fp = s.fp := rfl
@[simp] theorem State.withEq_fa (s : State) (x : Eqx) : (s.withEq x).fa = s.fa := rfl
@[simp] theorem State.withEq_cc (s : State) (x : Eqx) : (s.withEq x).cc = s.cc := rfl
@[simp] theorem State.withEq_ring (s : State) (x : Eqx) : (s.withEq x).ring = s.ring := rfl
@[simp] theorem State.withEq_job (s : State) (x : Eqx) : (s.withEq x).job = s.job := rfl
@[simp] theorem State.withEq_eq (s : State) (x : Eqx) : (s.withEq x).eq = x := rfl
@[simp] theorem State.withEq_err (s : State) (x : Eqx) : (s.withEq x).err = s.err := rfl
@[simp] theorem State.withEq_rep (s : State) (x : Eqx) : (s.withEq x).rep = s.rep := rfl
@[simp] theorem State.withEq_bg (s : State) (x : Eqx) : (s.withEq x).bg = s.bg := rfl
@[simp] theorem State.withEq_su (s : State) (x : Eqx) : (s.withEq x).su = s.su := rfl
@[simp] theorem State.withEq_tap (s : State) (x : Eqx) : (s.withEq x).tap = s.tap := rfl
@[simp] theorem State.withErr_pending (s : State) (x : Err) : (s.withErr x).pending = s.pending := rfl
@[simp] theorem State.withErr_out (s : State) (x : Err) : (s.withErr x).out = s.out := rfl
@[simp] theorem State.withErr_freeCtr (s : State) (x : Err) : (s.withErr x).freeCtr = s.freeCtr := rfl
@[simp] theorem State.withErr_powered (s : State) (x : Err) : (s.withErr x).powered = s.powered := rfl
@[simp] theorem State.withErr_cycle (s : State) (x : Err) : (s.withErr x).cycle = s.cycle := rfl
@[simp] theorem State.withErr_id (s : State) (x : Err) : (s.withErr x).id = s.id := rfl
@[simp] theorem State.withErr_bring (s : State) (x : Err) : (s.withErr x).bring = s.bring := rfl
@[simp] theorem State.withErr_spad (s : State) (x : Err) : (s.withErr x).spad = s.spad := rfl
@[simp] theorem State.withErr_rg (s : State) (x : Err) : (s.withErr x).rg = s.rg := rfl
@[simp] theorem State.withErr_iu (s : State) (x : Err) : (s.withErr x).iu = s.iu := rfl
@[simp] theorem State.withErr_mx (s : State) (x : Err) : (s.withErr x).mx = s.mx := rfl
@[simp] theorem State.withErr_vx (s : State) (x : Err) : (s.withErr x).vx = s.vx := rfl
@[simp] theorem State.withErr_cu (s : State) (x : Err) : (s.withErr x).cu = s.cu := rfl
@[simp] theorem State.withErr_se (s : State) (x : Err) : (s.withErr x).se = s.se := rfl
@[simp] theorem State.withErr_tu (s : State) (x : Err) : (s.withErr x).tu = s.tu := rfl
@[simp] theorem State.withErr_alm (s : State) (x : Err) : (s.withErr x).alm = s.alm := rfl
@[simp] theorem State.withErr_cal (s : State) (x : Err) : (s.withErr x).cal = s.cal := rfl
@[simp] theorem State.withErr_sol (s : State) (x : Err) : (s.withErr x).sol = s.sol := rfl
@[simp] theorem State.withErr_fp (s : State) (x : Err) : (s.withErr x).fp = s.fp := rfl
@[simp] theorem State.withErr_fa (s : State) (x : Err) : (s.withErr x).fa = s.fa := rfl
@[simp] theorem State.withErr_cc (s : State) (x : Err) : (s.withErr x).cc = s.cc := rfl
@[simp] theorem State.withErr_ring (s : State) (x : Err) : (s.withErr x).ring = s.ring := rfl
@[simp] theorem State.withErr_job (s : State) (x : Err) : (s.withErr x).job = s.job := rfl
@[simp] theorem State.withErr_eq (s : State) (x : Err) : (s.withErr x).eq = s.eq := rfl
@[simp] theorem State.withErr_err (s : State) (x : Err) : (s.withErr x).err = x := rfl
@[simp] theorem State.withErr_rep (s : State) (x : Err) : (s.withErr x).rep = s.rep := rfl
@[simp] theorem State.withErr_bg (s : State) (x : Err) : (s.withErr x).bg = s.bg := rfl
@[simp] theorem State.withErr_su (s : State) (x : Err) : (s.withErr x).su = s.su := rfl
@[simp] theorem State.withErr_tap (s : State) (x : Err) : (s.withErr x).tap = s.tap := rfl
@[simp] theorem State.withRep_pending (s : State) (x : Repair) : (s.withRep x).pending = s.pending := rfl
@[simp] theorem State.withRep_out (s : State) (x : Repair) : (s.withRep x).out = s.out := rfl
@[simp] theorem State.withRep_freeCtr (s : State) (x : Repair) : (s.withRep x).freeCtr = s.freeCtr := rfl
@[simp] theorem State.withRep_powered (s : State) (x : Repair) : (s.withRep x).powered = s.powered := rfl
@[simp] theorem State.withRep_cycle (s : State) (x : Repair) : (s.withRep x).cycle = s.cycle := rfl
@[simp] theorem State.withRep_id (s : State) (x : Repair) : (s.withRep x).id = s.id := rfl
@[simp] theorem State.withRep_bring (s : State) (x : Repair) : (s.withRep x).bring = s.bring := rfl
@[simp] theorem State.withRep_spad (s : State) (x : Repair) : (s.withRep x).spad = s.spad := rfl
@[simp] theorem State.withRep_rg (s : State) (x : Repair) : (s.withRep x).rg = s.rg := rfl
@[simp] theorem State.withRep_iu (s : State) (x : Repair) : (s.withRep x).iu = s.iu := rfl
@[simp] theorem State.withRep_mx (s : State) (x : Repair) : (s.withRep x).mx = s.mx := rfl
@[simp] theorem State.withRep_vx (s : State) (x : Repair) : (s.withRep x).vx = s.vx := rfl
@[simp] theorem State.withRep_cu (s : State) (x : Repair) : (s.withRep x).cu = s.cu := rfl
@[simp] theorem State.withRep_se (s : State) (x : Repair) : (s.withRep x).se = s.se := rfl
@[simp] theorem State.withRep_tu (s : State) (x : Repair) : (s.withRep x).tu = s.tu := rfl
@[simp] theorem State.withRep_alm (s : State) (x : Repair) : (s.withRep x).alm = s.alm := rfl
@[simp] theorem State.withRep_cal (s : State) (x : Repair) : (s.withRep x).cal = s.cal := rfl
@[simp] theorem State.withRep_sol (s : State) (x : Repair) : (s.withRep x).sol = s.sol := rfl
@[simp] theorem State.withRep_fp (s : State) (x : Repair) : (s.withRep x).fp = s.fp := rfl
@[simp] theorem State.withRep_fa (s : State) (x : Repair) : (s.withRep x).fa = s.fa := rfl
@[simp] theorem State.withRep_cc (s : State) (x : Repair) : (s.withRep x).cc = s.cc := rfl
@[simp] theorem State.withRep_ring (s : State) (x : Repair) : (s.withRep x).ring = s.ring := rfl
@[simp] theorem State.withRep_job (s : State) (x : Repair) : (s.withRep x).job = s.job := rfl
@[simp] theorem State.withRep_eq (s : State) (x : Repair) : (s.withRep x).eq = s.eq := rfl
@[simp] theorem State.withRep_err (s : State) (x : Repair) : (s.withRep x).err = s.err := rfl
@[simp] theorem State.withRep_rep (s : State) (x : Repair) : (s.withRep x).rep = x := rfl
@[simp] theorem State.withRep_bg (s : State) (x : Repair) : (s.withRep x).bg = s.bg := rfl
@[simp] theorem State.withRep_su (s : State) (x : Repair) : (s.withRep x).su = s.su := rfl
@[simp] theorem State.withRep_tap (s : State) (x : Repair) : (s.withRep x).tap = s.tap := rfl
@[simp] theorem State.withBg_pending (s : State) (x : Background) : (s.withBg x).pending = s.pending := rfl
@[simp] theorem State.withBg_out (s : State) (x : Background) : (s.withBg x).out = s.out := rfl
@[simp] theorem State.withBg_freeCtr (s : State) (x : Background) : (s.withBg x).freeCtr = s.freeCtr := rfl
@[simp] theorem State.withBg_powered (s : State) (x : Background) : (s.withBg x).powered = s.powered := rfl
@[simp] theorem State.withBg_cycle (s : State) (x : Background) : (s.withBg x).cycle = s.cycle := rfl
@[simp] theorem State.withBg_id (s : State) (x : Background) : (s.withBg x).id = s.id := rfl
@[simp] theorem State.withBg_bring (s : State) (x : Background) : (s.withBg x).bring = s.bring := rfl
@[simp] theorem State.withBg_spad (s : State) (x : Background) : (s.withBg x).spad = s.spad := rfl
@[simp] theorem State.withBg_rg (s : State) (x : Background) : (s.withBg x).rg = s.rg := rfl
@[simp] theorem State.withBg_iu (s : State) (x : Background) : (s.withBg x).iu = s.iu := rfl
@[simp] theorem State.withBg_mx (s : State) (x : Background) : (s.withBg x).mx = s.mx := rfl
@[simp] theorem State.withBg_vx (s : State) (x : Background) : (s.withBg x).vx = s.vx := rfl
@[simp] theorem State.withBg_cu (s : State) (x : Background) : (s.withBg x).cu = s.cu := rfl
@[simp] theorem State.withBg_se (s : State) (x : Background) : (s.withBg x).se = s.se := rfl
@[simp] theorem State.withBg_tu (s : State) (x : Background) : (s.withBg x).tu = s.tu := rfl
@[simp] theorem State.withBg_alm (s : State) (x : Background) : (s.withBg x).alm = s.alm := rfl
@[simp] theorem State.withBg_cal (s : State) (x : Background) : (s.withBg x).cal = s.cal := rfl
@[simp] theorem State.withBg_sol (s : State) (x : Background) : (s.withBg x).sol = s.sol := rfl
@[simp] theorem State.withBg_fp (s : State) (x : Background) : (s.withBg x).fp = s.fp := rfl
@[simp] theorem State.withBg_fa (s : State) (x : Background) : (s.withBg x).fa = s.fa := rfl
@[simp] theorem State.withBg_cc (s : State) (x : Background) : (s.withBg x).cc = s.cc := rfl
@[simp] theorem State.withBg_ring (s : State) (x : Background) : (s.withBg x).ring = s.ring := rfl
@[simp] theorem State.withBg_job (s : State) (x : Background) : (s.withBg x).job = s.job := rfl
@[simp] theorem State.withBg_eq (s : State) (x : Background) : (s.withBg x).eq = s.eq := rfl
@[simp] theorem State.withBg_err (s : State) (x : Background) : (s.withBg x).err = s.err := rfl
@[simp] theorem State.withBg_rep (s : State) (x : Background) : (s.withBg x).rep = s.rep := rfl
@[simp] theorem State.withBg_bg (s : State) (x : Background) : (s.withBg x).bg = x := rfl
@[simp] theorem State.withBg_su (s : State) (x : Background) : (s.withBg x).su = s.su := rfl
@[simp] theorem State.withBg_tap (s : State) (x : Background) : (s.withBg x).tap = s.tap := rfl
@[simp] theorem State.withSu_pending (s : State) (x : Setup) : (s.withSu x).pending = s.pending := rfl
@[simp] theorem State.withSu_out (s : State) (x : Setup) : (s.withSu x).out = s.out := rfl
@[simp] theorem State.withSu_freeCtr (s : State) (x : Setup) : (s.withSu x).freeCtr = s.freeCtr := rfl
@[simp] theorem State.withSu_powered (s : State) (x : Setup) : (s.withSu x).powered = s.powered := rfl
@[simp] theorem State.withSu_cycle (s : State) (x : Setup) : (s.withSu x).cycle = s.cycle := rfl
@[simp] theorem State.withSu_id (s : State) (x : Setup) : (s.withSu x).id = s.id := rfl
@[simp] theorem State.withSu_bring (s : State) (x : Setup) : (s.withSu x).bring = s.bring := rfl
@[simp] theorem State.withSu_spad (s : State) (x : Setup) : (s.withSu x).spad = s.spad := rfl
@[simp] theorem State.withSu_rg (s : State) (x : Setup) : (s.withSu x).rg = s.rg := rfl
@[simp] theorem State.withSu_iu (s : State) (x : Setup) : (s.withSu x).iu = s.iu := rfl
@[simp] theorem State.withSu_mx (s : State) (x : Setup) : (s.withSu x).mx = s.mx := rfl
@[simp] theorem State.withSu_vx (s : State) (x : Setup) : (s.withSu x).vx = s.vx := rfl
@[simp] theorem State.withSu_cu (s : State) (x : Setup) : (s.withSu x).cu = s.cu := rfl
@[simp] theorem State.withSu_se (s : State) (x : Setup) : (s.withSu x).se = s.se := rfl
@[simp] theorem State.withSu_tu (s : State) (x : Setup) : (s.withSu x).tu = s.tu := rfl
@[simp] theorem State.withSu_alm (s : State) (x : Setup) : (s.withSu x).alm = s.alm := rfl
@[simp] theorem State.withSu_cal (s : State) (x : Setup) : (s.withSu x).cal = s.cal := rfl
@[simp] theorem State.withSu_sol (s : State) (x : Setup) : (s.withSu x).sol = s.sol := rfl
@[simp] theorem State.withSu_fp (s : State) (x : Setup) : (s.withSu x).fp = s.fp := rfl
@[simp] theorem State.withSu_fa (s : State) (x : Setup) : (s.withSu x).fa = s.fa := rfl
@[simp] theorem State.withSu_cc (s : State) (x : Setup) : (s.withSu x).cc = s.cc := rfl
@[simp] theorem State.withSu_ring (s : State) (x : Setup) : (s.withSu x).ring = s.ring := rfl
@[simp] theorem State.withSu_job (s : State) (x : Setup) : (s.withSu x).job = s.job := rfl
@[simp] theorem State.withSu_eq (s : State) (x : Setup) : (s.withSu x).eq = s.eq := rfl
@[simp] theorem State.withSu_err (s : State) (x : Setup) : (s.withSu x).err = s.err := rfl
@[simp] theorem State.withSu_rep (s : State) (x : Setup) : (s.withSu x).rep = s.rep := rfl
@[simp] theorem State.withSu_bg (s : State) (x : Setup) : (s.withSu x).bg = s.bg := rfl
@[simp] theorem State.withSu_su (s : State) (x : Setup) : (s.withSu x).su = x := rfl
@[simp] theorem State.withSu_tap (s : State) (x : Setup) : (s.withSu x).tap = s.tap := rfl
@[simp] theorem State.withTap_pending (s : State) (x : Tap) : (s.withTap x).pending = s.pending := rfl
@[simp] theorem State.withTap_out (s : State) (x : Tap) : (s.withTap x).out = s.out := rfl
@[simp] theorem State.withTap_freeCtr (s : State) (x : Tap) : (s.withTap x).freeCtr = s.freeCtr := rfl
@[simp] theorem State.withTap_powered (s : State) (x : Tap) : (s.withTap x).powered = s.powered := rfl
@[simp] theorem State.withTap_cycle (s : State) (x : Tap) : (s.withTap x).cycle = s.cycle := rfl
@[simp] theorem State.withTap_id (s : State) (x : Tap) : (s.withTap x).id = s.id := rfl
@[simp] theorem State.withTap_bring (s : State) (x : Tap) : (s.withTap x).bring = s.bring := rfl
@[simp] theorem State.withTap_spad (s : State) (x : Tap) : (s.withTap x).spad = s.spad := rfl
@[simp] theorem State.withTap_rg (s : State) (x : Tap) : (s.withTap x).rg = s.rg := rfl
@[simp] theorem State.withTap_iu (s : State) (x : Tap) : (s.withTap x).iu = s.iu := rfl
@[simp] theorem State.withTap_mx (s : State) (x : Tap) : (s.withTap x).mx = s.mx := rfl
@[simp] theorem State.withTap_vx (s : State) (x : Tap) : (s.withTap x).vx = s.vx := rfl
@[simp] theorem State.withTap_cu (s : State) (x : Tap) : (s.withTap x).cu = s.cu := rfl
@[simp] theorem State.withTap_se (s : State) (x : Tap) : (s.withTap x).se = s.se := rfl
@[simp] theorem State.withTap_tu (s : State) (x : Tap) : (s.withTap x).tu = s.tu := rfl
@[simp] theorem State.withTap_alm (s : State) (x : Tap) : (s.withTap x).alm = s.alm := rfl
@[simp] theorem State.withTap_cal (s : State) (x : Tap) : (s.withTap x).cal = s.cal := rfl
@[simp] theorem State.withTap_sol (s : State) (x : Tap) : (s.withTap x).sol = s.sol := rfl
@[simp] theorem State.withTap_fp (s : State) (x : Tap) : (s.withTap x).fp = s.fp := rfl
@[simp] theorem State.withTap_fa (s : State) (x : Tap) : (s.withTap x).fa = s.fa := rfl
@[simp] theorem State.withTap_cc (s : State) (x : Tap) : (s.withTap x).cc = s.cc := rfl
@[simp] theorem State.withTap_ring (s : State) (x : Tap) : (s.withTap x).ring = s.ring := rfl
@[simp] theorem State.withTap_job (s : State) (x : Tap) : (s.withTap x).job = s.job := rfl
@[simp] theorem State.withTap_eq (s : State) (x : Tap) : (s.withTap x).eq = s.eq := rfl
@[simp] theorem State.withTap_err (s : State) (x : Tap) : (s.withTap x).err = s.err := rfl
@[simp] theorem State.withTap_rep (s : State) (x : Tap) : (s.withTap x).rep = s.rep := rfl
@[simp] theorem State.withTap_bg (s : State) (x : Tap) : (s.withTap x).bg = s.bg := rfl
@[simp] theorem State.withTap_su (s : State) (x : Tap) : (s.withTap x).su = s.su := rfl
@[simp] theorem State.withTap_tap (s : State) (x : Tap) : (s.withTap x).tap = x := rfl

end Sys2Proof.Machine
end

