-- ==== Sys2Proof/Laws/Store.lean ====
section
/-! SUPPORT. The sparse stores: writing keeps the canonical form, a read after a write to the same index gives the word written,
and a write leaves every other index alone. -/

namespace Sys2Proof.Machine

theorem Store.wfFrom_mono {w : Nat} {lo lo' : Nat} (m : Store w) (h : lo' ≤ lo) (hm : Store.wfFrom lo m = true) :
    Store.wfFrom lo' m = true := by
  cases m with
  | nil => rfl
  | cons p rest =>
    obtain ⟨a, v⟩ := p
    simp [Store.wfFrom] at hm ⊢
    exact ⟨⟨by omega, hm.1.2⟩, hm.2⟩

/-- A write at or above the bound keeps the canonical form. -/
theorem Store.wfFrom_set {w : Nat} (m : Store w) (lo i : Nat) (x : BitVec w) (hm : Store.wfFrom lo m = true) (hi : lo ≤ i) :
    Store.wfFrom lo (Store.set m i x) = true := by
  induction m generalizing lo with
  | nil =>
    by_cases hx : x = 0#w
    · simp [Store.set, hx, Store.wfFrom]
    · simp [Store.set, hx, Store.wfFrom, hi]
  | cons p rest ih =>
    obtain ⟨a, v⟩ := p
    simp [Store.wfFrom] at hm
    obtain ⟨⟨ha, hv⟩, hr⟩ := hm
    by_cases h1 : i < a
    · by_cases hx : x = 0#w
      · simp [Store.set, h1, hx, Store.wfFrom, ha, hv, hr]
      · have : i + 1 ≤ a := h1
        simp [Store.set, h1, hx, Store.wfFrom, hv, hr, hi, this]
    · by_cases h2 : i = a
      · subst h2
        by_cases hx : x = 0#w
        · simpa [Store.set, hx] using Store.wfFrom_mono rest (by omega) hr
        · simp [Store.set, hx, Store.wfFrom, hi, hr]
      · have h3 : a + 1 ≤ i := by omega
        simp [Store.set, h1, h2, Store.wfFrom, ha, hv, ih (a + 1) hr h3]

/-- A write keeps the canonical form. -/
theorem Store.wf_set {w : Nat} (m : Store w) (i : Nat) (x : BitVec w) (hm : m.wf = true) : (m.set i x).wf = true :=
  Store.wfFrom_set m 0 i x hm (Nat.zero_le i)

/-- An index below the bound of a canonical store reads as zero. -/
theorem Store.get_below {w : Nat} (m : Store w) (lo i : Nat) (hm : Store.wfFrom lo m = true) (hi : i < lo) :
    Store.get m i = 0 := by
  induction m generalizing lo with
  | nil => rfl
  | cons p rest ih =>
    obtain ⟨a, v⟩ := p
    simp [Store.wfFrom] at hm
    have h1 : a ≠ i := by omega
    simp [Store.get, h1, ih (a + 1) hm.2 (by omega)]

theorem Store.get_setFrom {w : Nat} (m : Store w) (lo i j : Nat) (x : BitVec w) (hm : Store.wfFrom lo m = true) :
    Store.get (Store.set m i x) j = if j = i then x else Store.get m j := by
  induction m generalizing lo with
  | nil =>
    by_cases hx : x = 0#w
    · by_cases hj : j = i <;> simp [Store.set, Store.get, hx, hj]
    · by_cases hj : j = i
      · simp [Store.set, Store.get, hx, hj]
      · have hj' : i ≠ j := fun h => hj h.symm
        simp [Store.set, Store.get, hx, hj, hj']
  | cons p rest ih =>
    obtain ⟨a, v⟩ := p
    have hm' := hm
    simp [Store.wfFrom] at hm
    obtain ⟨⟨ha, hv⟩, hr⟩ := hm
    by_cases h1 : i < a
    · have hlow : Store.get ((a, v) :: rest) i = 0 := by
        have : Store.wfFrom a ((a, v) :: rest) = true := by simp [Store.wfFrom, hv, hr]
        exact Store.get_below _ a i this h1
      by_cases hx : x = 0#w
      · by_cases hj : j = i
        · subst hj; simp [Store.set, h1, hx, hlow]
        · simp [Store.set, h1, hx, hj]
      · by_cases hj : j = i
        · simp [Store.set, h1, hx, Store.get, hj]
        · have hj' : i ≠ j := fun h => hj h.symm
          simp [Store.set, h1, hx, Store.get, hj, hj']
    · by_cases h2 : i = a
      · subst h2
        by_cases hx : x = 0#w
        · by_cases hj : j = i
          · subst hj; simp [Store.set, hx, Store.get_below rest (j + 1) j hr (by omega)]
          · have hj' : i ≠ j := fun h => hj h.symm
            simp [Store.set, hx, Store.get, hj, hj']
        · by_cases hj : j = i
          · simp [Store.set, hx, Store.get, hj]
          · have hj' : i ≠ j := fun h => hj h.symm
            simp [Store.set, hx, Store.get, hj, hj']
      · by_cases ha' : a = j
        · subst ha'
          have : a ≠ i := fun h => h2 h.symm
          simp [Store.set, h1, h2, Store.get, this]
        · simp [Store.set, h1, h2, Store.get, ha', ih (a + 1) hr]

/-- A read after a write to a canonical store. -/
theorem Store.get_set {w : Nat} (m : Store w) (i j : Nat) (x : BitVec w) (hm : m.wf = true) :
    (m.set i x).get j = if j = i then x else m.get j :=
  Store.get_setFrom m 0 i j x hm

theorem Store.get_set_same {w : Nat} (m : Store w) (i : Nat) (x : BitVec w) (hm : m.wf = true) : (m.set i x).get i = x := by
  simp [Store.get_set m i i x hm]

theorem Store.get_set_other {w : Nat} (m : Store w) (i j : Nat) (x : BitVec w) (hm : m.wf = true) (h : j ≠ i) :
    (m.set i x).get j = m.get j := by
  simp [Store.get_set m i j x hm, h]

theorem Store.wfFrom_filter {w : Nat} (m : Store w) (lo : Nat) (p : Nat × BitVec w → Bool) (hm : Store.wfFrom lo m = true) :
    Store.wfFrom lo (m.filter p) = true := by
  induction m generalizing lo with
  | nil => rfl
  | cons q rest ih =>
    obtain ⟨a, v⟩ := q
    simp [Store.wfFrom] at hm
    obtain ⟨⟨ha, hv⟩, hr⟩ := hm
    by_cases h : p (a, v) = true
    · simp [h, Store.wfFrom, ha, hv, ih (a + 1) hr]
    · simp [h]
      exact Store.wfFrom_mono _ (by omega) (ih (a + 1) hr)

/-- Removing entries keeps the canonical form. -/
theorem Store.wf_filter {w : Nat} (m : Store w) (p : Nat × BitVec w → Bool) (hm : m.wf = true) :
    Store.wf (m.filter p) = true :=
  Store.wfFrom_filter m 0 p hm

theorem Store.wf_clear {w : Nat} (m : Store w) (lo hi : Nat) (hm : m.wf = true) : (m.clear lo hi).wf = true :=
  Store.wf_filter m _ hm

/-- A fold of writes keeps the canonical form. -/
theorem Store.wf_foldl {w : Nat} {α : Type} (f : Store w → α → Store w) (hf : ∀ m a, m.wf = true → (f m a).wf = true)
    (l : List α) (m : Store w) (hm : m.wf = true) : (l.foldl f m).wf = true := by
  induction l generalizing m with
  | nil => exact hm
  | cons a l ih => exact ih (f m a) (hf m a hm)

/-! ### The scratchpad -/

/-- Writing one byte keeps the scratchpad canonical. -/
theorem Spad.wf_writeByte (sp : Spad) (a : Nat) (b : Byte) (h : sp.mem.wf = true) : (sp.writeByte a b).mem.wf = true :=
  Store.wf_set sp.mem a b h

theorem Spad.wf_writes (ws : Bytes) (sp : Spad) (h : sp.mem.wf = true) :
    (ws.foldl (fun (sp : Spad) (p : Nat × Byte) => sp.writeByte p.1 p.2) sp).mem.wf = true := by
  induction ws generalizing sp with
  | nil => exact h
  | cons p ws ih => exact ih (sp.writeByte p.1 p.2) (Spad.wf_writeByte sp p.1 p.2 h)

/-- Landing a set of writes keeps the scratchpad canonical. -/
theorem Spad.wf_write (sp : Spad) (ws : Bytes) (h : sp.mem.wf = true) : (sp.write ws).mem.wf = true := by
  unfold Spad.write
  exact Spad.wf_writes _ sp h

/-- One byte written to a canonical scratchpad reads back, and every other byte stays. -/
theorem Spad.get_writeByte (sp : Spad) (a c : Nat) (b : Byte) (h : sp.mem.wf = true) :
    (sp.writeByte a b).mem.get c = if c = a then b else sp.mem.get c :=
  Store.get_set sp.mem a c b h

end Sys2Proof.Machine
end

