-- ==== Sys2Proof/Laws/Ops.lean ====
section
/-! SUPPORT. What the shared operations do and what they leave alone: counters and their signals (R28, R41, R42), predicates (R44),
the scalar file (R337), tasks, regions, landed writes (R64) and the error log (R395). -/

namespace Sys2Proof.Machine

/-! ### Event counters -/

/-- Writing a counter gives it the value and leaves every other counter. -/
theorem State.ec_setEc (s : State) (i j : BitVec 6) (v : BitVec 16) : (s.setEc i v).ec j = if j = i then v else s.ec j := by
  by_cases h : j = i
  · subst h; simp [State.setEc, State.ec, State.withIu]
  · have hn : i.toNat ≠ j.toNat := fun e => h (BitVec.eq_of_toNat_eq e.symm)
    simp [State.setEc, State.ec, State.withIu, h, Vector.getElem_set_ne _ _ hn]

theorem State.ec_addEc (s : State) (i j : BitVec 6) (v : BitVec 16) :
    (s.addEc i v).ec j = if j = i then s.ec i + v else s.ec j := by
  simp [State.addEc, State.ec_setEc]

/-- A signal adds its increment to its counter. -/
theorem State.ec_signal (s : State) (g : Signal) (j : BitVec 6) :
    (s.signal g).ec j = s.ec j + if g.ec = j then g.inc.setWidth 16 else 0 := by
  unfold State.signal
  by_cases h0 : g.inc = 0#8
  · simp [h0]
  · by_cases h : g.ec = j
    · simp [h0, State.ec_addEc, h]
    · have h' : j ≠ g.ec := fun e => h e.symm
      simp [h0, State.ec_addEc, h, h']

/-- The signals of a command add what `bump` says. -/
theorem State.ec_signals (s : State) (h : Header) (j : BitVec 6) : (s.signals h).ec j = s.ec j + bump h j := by
  unfold State.signals bump
  rw [State.ec_signal, State.ec_signal, BitVec.add_assoc]

/-- A signal changes counters and the quiet time only. -/
theorem State.signal_frame (s : State) (g : Signal) :
    (s.signal g).withIu s.iu = s ∧ (s.signal g).iu.pd = s.iu.pd ∧ (s.signal g).iu.sf = s.iu.sf ∧
    (s.signal g).iu.tasks = s.iu.tasks ∧ (s.signal g).iu.queued = s.iu.queued ∧ (s.signal g).iu.staged = s.iu.staged ∧
    (s.signal g).iu.exec = s.iu.exec := by
  unfold State.signal
  split <;> simp [State.addEc, State.setEc, State.withIu]

theorem State.signals_frame (s : State) (h : Header) :
    (s.signals h).withIu s.iu = s ∧ (s.signals h).iu.pd = s.iu.pd ∧ (s.signals h).iu.sf = s.iu.sf ∧
    (s.signals h).iu.tasks = s.iu.tasks ∧ (s.signals h).iu.queued = s.iu.queued ∧ (s.signals h).iu.staged = s.iu.staged ∧
    (s.signals h).iu.exec = s.iu.exec := by
  have a := State.signal_frame s h.sigA
  have b := State.signal_frame (s.signal h.sigA) h.sigB
  unfold State.signals
  exact ⟨(congrArg (fun z => State.withIu z s.iu) b.1).trans a.1, b.2.1.trans a.2.1, b.2.2.1.trans a.2.2.1,
    b.2.2.2.1.trans a.2.2.2.1, b.2.2.2.2.1.trans a.2.2.2.2.1, b.2.2.2.2.2.1.trans a.2.2.2.2.2.1,
    b.2.2.2.2.2.2.trans a.2.2.2.2.2.2⟩

/-! ### Predicates and the scalar file -/

/-- Writing a predicate gives it the value and leaves every other one. -/
theorem State.pd_setPd (s : State) (i j : BitVec 4) (b : Bool) : (s.setPd i b).pd j = if j = i then b else s.pd j := by
  have hi := i.isLt
  have hj := j.isLt
  by_cases h : j = i
  · subst h
    cases b <;> simp [State.setPd, State.pd, State.withIu, hj]
  · have hn : i.toNat ≠ j.toNat := fun e => h (BitVec.eq_of_toNat_eq e.symm)
    have hd : (1#16).getLsbD (j.toNat - i.toNat) = true ↔ j.toNat - i.toNat = 0 := by simp
    cases b
    · simp only [State.setPd, State.pd, State.withIu, h, if_false]
      by_cases hlt : j.toNat < i.toNat
      · simp [hlt, hj]
      · have : ¬ (j.toNat - i.toNat = 0) := by omega
        simp [hlt, hj, this]
    · simp only [State.setPd, State.pd, State.withIu, h, if_false, if_true, BitVec.getLsbD_or, BitVec.getLsbD_shiftLeft]
      by_cases hlt : j.toNat < i.toNat
      · simp [hlt]
      · have : ¬ (j.toNat - i.toNat = 0) := by omega
        simp [hlt, this]

theorem State.setPd_frame (s : State) (i : BitVec 4) (b : Bool) :
    (s.setPd i b).withIu s.iu = s ∧ (s.setPd i b).iu.ec = s.iu.ec ∧ (s.setPd i b).iu.sf = s.iu.sf ∧
    (s.setPd i b).iu.tasks = s.iu.tasks ∧ (s.setPd i b).iu.queued = s.iu.queued ∧
    (s.setPd i b).iu.staged = s.iu.staged ∧ (s.setPd i b).iu.exec = s.iu.exec :=
  ⟨rfl, rfl, rfl, rfl, rfl, rfl, rfl⟩

/-- Writing a scalar-file entry gives it the value, but for bit 63 of SF47, and leaves every other one. -/
theorem State.sf_setSf (s : State) (i j : BitVec 6) (v : W64) (hi : i ≠ 47#6) :
    (s.setSf i v).sf j = if j = i then v else s.sf j := by
  by_cases h : j = i
  · subst h; simp [State.setSf, State.putSf, State.sf, State.withIu, hi]
  · have hn : i.toNat ≠ j.toNat := fun e => h (BitVec.eq_of_toNat_eq e.symm)
    simp [State.setSf, State.putSf, State.sf, State.withIu, hi, h, Vector.getElem_set_ne _ _ hn]

/-! ### Tasks and regions -/

theorem State.task_setTask (s : State) (t u : Fin 4) (k : Task) : (s.setTask t k).task u = if u = t then k else s.task u := by
  by_cases h : u = t
  · subst h; simp [State.setTask, State.task, State.withIu]
  · have hn : t.1 ≠ u.1 := fun e => h (Fin.ext e.symm)
    simp [State.setTask, State.task, State.withIu, h, Vector.getElem_set_ne _ _ hn]

theorem State.region_setRegion (s : State) (r q : BitVec 6) (e : Region) :
    (s.setRegion r e).region q = if q = r then e else s.region q := by
  by_cases h : q = r
  · subst h; simp [State.setRegion, State.region, State.withRg]
  · have hn : r.toNat ≠ q.toNat := fun x => h (BitVec.eq_of_toNat_eq x.symm)
    simp [State.setRegion, State.region, State.withRg, h, Vector.getElem_set_ne _ _ hn]

theorem State.setRegion_frame (s : State) (r : BitVec 6) (e : Region) : (s.setRegion r e).withRg s.rg = s := rfl

/-! ### Landed writes -/

theorem lastByte_cons (a c : Nat) (b d : Byte) (ws : Bytes) :
    lastByte ((a, b) :: ws) c d = lastByte ws c (if c = a then b else d) := by
  unfold lastByte
  rw [List.reverse_cons, List.find?_append]
  cases h : ws.reverse.find? (fun p => p.1 == c) with
  | some p => simp
  | none =>
    by_cases hc : c = a
    · subst hc; simp [List.find?]
    · have hb : (a == c) = false := by simpa using fun e => hc e.symm
      simp [List.find?, hb, hc]

theorem Spad.get_writes (ws : Bytes) (sp : Spad) (h : sp.mem.wf = true) (c : Nat) :
    (ws.foldl (fun (sp : Spad) (p : Nat × Byte) => sp.writeByte p.1 p.2) sp).mem.get c = lastByte ws c (sp.mem.get c) := by
  induction ws generalizing sp with
  | nil => rfl
  | cons p ws ih =>
    obtain ⟨a, b⟩ := p
    rw [List.foldl_cons, ih _ (Spad.wf_writeByte sp a b h), Spad.get_writeByte sp a c b h, lastByte_cons]

/-- When no word is written in part over an uncorrectable error, each byte reads as its last write, or as before. -/
theorem Spad.get_write (sp : Spad) (ws : Bytes) (h : sp.mem.wf = true) (hn : sp.narrow ws = []) (c : Nat) :
    (sp.write ws).mem.get c = lastByte ws c (sp.mem.get c) := by
  simp [Spad.write, hn, Spad.get_writes ws sp h c]

theorem State.byte_writeSpad (s : State) (ws : Bytes) (h : s.spad.mem.wf = true) (hn : s.spad.narrow ws = []) (a : Nat) :
    (s.writeSpad ws).byte a = lastByte ws a (s.byte a) := by
  simp [State.writeSpad, hn, State.poisonWords, State.byte, State.withSpad, Spad.get_write s.spad ws h hn a]

/-! ### The error log -/

theorem mergeLog_length (e : LogEntry) (l : List LogEntry) : (mergeLog e l).length = l.length := by
  induction l with
  | nil => rfl
  | cons x l ih =>
    unfold mergeLog
    split
    · rfl
    · simp [ih]

theorem dropMinor_length (l : List LogEntry) (h : l.any (fun x => x.cls == 0#2) = true) : (dropMinor l).length + 1 = l.length := by
  induction l with
  | nil => simp at h
  | cons x l ih =>
    unfold dropMinor
    split
    · rfl
    · rename_i hx
      have : l.any (fun x => x.cls == 0#2) = true := by
        rw [List.any_cons] at h
        cases hc : (x.cls == 0#2) with
        | true => exact absurd hc hx
        | false => rw [hc, Bool.false_or] at h; exact h
      simp [ih this]

/-- Handling an event keeps the log at 64 entries at most. -/
theorem State.addLog_length (s : State) (e : LogEntry) (h : s.err.log.length ≤ 64) : (s.addLog e).err.log.length ≤ 64 := by
  unfold State.addLog
  split
  · simp [State.withErr, mergeLog_length, h]
  · split
    · simp [State.latchEvent, State.withErr, State.withCc]; omega
    · split
      · simpa [State.withErr] using h
      · split
        · rename_i hm
          have := dropMinor_length _ hm
          simp [State.latchEvent, State.withErr, State.withCc]; omega
        · simpa [State.withErr] using h

theorem State.latchEvent_frame (s : State) (e : Err) (b : Nat) :
    ((((s.withErr e).latchEvent b).withErr s.err).withCc s.cc = s) ∧ ((s.withErr e).latchEvent b).iu = s.iu ∧
    ((s.withErr e).latchEvent b).spad = s.spad ∧ ((s.withErr e).latchEvent b).rg = s.rg ∧
    ((s.withErr e).latchEvent b).job = s.job ∧ ((s.withErr e).latchEvent b).out = s.out ∧
    ((s.withErr e).latchEvent b).fp = s.fp :=
  ⟨rfl, rfl, rfl, rfl, rfl, rfl, rfl⟩

theorem State.withErr_frame (s : State) (e : Err) :
    ((s.withErr e).withErr s.err).withCc s.cc = s ∧ (s.withErr e).iu = s.iu ∧ (s.withErr e).spad = s.spad ∧
    (s.withErr e).rg = s.rg ∧ (s.withErr e).job = s.job ∧ (s.withErr e).out = s.out ∧ (s.withErr e).fp = s.fp :=
  ⟨rfl, rfl, rfl, rfl, rfl, rfl, rfl⟩

/-- Handling an event changes the log and the latched event only. -/
theorem State.addLog_frame (s : State) (e : LogEntry) :
    ((s.addLog e).withErr s.err).withCc s.cc = s ∧ (s.addLog e).iu = s.iu ∧ (s.addLog e).spad = s.spad ∧
    (s.addLog e).rg = s.rg ∧ (s.addLog e).job = s.job ∧ (s.addLog e).out = s.out ∧ (s.addLog e).fp = s.fp := by
  unfold State.addLog
  split
  · exact State.withErr_frame s _
  · split
    · exact State.latchEvent_frame s _ 12
    · split
      · exact State.withErr_frame s _
      · split
        · exact State.latchEvent_frame s _ 12
        · exact State.withErr_frame s _

end Sys2Proof.Machine
end

