-- ==== Sys2Proof/Laws/Frames.lean ====
section
/-! SUPPORT. For each larger shared operation, which fields of the state it replaces: poisoning (R72), free bytes and abandoned
outputs (R56), emptied partitions (R151), notices with their hints (R395, R397), a task's abort (R56) and the core fence (R398). -/

namespace Sys2Proof.Machine

/-- A fold of operations that each replace the fields that `P` allows does so too. -/
theorem foldl_only {α : Type} (P : State → State → Prop) (hr : ∀ s, P s s) (ht : ∀ a b c, P a b → P b c → P a c)
    (f : State → α → State) (hf : ∀ s a, P s (f s a)) (l : List α) (s : State) : P s (l.foldl f s) := by
  induction l generalizing s with
  | nil => exact hr s
  | cons a l ih => exact ht _ _ _ (hf s a) (ih (f s a))

/-! ### Only the region table -/

/-- Only the region table differs. -/
def onlyRg (s t : State) : Prop := t = s.withRg t.rg

theorem onlyRg_refl (s : State) : onlyRg s s := rfl

theorem onlyRg_trans (a b c : State) (h1 : onlyRg a b) (h2 : onlyRg b c) : onlyRg a c := by
  unfold onlyRg at *
  rw [h2, h1]
  rfl

theorem State.poison_only (s : State) (h : Ref) : onlyRg s (s.poison h) := rfl

theorem State.poisonWords_only (s : State) (ws : List Nat) : onlyRg s (s.poisonWords ws) :=
  foldl_only onlyRg onlyRg_refl onlyRg_trans _ (fun s w => by split <;> rfl) ws s

theorem State.releaseRef_only (s : State) (r : Option Ref) : onlyRg s (s.releaseRef r) := by cases r <;> rfl

theorem State.takeRef_only (s : State) (r : Option Ref) : onlyRg s (s.takeRef r) := by cases r <;> rfl

theorem State.poisonOutputs_only (s : State) (i : Issued) : onlyRg s (s.poisonOutputs i) :=
  foldl_only onlyRg onlyRg_refl onlyRg_trans State.poison (fun s h => State.poison_only s h) (s.outHalves i) s

/-- Poisoning a half of a valid region poisons it. -/
theorem Region.poisoned_setPoison (e : Region) (h v : Bool) (hv : e.valid = true) (hs : h = true → e.split = true) :
    (e.setPoison h v).poisoned h = v := by
  cases h
  · simp [Region.setPoison, Region.poisoned, hv]
  · simp [Region.setPoison, Region.poisoned, hv, hs rfl]

/-! ### Only the scratchpad and the count of free values -/

/-- Only the scratchpad and the count of free values differ, and a canonical scratchpad stays so. -/
def onlySpad (s t : State) : Prop :=
  t = (s.withSpad t.spad).withFreeCtr t.freeCtr ∧ (s.spad.mem.wf = true → t.spad.mem.wf = true)

theorem onlySpad_refl (s : State) : onlySpad s s := ⟨rfl, id⟩

theorem onlySpad_trans (a b c : State) (h1 : onlySpad a b) (h2 : onlySpad b c) : onlySpad a c :=
  ⟨by rw [h2.1, h1.1]; rfl, fun h => h2.2 (h1.2 h)⟩

theorem State.freeBytes_only (s : State) (a n : Nat) : onlySpad s (s.freeBytes a n) :=
  foldl_only onlySpad onlySpad_refl onlySpad_trans _
    (fun s k => by
      split
      · exact onlySpad_refl s
      · exact ⟨rfl, fun h => Spad.wf_writeByte s.spad (a + k) _ h⟩) (List.range n) s

/-- What an abandoned command leaves in its outputs. -/
theorem State.scramble_only (s : State) (i : Issued) : onlySpad s (s.scramble i) := by
  unfold State.scramble
  exact foldl_only onlySpad onlySpad_refl onlySpad_trans _ (fun s (q : Nat × Nat) => State.freeBytes_only s q.1 q.2) _ s

/-! ### Only the arrays -/

/-- Only the arrays differ. -/
def onlyMx (s t : State) : Prop := t = s.withMx t.mx

theorem onlyMx_refl (s : State) : onlyMx s s := rfl

theorem onlyMx_trans (a b c : State) (h1 : onlyMx a b) (h2 : onlyMx b c) : onlyMx a c := by
  unfold onlyMx at *
  rw [h2, h1]
  rfl

theorem State.emptyParts_only (s : State) (own : Nat → Nat → Bool) : onlyMx s (s.emptyParts own) :=
  foldl_only onlyMx onlyMx_refl onlyMx_trans _
    (fun s n => foldl_only onlyMx onlyMx_refl onlyMx_trans _ (fun s p => by split <;> rfl) (List.finRange 4) s)
    (List.finRange 4) s

/-! ### Notices -/

/-- Only the log, the control core's latched events, the job's list of hints and the messages sent differ. -/
def onlyNote (s t : State) : Prop :=
  t = (((s.withErr t.err).withCc t.cc).withJob t.job).withOut t.out ∧ (s.err.log.length ≤ 64 → t.err.log.length ≤ 64) ∧
  t.cc = { s.cc with evpend := t.cc.evpend } ∧ t.job = { s.job with hints := t.job.hints }

theorem latchEvent_note (s : State) (e : Err) (b : Nat) (h : s.err.log.length ≤ 64 → e.log.length ≤ 64) :
    onlyNote s ((s.withErr e).latchEvent b) :=
  ⟨rfl, h, rfl, rfl⟩

theorem withErr_note (s : State) (e : Err) (h : s.err.log.length ≤ 64 → e.log.length ≤ 64) : onlyNote s (s.withErr e) :=
  ⟨rfl, h, rfl, rfl⟩

/-- Handling an event replaces the log, and latches ERRLOG when an entry is added (R342, R395). -/
theorem State.addLog_shape (s : State) (e : LogEntry) :
    ∃ e', s.addLog e = s.withErr e' ∨ s.addLog e = (s.withErr e').latchEvent 12 := by
  unfold State.addLog
  split
  · exact ⟨_, .inl rfl⟩
  · split
    · exact ⟨{ s.err with log := s.err.log ++ [{ e with num := s.err.seq }], seq := s.err.seq + 1 }, .inr rfl⟩
    · split
      · exact ⟨_, .inl rfl⟩
      · split
        · exact ⟨{ s.err with log := dropMinor s.err.log ++ [{ e with num := s.err.seq }], seq := s.err.seq + 1 }, .inr rfl⟩
        · exact ⟨_, .inl rfl⟩

theorem State.addLog_only (s : State) (e : LogEntry) : onlyNote s (s.addLog e) := by
  have hl := State.addLog_length s e
  obtain ⟨e', h | h⟩ := State.addLog_shape s e
  · rw [h] at hl ⊢
    exact withErr_note s e' hl
  · rw [h] at hl ⊢
    exact latchEvent_note s e' 12 hl

theorem note_absorb (s : State) (e e' : Err) (c c' : Cc) (j j' : Job) (o o' : List Msg) :
    (((((((s.withErr e).withCc c).withJob j).withOut o).withErr e').withCc c').withJob j').withOut o' =
    (((s.withErr e').withCc c').withJob j').withOut o' := by
  simp only [State.withErr, State.withCc, State.withJob, State.withOut]

theorem onlyNote_trans (a b c : State) (h1 : onlyNote a b) (h2 : onlyNote b c) : onlyNote a c := by
  obtain ⟨x1, l1, c1, j1⟩ := h1
  obtain ⟨x2, l2, c2, j2⟩ := h2
  refine ⟨?_, fun h => l2 (l1 h), ?_, ?_⟩
  · exact x2.trans ((congrArg (fun z => (((State.withErr z c.err).withCc c.cc).withJob c.job).withOut c.out) x1).trans
      (note_absorb a _ _ _ _ _ _ _ _))
  · exact c2.trans (congrArg (fun z : Cc => { z with evpend := c.cc.evpend }) c1)
  · exact j2.trans (congrArg (fun z : Job => { z with hints := c.job.hints }) j1)

theorem withHints_note (s : State) (l : List (BitVec 8 × W32)) : onlyNote s (s.withJob { s.job with hints := l }) := by
  refine ⟨?_, id, ?_, ?_⟩ <;> simp only [State.withErr, State.withCc, State.withJob, State.withOut]

theorem emit_note (s : State) (m : Msg) : onlyNote s (s.emit m) := by
  refine ⟨?_, id, ?_, ?_⟩ <;> simp only [State.emit, State.withErr, State.withCc, State.withJob, State.withOut]

/-- A notice of a task, with the hint that its sixteenth repetition brings (R397). -/
theorem State.noteFor_only (s : State) (task : BitVec 2) (code : Code) (unit sub : BitVec 8) (loc : W32) (dpi detail : W64) :
    onlyNote s (s.noteFor task code unit sub loc dpi detail) := by
  unfold State.noteFor
  dsimp only
  split
  · refine onlyNote_trans _ _ _ (State.addLog_only s (s.logEntry code .minor task unit sub loc dpi detail)) ?_
    generalize s.addLog (s.logEntry code .minor task unit sub loc dpi detail) = u
    exact onlyNote_trans _ _ _ (withHints_note u _) (onlyNote_trans _ _ _ (State.addLog_only _ _) (emit_note _ _))
  · exact State.addLog_only s _

/-- A notice of no task. -/
theorem State.note_only (s : State) (code : Code) (unit sub : BitVec 8) (loc : W32) (dpi detail : W64) :
    onlyNote s (s.note code unit sub loc dpi detail) := State.noteFor_only s 0 code unit sub loc dpi detail

end Sys2Proof.Machine
end

