-- ==== Sys2Proof/Laws/Abort.lean ====
section
/-! SUPPORT. A task's abort (R56): what it leaves of the issue unit, and where it ends the task. -/

namespace Sys2Proof.Machine

theorem onlyRg_iu {s t : State} (h : onlyRg s t) : t.iu = s.iu := (congrArg State.iu h).trans rfl

theorem onlySpad_iu {s t : State} (h : onlySpad s t) : t.iu = s.iu := (congrArg State.iu h.1).trans rfl

theorem onlyMx_iu {s t : State} (h : onlyMx s t) : t.iu = s.iu := (congrArg State.iu h).trans rfl

theorem onlyNote_iu {s t : State} (h : onlyNote s t) : t.iu = s.iu := (congrArg State.iu h.1).trans rfl

/-- What an abandoned task leaves of the issue unit: none of its commands, those that were executing among the dropped ones, and
everything else as it was. -/
theorem State.abandonTask_iu (s : State) (t : Fin 4) :
    (s.abandonTask t).iu = { s.iu with
      queued := s.iu.queued.filter fun e => !(e.x.task == t),
      staged := s.iu.staged.filter fun u => !(u.2.e.x.task == t),
      exec := s.iu.exec.filter fun u => !(u.2.e.x.task == t),
      dropped := s.iu.dropped ++ s.iu.exec.filter fun u => u.2.e.x.task = t } := by
  unfold State.abandonTask
  dsimp only
  rw [onlyMx_iu (State.emptyParts_only _ _)]
  simp only [State.freeHeld, State.withTu, State.withSe]
  have h (r : Vector Region 64) (l : List Ref) (a b : List (UnitId × Issued)) :
      (List.foldl (fun s u => s.poisonOutputs u.2) (List.foldl (fun s u => s.scramble u.2)
        (List.foldl (fun s r => s.releaseRef (some r)) (s.withRg ⟨r⟩) l) a) b).iu = s.iu := by
    rw [onlyRg_iu (foldl_only onlyRg onlyRg_refl onlyRg_trans _ (fun s u => State.poisonOutputs_only s u.2) b _),
      onlySpad_iu (foldl_only onlySpad onlySpad_refl onlySpad_trans _ (fun s u => State.scramble_only s u.2) a _),
      onlyRg_iu (foldl_only onlyRg onlyRg_refl onlyRg_trans _ (fun s r => State.releaseRef_only s (some r)) l _)]
    rfl
  simp only [State.withIu, h]

/-- A task-fatal fault ends a task that it can abort, with the fault recorded and nothing of the task left (R56). -/
theorem State.abortTaskAt_aborted (s : State) (t : Fin 4) (code : Code) (dpi : W64) (w : Site) (detail : W64)
    (h : s.abortable t dpi = true) : aborted (s.abortTaskAt t code dpi w detail) t code dpi := by
  unfold State.abortable at h
  rw [Bool.and_eq_true] at h
  obtain ⟨hr, hs⟩ := h
  have hrun : ((s.task t).st != TaskState.running) = false := by
    unfold State.running at hr
    unfold bne
    rw [hr]; rfl
  have hstop : ((s.task t).stopCount != 0#64 && dpi != noDpi && decide ((s.task t).stopCount ≤ dpi)) = false := by
    simp only [Bool.or_eq_true, beq_iff_eq, decide_eq_true_eq] at hs
    rcases hs with (hs | hs) | hs
    · simp [hs]
    · simp [hs]
    · have : ¬ ((s.task t).stopCount ≤ dpi) := by
        simp only [BitVec.le_def, BitVec.lt_def] at *
        omega
      simp [this]
  unfold State.abortTaskAt
  dsimp only
  rw [hstop, hrun]
  simp only [Bool.false_eq_true, if_false]
  have hiu : ((s.logFatal t code dpi w detail).abandonTask t).iu = _ := State.abandonTask_iu _ t
  have key (u : State) (k : Task) (hk : k.st = .ended 1) (hf : k.fault = some (code, dpi))
      (hu : ∃ q a b, u.iu.queued = List.filter (fun e : Entry => !(e.x.task == t)) q ∧
        u.iu.staged = List.filter (fun x : UnitId × Issued => !(x.2.e.x.task == t)) a ∧
        u.iu.exec = List.filter (fun x : UnitId × Issued => !(x.2.e.x.task == t)) b) :
      aborted (u.setTask t k) t code dpi := by
    obtain ⟨q, a, b, hq, ha, hb⟩ := hu
    refine ⟨?_, ?_, ?_, ?_⟩
    · rw [State.task_setTask]; simp [hk]
    · rw [State.task_setTask]; simp [hf]
    · intro e he
      have : e ∈ List.filter (fun e : Entry => !(e.x.task == t)) q := by
        simpa [State.setTask, State.withIu, hq] using he
      simpa using (List.mem_filter.mp this).2
    · intro x hx
      have : x ∈ List.filter (fun x : UnitId × Issued => !(x.2.e.x.task == t)) a ∨
          x ∈ List.filter (fun x : UnitId × Issued => !(x.2.e.x.task == t)) b := by
        simpa [State.setTask, State.withIu, ha, hb] using hx
      rcases this with h | h <;> simpa using (List.mem_filter.mp h).2
  have hq := congrArg Iu.queued hiu
  have ha := congrArg Iu.staged hiu
  have hb := congrArg Iu.exec hiu
  split
  · have := key _ { ((s.logFatal t code dpi w detail).abandonTask t).task t with
      st := .ended 1, dpi := s.lowestDpi t, fetchEnded := true, holds := [], aux := none, fault := some (code, dpi),
      ftags := s.faultTags t dpi w } rfl rfl
      ⟨_, _, _, hq, ha, hb⟩
    exact this
  · exact key _ _ rfl rfl ⟨_, _, _, hq, ha, hb⟩

end Sys2Proof.Machine
end

