-- ==== Sys2Proof/Laws/Link.lean ====
section
/-! SUPPORT. The CRC of a frame covers its control flit without the CRC's own bytes, so that a sealed frame is sound (R312); a header
unit carries its fields (R310); packets that are sent change ports and messages alone (R315). -/

namespace Sys2Proof.Machine

/-- A place of a flit that `flitBit` does not set. -/
theorem getLsbD_flitBit (b : Bool) (k i : Nat) (h : i ≠ k) : (flitBit b k).getLsbD i = false := by
  unfold flitBit
  cases b
  · simp
  · have : ¬ (i - k = 0 ∧ k ≤ i) := by omega
    simp [BitVec.getLsbD_shiftLeft, BitVec.getLsbD_one]
    omega

/-- The bytes of a control flit but 4 to 7 do not depend on its CRC. -/
theorem CtlFields.byte_flit (c : CtlFields) (crc : W32) (tag m0 m1 : FabUnit) (i : Nat) (h : i < 4 ∨ 8 ≤ i) :
    (fld (c.flit crc tag m0 m1) (8 * i) 8 : Byte) = fld (c.flit 0 tag m0 m1) (8 * i) 8 := by
  apply BitVec.eq_of_getLsbD_eq
  intro j hj
  have hc : ((crc.setWidth 512 <<< 32).getLsbD (8 * i + j)) = false := by
    rw [BitVec.getLsbD_shiftLeft, BitVec.getLsbD_setWidth]
    rcases h with h | h
    · have : 8 * i + j < 32 := by omega
      simp [this]
    · rw [BitVec.getLsbD_of_ge crc _ (by omega)]; simp
  simp [fld, CtlFields.flit, hj, hc]

/-- Bytes 4 to 7 of a control flit hold its CRC. -/
theorem CtlFields.crc_flit (c : CtlFields) (crc : W32) (tag m0 m1 : FabUnit) :
    (fld (c.flit crc tag m0 m1) 32 32 : W32) = crc := by
  apply BitVec.eq_of_getLsbD_eq
  intro j hj
  have h1 : c.fseq.getLsbD (32 + j) = false := BitVec.getLsbD_of_ge _ _ (by omega)
  have h2 : c.ackSeq.getLsbD (32 + j - 16) = false := BitVec.getLsbD_of_ge _ _ (by omega)
  have h3 := getLsbD_flitBit c.nak 28 (32 + j) (by omega)
  have h4 := getLsbD_flitBit c.aEpoch 29 (32 + j) (by omega)
  have h5 : 32 + j < 64 := by omega
  have h6 : 32 + j < 128 := by omega
  have h7 : 32 + j < 256 := by omega
  have h8 : 32 + j < 384 := by omega
  have h9 : 32 + j < 512 := by omega
  rw [BitVec.getLsbD_eq_getElem h9] at h3 h4
  simp [fld, CtlFields.flit, hj, h1, h2, h3, h4, h5, h6, h7, h8, h9]

/-- The CRC of a frame does not cover its own bytes. -/
theorem frameCrc_flit (fs : List (BitVec 512)) (c : CtlFields) (crc : W32) (tag m0 m1 : FabUnit) :
    frameCrc fs (c.flit crc tag m0 m1) = frameCrc fs (c.flit 0 tag m0 m1) := by
  have hb := c.byte_flit crc tag m0 m1
  have ht : (flitBytes (c.flit crc tag m0 m1)).take 4 = (flitBytes (c.flit 0 tag m0 m1)).take 4 := by
    simp only [flitBytes, List.map_take.symm]
    refine List.map_congr_left fun i hi => hb i ?_
    simp [List.take_range] at hi; omega
  have hd : (flitBytes (c.flit crc tag m0 m1)).drop 8 = (flitBytes (c.flit 0 tag m0 m1)).drop 8 := by
    simp only [flitBytes, List.map_drop.symm]
    refine List.map_congr_left fun i hi => hb i ?_
    rw [List.mem_drop_iff_getElem] at hi
    obtain ⟨k, _, hk⟩ := hi
    simp at hk; omega
  simp only [frameCrc, ht, hd]

/-- A frame of 15 data flits and a control flit with its CRC is sound. -/
theorem crcBad_sealed (c : CtlFields) (data : List (BitVec 512)) (tag m0 m1 : FabUnit) (hd : data.length = 15) (fl pa : Bool)
    (es os : List Nat) :
    (Frame.mk (data ++ [c.flit (frameCrc data (c.flit 0 tag m0 m1)) tag m0 m1]) fl pa es os).crcBad = false := by
  have hc : ∀ x : BitVec 512, frameCrc (data ++ [x]) x = frameCrc data x := by
    intro x; simp [frameCrc, hd, List.take_of_length_le (Nat.le_of_eq hd)]
  simp [Frame.crcBad, Frame.crc, Frame.ctl, hd, hc, CtlFields.crc_flit, frameCrc_flit]

/-! ### Packets -/

/-- LASTW's place in a header unit. -/
theorem lastw_getLsbD (b : Bool) (i : Nat) : ((if b then 1#128 else 0) <<< 9).getLsbD i = (b && decide (i = 9)) := by
  by_cases h : i = 9
  · subst h; cases b <;> decide
  · cases b
    · simp
    · rw [if_pos rfl, BitVec.getLsbD_shiftLeft, BitVec.getLsbD_one]; simp [h]; omega

/-- A header unit carries every field of its header. -/
theorem headOf_toUnit (h : PacketHead) : headOf h.toUnit = h := by
  obtain ⟨op, len, lastw, addr, first, last, chip, core, agent⟩ := h
  have hl : ∀ (i : Nat) (_ : i < 128), ((if lastw then 1#128 else 0) <<< 9)[i] = (lastw && decide (i = 9)) := fun i h => by
    rw [← BitVec.getLsbD_eq_getElem, lastw_getLsbD]
  simp only [headOf, PacketHead.toUnit, PacketHead.mk.injEq]
  generalize (if lastw then 1#128 else 0) <<< 9 = l at hl ⊢
  refine ⟨?_, ?_, ?_, ?_, ?_, ?_, ?_, ?_, ?_⟩
  case refine_3 =>
    simp [bit, BitVec.getLsbD_of_ge, hl]
  all_goals
    apply BitVec.eq_of_getLsbD_eq
    intro j hj
    simp (disch := omega) [fld, hj, BitVec.getLsbD_of_ge, decide_eq_true, decide_eq_false, hl]

/-- Sending packets changes the ports and the messages that leave, and nothing else. -/
theorem State.sendPackets_frame (s : State) (q agent : Nat) (task : Fin 4) (dpi : W64) (ps : List (List FabUnit)) :
    ((s.sendPackets q agent task dpi ps).withFp s.fp).withOut s.out = s := by
  unfold State.sendPackets
  suffices h : ∀ u : State, (u.withFp s.fp).withOut s.out = s → ((ps.foldl (fun s us =>
      let o : OutPacket := ⟨s.id.core, agent, task, dpi, false, us⟩
      if q / 8 = s.id.core.toNat then s.queueUnits ⟨q % 8, Nat.mod_lt _ (by decide)⟩ o else s.emit (.toPort q o)) u).withFp
        s.fp).withOut s.out = s from h s rfl
  induction ps with
  | nil => exact fun u hu => hu
  | cons us ps ih =>
    intro u hu
    refine ih _ ?_
    dsimp only
    split <;> exact hu

end Sys2Proof.Machine
end

