-- ==== Sys2Proof/Laws/Unit.lean ====
section
/-! SUPPORT. The commands in flight on one unit (R133, R144, R204): what their replacement and removal leave, and which of them starts or
completes. -/

namespace Sys2Proof.Machine

/-- Taking a command out changes nothing but the list of uncompleted ones. -/
@[simp] theorem State.dropExec_iu (s : State) (i : Issued) :
    (s.dropExec i).iu = { s.iu with exec := s.iu.exec.filter fun x => !sameCmd x.2 i } := rfl

theorem State.dropExec_only (s : State) (i : Issued) : (s.dropExec i).withIu s.iu = s := rfl

/-- Replacing a command changes nothing but the list of uncompleted ones. -/
@[simp] theorem State.putExec_iu (s : State) (i : Issued) :
    (s.putExec i).iu = { s.iu with exec := s.iu.exec.map fun x => if sameCmd x.2 i then (x.1, i) else x } := rfl

theorem State.putExec_only (s : State) (i : Issued) : (s.putExec i).withIu s.iu = s := rfl

/-- Ending no steps changes nothing. -/
@[simp] theorem State.endAhead_zero (s : State) (u : UnitId) : s.endAhead u 0 = s := rfl

/-- A unit with at most one command is, for the one that starts, as it stands. -/
theorem State.unitAhead_alone (s : State) (u : UnitId) (h : (s.iu.onUnit u).length ≤ 1) : s.unitAhead u = s := by
  have : (s.iu.onUnit u).length - 1 = 0 := by omega
  rw [State.unitAhead, this, State.endAhead_zero]

/-- The command that completes is the oldest, or the one that is named, which then keeps its result or has no extent. -/
theorem completing_cases (l : List (UnitId × Issued)) (n : Nat) :
    completing l n = 0 ∨ completing l n = n ∧ ∃ x, l[n]? = some x ∧ x.2.drains = false := by
  unfold completing
  split
  · split
    · next x hx h => exact .inr ⟨rfl, x, hx, by simp at h; exact h.1⟩
    · exact .inl rfl
  · exact .inl rfl

end Sys2Proof.Machine
end

