-- ==== Sys2Proof/WellFormed.lean ====
section
/-! DEFINITION. Which operands a command may carry: a program command that the IU refuses at decode for its own fields
alone is ill-formed (R29, R34, R55). Every other command takes any operands of its type. -/

namespace Sys2Proof

open Machine

/-- A program command that no decode check on its own fields refuses. -/
def Cmd.wf (c : Cmd) : Bool := (staticFault c none).isNone

/-- Operands within the ranges the spec gives them. -/
def Instr.wf : Instr → Bool
  | .loop _ h b => Cmd.wf ⟨h, .loop b⟩
  | .setEc _ h b => Cmd.wf ⟨h, .setEc b⟩
  | .setPd _ h b => Cmd.wf ⟨h, .setPd b⟩
  | .barrier _ h b => Cmd.wf ⟨h, .barrier b⟩
  | .calLoad _ h b => Cmd.wf ⟨h, .calLoad b⟩
  | .regionSet _ h b => Cmd.wf ⟨h, .regionSet b⟩
  | .regionSwap _ h r => Cmd.wf ⟨h, .regionSwap r⟩
  | .regionAttr _ h b => Cmd.wf ⟨h, .regionAttr b⟩
  | .nop _ h => Cmd.wf ⟨h, .nop⟩
  | .fin _ h => Cmd.wf ⟨h, .fin⟩
  | .mmOs _ h b => Cmd.wf ⟨h, .mmOs b⟩
  | .mmSt _ h b => Cmd.wf ⟨h, .mmSt b⟩
  | .mmEw _ h b => Cmd.wf ⟨h, .mmEw b⟩
  | .mmDrain _ h b => Cmd.wf ⟨h, .mmDrain b⟩
  | .maskSet _ h b => Cmd.wf ⟨h, .maskSet b⟩
  | .arrayMode _ h m => Cmd.wf ⟨h, .arrayMode m⟩
  | .vxMap _ h b => Cmd.wf ⟨h, .vxMap b⟩
  | .vxReduce _ h b => Cmd.wf ⟨h, .vxReduce b⟩
  | .vxAux _ h b => Cmd.wf ⟨h, .vxAux b⟩
  | .vxProg _ h b => Cmd.wf ⟨h, .vxProg b⟩
  | .vxTable _ h b => Cmd.wf ⟨h, .vxTable b⟩
  | .stream _ h b => Cmd.wf ⟨h, .stream b⟩
  | .transpose _ h b => Cmd.wf ⟨h, .transpose b⟩
  | .cuMap _ h b => Cmd.wf ⟨h, .cuMap b⟩
  | .cuReduce _ h b => Cmd.wf ⟨h, .cuReduce b⟩
  | .cuProg _ h b => Cmd.wf ⟨h, .cuProg b⟩
  | .cuTable _ h b => Cmd.wf ⟨h, .cuTable b⟩
  | _ => true

end Sys2Proof
end

