-- ==== Sys2Proof/Tests/Demo.lean ====
section
/-! SUPPORT. The small states of the tests: a core after READY whose job runs one task that owns every engine, with one bank slot
that grants MX0, VX, Crucible, stream engine 0 and transpose unit 0 a read and a write port each, region 0 unsplit, region 1
split. -/

namespace Sys2Proof.Tests

open Machine

/-- Every unit present, lifecycle DEVELOPMENT. -/
def ident : Ident := { Ident.undelivered Build.reference with grade := 0x08FF00FF0F, lifecycle := 2, graded := true }

/-- Bank ports: two for each agent, one to read and one to write. -/
def bankWord : BitVec 256 := 0xA424A121A020901081010000

/-- A region of `n` pages from page `b`. -/
def page (b n : BitVec 16) : Region := { Region.empty with valid := true, base := b, size := n }

/-- The state in which no job runs. -/
def idle : State :=
  { State.reset with
    id := ident,
    bring := { Bring.start with held := false, ready := true, phase := 10, zeroOk := true },
    cal := { Cal.zero_ with bank := ⟨[(0, bankWord)], 1, 1⟩, withdrawn := false },
    rg := ⟨(RegionTable.zero_.tab.set 0 (page 0 4)).set 1 { page 4 4 with split := true }⟩ }

/-- The task. -/
def task0 : Task := { Task.none_ with st := .running, ownMx := 0xFFFF, ownQ := 0x3FFF }

/-- A job runs task 0. -/
def run : State :=
  (idle.withJob { idle.job with st := .running }).withIu { idle.iu with tasks := idle.iu.tasks.set 0 task0 }

/-- The place of the task's first command. -/
def at0 : Ctx := ⟨0, 0, []⟩

/-- A header on a queue, with one signal. -/
def on (q : BitVec 5) : Header := { Header.plain q with sigA := ⟨3, 2⟩ }

/-- An FP32 view of region 0. -/
def view (off : BitVec 22) (r c : BitVec 16) : View := { View.zero with format := 0, rows := r, cols := c, offset := off, stride := 1 }

/-- Parameters of a matrix command. -/
def mx (m n : BitVec 12) (k : BitVec 17) (hold : Bool) : MxParams :=
  ⟨m, n, k, false, false, hold, false, 0, false, false, 0, false, false, 0, 0, 0, 0, 0⟩

/-- MM_OS into a held plane. -/
def osBody : MxBody := ⟨view 0 0 2, view 2 0 2, View.zero, mx 2 2 2 true⟩

/-- MM_ST over a loaded register, and one that loads it. -/
def stBody : MxBody := ⟨view 0 2 2, View.zero, View.zero, mx 2 2 2 true⟩
def stLoad : MxBody := ⟨view 0 2 2, view 2 2 2, View.zero, { mx 2 2 2 true with sload := true }⟩

/-- MM_EW on a held plane with a scalar operand, and a drain of it as FP32. -/
def ewBody : MxBody := ⟨View.zero, View.zero, View.zero, mx 2 2 0 true⟩
def drainBody : MxBody := ⟨View.zero, View.zero, view 4 2 2, mx 2 2 0 false⟩

/-- Partition 0 of MX0 holds plane 0, or has register ST0 loaded. -/
def held : State := run.setArray 0 ((run.array 0).setPart 0 { Part.empty with plane0 := .held false })
def loaded : State :=
  run.setArray 0 ((run.array 0).setPart 0 { Part.empty with reg0 := some ⟨0, 0, false, false, true, 0⟩ })

/-- Parameters of a vector command. -/
def vx (prog : BitVec 5) : VxParams := ⟨prog, 0, 0, 0, 0, false, 0, false, 0⟩

/-- The program that copies input A (R184), in slot 0 of VX and of Crucible. -/
def copyProg : VecState := { VecState.empty with progs := VecState.empty.progs.set 0 (some 0x010100) }
def runV : State := (run.withVx copyProg).withCu copyProg

/-- A map of view 0 to view 2, and a reduction over the whole of view 0 into PD2 and SF5. -/
def mapBody : VxBody := ⟨view 0 2 2, View.zero, view 4 2 2, vx 0⟩
def redBody : VxBody := ⟨view 0 2 2, View.zero, View.zero, { vx 0 with axis := 3, pdEn := true, pdIdx := 2, sfwEn := true, sfw := 5 }⟩

/-- Loads of one program into slot 31, and of one table into the last table; `prog` and `table` hold their images at byte 0. -/
def progLoad : VxLoadBody := ⟨{ view 0 1 128 with format := 12, stride := 2 }, View.zero, View.zero, 31⟩
def tableLoad : VxLoadBody := ⟨{ view 0 1 48 with format := 12 }, View.zero, View.zero, 7⟩
def prog : State := run.withSpad { run.spad with mem := [(1, 1), (2, 1), (3, 10)] }
def table : State := run.withSpad { run.spad with mem := [(2, 1), (4, 2)] }

/-- A transpose of an FP32 view. -/
def trBody : TransposeBody := ⟨view 0 2 3, view 4 3 2, 3⟩

/-- A STREAM that loads eight bytes of the core's own scratchpad. -/
def streamLoad : StreamBody :=
  ⟨0, false, false, 1, false, 0, 0, false, false, 0, 0, 0, 0x10000000100, 8, 1, 1, 1, 1, 1, 0, 0, 0, 0, 0⟩

/-! ### States of the issue unit -/

/-- A descriptor whose log lies at 0x1000, 1 KiB long. -/
def logDesc : BitVec 2048 := (0x1000#2048 <<< 768) ||| (0x400#2048 <<< 832)

/-- The job of `run` keeps a log. -/
def logging : State := run.withJob { run.job with desc := logDesc }

/-- The state with a change of its issue unit, of its calendars, of task 0, or of a region. -/
def modIu (s : State) (f : Iu → Iu) : State := s.withIu (f s.iu)
def modCal (s : State) (f : Cal → Cal) : State := s.withCal (f s.cal)
def mod0 (s : State) (f : Task → Task) : State := s.setTask 0 (f (s.task 0))
def modRg (s : State) (r : BitVec 6) (f : Region → Region) : State := s.setRegion r (f (s.region r))
def modJob (s : State) (f : Job → Job) : State := s.withJob (f s.job)

/-- A SET_EC on the CTL queue: the increment of counter 5 by 1. -/
def incr : Op := .setEc ⟨5, true, 1⟩

/-- An entry of a command of task 0 at DPI `d`. -/
def entry (d : W64) (h : Header) (op : Op) : Entry := ⟨⟨0, d, []⟩, ⟨h, op⟩, none, none, false, 0, [], 0⟩

/-- An issued command. -/
def issuedAs (d : W64) (h : Header) (op : Op) (vs : List (Option RView)) : Issued := 
  ⟨entry d h op, vs, Vector.replicate 64 0, Masks.ones, false, none, false, false, []⟩

/-- The word of SET_EC on queue 22 that adds 0x1234 to counter 7: OPCODE 2, QUEUE 22, EC 7, MODE 1, VALUE (R28, R36). -/
def setEcWord : CmdWord := 2 ||| (22#512 <<< 8) ||| (7#512 <<< 128) ||| (1#512 <<< 134) ||| (0x1234#512 <<< 136)

/-- `runV` with a copy map executing on VX, or waiting in its staging slot. -/
def mapView (off : Nat) : RView := ⟨0, false, off, 0, 2, 2, 64, 0, 0, false, 0⟩
def mapIssued : Issued := issuedAs 0 (on 8) (.vxMap mapBody) [some (mapView 0), none, some (mapView 256)]
def execV : State := modIu runV fun u => { u with exec := [(.vx, mapIssued)] }
def stageV : State := modIu runV fun u => { u with staged := [(.vx, mapIssued)] }

/-- A matrix command executing on partition 0 of MX0, and VX_MAP's twin on Crucible. -/
def execM : State := modIu run fun u => { u with exec := [(.mx 0 0, issuedAs 0 (on 0) (.mmOs osBody) [])] }
def execC : State := modIu runV fun u => { u with exec := [(.cu, issuedAs 0 (on 9) (.cuMap mapBody) [some (mapView 0), none, some (mapView 256)])] }

/-- A STREAM of the task with its local side resolved, running in slot 0 of stream engine 0 or waiting in its shadow. -/
def streamIssued (b : StreamBody) : Issued := issuedAs 0 (on 10) (.stream b) [some ⟨0, false, 0, 0, 0, 0, 0, 0, 0, false, 0⟩]
def transferOf (b : StreamBody) (left reports : Nat) : Transfer :=
  ⟨streamIssued b, false, false, left, reports, 0, 0, none, 0, false, false, none, [], 0, [], 0, []⟩
def streaming (b : StreamBody) (left reports : Nat) : State := run.setSlot 0 0 ⟨some (transferOf b left reports), none⟩
def shadowed : State := run.setSlot 0 0 ⟨none, some (streamIssued streamLoad)⟩

/-- A load of eight bytes of core 1, a store of them there, and a multicast. -/
def farLoad : StreamBody := { streamLoad with far := 0x20000000100 }
def farStore : StreamBody := { farLoad with dir := true }
def farTold : StreamBody := { farStore with notify := true, notifyEc := 4, notifyInc := 1 }
def mcastBody : StreamBody := { farLoad with mcast := true, dir := true, group := 1 }

/-- The job's group 1 delivers to core 1, in replay mode if `r`; the router gives stream engine 0 slots of a multicast toward it. -/
def sharing (r : Bool) : State :=
  let s := modJob run fun j => { j with mcast := [(1, McastGroup.ofEntry 2)], desc := if r then 1#2048 <<< 16 else 0 }
  modCal s fun c => { c with router := ⟨[(0, 0x120#256 <<< 32)], 0, 1, 0, 0xFF, 1⟩ }

/-- Two outputs that VX has sent to core 1, which has not acknowledged them, with its notify sent or none. -/
def exportIssued (notified : Bool) : Issued := { mapIssued with
  exporting := some ⟨[(0x20000000000, 1)], [(0, 8), (256, 8)], notified, none, 0, []⟩ }
def exportingOf (notified : Bool) : Exporting := ⟨[(0x20000000000, 1)], [(0, 8), (256, 8)], notified, none, 0, []⟩
def exporting (notified : Bool) : State := modIu runV fun u => { u with exec := [(.vx, exportIssued notified)] }
/-- A command on VX whose snapshot names a peer (SF50 bit 62, R231). -/
def peerIssued : Issued := { mapIssued with sf := mapIssued.sf.set 50 (1#64 <<< 62) }
def execX : State := modIu runV fun u => { u with exec := [(.vx, peerIssued)] }
/-- `execM` with its command replayed. -/
def execM2 : State := modIu run fun u => { u with exec := [(.mx 0 0, { issuedAs 0 (on 0) (.mmOs osBody) [] with replayed := true })] }

/-- Task 0 is in a body of one command, or has its program in the own scratchpad, whose first word is uncorrectable. -/
def inBody : State := mod0 run fun k => { k with loops := [⟨0, 1, 1, 0⟩] }
def ownProg : State := (mod0 run fun k => { k with prog := 0x10000000000 }).withSpad { run.spad with bad := [0] }

/-- The core is fenced. -/
def fenced : State := idle.withRep { idle.rep with coreFenced := true }

/-- An MM_OS without an extent, and an MM_ST without steps. -/
def osEmpty : MxBody := ⟨view 0 0 0, view 2 0 0, View.zero, mx 0 0 0 true⟩
def stZero : MxBody := ⟨view 0 2 0, View.zero, View.zero, mx 2 2 0 true⟩

/-- The job of `logging` replays a log of one sample of task 0 at DPI 0, whose value is true (R359). -/
def replaying : State := run.withJob { run.job with desc := logDesc ||| (1#2048 <<< 16), log := [(0, 2), (2, 1)] }

/-- The control core is about to run an instruction word at address 0, or finds MTIP in U mode. -/
def hart (w : Nat) : State :=
  idle.withCc { idle.cc with halted := false, run := true, imem := Store.set (Store.set (Store.set (Store.set [] 0 (BitVec.ofNat 8 w)) 1
    (BitVec.ofNat 8 (w / 256))) 2 (BitVec.ofNat 8 (w / 65536))) 3 (BitVec.ofNat 8 (w / 16777216)) }
def timed : State := (hart 0).withCc { (hart 0).cc with mtimecmp := 0, hart := { Hart.boot with machineMode := false, mie := 0x80 } }

/-- The instruction that it runs next. -/
def rvIs (s : State) (x : W64 × Nat × Option Rv) : Bool := match s.rvNext with | .ok y => decide (y = x) | .error _ => false

/-! ### Jobs -/

/-- A descriptor of one task: LAYOUT 1, NTASKS 1, a region image and a completion record elsewhere (R356); its 256 bytes at the
base of ring 0, and the state in which ring 0's descriptor is being read. -/
def desc : BitVec 2048 := 1 ||| (1#2048 <<< 32) ||| (0x300000000#2048 <<< 192) ||| (0x40#2048 <<< 256)
def descBytes : Bytes := placeBytes 0x900000000 (leBytes desc.toNat 256)
def ring0 : Ring := { idle.ringAt 0 with base := 0x900000000, cfg := 0x44, tail := 1 }
def reading : State := modJob (idle.setRing 0 { ring0 with head := 1 }) fun j => { j with st := .reading }

/-- Ring 0 is pending. -/
def ringing : State := idle.setRing 0 ring0

/-- The job of `run` with the descriptor, whose one task is DONE or STOPPED. -/
def ended (status : BitVec 4) : State :=
  (modJob run fun j => { j with desc := desc }).setTask 0 { task0 with st := .ended status }

/-- A submitted injection waits to be placed. -/
def injecting : State := run.withCc { run.cc with halted := false, injBusy := true, injPend := some setEcWord }

/-- A pre-emptible job, running, or with a pre-emption requested. -/
def gives (pre : Bool) : State := modJob run fun j => { j with desc := desc ||| (1#2048 <<< 18), preempt := pre }

/-! ### Links, mesh, calendars, bring-up -/

/-- The state with a change of port 0, of the calendars' router part, of bring-up or of Solstice. -/
def modPort (s : State) (f : Port → Port) : State := s.setPort 0 (f (s.port 0))
def modBring (s : State) (f : Bring → Bring) : State := s.withBring (f s.bring)
def modSol (s : State) (f : Sol → Sol) : State := s.withSol (f s.sol)
def modRep (s : State) (f : Repair → Repair) : State := s.withRep (f s.rep)
def modEq (s : State) (f : Eqx → Eqx) : State := s.withEq (f s.eq)

/-- Port 0 is up; a frame arrives with FSEQ `n`; one control flit is kept for resending. -/
def up : State := modPort idle fun p => { p with up := true, phyUp := true }
def arriving (n : BitVec 12) : Frame :=
  let c : CtlFields := ⟨n, 0, false, false, 0, 1, false⟩
  let data := dataFlits []
  ⟨data ++ [c.flit (frameCrc data (c.flit 0 0 0 0)) 0 0 0], false, false, [], []⟩
def kept : State := modPort up fun p => { p with sent := [⟨0, false, [1], [(0, 0)]⟩] }

/-- Position 0 of port 0 forwards position 0 of port 8, of core 1 (R314). -/
def transits : State := modPort up fun p => { p with sched := [2 ||| (8#64 <<< 2)] }

/-- Port 0 forwards position 0 of port 1 of this core, which holds a unit of it. -/
def ownTransit : State :=
  ((modPort up fun p => { p with sched := [2 ||| (1#64 <<< 2)] }).setPort 1 { Port.down with held := [⟨0, false, 0, [5]⟩] })

/-- The same with port 0 down; port 1's position 0 passes on what port 0 receives, if `back`. -/
def ownDown (back : Bool) : State :=
  (modPort ownTransit fun p => { p with up := false }).setPort 1
    { Port.down with held := [⟨0, false, 0, [5]⟩], sched := if back then [2] else [] }

/-- A unicast entry for chip 1 by port `q` alone, and a state in which it is entry 0 (R316). -/
def toChip1 (q : Nat) : BitVec 128 := 1 ||| (1#128 <<< 8) ||| (1#128 <<< 28) ||| (BitVec.ofNat 128 q <<< 48)
def routed (q : Nat) : State := up.withFa { up.fa with route := [(0, toChip1 q)], portLive := BitVec.allOnes 64 }

/-- A job runs whose entry 0 goes by port 8; multicast entry 7 delivers to cores 0 and 1 and onto port 9. -/
def moving : State := run.withFa { (routed 8).fa with sel := [(0, 0)] }
def spread : State := idle.withFa { idle.fa with route := [(7, 3 ||| (3#128 <<< 8) ||| (1#128 <<< 25))] }

/-- A flit of input 5 is due in slot 17, where output 0 names input 5 (R287). -/
def crossing : State := modCal idle fun c => { c with router := ⟨[(0, 5)], 0, 1, 0, 0xFF, 1⟩, held := [(3, (5, 77))] }

/-- A router part of idle slots. -/
def blankRouter : RouterPart := ⟨[], 0, 1, 0, 0xFF, 1⟩

/-- A detour order for core `n` waits while a load of core 1 runs. -/
def detouring (n : Nat) : State := modCal (streaming farLoad 1 0) fun c => { c with
  router := blankRouter, detours := Vector.replicate 8 (some blankRouter), order := some (BitVec.ofNat 4 n) }

/-- Group 5 has delivered more than it has released. -/
def late : State := modJob run fun j => { j with mcast := [(5, { McastGroup.ofEntry 1 with delivered := 1 })] }

/-- An arrival of task 0 waits for core 1. -/
def waiting : State := modSol (modJob run id) fun q => { q with memb := 3, out := [⟨0, 0, 0, 5, 1, false, false, 0⟩] }

/-- A calendar image with a header and empty slots: LAYOUT 1, SCHED_ID 1, DETOUR_FOR 255 (R286). -/
def blankImage : Bytes := [(0, 1), (8, 1), (13, 0xFF)]

/-- Bring-up runs in phase `p` after a power-on reset. -/
def inPhase (p : BitVec 4) : State := modBring idle fun b => { b with ready := false, phase := p, zeroOk := true }

/-- A repair record without a fence and with the identity bank map (R402). -/
def record0 : BitVec 2048 := 1 ||| (BitVec.ofNat 2048 (leNat ((List.range 32).map (BitVec.ofNat 8))) <<< 64)

/-! ### Helpers of the effect tests -/

/-- FP32 words at addresses of the scratchpad. -/
def withWords (s : State) (ws : List (Nat × Nat)) : State :=
  s.withSpad (s.spad.write (ws.flatMap fun w => placeBytes w.1 (leBytes w.2 4)))

/-- A 32-bit word of the scratchpad. -/
def word (s : State) (a : Nat) : Nat := leNat (s.bytes a 4)

/-- A term of the next state. -/
def after {α : Type} (d : α) (f : State → α) : Host.Outcome State Fault Refusal → α
  | .next t => f t
  | _ => d

/-- FP32 1.0, 2.0, 3.0, 4.0, 7.0 and 10.0. -/
def f1 : Nat := 0x3F800000
def f2 : Nat := 0x40000000
def f3 : Nat := 0x40400000
def f4 : Nat := 0x40800000
def f7 : Nat := 0x40E00000
def f10 : Nat := 0x41200000

/-- A, by step: [1, 2] and [3, 4]; B, by step: [1, 1] and [2, 0]. -/
def product : State := withWords run [(0, f1), (4, f2), (64, f3), (68, f4), (128, f1), (132, f1), (192, f2)]

/-- MM_OS drained as FP32 at byte 256. -/
def osDrain : MxBody := ⟨view 0 0 2, view 2 0 2, view 4 2 2, mx 2 2 2 false⟩

/-! ### Commands in flight on one unit -/

/-- An MM_OS that drains plane 0, one behind it that keeps its result in plane 1, and one without an extent that is staged (R144). -/
def drainM : Issued := issuedAs 0 (on 0) (.mmOs osDrain) [some (mapView 0), some (mapView 128), some (mapView 256)]
def holdM : Issued :=
  issuedAs 1 (on 0) (.mmOs { osBody with p := { osBody.p with plane := true } }) [some (mapView 0), some (mapView 128), none]
def nextM : Issued := issuedAs 2 (on 0) (.mmOs osEmpty) []
def pairM : State := modIu product fun u => { u with exec := [(.mx 0 0, drainM), (.mx 0 0, holdM)], staged := [(.mx 0 0, nextM)] }

/-- An ATTN_FWD that is staged on an EMPTY partition (R222). -/
def attnM : Issued := { drainM with e := { drainM.e with cmd := ⟨{ on 0 with fuse := 0x10 }, .mmOs osDrain⟩ } }
def attnS : State := modIu run fun u => { u with staged := [(.mx 0 0, attnM)] }

/-- The map of `mapIssued` under a mask of all zero at byte 512, over a word in error (R198), or as QTILE with core 1 as its peer (R231). -/
def maskedV : Issued := { mapIssued with
  e := { mapIssued.e with aux := some (0, ⟨View.zero, view 8 2 2, View.zero, 1, 0, 0, false⟩) },
  views := mapIssued.views ++ [none, some { mapView 512 with fmt := 12 }] }
def quietV : State := modIu (runV.withSpad { runV.spad with bad := [0] }) fun u => { u with exec := [(.vx, maskedV)] }
def sendIssued : Issued := { mapIssued with
  e := { mapIssued.e with cmd := ⟨{ on 8 with fuse := 0x20 }, .vxMap mapBody⟩ },
  sf := (mapIssued.sf.set 50 (1#64 <<< 62)).set 51 0x20000000000 }
def sendV : State := modIu runV fun u => { u with exec := [(.vx, sendIssued)] }

end Sys2Proof.Tests
end

