-- ==== Sys2Proof/Tests/Slice0.lean ====
section
/-! SUPPORT. Witnesses of the statements' hypotheses, ill-formed commands that the checks refuse, command words written from the
spec's layouts, and single steps whose results were worked out by hand from the rules named. -/

namespace Sys2Proof.Tests

set_option Elab.async false

open Machine

/-! ### Witnesses: the queue and whole-machine rules -/

theorem wit_StepRunsFront : (run.withPending [.selectionPoint]).pending = [.selectionPoint] := by decide +kernel
theorem wit_StepIdles : State.reset.pending = [] ∧ State.reset.powered = true ∧ State.reset.cc.halted = true ∧
    (State.reset.withPowered false).powered = false := by decide +kernel
/-- ADDI x1, x0, 5; ECALL; MRET; the illegal word 0; and MTIP in U mode. -/
theorem wit_HartSteps : (hart 0x00500093).pending = [] ∧ (hart 0x00500093).powered = true ∧ (hart 0x00500093).cc.halted = false ∧
    (hart 0x00500093).cc.run = true ∧ (hart 0x00500093).cc.restart = false ∧ (hart 0x00500093).rvIrq = none ∧
    rvIs (hart 0x00500093) (0x00500093, 4, some (.aluImm .add false 1 0 5)) ∧
    rvIs (hart 0x002081B3) (0x002081B3, 4, some (.alu .add false 3 1 2)) ∧ rvIs (hart 0x73) (0x73, 4, some .ecall) ∧
    rvIs (hart 0x30200073) (0x30200073, 4, some .mret) ∧ rvIs (hart 0) (0, 2, none) ∧ timed.rvIrq = some 7 ∧
    (timed.cc.hart.machineMode = false ∨ bit timed.cc.hart.mstatus 3 = true) ∧ (hart 0).cc.hart.machineMode = true ∧
    bit (hart 0).cc.hart.mstatus 3 = false := by decide +kernel
theorem wit_kept : State.reset.memoryOk = true ∧ State.reset.logOk = true ∧ State.reset.sfOk = true ∧
    State.reset.hartOk = true ∧ State.reset.fenceOk = true ∧ table.memoryOk = true ∧ run.logOk = true ∧ run.hartOk = true := by
  decide +kernel
theorem wit_FenceLasts : fenced.rep.coreFenced = true ∧ fenced.fenceOk = true ∧ fenced.pending = [] ∧ run.fenceOk = true ∧
    (run.withRep { run.rep with coreFenced := true }).fenceOk = false := by decide +kernel

/-! ### Witnesses: CTL commands -/

theorem wit_SetEc_body : (parseCmd setEcWord).toOption = some ⟨Header.plain 22, .setEc ⟨7, true, 0x1234⟩⟩ := by decide +kernel
theorem wit_SetPd_sample : logging.executes at0 (on 22) (.setPd ⟨1, 1, false, 47, 63, 0, 0, 0⟩) = true ∧
    isSample logging ⟨1, 1, false, 47, 63, 0, 0, 0⟩ = true ∧ logging.job.replays = false ∧ logging.job.logs = true ∧
    logging.job.logPos + 16 ≤ logging.job.logLen := by decide +kernel
theorem wit_SetPd_replay : replaying.executes at0 (on 22) (.setPd ⟨1, 1, false, 47, 63, 0, 0, 0⟩) = true ∧
    isSample replaying ⟨1, 1, false, 47, 63, 0, 0, 0⟩ = true ∧ replaying.job.replays = true ∧
    (replaying.job.loggedSample 0 0).map Prod.fst = some true := by decide +kernel
theorem wit_Loop : run.executes at0 (Header.plain 22) (.loop ⟨3, 0, false, 2⟩) = true ∧ loopFault run ⟨3, 0, false, 2⟩ = none ∧
    0 < loopCount run ⟨3, 0, false, 2⟩ ∧ loopCount run ⟨0, 9, true, 2⟩ = 0 ∧
    run.executes at0 (Header.plain 22) (.loop ⟨0, 9, true, 2⟩) = true ∧ loopFault run ⟨0, 9, true, 2⟩ = none ∧
    (run.task 0).loops = [] ∧ (run.task 0).dpi = 0 := by decide +kernel
theorem wit_End : run.executes at0 (Header.plain 22) .fin = true ∧ endReady run at0 = true := by decide +kernel
theorem wit_NopMaskMode : run.executes at0 (on 22) .nop = true ∧ run.partBad (on 22) = false ∧
    run.executes at0 (on 0) (.maskSet ⟨1, 1⟩) = true ∧ run.partBad (on 0) = false ∧
    run.executes at0 (on 0) (.arrayMode 2) = true ∧
    (run.placed at0 (on 0) (.arrayMode 2)).arrayQuiet (run.entryOf at0 (on 0) (.arrayMode 2)) = true := by decide +kernel
theorem wit_Barrier : run.executes at0 (on 22) (.barrier ⟨0, 5, 1, false⟩) = true ∧
    barrierFault run ⟨0, 5, 1, false⟩ = none ∧ barrierReady run ⟨0, 5, 1, false⟩ = true := by decide +kernel
theorem wit_Barrier_swap :
    (modCal run fun c => { c with standby := .valid }).executes at0 (on 22) (.barrier ⟨1, 5, 1, true⟩) = true ∧
    barrierFault (modCal run fun c => { c with standby := .valid }) ⟨1, 5, 1, true⟩ = none ∧
    barrierReady (modCal run fun c => { c with standby := .valid }) ⟨1, 5, 1, true⟩ = true := by decide +kernel
theorem wit_CalLoad : (modRg run 0 fun _ => page 0 65).executes at0 (on 22) (.calLoad ⟨0, false, 0⟩) = true ∧
    calLoadFault (modRg run 0 fun _ => page 0 65).settleSwaps ⟨0, false, 0⟩ = none ∧
    calLoadReady (modRg run 0 fun _ => page 0 65) = true := by decide +kernel
theorem wit_RegionSet : run.executes at0 (on 22) (.regionSet ⟨2, 0x0002000800000001⟩) = true ∧
    regionSetFault run.settleSwaps ⟨2, 0x0002000800000001⟩ = none ∧
    regionSetReady run.settleSwaps ⟨2, 0x0002000800000001⟩ = true ∧
    regionSetFault run.settleSwaps ⟨2, 0x0002000700000001⟩ = some Code.badRegion := by decide +kernel
theorem wit_RegionAttr : run.executes at0 (on 22) (.regionAttr ⟨1, true, false, true, false, true, true⟩) = true ∧
    (run.settleSwaps.region 1).valid = true ∧
    regionAttrReady run.settleSwaps ⟨1, true, false, true, false, true, true⟩ = true := by decide +kernel
theorem wit_RegionSwap : run.executes at0 (on 22) (.regionSwap 1) = true ∧ (run.settleSwaps.region 1).split = true ∧
    (run.settleSwaps.region 1).frozen = false ∧ (run.settleSwaps.region 1).swapPending = false ∧
    (run.settleSwaps.region 1).refs false = 0 ∧
    (modRg run 1 fun g => { g with refsA := 1 }).executes at0 (on 22) (.regionSwap 1) = true ∧
    ((modRg run 1 fun g => { g with refsA := 1 }).settleSwaps.region 1).refs false ≠ 0 := by decide +kernel
theorem wit_SwapTakesEffect : ((modRg run 1 fun g => { g with swapPending := true }).region 1).swapPending = true ∧
    ((modRg run 1 fun g => { g with swapPending := true }).region 1).refs
      (((modRg run 1 fun g => { g with swapPending := true }).region 1).physical false) = 0 := by decide +kernel
theorem wit_SkippedCommand : programOf (.setEc at0 { on 22 with pen := true, psense := true } ⟨5, true, 1⟩) =
      some (at0, { on 22 with pen := true, psense := true }, incr) ∧
    run.heading at0 { on 22 with pen := true, psense := true } incr = true ∧
    programOf (.loop at0 { Header.plain 22 with pen := true, psense := true } ⟨0, 9, true, 2⟩) =
      some (at0, { Header.plain 22 with pen := true, psense := true }, .loop ⟨0, 9, true, 2⟩) ∧
    run.heading at0 { Header.plain 22 with pen := true, psense := true } (.loop ⟨0, 9, true, 2⟩) = true ∧
    run.waitsMet { on 22 with pen := true, psense := true } [] = true ∧ run.pd 0 = false := by decide +kernel
theorem wit_DecodeFaultAborts : run.fetches at0 (.mmOs osBody) = true ∧ run.settleSwaps.decodeFault { run.entryOf at0 (on 9) (.mmOs osBody) with ref := none } = some (Code.illegalCommand, 0) ∧
    run.abortable 0 0 = true := by decide +kernel
/-- A LOOP in a body of one command cannot hold a body of its own. -/
theorem wit_PlaceFaultAborts : inBody.fetches at0 (.loop ⟨1, 0, false, 2⟩) = true ∧
    inBody.settleSwaps.decodeFault { inBody.entryOf at0 (Header.plain 22) (.loop ⟨1, 0, false, 2⟩) with ref := none } = none ∧
    placeFault (inBody.task 0) (.loop ⟨1, 0, false, 2⟩) = some Code.loopNest ∧ inBody.abortable 0 0 = true := by decide +kernel

/-! ### Witnesses: engine commands -/

theorem wit_SetEc : run.executes at0 (on 22) (.setEc ⟨63, true, 0xFFFF⟩) = true := by decide +kernel
theorem wit_SetPd : run.executes at0 (on 22) (.setPd ⟨15, 0, true, 0, 0, 0, 0, 0⟩) = true ∧
    isSample run ⟨15, 0, true, 0, 0, 0, 0, 0⟩ = false := by decide +kernel
theorem wit_MmOs : run.completes at0 (on 0) (.mmOs osBody) = true ∧ run.memoryOk = true ∧
    Store.wf ((run.array 0).plane false) = true := by decide +kernel
theorem wit_MmOs_hold : mxNonEmpty osBody = true ∧ osBody.p.hold = true ∧ run.completes at0 (on 0) (.mmOs osEmpty) = true ∧
    mxNonEmpty osEmpty = false := by decide +kernel
theorem wit_MmEw : held.memoryOk = true ∧ mxNonEmpty ewBody = true ∧ ewBody.p.hold = true ∧ held.completes at0 (on 0) (.mmEw ewBody) = true := by decide +kernel
theorem wit_MmDrain : held.memoryOk = true ∧ mxNonEmpty drainBody = true ∧ drainBody.p.outmode = false ∧ drainBody.p.cvt = 0 ∧
    (on 0).fuse = 0 ∧ ((viewAt (held.issuedOf at0 (on 0) (.mmDrain drainBody)).views 2).map fun v => (v.format, v.q)) = some (.f32, 0) ∧
    held.completes at0 (on 0) (.mmDrain drainBody) = true := by decide +kernel
theorem wit_MmSt : loaded.completes at0 (on 0) (.mmSt stBody) = true ∧ run.completes at0 (on 0) (.mmSt stLoad) = true ∧
    loaded.completes at0 (on 0) (.mmSt stZero) = true ∧ loaded.memoryOk = true ∧ run.memoryOk = true ∧ mxNonEmpty stBody = true ∧
    mxNonEmpty stZero = true ∧ stBody.p.k ≠ 0 ∧ stZero.p.k = 0 ∧ stBody.p.sload = false ∧ stLoad.p.sload = true ∧
    tiles (geom (run.array 0).mode 0) stLoad.p = 1 := by decide +kernel
theorem wit_VectorMaps : runV.completes at0 (on 8) (.vxMap mapBody) = true ∧
    runV.completes at0 (on 9) (.cuMap mapBody) = true := by decide +kernel
theorem wit_VectorReductions : runV.completes at0 (on 8) (.vxReduce redBody) = true ∧
    runV.completes at0 (on 9) (.cuReduce redBody) = true := by decide +kernel
theorem wit_VectorLoads : prog.completes at0 (on 8) (.vxProg progLoad) = true ∧
    prog.completes at0 (on 9) (.cuProg progLoad) = true ∧ table.completes at0 (on 8) (.vxTable tableLoad) = true ∧
    table.completes at0 (on 9) (.cuTable tableLoad) = true ∧
    run.decodes at0 (Header.plain 8) (.vxAux ⟨view 0 2 2, View.zero, View.zero, 0, 0, 0, false⟩) = true := by decide +kernel
theorem wit_StreamArms : run.issues at0 (on 10) (.stream streamLoad) = true ∧ ((run.slot (run.physSe (on 10)) 0).run.isSome) = false ∧
    streamLoad.mcast = false ∧ streamLoad.total ≠ 0 ∧ storeBad (run.placed at0 (on 10) (.stream streamLoad))
      { run.issuedOf at0 (on 10) (.stream streamLoad) with
        views := [some (streamView (run.placed at0 (on 10) (.stream streamLoad)) (run.entryOf at0 (on 10) (.stream streamLoad)) streamLoad)] }
      streamLoad = [] := by decide +kernel
/-- A slot whose transfer runs, and a load without elements. -/
theorem wit_StreamShadow : (streaming streamLoad 1 0).issues at0 (on 10) (.stream streamLoad) = true ∧
    ((streaming streamLoad 1 0).slot ((streaming streamLoad 1 0).physSe (on 10)) 0).run.isSome = true ∧
    run.issues at0 (on 10) (.stream { streamLoad with count1 := 0 }) = true ∧ ({ streamLoad with count1 := 0 } : StreamBody).total = 0 := by
  decide +kernel
/-- A multicast that is sent, one that waits for release notices, and a store whose words are uncorrectable. -/
theorem wit_StreamMcast : (sharing false).issues at0 (on 10) (.stream mcastBody) = true ∧
    ((sharing false).slot ((sharing false).physSe (on 10)) (streamSlot mcastBody)).run = none ∧
    (sharing false).noticesDue mcastBody = false ∧ mcastBody.mcast = true ∧ mcastBody.total ≠ 0 ∧
    ((sharing false).job.group mcastBody.group).remote = false ∧
    storeBad ((sharing false).placed at0 (on 10) (.stream mcastBody)) { (sharing false).issuedOf at0 (on 10) (.stream mcastBody) with
        views := [some (streamView ((sharing false).placed at0 (on 10) (.stream mcastBody))
          ((sharing false).entryOf at0 (on 10) (.stream mcastBody)) mcastBody)] } mcastBody = [] ∧
    (sharing true).issues at0 (on 10) (.stream mcastBody) = true ∧ (sharing true).noticesDue mcastBody = true := by decide +kernel
theorem wit_StreamBad : (let s := (sharing false).withSpad { (sharing false).spad with bad := [0] }
    s.issues at0 (on 10) (.stream mcastBody) = true ∧ s.noticesDue mcastBody = false ∧
    (s.slot (s.physSe (on 10)) (streamSlot mcastBody)).run = none ∧
    storeBad (s.placed at0 (on 10) (.stream mcastBody)) { s.issuedOf at0 (on 10) (.stream mcastBody) with
        views := [some (streamView (s.placed at0 (on 10) (.stream mcastBody)) (s.entryOf at0 (on 10) (.stream mcastBody)) mcastBody)] }
      mcastBody ≠ []) := by decide +kernel
theorem wit_TransposeCopies : run.completes at0 (on 18) (.transpose trBody) = true := by decide +kernel

/-! ### Witnesses: the issue unit and the engines -/

theorem wit_FetchQueues : run.mayFetch 0 = true ∧ run.takes 0 (.word setEcWord) = some setEcWord ∧
    run.auxFor ⟨0, 0, []⟩ (.setEc ⟨7, true, 0x1234⟩) = (run.task 0).aux ∧
    (parseCmd setEcWord).toOption = some ⟨Header.plain 22, .setEc ⟨7, true, 0x1234⟩⟩ ∧
    (run.task 0).skip.contains (run.task 0).dpi = false ∧ (run.task 0).aux = none ∧
    run.settleSwaps.decodeFault ⟨⟨0, 0, []⟩, ⟨Header.plain 22, .setEc ⟨7, true, 0x1234⟩⟩, none, none, false, 0, [], 0⟩ = none ∧
    placeFault (run.task 0) (.setEc ⟨7, true, 0x1234⟩) = none ∧ run.queueFull ⟨0, 0, []⟩ (Header.plain 22) = false ∧
    run.abortable 0 0 = true := by decide +kernel
theorem wit_FetchRefused : ((run.task 0).buffer.find? fun p => p.1 == (run.task 0).pos) = none ∧ run.ownAddr (run.task 0).prog = false ∧
    ownProg.mayFetch 0 = true ∧ ownProg.ownAddr (ownProg.task 0).prog = true ∧ ownProg.spad.badIn 0 64 ≠ [] ∧
    addrOff (ownProg.task 0).prog + 64 * (ownProg.task 0).pos + 64 ≤ ownProg.spadBytes ∧
    (mod0 ownProg fun k => { k with pos := 2 ^ 30 }).spadBytes < 64 * 2 ^ 30 + 64 := by decide +kernel
theorem wit_IssueLowest :
    (modIu runV fun u => { u with queued := [entry 1 (on 22) incr, entry 0 (on 8) (.vxMap mapBody)] }).settleSwaps.pick =
      some (entry 0 (on 8) (.vxMap mapBody)) ∧
    (modIu runV fun u => { u with queued := [entry 1 (on 22) incr, entry 0 (on 8) (.vxMap mapBody)] }).settleSwaps.verdict
      (entry 0 (on 8) (.vxMap mapBody)) false = .go ∧
    (modIu runV fun u => { u with queued := [entry 1 (on 22) incr, entry 0 (on 8) (.vxMap mapBody)] }).issueLate = none := by
  decide +kernel
/-- A VX command whose coefficient is 21 W, after a sample that forecast nothing. -/
def heldV : State :=
  modEq (modIu runV fun u => { u with queued := [entry 0 (on 8) (.vxMap mapBody)] }) fun e => { e with coeffs := [(0x20, 0x30, 84)] }
theorem wit_IssueHeld : heldV.settleSwaps.heldHeads = [entry 0 (on 8) (.vxMap mapBody)] ∧ heldV.settleSwaps.pick = none := by
  decide +kernel
theorem wit_ExecutionStart : stageV.mayStart .vx = true ∧ (takeUnit .vx stageV.iu.staged).isSome = true ∧
    takeUnit .vx (stageV.unitAhead .vx).iu.staged = some (mapIssued, []) ∧
    ((stageV.unitAhead .vx).withIu { (stageV.unitAhead .vx).iu with staged := [] }).startFault mapIssued = none := by decide +kernel
theorem wit_StartBehind : pairM.mayStart (.mx 0 0) = true ∧ pairM.iu.onUnit (.mx 0 0) = [(.mx 0 0, drainM), (.mx 0 0, holdM)] ∧
    takeUnit (.mx 0 0) (pairM.unitAhead (.mx 0 0)).iu.staged = some (nextM, []) ∧
    ((pairM.unitAhead (.mx 0 0)).withIu { (pairM.unitAhead (.mx 0 0)).iu with staged := [] }).startFault nextM = none ∧
    drainM.e.cmd.op.mx? = some osDrain ∧ drainM.drains = true ∧ drainM.stepped = false ∧ mxStepReads pairM drainM osDrain = [] := by
  decide +kernel
theorem wit_StartAttn : attnS.mayStart (.mx 0 0) = true ∧ takeUnit (.mx 0 0) attnS.iu.staged = some (attnM, []) ∧
    (attnS.withIu { attnS.iu with staged := [] }).startFault attnM = none ∧ attnM.e.cmd.op.mx? = some osDrain ∧
    mxNonEmpty osDrain = true ∧ ((attnS.array 0).part 0).plane (!osDrain.p.plane) = .empty := by decide +kernel
theorem wit_CommandComplete : completing (execV.iu.onUnit .vx) 0 = 0 ∧ (execV.iu.onUnit .vx)[0]? = some (.vx, mapIssued) ∧
    ((execV.endAhead .vx 0).iu.onUnit .vx).any (fun x => sameCmd x.2 mapIssued) = true ∧ execV.memoryOk = true ∧
    (execV.dropExec mapIssued).dataFault mapIssued = none ∧
    execV.spad.narrow ((execV.dropExec mapIssued).runOf mapIssued).bytes = [] ∧
    ((execV.dropExec mapIssued).runOf mapIssued).peer = [] := by decide +kernel
theorem wit_CompleteBehind : completing (pairM.iu.onUnit (.mx 0 0)) 1 = 1 ∧
    (pairM.iu.onUnit (.mx 0 0))[1]? = some (.mx 0 0, holdM) ∧ (let s0 := pairM.endAhead (.mx 0 0) 1
    (s0.iu.onUnit (.mx 0 0)).any (fun x => sameCmd x.2 holdM) = true ∧ s0.memoryOk = true ∧ (s0.dropExec holdM).dataFault holdM = none ∧
    s0.spad.narrow ((s0.dropExec holdM).runOf holdM).bytes = [] ∧ ((s0.dropExec holdM).runOf holdM).peer = []) := by decide +kernel
theorem wit_CompleteSends : (sendV.iu.onUnit .vx)[0]? = some (.vx, sendIssued) ∧ sendV.memoryOk = true ∧
    (sendV.dropExec sendIssued).dataFault sendIssued = none ∧
    sendV.spad.narrow ((sendV.dropExec sendIssued).runOf sendIssued).bytes = [] ∧
    ((sendV.dropExec sendIssued).runOf sendIssued).peer ≠ [] ∧ sendV.isOwn sendIssued.peerAddr = false := by decide +kernel
theorem wit_ExportAck : (exporting true).exporter 12 0 = some (.vx, exportIssued true, exportingOf true) ∧
    (exporting false).exporter 12 0 = some (.vx, exportIssued false, exportingOf false) ∧ (exportingOf true).notified = true ∧
    (exportingOf false).units.drop 1 ≠ [] ∧ (exportingOf false).units.drop 2 = [] ∧ (exportIssued false).peerInc = 0 := by
  decide +kernel
theorem wit_ShadowPromote : shadowed.slot 0 0 = ⟨none, some (streamIssued streamLoad)⟩ ∧
    (streamIssued streamLoad).streamBody = some streamLoad ∧ (streamLoad.total == 0 || streamGranted shadowed 0 streamLoad) = true ∧
    shadowed.noticesDue streamLoad = false ∧ storeBad shadowed (streamIssued streamLoad) streamLoad = [] := by decide +kernel
theorem wit_StreamComplete : ((streaming streamLoad 0 0).slot 0 0).run = some (transferOf streamLoad 0 0) ∧
    (transferOf streamLoad 0 0).i.streamBody = some streamLoad ∧ farNotify (streaming streamLoad 0 0) streamLoad = false ∧
    streamLoad.mcast = false ∧ (streaming streamLoad 0 0).memoryOk = true ∧
    (ownCopy (streaming streamLoad 0 0) (transferOf streamLoad 0 0) streamLoad).2 = [] := by decide +kernel
theorem wit_TimeoutAborts : run.job.st = .running ∧ run.rep.coreFenced = false ∧ run.abortable 0 (run.lowestDpi 0) = true := by
  decide +kernel
theorem wit_ParityReplays : nthOn (.mx 0 0) execM.iu.exec 0 = some (issuedAs 0 (on 0) (.mmOs osBody) []) ∧
    nthOn .vx execV.iu.exec 0 = some mapIssued ∧ (nthOn .cu execC.iu.exec 0).isSome = true ∧
    execM.abortable 0 0 = true ∧ (!mapIssued.replayed && !mapIssued.aliases && !scatAdd mapIssued.e.auxBody) = true := by
  decide +kernel
theorem wit_ParityAgain : nthOn (.mx 0 0) execM2.iu.exec 0 = some { issuedAs 0 (on 0) (.mmOs osBody) [] with replayed := true } ∧
    execM2.abortable 0 0 = true ∧
    (!({ mapIssued with replayed := true } : Issued).replayed && !mapIssued.aliases && !scatAdd mapIssued.e.auxBody) = false := by
  decide +kernel
theorem wit_FoundWords : nthOn .vx execV.iu.exec 0 = some mapIssued ∧ execV.abortable 0 (mapIssued.wordDpi 0) = true ∧
    mapIssued.noted.contains 0 = false ∧
    ((execV.withSpad { execV.spad with bad := [0] }).quietWords mapIssued).contains 0 = false ∧
    nthOn .vx quietV.iu.exec 1 = some maskedV ∧ maskedV.noted.contains 0 = false ∧ (quietV.quietWords maskedV).contains 0 = true ∧
    0 < execV.spadBytes ∧ execV.spad.bad.contains 0 = false ∧ 
    takeUnit .vx execX.iu.exec = some (peerIssued, []) ∧ peerIssued.exports = true ∧ execX.abortable 0 0 = true := by decide +kernel
theorem wit_ExecutionFaults : execM.running 0 = true ∧ (execM.task 0).stopCount = 0 ∧
    execM.ownsArray 0 (execM.physMx 0) = true ∧ (ccWord (8 * 3)).isSome = true ∧ execM.id.hasArray (execM.physMx 0).1 = true ∧
    (execM.withId (Ident.undelivered Build.reference)).id.hasArray (execM.physMx 0).1 = false := by decide +kernel

/-! ### Witnesses: jobs -/

theorem wit_SelectionPoint : ringing.bring.ready = true ∧ ringing.rep.coreFenced = false ∧ ringing.job.st = .idle ∧
    ringing.rep.pending = none ∧ ringing.pickRing = some 0 ∧ reading.job.st = .reading ∧ reading.rep.pending = none := by
  decide +kernel
theorem wit_JobLoad_desc : desc =
    BitVec.ofNat 2048 (imgNat (reading.getImage descBytes ((reading.ringAt reading.job.ring).slotAddr reading.job.slot) 256) 0 256) := by
  decide +kernel
theorem wit_JobLoad_starts : badJob reading.id desc (reading.loadImages descBytes desc).regions = false ∧
    jobFault reading descBytes (reading.loadImages descBytes desc) = none ∧ resumes desc = false := by decide +kernel
theorem wit_JobLoad_refuses : (0 : BitVec 2048) =
      BitVec.ofNat 2048 (imgNat (reading.getImage [] ((reading.ringAt reading.job.ring).slotAddr reading.job.slot) 256) 0 256) ∧
    badJob reading.id 0 (reading.loadImages [] 0).regions = true := by decide +kernel
theorem wit_JobEnds : (ended 0).job.st = .running ∧ (ended 0).job.lastMsg = none ∧ (ended 0).rep.coreFenced = false ∧
    (ended 0).rep.pending = none ∧ (ended 0).settleSwaps.stopTasks.jobDone = true ∧
    (ended 2).settleSwaps.stopTasks.jobDone = true ∧ (ended 2).settleSwaps.stopTasks.statuses.contains 2 = true := by
  decide +kernel
theorem wit_Preemption : (gives false).bring.ready = true ∧
    ((gives false).job.st == .running && preemptible (gives false).job.desc && !(gives false).job.preempt) = true ∧
    (run.job.st == .running && preemptible run.job.desc && !run.job.preempt) = false ∧ reading.job.st = .reading ∧
    reading.bring.ready = true ∧ run.job.st ≠ .reading ∧ (2 : W64) >>> 1 ≠ 0 ∧
    (gives true).stopTasks.drained = true ∧ (gives true).rep.pending = none ∧ (gives true).job.preempt = true ∧
    ((gives true).withSol { (gives true).sol with out := [⟨0, 0, 1, 0, 0, false, false, 0⟩] }).sol.out ≠ [] := by decide +kernel

/-! ### Witnesses: setup registers and the control core -/

theorem wit_Doorbell : ringing.bring.ready = true ∧ (0x100000000#64) >>> 32 ≠ 0#64 ∧ ringEn (ringing.ringAt 1).cfg = false ∧
    ringEn (ringing.ringAt 0).cfg = true ∧ (ringing.ringAt 0).tail = 1 ∧
    2 ^ ringLog2 (ringing.ringAt 0).cfg < ((17 : W32) - (ringing.ringAt 0).head).toNat ∧
    ¬ (2 ^ ringLog2 (ringing.ringAt 0).cfg < ((16 : W32) - (ringing.ringAt 0).head).toNat) ∧
    2 ^ 31 ≤ ((0 : W32) - (ringing.ringAt 0).tail).toNat := by decide +kernel
theorem wit_NotReadyWrites : State.reset.bring.ready = false := by decide +kernel
theorem wit_Commits : idle.bring.ready = true ∧ idle.ringRefusal 0 = some 2 ∧
    (idle.setRing 0 { idle.ringAt 0 with baseS := 0x100000, cfgS := 0x44 }).ringRefusal 0 = none ∧
    idle.id.hasPort 0 = true ∧ idle.portRefusal 0 = none ∧
    (idle.withId { idle.id with build := { idle.id.build with ports := 0 } }).id.hasPort 0 = false ∧
    (2 : W64) >>> 1 ≠ 0#64 := by decide +kernel
theorem wit_SetupWrites : idle.bring.ready = true ∧ Store.wf idle.fa.staged = true ∧ idle.id.hasPort 7 = true ∧
    (4 : W64) >>> 2 ≠ 0#64 ∧ (0xFFF : W64) >>> 12 = 0#64 := by decide +kernel
theorem wit_CcControl : idle.bring.ready = true ∧ idle.cc.halted = true ∧ idle.cc.run = false ∧ idle.cc.restart = false ∧
    (idle.withCc { idle.cc with run := true, halted := false }).cc.run = true ∧
    (idle.withCc { idle.cc with halted := false, restart := true }).cc.restart = true := by decide +kernel
theorem wit_CcMemory : idle.cc.halted = true ∧ idle.memoryOk = true ∧ ccWord idle.cc.maddr.toNat = some (false, 0) ∧
    ccWord 0x100000 = some (true, 0) ∧ idle.cc.badWords.contains (idle.cc.maddr.toNat / 8) = false ∧
    ccWord (idle.withCc { idle.cc with maddr := 0x40000 }).cc.maddr.toNat = none ∧
    (idle.withCc { idle.cc with badWords := [0] }).cc.badWords.contains 0 = true ∧ (hart 0).cc.halted = false := by decide +kernel
theorem wit_CcStores_modes : (hart 0).cc.halted = false ∧ (hart 0).cc.hart.machineMode = true ∧ (hart 0).iu.sfOld = [] ∧
    (hart 0).iu.sfNext = [] ∧ (hart 0).cycle < 1 ∧ timed.cc.halted = false ∧ timed.cc.hart.machineMode = false ∧
    timed.cc.hart.msfen = false ∧
    (∀ a ∈ [0x203008, 0x203010, 0x203018, 0x202000, 0x202038, 0x201000, 0x201038, 0x201040, 0x204000, 0x204010],
      (hart 0).mayStore a = true ∧ timed.mayStore a = false) := by decide +kernel
theorem wit_CcStores : (idle.withCc { idle.cc with halted := false }).cc.halted = false ∧
    (0xFFFFFFFF : W64) >>> 32 = 0#64 ∧ (0xFFFFFF : W64) >>> 24 = 0#64 ∧ idle.cc.injBusy = false ∧ idle.cc.msgQ.length < 8 ∧
    kindOf 0x10000000000 = 1 ∧ offsetOf 0x10000000000 = 0 ∧ (fld (0x100 : W64) 8 8 : BitVec 8) ≠ 0 ∧ idle.cc.halted = true ∧
    (hart 0).cc.hart.machineMode = true ∧ timed.cc.hart.machineMode = false ∧ timed.cc.hart.msfen = false ∧
    (0x1B00 : W64) &&& ~~~0x1B00#64 = 0 ∧ (1 : W64) &&& ~~~0x1B00#64 ≠ 0 ∧ (1 : BitVec 7).toNat % 8 ≠ 0 ∧ (1 : W64) >>> 32 = 0 ∧
    (0x1000000 : W64) >>> 24 ≠ 0 ∧ (idle.withCc { idle.cc with injBusy := true }).cc.injBusy = true := by
  decide +kernel
theorem wit_Timers : run.cycle < 2 ^ 64 ∧ (run.withCc { run.cc with wdLimit := 1 }).cc.wdLimit ≠ 0 ∧ run.rep.coreFenced = false ∧
    run.cc.wdLimit = 0 := by decide +kernel
theorem wit_InjGo : (run.withCc { run.cc with halted := false }).cc.halted = false ∧
    (run.withCc { run.cc with halted := false }).mayStore 0x201040 = true ∧ run.job.replays = false ∧
    (run.cc.injBusy || !(run.job.st == .running && run.job.lastMsg.isNone) || run.job.preempt || run.rep.coreFenced) = false ∧
    (idle.cc.injBusy || !(idle.job.st == .running && idle.job.lastMsg.isNone) || idle.job.preempt || idle.rep.coreFenced) = true := by
  decide +kernel
theorem wit_InjectionPlace : injecting.mayInject = true ∧ injecting.job.logs = false ∧ injecting.cc.injPend = some setEcWord ∧
    injecting.job.loggedInject 0 (injecting.task 0).dpi = none ∧ (injecting.task 0).skip = [] ∧ (injecting.task 0).wasInjected = false ∧
    (mod0 injecting fun k => { k with skip := [5] }).mayInject = true ∧
    (mod0 (mod0 injecting fun k => { k with skip := [5] }) id |>.task 0).wasInjected = false ∧ injecting.settleSwaps.injRoom setEcWord = true ∧
    injecting.settleSwaps.decodeFault
      ⟨⟨0, 0, []⟩, ⟨Header.plain 22, .setEc ⟨7, true, 0x1234⟩⟩, none, none, true, 0, [], 0⟩ = none ∧
    injecting.settleSwaps.decodeFault ⟨⟨0, 0, []⟩, ⟨Header.plain 9, .setEc ⟨7, true, 0x1234⟩⟩, none, none, true, 0, [], 0⟩ =
      some (Code.illegalCommand, 0) ∧ injecting.abortable 0 0 = true ∧
    (injecting.job.append 5 0 0 0 (leBytes setEcWord.toNat 64)).2 = true := by decide +kernel

/-! ### Witnesses: messages and arrivals -/

theorem wit_Messages : idle.live = true ∧ idle.rep.coreFenced = false ∧
    (modRep idle fun r => { r with coreFenced := true }).rep.coreFenced = true ∧
    (modRep idle fun r => { r with coreFenced := true }).live = true ∧ chipOf 0x10000000000 = idle.id.chip ∧ kindOf 0x10000000000 = 1 + idle.id.core.toNat ∧
    chipOf 0x80000000000 = idle.id.chip ∧ kindOf 0x80000000000 = 8 ∧ (modSol idle fun q => { q with memb := 0x81 }).sol.memb.getLsbD 7 = true ∧
    (modSol idle fun q => { q with memb := 0x01 }).sol.memb.getLsbD 7 = false := by decide +kernel
/-- Entry 0 serves chip 1 by port 0 of this core, or by port 8; port 0 is up or down. -/
theorem wit_Messages_route : (routed 0).live = true ∧ chipOf 0x0000110000000000 ≠ (routed 0).id.chip ∧
    (routed 0).routeFor (chipOf 0x0000110000000000) = some (0, toChip1 0) ∧ (routed 0).selNow 0 (toChip1 0) ≠ 3 ∧
    routePort (toChip1 0) 0 / 8 = (routed 0).id.core.toNat ∧ (routed 8).routeFor 1 = some (0, toChip1 8) ∧
    (routed 8).selNow 0 (toChip1 8) ≠ 3 ∧ routePort (toChip1 8) 0 / 8 ≠ (routed 8).id.core.toNat ∧
    ((routed 0).withFp idle.fp).selNow 0 (toChip1 0) = 3 := by decide +kernel
theorem wit_Frame_sent : up.powered = true ∧ up.live = true ∧ up.id.mayHavePort 0 = true ∧ up.cc.msgQ = [] ∧
    (up.port 0).up = true ∧ (up.port 0).pattern = 0 ∧ (up.port 0).fcount.toNat + 1 < 2 ^ 48 ∧ up.portFenced 0 = false ∧
    (idle.port 0).up = false ∧ idle.powered = true ∧ State.reset.id.mayHavePort 0 = true ∧ State.reset.live = false ∧
    encTx (up.port 0).applied.ctrl = false ∧
    (up.port 0).atPeriod.pattern = 0 ∧ (State.reset.port 0).atPeriod.pattern = 0 ∧ (State.reset.port 0).up = false ∧
    (fenced.port 0).up = false ∧ (modRep up fun r => { r with fence := 0x3FFFFFF }).portFenced 0 = true ∧ 
    (modPort idle fun p => { p with applied := ⟨4, []⟩ }).fp[0].atPeriod.pattern ≠ 0 ∧ periodFrame (idle.port 0).fcount = 0 ∧
    (modPort idle fun p => { p with fcount := 1, pat := 1 }).fp[0].atPeriod.pattern ≠ 0 ∧ periodFrame 1 ≠ 0 := by decide +kernel
theorem wit_Inbound_write : ([1, 2] : List Byte) ≠ [] ∧ (254 : Nat) / 256 = (254 + 2 - 1) / 256 ∧ idle.memoryOk = true ∧
    idle.live = true ∧ State.reset.live = false ∧ idle.allBytes 254 2 (fun _ _ => true) = true ∧
    idle.allBytes 32767 2 (fun _ _ => true) = false ∧ idle.allBytes 254 2 (fun g _ => !g.frozen) = true ∧
    idle.spad.narrow (placeBytes 254 [1, 2]) = [] ∧
    (idle.withSpad { idle.spad with bad := [31] }).spad.narrow (placeBytes 254 [1, 2]) = [31] ∧
    (modRg idle 0 fun g => { g with frozen := true }).allBytes 254 2 (fun _ _ => true) = true ∧
    (modRg idle 0 fun g => { g with frozen := true }).allBytes 254 2 (fun g _ => !g.frozen) = false := by decide +kernel
theorem wit_Inbound_read : 0 < 8 ∧ (16384 : Nat) / 256 = (16384 + 8 - 1) / 256 ∧ idle.live = true ∧ 16384 < idle.spadBytes ∧
    idle.allBytes 16384 8 (fun _ _ => true) = true ∧ idle.allBytes 32767 8 (fun _ _ => true) = false ∧
    idle.allBytes 16384 8 (fun r h => !r.poisoned h) = true ∧ idle.spad.badIn 16384 8 = [] ∧
    (modRg idle 1 fun g => { g with poisonA := true }).allBytes 16384 8 (fun _ _ => true) = true ∧
    (modRg idle 1 fun g => { g with poisonA := true }).allBytes 16384 8 (fun r h => !r.poisoned h) = false := by decide +kernel
/-- Two requests of another chip, one whose answers leave by a port of this core. -/
theorem wit_Inbound_back : (⟨1, 0, 3, true⟩ : Requester).chip ≠ idle.id.chip ∧
    (⟨1, 0, 3, true⟩ : Requester).back.1 / 8 = idle.id.core.toNat ∧ (16384 : Nat) ∈ [16384] ∧ 0 < 8 := by decide +kernel
theorem wit_ReadData : (streaming farLoad 1 0).transfer 0 0 = some (transferOf farLoad 1 0, farLoad) ∧
    farLoad.dir = false ∧ (transferOf farLoad 1 0).left ≠ 0 ∧
    (streamUnits (streaming farLoad 1 0) farLoad).contains (256, 8) = true := by decide +kernel
theorem wit_Ack : (streaming farStore 1 0).transfer 0 0 = some (transferOf farStore 1 0, farStore) ∧ farStore.dir = true ∧
    (transferOf farStore 1 0).left ≠ 0 ∧ farNotify (streaming farStore 1 0) farStore = false ∧
    (streaming farTold 1 0).transfer 0 0 = some (transferOf farTold 1 0, farTold) ∧ farNotify (streaming farTold 1 0) farTold = true ∧
    (transferOf farTold 1 0).notified = false ∧ (transferOf farTold 1 0).faulted = false ∧ (transferOf farTold 1 0).left ≤ 1 := by
  decide +kernel
theorem wit_Mreport : (streaming mcastBody 0 2).transfer 0 0 = some (transferOf mcastBody 0 2, mcastBody) ∧
    mcastBody.mcast = true ∧ (transferOf mcastBody 0 2).reports ≠ 0 ∧ (transferOf mcastBody 0 2).told = [] ∧
    ((streaming mcastBody 0 1).setRun 0 0 { transferOf mcastBody 0 1 with told := [(0, 1)] }).transfer 0 0 =
      some ({ transferOf mcastBody 0 1 with told := [(0, 1)] }, mcastBody) := by decide +kernel
theorem wit_TransferFails : (streaming farLoad 1 0).transfer 0 0 = some (transferOf farLoad 1 0, farLoad) ∧
    farLoad.mcast = false ∧ (transferOf farLoad 1 0).faulted = false ∧ (transferOf farLoad 1 0).orphan = false ∧
    (streaming farLoad 1 0).abortable 0 0 = true ∧ (transferOf farLoad 1 0).route = none ∧
    ({ transferOf farLoad 1 0 with route := some 0 } : Transfer).route ≠ none := by decide +kernel
theorem wit_McastWrite : idle.writeCause (runWrites [(254, [1, 2])]) = none ∧ idle.writeCause (runWrites [(32767, [1, 2])]) ≠ none ∧
    idle.job.replays = false ∧ idle.live = true ∧ State.reset.live = false ∧ idle.memoryOk = true ∧
    idle.released (idle.job.group 5) = true ∧ late.released (late.job.group 5) = false ∧
    run.job.st = .running ∧ idle.job.st ≠ .running ∧
    (replaying.job.st == .running && replaying.job.replays) = true ∧ replaying.loggedDrop (mdropKey 5 0 1 0) = none ∧
    (idle.job.group 5).took 0 1 0 = none ∧ (McastGroup.ofEntry 1 |>.take ⟨0, 1, 0, true⟩).took 0 1 0 = some true ∧
    (McastGroup.ofEntry 1 |>.take ⟨0, 1, 0, false⟩).took 0 1 0 = some false := by decide +kernel
theorem wit_Mroute : routeValid (spread.fa.route.get 7) = true ∧ routeMcast (spread.fa.route.get 7) = true ∧ spread.live = true ∧
    bit (spread.fa.route.get 7) (8 + spread.id.core.toNat) = true ∧ bit (spread.fa.route.get 7) (8 + 1) = true ∧
    bit (spread.fa.route.get 7) (16 + 9) = true ∧ routeValid (idle.fa.route.get 7) = false := by decide +kernel
theorem wit_PortDown : moving.live = true ∧ moving.job.st = .running ∧ (moving.fa.sel.map Prod.fst).Nodup ∧
    (0, 0) ∈ (moving.withFa { moving.fa with portLive := moving.fa.portLive &&& ~~~(1#64 <<< 8) }).entriesOn 8 := by decide +kernel

/-! ### Witnesses: router and links -/

theorem wit_Router : idle.cal.routerFenced = false ∧ crossing.cal.routes = true ∧ State.reset.cal.routes = false ∧ crossing.cal.held = [(3, (5, 77))] ∧ (3 + 14) % 4096 = 17 ∧
    osel (crossing.cal.router.slot 17) 0 = 5 ∧ osel (crossing.cal.router.slot 17) 1 = 0 ∧
    (modCal crossing fun c => { c with withdrawn := true }).cal.withdrawn = true ∧ ownSlot (injOwner (crossing.cal.router.slot 17) 0) = false ∧
    (modCal idle fun c => { c with detours := c.detours.set 7 (some blankRouter) }).cal.ordered 7 = some blankRouter ∧
    (modCal idle fun c => { c with deflt := some ⟨some blankRouter, BankPart.empty⟩ }).cal.ordered 15 = some blankRouter ∧
    idle.cal.ordered 15 = none ∧ idle.rep.coreFenced = false := by decide +kernel
theorem wit_MeshReplay : (streaming farLoad 1 0).transfer 0 0 = some (transferOf farLoad 1 0, farLoad) ∧ (transferOf farLoad 1 0).left ≠ 0 ∧
    (transferOf farLoad 1 0).faulted = false ∧ (streaming farLoad 1 0).abortable 0 0 = true ∧
    (3, 77) ∈ (modCal idle fun c => { c with replays := [(3, 77)] }).cal.replays ∧ (∀ a, (a, 77) ∉ idle.cal.replays) := by
  refine ⟨by decide +kernel, by decide +kernel, by decide +kernel, by decide +kernel, by decide +kernel, fun a => ?_⟩
  rw [show idle.cal.replays = [] by decide +kernel]; simp
theorem wit_Detour : (detouring 1).cal.routes = true ∧ (detouring 0).cal.routes = true ∧ (detouring 1).cal.order = some 1 ∧ (detouring 1).cal.ordered 1 = some blankRouter ∧
    (detouring 0).cal.order = some 0 ∧ (detouring 0).cal.ordered 0 = some blankRouter ∧ (1 : Nat) ≠ (detouring 1).id.core.toNat ∧
    (detouring 1).rep.coreFenced = false ∧ (detouring 1).transfer 0 0 = some (transferOf farLoad 1 0, farLoad) ∧
    chipOf farLoad.far = (detouring 1).id.chip ∧ kindOf farLoad.far = 1 + 1 ∧ (detouring 1).abortable 0 0 = true := by decide +kernel
/-- The frame that a running peer sends first is sound: its CRC holds (R312). -/
theorem wit_Frame_sound : frameBroken (arriving 0) = false := by
  simp only [frameBroken, arriving, crcBad_sealed _ _ _ _ _ (show (dataFlits []).length = 15 by simp [dataFlits])]; rfl
theorem wit_FrameReceive : up.live = true ∧ up.id.hasPort 0 = true ∧ up.portFenced 0 = false ∧ (up.port 0).pattern = 0 ∧
    (up.port 0).tagFails (Frame.mk [] false false [] []) = false ∧ (up.port 0).expected false = 0 ∧
    (Frame.mk [] false false [] []).fseq = 0 ∧ frameBroken (Frame.mk [] true false [] []) = true ∧ (up.port 0).nak = false ∧
    (modPort up fun p => { p with nak := true, rejects := 2, rxAny := true }).fp[0].nak = true ∧
    (modPort up fun p => { p with nak := true, rejects := 2, rxAny := true }).fp[0].expected false = 1 ∧
    (up.port 0).rejects < 3 ∧ 3 ≤ (modPort up fun p => { p with rejects := 3, tagRejects := 3 }).fp[0].rejects := by decide +kernel
theorem wit_LinkReplay : kept.live = true ∧ (kept.port 0).up = true ∧ framesAfter (kept.port 0).sent 9 false ≠ [] ∧
    ((streaming farStore 1 0).awaits (0, 0)) = true := by decide +kernel
theorem wit_Transit : (fld (schedEntry (transits.port 0).sched 0) 0 2 : BitVec 2) = 2 ∧ transits.live = true ∧
    (fld (schedEntry (transits.port 0).sched 0) 2 6 : BitVec 6).toNat = 8 ∧ (transits.port 0).up = true ∧
    (fld (schedEntry (transits.port 0).sched 0) 8 6 : BitVec 6).toNat = 0 ∧ 8 / 8 ≠ transits.id.core.toNat ∧
    (modPort transits fun p => { p with up := false }).fp[0].up = false := by
  decide +kernel
theorem wit_Transit_own : ownTransit.live = true ∧ (ownTransit.port 0).up = true ∧ 1 / 8 = ownTransit.id.core.toNat ∧
    ((ownTransit.port 1).held.find? fun h => h.pos == 0) = some ⟨0, false, 0, [5]⟩ ∧
    (fld (schedEntry (ownTransit.port 0).sched 0) 0 2 : BitVec 2) = 2 ∧
    (fld (schedEntry (ownTransit.port 0).sched 0) 2 6 : BitVec 6).toNat = 1 := by decide +kernel
theorem wit_Transit_down : (ownDown true).live = true ∧ ((ownDown true).port 0).up = false ∧
    ((ownDown true).port 1).held.find? (fun h => h.pos == 0) = some ⟨0, false, 0, [5]⟩ ∧ headsIn 0 [5] = [5] ∧
    ((ownDown true).port 1).reversePos 0 = some 0 ∧ ((ownDown false).port 1).reversePos 0 = none ∧
    (fld (schedEntry ((ownDown true).port 0).sched 0) 0 2 : BitVec 2) = 2 ∧
    (fld (schedEntry ((ownDown true).port 0).sched 0) 2 6 : BitVec 6).toNat = 1 ∧
    (fld (schedEntry ((ownDown true).port 0).sched 0) 8 6 : BitVec 6).toNat = 0 := by decide +kernel
theorem wit_LinkEvents : idle.live = true ∧ idle.id.hasPort 0 = true ∧ (idle.port 0).pattern = 0 ∧ (idle.port 0).misses + 1 < 4 ∧
    4 ≤ ((modPort up fun p => { p with misses := 3 }).port 0).misses + 1 ∧ (up.port 0).up = true ∧ up.job.st ≠ .running ∧
    ((modPort idle fun p => { p with phyUp := true, good := 4 }).port 0).phyUp = true ∧
    epochOf ((modPort up fun p => { p with txEpoch := true, fcount := 68 }).port 0).applied.ctrl ≠ true ∧
    64 ≤ ((modPort up fun p => { p with txEpoch := true, fcount := 68 }).port 0).fcount.toNat ∧ periodFrame 68 = 0 ∧ periodFrame 69 ≠ 0 ∧
    (up.port 0).fcount.toNat < 64 ∧
    2 ^ 48 ≤ ((modPort up fun p => { p with fcount := 0xFFFFFFFFFFFF }).port 0).fcount.toNat + 1 := by decide +kernel

/-! ### Witnesses: Solstice, calendars, Equinox, background -/

theorem wit_Solstice : waiting.sol.out = [⟨0, 0, 0, 5, 1, false, false, 0⟩] ∧
    (waiting.withSol { waiting.sol with peers := [] }).sol.memb.getLsbD waiting.id.core.toNat = true ∧
    (waiting.withSol { waiting.sol with peers := [] }).peersIn ⟨0, 0, 0, 5, 1, false, false, 0⟩ = none ∧
    (waiting.withSol { waiting.sol with peers := [(1, ⟨0, false, false, 0⟩)] }).peersIn ⟨0, 0, 0, 5, 1, false, false, 0⟩ =
      some [⟨0, false, false, 0⟩] ∧ arrivalsAgree ⟨0, false, false, 0⟩ ⟨0, false, false, 0⟩ = true ∧
    arrivalsAgree ⟨0, false, false, 0⟩ ⟨1, false, false, 0⟩ = false ∧ waiting.abortable 0 0 = true := by decide +kernel
theorem wit_CalendarSwap : idle.cal.routerSwaps = 0 ∧ idle.cal.bankSwaps = 0 ∧
    (modCal idle fun c => { c with routerSwaps := 2, bankSwaps := 1 }).cal.routerSwaps ≠ 0 ∧
    (modCal idle fun c => { c with routerSwaps := 2, bankSwaps := 1 }).cal.bankSwaps ≠ 0 := by decide +kernel

/-- A part whose slots are all zero. -/
def blankSlots : Array (BitVec 256) := Array.replicate 4096 0
theorem slots_blank (n : Nat) (h : n = 64 ∨ n = 131136) : imgSlots blankImage n = blankSlots := by
  rcases h with h | h <;> subst h <;> simp [imgSlots, blankImage, blankSlots]
theorem blankSlots_get (i : Nat) : blankSlots[i]?.getD 0#256 = 0#256 := by
  simp only [blankSlots, Array.getElem?_replicate]; split <;> rfl
theorem period_blank : periodOf blankSlots = 1 := by
  have h : ((List.range 4096).all fun i => blankSlots.getD i 0 == blankSlots.getD (i % 1) 0) = true := by
    simp [blankSlots_get]
  unfold periodOf
  rw [show List.range 12 = 0 :: (List.range 11).map (fun i => i + 1) from by decide, List.map_cons,
    List.find?_cons_of_pos (by simpa using h)]
  rfl
theorem onePeriod_blank : onePeriod blankSlots = [] := by simp [onePeriod, blankSlots_get]
theorem router_blank : imgRouter blankImage = blankRouter := by
  simp only [imgRouter, slots_blank 64 (.inl rfl), period_blank, onePeriod_blank]; decide +kernel
theorem bank_blank : imgBank blankImage = ⟨[], 0, 1⟩ := by
  simp only [imgBank, slots_blank 131136 (.inr rfl), period_blank, onePeriod_blank]; decide +kernel

/-- The image passes the checks of R290. -/
theorem image_blank : imageOk ident ⟨8, 5, 3⟩ blankImage = true ∧ detourOk ident blankImage = true := by
  rw [imageOk, detourOk, router_blank, bank_blank]; decide +kernel
theorem wit_CalendarLoadComplete :
    ((modCal run fun c => { c with loading := some ⟨0, 0, 0, 0, false, false, 0⟩ }).withSpad { run.spad with mem := blankImage }).cal.loading =
      some ⟨0, 0, 0, 0, false, false, 0⟩ ∧ run.spad.badIn 0 calImageLen = [] ∧ sliceBytes blankImage 0 calImageLen = blankImage ∧
    keepsOthers run.cal blankRouter ⟨[], 0, 1⟩ = true ∧ sharesOf run.job.desc = ⟨8, 5, 3⟩ ∧ imgHeaderOk [] = false := by decide +kernel
theorem wit_EquinoxTick : idle.bring.ready = true ∧ (modEq idle fun e => { e with samples := 10 }).eq.samples = 10 ∧
    idle.eq.samples ≠ 10 ∧ bit idle.eq.band 34 = false ∧ bit (1#64 <<< 34) 34 = true ∧ true ≠ idle.eq.tgl ∧ idle.eq.tgl = false ∧
    bandBad (withPortBand 0x00006C019630E692 0x19630E692) = false ∧ bandBad (withPortBand 0x00006C019630E692 0) = true := by
  decide +kernel
/-- A crossing with 151 mV and clocks in the ratio 3; the hottest reading at 110 °C. -/
theorem wit_EquinoxClock : idle.bring.ready = true ∧ idle.rep.coreFenced = false ∧
    (modEq idle fun e => { e with stretch := 1 }).ballastOk = false ∧ (readings idle.id [100]).foldl max 0 < 440 ∧ 440 ≤ (readings idle.id [440]).foldl max 0 ∧
    idle.id.hasArray 0 = true ∧ (Ident.undelivered Build.reference).hasArray 0 = false ∧ (Ident.undelivered Build.reference).hasVx = false ∧
    150 < (⟨3, 1, 151⟩ : CrossingRead).supply ∧ 2 * 1 < 3 ∧ (modEq idle fun e => { e with solstice := true }).eq.solstice = true ∧
    idle.eq.solstice = false := by decide +kernel
theorem wit_Background : idle.bring.ready = true ∧ idle.spad.bad = [] ∧ 8 < idle.spadBytes ∧ idle.bg.telem = 0 ∧
    (idle.withBg { idle.bg with telem := 1 }).bg.telem ≠ 0 ∧ idle.bg.passWords + 1 < 34 * (idle.spadBytes / 256) ∧
    34 * (idle.spadBytes / 256) ≤ (idle.withBg { idle.bg with passWords := 34 * 2 ^ 20 }).bg.passWords + 1 ∧
    (idle.withSpad { idle.spad with bad := [1] }).spad.bad.contains (8 / 8) = true ∧
    (idle.withAlm { idle.alm with tiles := [5], tileAge := [0] }).alm.tiles = [5] ∧
    (idle.withAlm { idle.alm with tiles := [5], tileAge := [0] }).alm.tileAge = [0] ∧
    idle.ownAddr (idle.job.assayBuf + BitVec.ofNat 64 (192 * idle.alm.tileCount)) = false := by decide +kernel

/-! ### Witnesses: fences, resets, bring-up -/

theorem wit_Fences : idle.powered = true ∧ idle.bring.held = false ∧ idle.id.hasArray 0 = true ∧
    (Ident.undelivered Build.reference).hasArray 0 = false ∧ idle.slot 0 0 = ⟨none, none⟩ ∧ idle.bring.ready = true ∧ idle.rep.coreFenced = false ∧ (0x300 : Code) ≤ 0x306 ∧
    (modCal (modRep idle fun r => { r with coreFenced := true }) fun c => { c with withdrawn := false }).cal.withdrawn = false ∧
    execM.ownsArray 0 0 = true ∧ execM.abortable 0 (execM.arrayDpi 0 0) = true ∧ reading.bring.ready = true ∧ reading.rep.coreFenced = false ∧
    reading.job.st = .reading ∧ idle.job.st ≠ .reading ∧
    (modBring idle fun b => { b with held := true, cold := false }).bring.cold = false := by decide +kernel
theorem wit_Repair : (inPhase 5).inPhase 5 = true ∧ recOk ident record0 = true ∧ recOk ident 0 = false ∧ idle.works = true ∧ idle.powered = true ∧
    (modRep idle fun r => { r with pending := some record0 }).rep.pending = some record0 ∧ idle.job.st = .idle ∧
    idle.job.lastMsg = none := by decide +kernel
theorem wit_Resets : State.reset.powered = true ∧ (idle.bring.held && idle.bring.cold) = false ∧
    (idle.withId { idle.id with lifecycle := 3 }).id.lifecycle = 3 ∧ State.reset.bring.held = true ∧
    (State.reset.bring.held && State.reset.bring.cold) = true ∧ (modEq idle fun e => { e with fc := true }).eq.fc = true ∧
    (State.reset.withPowered false).powered = false := by decide +kernel
theorem wit_BringUp : (inPhase 2).inPhase 2 = true ∧ (inPhase 3).inPhase 3 = true ∧ (inPhase 4).inPhase 4 = true ∧
    (inPhase 6).inPhase 6 = true ∧ (inPhase 7).inPhase 7 = true ∧ (inPhase 9).inPhase 9 = true ∧ idle.inPhase 2 = false ∧
    idle.afterPhase1 = true ∧ idle.hasKeys 0 = true ∧ idle.keysRefused = false ∧
    (idle.withId { idle.id with lifecycle := 4 }).keysRefused = true ∧ idle.id.mayHavePort 0 = true ∧
    (Ident.mayHavePort { idle.id with grade := 0x080000FF0F } 0) = false ∧ (∀ f ∈ ([] : List KatFlaw), f.kernel ≠ 1 ∨ f.element ≠ 0) ∧ failCoverable ⟨0x10, 0⟩ = true ∧ failCoverable ⟨0x40, 0⟩ = false ∧
    (0x101 : W64).getLsbD 0 = true ∧ (0x101 : W64).getLsbD 8 = true ∧ 0 < ident.build.arrays ∧ 0 < ident.build.vxGroups ∧
    (fld (0x100 : W64) 0 4 : BitVec 4) = 0 ∧ (fld (0x1 : W64) 8 16 : BitVec 16) = 0 ∧ 
    (modBring (inPhase 2) fun b => { b with gotId := true, gotLife := true }).bring.gotLife = true ∧
    (modBring idle fun b => { b with ready := false, phase := 1, zeroOk := true, testHold := true }).inTestHold = true ∧
    (inPhase 6).inPhase 6 = true ∧ (inPhase 7).rep.fence.getLsbD 4 = false ∧ idle.powered = true := by decide +kernel

/-! ### Ill-formed commands -/

/-- Queue 21 takes no CTL command (R32); PSEL without PEN, a wait's counter without a comparison, a signal's counter without an
increment, and PART outside an MX queue are not zero (R29). -/
theorem smoke_header : Instr.wf (.nop at0 (on 22)) = true ∧ Instr.wf (.setEc at0 (on 21) ⟨0, false, 0⟩) = false ∧
    Instr.wf (.nop at0 { on 22 with psel := 1 }) = false ∧ Instr.wf (.nop at0 { on 22 with waitB := ⟨1, 0, 0, 0⟩ }) = false ∧
    Instr.wf (.nop at0 { on 22 with sigB := ⟨1, 0⟩ }) = false ∧ Instr.wf (.nop at0 { on 22 with part := 1 }) = false := by
  decide +kernel

/-- VTAG_VALID on a command without a versioned read (R246), a chain of another engine (R208), LSEL 5 (R30). -/
theorem smoke_tags : Instr.wf (.vxMap at0 (on 8) mapBody) = true ∧ Instr.wf (.mmDrain at0 { on 0 with vtag := true } drainBody) = false ∧
    Instr.wf (.vxMap at0 { on 8 with fuse := 1 } mapBody) = false ∧
    Instr.wf (.vxMap at0 (on 8) { mapBody with v0 := { mapBody.v0 with lsel := 5 } }) = false := by decide +kernel

/-- CTL bodies: a LOOP without a body, SRC 3, REL_INC 0, set and clear at once, mode 3 (R37, R48, R71, R148, R300). -/
theorem smoke_bodies : Instr.wf (.loop at0 (Header.plain 22) ⟨1, 0, false, 1⟩) = true ∧
    Instr.wf (.loop at0 (Header.plain 22) ⟨1, 0, false, 0⟩) = false ∧
    Instr.wf (.setPd at0 (on 22) ⟨0, 3, false, 0, 0, 0, 0, 0⟩) = false ∧ Instr.wf (.barrier at0 (on 22) ⟨0, 0, 0, false⟩) = false ∧
    Instr.wf (.regionAttr at0 (on 22) ⟨0, true, true, false, false, false, false⟩) = false ∧
    Instr.wf (.arrayMode at0 (on 0) 3) = false := by decide +kernel

/-- Matrix commands: an FP16 × FP32 pair, another M than view 0 has columns, K above 65,536, CVT with END = HOLD, a used SREG
(R139, R141, R161 to R163). -/
theorem smoke_matrix : Instr.wf (.mmOs at0 (on 0) osBody) = true ∧
    Instr.wf (.mmOs at0 (on 0) { osBody with v0 := { osBody.v0 with format := 3 } }) = false ∧
    Instr.wf (.mmOs at0 (on 0) { osBody with p := mx 3 2 2 true }) = false ∧
    Instr.wf (.mmOs at0 (on 0) { osBody with p := mx 2 2 65537 true }) = false ∧
    Instr.wf (.mmOs at0 (on 0) { osBody with p := { mx 2 2 2 true with cvt := 1 } }) = false ∧
    Instr.wf (.mmOs at0 (on 0) { osBody with p := { mx 2 2 2 true with sreg := true } }) = false := by decide +kernel

/-- Vector commands: SFBASE 57, an axis of a map, an input that does not fit, a program image of 127 bytes, slots past 31, an AUX of
IDXMODE 5 (R190 to R196). -/
theorem smoke_vector : Instr.wf (.vxMap at0 (on 8) { mapBody with p := { vx 0 with sfbase := 57 } }) = false ∧
    Instr.wf (.vxMap at0 (on 8) { mapBody with p := { vx 0 with axis := 1 } }) = false ∧
    Instr.wf (.vxMap at0 (on 8) { mapBody with v0 := view 0 3 2 }) = false ∧
    Instr.wf (.vxProg at0 (on 8) progLoad) = true ∧
    Instr.wf (.vxProg at0 (on 8) { progLoad with v0 := { progLoad.v0 with cols := 127 } }) = false ∧
    Instr.wf (.vxProg at0 (on 8) { progLoad with v0 := { progLoad.v0 with rows := 2 } }) = false ∧
    Instr.wf (.vxAux at0 (Header.plain 8) ⟨View.zero, View.zero, view 0 1 1, 0, 0, 5, false⟩) = false := by decide +kernel

/-- Streams and transposes: ESIZE 5, 4-bit elements without TRANS, an inbound notify, TU without TRANS, an offset that is not a
multiple of the element, a transposed shape that differs (R76, R78, R87). -/
theorem smoke_stream : Instr.wf (.stream at0 (on 10) streamLoad) = true ∧ Instr.wf (.stream at0 (on 10) { streamLoad with esize := 5 }) = false ∧
    Instr.wf (.stream at0 (on 10) { streamLoad with esize := 0 }) = false ∧
    Instr.wf (.stream at0 (on 10) { streamLoad with notify := true, notifyInc := 1 }) = false ∧
    Instr.wf (.stream at0 (on 10) { streamLoad with tu := 1 }) = false ∧
    Instr.wf (.stream at0 (on 10) { streamLoad with esize := 2, far := 0x10000000101 }) = false ∧
    Instr.wf (.transpose at0 (on 18) trBody) = true ∧ Instr.wf (.transpose at0 (on 18) { trBody with v1 := view 4 2 3 }) = false := by
  decide +kernel

/-! ### Command words (R28 to R30, R34 and the body layouts) -/

/-- An unassigned opcode, and SET_EC with bit 7 of its body, which is reserved (R29, R34). -/
theorem test_parse_refuses : (match parseCmd 0xFF with | .error c => some c | .ok _ => none) = some Code.illegalOpcode ∧
    (match parseCmd (setEcWord ||| (1#512 <<< 135)) with | .error c => some c | .ok _ => none) = some Code.illegalCommand := by
  decide +kernel

/-- Header fields: SILENT, PEN, PSENSE, PSEL 9, PART 2, VERSION, VTAG_VALID, FUSE 0x14, wait A on EC 3 EQ 0xABCD TSTEP 2, signal B on
EC 63 by 255. -/
theorem test_parse_header : parseHeader (0x10 ||| (0xE7#512 <<< 8) ||| (0x14E9#512 <<< 16) ||| (0x02ABCDC3#512 <<< 32) ||| (63#512 <<< 114) |||
      (255#512 <<< 120)) =
    ⟨7, true, true, true, 9, 2, true, true, 0x14, ⟨3, 3, 0xABCD, 2⟩, 0, ⟨0, 0, 0, 0⟩, 0, ⟨0, 0⟩, ⟨63, 255⟩⟩ := by decide +kernel

/-- A view at byte 16: region 5, HALF, format 3, LSEL 2, 7 rows, 9 columns, OFFSET 0x123, STRIDE 4, LSTEP 1 (R30). -/
theorem test_parse_view : cmdView ((0x00090007_2345#512 <<< 128) ||| (0x123#512 <<< 176) ||| (4#512 <<< 198) ||| (1#512 <<< 214)) 0 =
    some ⟨5, true, 3, 2, 7, 9, 0x123, 4, 1⟩ := by decide +kernel

/-- STREAM: region 1, ESIZE 3, SLOT 2, far address 0x0123456789ABCDEF, COUNT0 8, STRIDE4 −1, GROUP 0x800 (R76). -/
theorem test_parse_stream : ((parseStream ((0x8381#512 <<< 128) ||| (0x0123456789ABCDEF#512 <<< 192) ||| (8#512 <<< 256) |||
      (0xFFFFFFFF#512 <<< 464) ||| (0x800#512 <<< 496))).map fun b =>
        [b.region.toNat, b.esize.toNat, b.slot.toNat, b.far.toNat, b.count0.toNat, b.stride4.toNat, b.group.toNat]) =
    some [1, 3, 2, 0x0123456789ABCDEF, 8, 0xFFFFFFFF, 0x800] := by decide +kernel

/-! ### Single steps -/

/-- SET_EC adds modulo 2^16 (R36). -/
theorem test_set_ec_wraps : after 1 (fun t => t.ec 5) (exec (.setEc at0 (Header.plain 22) ⟨5, true, 2⟩) (run.setEc 5 0xFFFF)) = 1 := by
  decide +kernel

/-- SET_PD compares signed distances modulo 2^16: 1 is GE 0xFFFF (R37, R39). -/
theorem test_set_pd_wraps : after false (fun t => t.pd 3)
    (exec (.setPd at0 (Header.plain 22) ⟨3, 2, false, 0, 0, 5, 1, 0xFFFF⟩) (run.setEc 5 1)) = true := by decide +kernel

/-- The product of [1 3; 2 4] and [1 1; 2 0] is [7 1; 10 2] (R135, R173). -/
theorem test_mm_os : after [] (fun t => [word t 256, word t 260, word t 320, word t 324]) (exec (.mmOs at0 (on 0) osDrain) product) =
    [f7, f1, f10, f2] := by decide +kernel

/-- A copy map moves words of view 0 to view 2 (R184, R191). -/
theorem test_vx_map : after [] (fun t => [word t 256, word t 260, word t 320, word t 324])
    (exec (.vxMap at0 (on 8) mapBody) (product.withVx copyProg)) = [f1, f2, f3, f4] := by decide +kernel

/-- The sum of 1, 2, 3 and 4 is 10 (R200, R202). -/
theorem test_vx_reduce : after 0 (fun t => t.sf 5) (exec (.vxReduce at0 (on 8) redBody) (product.withVx copyProg)) = 0x41200000 := by
  decide +kernel

/-- Element [0, 1] goes to [1, 0] (R87). -/
theorem test_transpose : after 0 (fun t => word t 320) (exec (.transpose at0 (on 18) trBody) product) = f2 := by decide +kernel

/-- A load within the scratchpad copies its eight bytes when it completes (R77, R82). -/
theorem test_stream_complete : after 0 (fun t => word t 4) (exec (.streamComplete 0 0) (withWords (streaming streamLoad 0 0) [(260, f7)])) =
    f7 := by decide +kernel

/-- A swap without references takes effect at once: NEXT becomes CUR (R70). -/
theorem test_region_swap : after Region.empty (fun t => t.region 1) (exec (.regionSwap at0 (on 22) 1) run) =
    { page 4 4 with split := true, curIsB := true, vbit := true } := by decide +kernel

/-- The register window answers NOT_READY before READY (R12) and BAD_ADDRESS at an unmapped offset after it (R458). -/
theorem test_setup_codes : after 7 (fun t => t.su.rsp) (exec (.registerWrite 0x0200 0) State.reset) = 1 ∧
    after 7 (fun t => t.su.rsp) (exec (.registerWrite 0x0700 0) idle) = 3 := by decide +kernel

/-- A NOTIFY of 255 to counter 63 lands and is acknowledged (R41, R261). -/
theorem test_notify : after (0, []) (fun t => (t.ec 63, t.out)) (exec (.notify ⟨0, 2, 0, false⟩ 63 255) idle) = (255, [.ack ⟨0, 2, 0, false⟩]) := by
  decide +kernel

/-- The command goes to the end of its queue, which an empty queue's idle cycle leaves empty. -/
theorem test_queue : after [] (fun t => t.pending) (step (idle.withPending [.wdKick, .selectionPoint])) = [.selectionPoint] ∧
    after [.wdKick] (fun t => t.pending) (step idle) = [] := by decide +kernel

/-- READY starts Equinox at FLOOR, which resets to 40 W (R376, R390). -/
theorem test_ready : after (false, 0) (fun t => (t.bring.ready, t.eq.sp)) (exec .ready (inPhase 9)) = (true, 1600) := by
  decide +kernel

/-- CRC-32 of the ASCII digits 1 to 9, the check value of the IEEE 802.3 code (R312; log entry 102). -/
theorem test_crc32 : crc32 [0x31, 0x32, 0x33, 0x34, 0x35, 0x36, 0x37, 0x38, 0x39] = 0xCBF43926 := by decide +kernel

/-- A READ_REQ header (R310): OP 2 in [3:0], ADDR in [71:16], FIRST in [79:72], LAST in [87:80], SRC_CHIP in [107:88], SRC_CORE in
[110:108] and SRC_AGENT in [114:111]. -/
theorem test_header : runPacket ⟨5, 3, 9⟩ opReadReq false 0x1234 16 [] =
    [2 ||| (0x12#128 <<< 16) ||| (0x34#128 <<< 72) ||| (0x43#128 <<< 80) ||| (5#128 <<< 88) ||| (3#128 <<< 108) ||| (9#128 <<< 111)] := by
  decide +kernel

/-- ADDI x1, x0, 5 in the control core's instruction memory: x1 is 5 and the pc 4 (R332). -/
theorem test_hart : after (0#64, 0#64) (fun t => (t.cc.hart.x[1], t.cc.hart.pc)) (step (hart 0x00500093)) = (5, 4) := by decide +kernel

/-! ### The spec's worked examples -/

/-- Chapter 02: GE with threshold 0x0002 holds a command while the counter reads 0xFFFE, and is met at 0x0002. -/
theorem test_example_ge : cmpHolds 1 0xFFFE 2 = false ∧ cmpHolds 1 2 2 = true := by decide +kernel

/-- Chapter 03: RG5.NEXT with OFFSET 0x10 starts at 0x0090_0400. -/
theorem test_example_half : (let g : Region := { page 0x800 0x200 with split := true }
    (g.halfBase (g.physical false), g.halfBase (g.physical true) + 64 * 0x10)) = (0x800000, 0x900400) := by decide +kernel

/-- Chapter 04: the MXFP4 block of 60, 5.0 and −1.2 takes scale 0x83 and elements 0x6, 0x1, 0x8. −1.2 is taken as FP32. -/
theorem test_example_mxfp4 : ((Fmt.mx4.convBlock 0 [.fin false 60 0, .fin false 5 0, ofF32 0xBF99999A] [0, 0, 0]).1,
    (Fmt.mx4.convBlock 0 [.fin false 60 0, .fin false 5 0, ofF32 0xBF99999A] [0, 0, 0]).2.map Prod.fst) = (0x83, [6, 1, 8]) := by
  decide +kernel

/-- Chapter 04: 0x3FA6_6666 converts to E4M3 under SR as 0x3A for draws 0x1234 and 0x9999, as 0x3B for 0x999A and 0xA3F1. -/
theorem test_example_sr : ([0x1234, 0x9999, 0x999A, 0xA3F1].map fun r => (e4m3.convert .sr false r (ofF32 0x3FA66666)).bits) =
    [0x3A, 0x3A, 0x3B, 0x3B] := by decide +kernel

/-- Chapter 10: the key words of the dropout draw, and the words before round 0. -/
theorem test_example_counter : (let k : CgKey := ⟨0x000000A17C3E4402, 0xA3C, 0x213, 2, 0x580⟩
    (k.words, cgRounds k.words ⟨0x00190025 ^^^ k.words.x0, k.start ^^^ k.words.x1, k.tensor ^^^ k.words.x2, 2 ^^^ k.words.x3⟩ 0)) =
    (⟨0x7C3E4402, 0xA1, 0xA3C, 0⟩, ⟨0x7C274427, 0x521, 0x82F, 2⟩) := by decide +kernel

/-- Chapter 16: at 11 µs the set point falls from 185 W to 179 W, and the ballast to 141 W on three arrays of 48 W and a fourth; the
band is FLOOR 146, CEILING 230, RAMP 48, BALLAST_LIMIT 150 with ballast enabled. -/
theorem test_example_ballast : after (0, 0) (fun t => (t.eq.sp, t.eq.ballast)) (exec (.equinoxSample ⟨4 * 38, [], [], [], [], []⟩)
    (modEq idle fun e => { e with inUse := 0x00006C019630E692, sp := 40 * 185, target := 40 * 146 })) = (40 * 179, 40 * 141) := by
  decide +kernel

/-- Chapter 16: at 14 µs the set point is 161 W; products of 48 W wait for MX0 to MX2 and a command of 3 W for VX, so 185 W is forecast,
24 W above the draw. -/
theorem test_example_forecast :
    after (0, 0, false) (fun t => (t.eq.ballast, t.eq.fcLvl, t.eq.fc))
      (exec (.equinoxSample ⟨4 * 38, [], [], [(0x10, 0x10, 192), (0x14, 0x10, 192), (0x18, 0x10, 192), (0x20, 0x30, 12)], [], []⟩)
      (modIu (modEq runV fun e => { e with inUse := 0x00006C039630E692, sp := 40 * 167, target := 40 * 146 }) fun u =>
        { u with queued := [entry 0 (on 0) (.mmOs osBody), entry 1 (on 2) (.mmOs osBody), entry 2 (on 4) (.mmOs osBody),
          entry 3 (on 8) (.vxMap mapBody)] })) = (40 * 123, 4 * 185, true) := by
  decide +kernel

/-- Chapter 16: at 0.4 µs a partition that becomes idle starts ballast at the 48 W that the last sample attributed to it. -/
theorem test_example_idle_ballast :
    ((modEq run fun e => { e with partWork := [(0x10, 192)] }).startBallast (.mx 0 0)).eq.partBallast = [(0x10, 40 * 48)] := by
  decide +kernel

/-- Chapter 20: RING_COMMIT of ring 3 applies the staged values; then 0x12C is beyond 256 slots, and TAIL stays 4. -/
theorem test_example_ring3 :
    after (0, 0, 0) (fun t => ((t.ringAt 3).base.toNat, (t.ringAt 3).cfg.toNat, t.su.rsp.toNat)) (exec (.ringCommit 3 1)
      (idle.setRing 3 { idle.ringAt 3 with baseS := 0x0010700010000000, cfgS := 0x68 })) = (0x0010700010000000, 0x68, 0) ∧
    after (0, 0, 0) (fun t => ((t.ringAt 3).tail.toNat, (t.ringAt 3).reason.toNat, t.su.rsp.toNat)) (exec (.doorbell 3 0x12C)
      (idle.setRing 3 { idle.ringAt 3 with base := 0x0010700010000000, cfg := 0x68, tail := 4 })) = (4, 2, 2) := by decide +kernel

end Sys2Proof.Tests
end

/-! ### The setup window before READY (O38) -/

section
namespace Sys2Proof.Machine

/-- R12, R458: the effect that a served access would have is discarded, whatever it is. -/
theorem State.served_of_not_ready {s : State} (hready : s.bring.ready = false) (f : State → State) :
    s.served f = s.respond 1 0 := by
  simp [State.served, hready]

/-- An outcome that is a served access, before READY, is the answer NOT_READY from the unchanged state. -/
theorem eq_answers_notReady_of_served {s : State} {o : Host.Outcome State Fault Refusal} (hready : s.bring.ready = false)
    (hserved : ∃ f, o = .next (s.served f)) : o = answers s 1 0 := by
  obtain ⟨f, rfl⟩ := hserved
  rw [State.served_of_not_ready hready, answers]

/-- Settles O38: each command of the setup window is an access that `State.served` guards. -/
theorem notReadyWrites : Obligations.NotReadyWrites := by
  intro c s hready hsetup
  apply eq_answers_notReady_of_served hready
  cases c
  case doorbell | preempt | ringCommit | eqCommit | bgCommit | fpCommit | routeCommit | routeEntHi | obsCommit | ccCtrl
      | ccMdataRead | ccMdataWrite | errlogPop | clrLost | clrPrbs | clrReplay | registerWrite => exact ⟨_, rfl⟩
  all_goals exact hsetup.elim

end Sys2Proof.Machine
end

/-! ### Responses to the core's own transfers (O48) -/

section
namespace Sys2Proof.Machine

/-! #### Equinox follows the work of the engines (R378, R380) -/

theorem upToPower_refl (s : State) : upToPower s s := ⟨⟨[], by simp⟩, rfl, rfl⟩

theorem sameEq_trans {a b c : State} (hab : sameEq a b) (hbc : sameEq b c) : sameEq a c := by
  unfold sameEq at *
  rw [hbc, hab]

theorem onlyForecasts_trans {a b c : State} (hab : onlyForecasts a b) (hbc : onlyForecasts b c) : onlyForecasts a c := by
  obtain ⟨l, hl⟩ := hab
  obtain ⟨m, hm⟩ := hbc
  exact ⟨l ++ m, by simp [hm, hl]⟩

theorem upToPower_trans (a b c : State) (hab : upToPower a b) (hbc : upToPower b c) : upToPower a c := by
  obtain ⟨hout, heq, hrest⟩ := hab
  obtain ⟨hout', heq', hrest'⟩ := hbc
  refine ⟨onlyForecasts_trans hout hout', sameEq_trans heq heq', ?_⟩
  calc (c.withEq a.eq).withOut a.out = (((c.withEq b.eq).withOut b.out).withEq a.eq).withOut a.out := rfl
    _ = a := by rw [hrest', hrest]

theorem State.startBallast_upToPower (s : State) (u : UnitId) : upToPower s (s.startBallast u) := by
  cases u with
  | mx n p =>
    simp only [State.startBallast]
    split
    · exact upToPower_refl s
    · exact ⟨⟨[], by simp⟩, rfl, rfl⟩
  | _ => exact upToPower_refl s

theorem State.forecast_upToPower (s : State) : upToPower s s.forecast := by
  unfold State.forecast
  dsimp only
  split
  · exact ⟨⟨[_], by simp [State.emit]; rfl⟩, rfl, rfl⟩
  · split
    · exact ⟨⟨[0], by simp [State.emit]⟩, rfl, rfl⟩
    · exact upToPower_refl s

/-- Equinox answers a change of work with ballast and the forecast alone. -/
theorem State.follow_upToPower (s t : State) : upToPower t (s.follow t) := by
  refine upToPower_trans _ _ _ ?_ (State.forecast_upToPower _)
  refine foldl_only upToPower upToPower_refl upToPower_trans _ (fun t q => ?_) _ t
  split
  · exact upToPower_refl t
  · exact State.startBallast_upToPower t q.1

theorem State.follow_rest (s t : State) : ((s.follow t).withEq t.eq).withOut t.out = t := (s.follow_upToPower t).2.2

theorem State.follow_forecasts (s t : State) : onlyForecasts t (s.follow t) := (s.follow_upToPower t).1

@[simp] theorem State.follow_iu (s t : State) : (s.follow t).iu = t.iu := (congrArg State.iu (s.follow_rest t) :)
@[simp] theorem State.follow_se (s t : State) : (s.follow t).se = t.se := (congrArg State.se (s.follow_rest t) :)
@[simp] theorem State.follow_spad (s t : State) : (s.follow t).spad = t.spad := (congrArg State.spad (s.follow_rest t) :)
@[simp] theorem State.follow_rg (s t : State) : (s.follow t).rg = t.rg := (congrArg State.rg (s.follow_rest t) :)
@[simp] theorem State.follow_fp (s t : State) : (s.follow t).fp = t.fp := (congrArg State.fp (s.follow_rest t) :)
@[simp] theorem State.follow_err (s t : State) : (s.follow t).err = t.err := (congrArg State.err (s.follow_rest t) :)

/-- What has been sent stays sent when Equinox follows. -/
theorem State.mem_out_follow {s t : State} {m : Msg} (hm : m ∈ t.out) : m ∈ (s.follow t).out := by
  obtain ⟨l, hl⟩ := s.follow_forecasts t
  simp [hl, hm]

/-! #### Slots of the stream engines (R81) -/

theorem slotIdx_eq_iff (e f : Fin 8) (k q : Fin 4) : (slotIdx e k).1 = (slotIdx f q).1 ↔ f = e ∧ q = k := by
  simp only [slotIdx, Fin.ext_iff]
  omega

theorem State.slot_setSlot (s : State) (e f : Fin 8) (k q : Fin 4) (x : Slot) :
    (s.setSlot e k x).slot f q = if f = e ∧ q = k then x else s.slot f q := by
  simp [State.setSlot, State.slot, Vector.getElem_set, slotIdx_eq_iff]

@[simp] theorem State.run_setRun (s : State) (e : Fin 8) (k : Fin 4) (t : Transfer) :
    ((s.setRun e k t).slot e k).run = some t := by
  simp [State.setRun, State.slot_setSlot]

theorem State.slot_setRun_other (s : State) (e f : Fin 8) (k q : Fin 4) (t : Transfer) (h : ¬ (f = e ∧ q = k)) :
    (s.setRun e k t).slot f q = s.slot f q := by
  rw [State.setRun, State.slot_setSlot, if_neg h]

theorem State.setRun_withSe (s : State) (e : Fin 8) (k : Fin 4) (t : Transfer) : (s.setRun e k t).withSe s.se = s := rfl

theorem State.slot_of_se {s t : State} (h : t.se = s.se) (e : Fin 8) (k : Fin 4) : t.slot e k = s.slot e k := by
  simp only [State.slot, h]

/-- A response that only updates its transfer: the slot runs the updated one, and ballast and forecast follow. -/
theorem State.follow_setRun (s : State) (e : Fin 8) (k : Fin 4) (t : Transfer) :
    ((s.follow (s.setRun e k t)).slot e k).run = some t ∧
    (((s.follow (s.setRun e k t)).withSe s.se).withEq s.eq).withOut s.out = s ∧
    onlyForecasts s (s.follow (s.setRun e k t)) := by
  refine ⟨?_, congrArg (State.withSe · s.se) (s.follow_rest (s.setRun e k t)), s.follow_forecasts (s.setRun e k t)⟩
  rw [State.slot_of_se (State.follow_se _ _), State.run_setRun]

/-! #### Data, acknowledgements and reports (R14, R261, R285, R298, R306) -/

theorem State.landData_unit {s : State} {e : Fin 8} {k : Fin 4} {tr : Transfer} {b : StreamBody} {addr : Nat} {bs : List Byte}
    (ht : s.transfer e k = some (tr, b)) (hd : b.dir = false) (hl : tr.left ≠ 0)
    (hu : (streamUnits s b).contains (addr, bs.length) = true) :
    s.landData e k addr bs = s.setRun e k { tr with left := tr.left - 1, got := tr.got ++ [(addr, bs)] } := by
  simp [State.landData, ht, hd, hl, List.contains_iff_mem.mp hu]

/-- The acknowledgement after which a store's NOTIFY to another core leaves (R261). -/
def releasesNotify (s : State) (tr : Transfer) (b : StreamBody) (n : Nat) : Prop :=
  farNotify s b = true ∧ tr.notified = false ∧ tr.faulted = false ∧ tr.left ≤ n

theorem State.acknowledge_counts {s : State} {e : Fin 8} {k : Fin 4} {tr : Transfer} {b : StreamBody} {n : Nat}
    (ht : s.transfer e k = some (tr, b)) (hd : b.dir = true) (hl : tr.left ≠ 0) (hn : ¬ releasesNotify s tr b n) :
    s.acknowledge e k n = s.setRun e k { tr with left := tr.left - n } := by
  have hcond : (tr.left - n = 0 && farNotify s b && !tr.notified && !tr.faulted) = false := by
    rw [Bool.eq_false_iff]
    intro hc
    simp only [Bool.and_eq_true, decide_eq_true_eq, Bool.not_eq_true'] at hc
    obtain ⟨⟨⟨hleft, hfar⟩, hnote⟩, hfault⟩ := hc
    exact hn ⟨hfar, hnote, hfault, by omega⟩
  simp [State.acknowledge, ht, hd, hl, hcond]

theorem State.acknowledge_notifies {s : State} {e : Fin 8} {k : Fin 4} {tr : Transfer} {b : StreamBody} {n : Nat}
    (ht : s.transfer e k = some (tr, b)) (hd : b.dir = true) (hl : tr.left ≠ 0) (hn : releasesNotify s tr b n) :
    s.acknowledge e k n = (s.setRun e k { tr with left := 1, notified := true }).sendNotify e.1 tr.i.e.x tr.route tr.path b.far
      b.notifyEc b.notifyInc := by
  obtain ⟨hfar, hnote, hfault, hleft⟩ := hn
  simp [State.acknowledge, ht, hd, hl, hfar, hnote, hfault, Nat.sub_eq_zero_of_le hleft]

theorem State.sendNotify_rest (s : State) (a : Nat) (x : Ctx) (route : Option Nat) (path : BitVec 2) (far : W64) (ec : BitVec 6)
    (inc : BitVec 8) : ((s.sendNotify a x route path far ec inc).withFp s.fp).withOut s.out = s := by
  cases route with
  | none => rfl
  | some r => exact State.sendPackets_frame s _ _ _ _ _

@[simp] theorem State.sendNotify_se (s : State) (a : Nat) (x : Ctx) (route : Option Nat) (path : BitVec 2) (far : W64)
    (ec : BitVec 6) (inc : BitVec 8) : (s.sendNotify a x route path far ec inc).se = s.se :=
  (congrArg State.se (s.sendNotify_rest a x route path far ec inc) :)

@[simp] theorem State.sendNotify_iu (s : State) (a : Nat) (x : Ctx) (route : Option Nat) (path : BitVec 2) (far : W64)
    (ec : BitVec 6) (inc : BitVec 8) : (s.sendNotify a x route path far ec inc).iu = s.iu :=
  (congrArg State.iu (s.sendNotify_rest a x route path far ec inc) :)

@[simp] theorem State.sendNotify_spad (s : State) (a : Nat) (x : Ctx) (route : Option Nat) (path : BitVec 2) (far : W64)
    (ec : BitVec 6) (inc : BitVec 8) : (s.sendNotify a x route path far ec inc).spad = s.spad :=
  (congrArg State.spad (s.sendNotify_rest a x route path far ec inc) :)

/-- What one packet leaves at the ports depends on the core, the ports and the packet only. -/
theorem State.sendPackets_fp_setRun (s : State) (e : Fin 8) (k : Fin 4) (t : Transfer) (q a : Nat) (task : Fin 4) (dpi : W64)
    (us : List FabUnit) :
    ((s.setRun e k t).sendPackets q a task dpi [us]).fp = (s.sendPackets q a task dpi [us]).fp := by
  have hid : (s.setRun e k t).id = s.id := rfl
  simp only [State.sendPackets, List.foldl_cons, List.foldl_nil, hid]
  split <;> rfl

theorem State.takeReport_delivered {s : State} {e : Fin 8} {k : Fin 4} {tr : Transfer} {b : StreamBody} {chip : BitVec 20}
    {core : BitVec 3} (ht : s.transfer e k = some (tr, b)) (hm : b.mcast = true) (hr : tr.reports ≠ 0)
    (hnew : (chip, core) ∉ tr.told) :
    s.takeReport e k 0 chip core = s.setRun e k { tr with reports := tr.reports - 1, told := tr.told ++ [(chip, core)] } := by
  simp [State.takeReport, ht, hm, hr, hnew]

theorem State.takeReport_dropped {s : State} {e : Fin 8} {k : Fin 4} {tr : Transfer} {b : StreamBody} {core : BitVec 3}
    (ht : s.transfer e k = some (tr, b)) (hm : b.mcast = true) (hr : tr.reports ≠ 0) (hnew : (s.id.chip, core) ∉ tr.told) :
    s.takeReport e k 1 s.id.chip core = s.setRun e k { tr with
      reports := tr.reports - 1, told := tr.told ++ [(s.id.chip, core)], drops := tr.drops + 1,
      lateMask := tr.lateMask ||| (1#8 <<< core.toNat) } := by
  simp [State.takeReport, ht, hm, hr, hnew]

/-- A receiver that has reported a transfer adds nothing to it (R285). -/
theorem State.takeReport_told {s : State} {e : Fin 8} {k : Fin 4} {tr : Transfer} {b : StreamBody} {result : BitVec 2}
    {chip : BitVec 20} {core : BitVec 3} (ht : s.transfer e k = some (tr, b)) (htold : (chip, core) ∈ tr.told) :
    s.takeReport e k result chip core = s := by
  simp [State.takeReport, ht, htold]

/-! #### A task's abort keeps the log and the poison (R56, R72) -/

/-- The error log is the same, and no half that was poisoned is sound. -/
def keepsLogAndPoison (s t : State) : Prop :=
  t.err = s.err ∧ ∀ r h, (s.region r).poisoned h = true → (t.region r).poisoned h = true

theorem keepsLogAndPoison_refl (s : State) : keepsLogAndPoison s s := ⟨rfl, fun _ _ hp => hp⟩

theorem keepsLogAndPoison_trans (a b c : State) (hab : keepsLogAndPoison a b) (hbc : keepsLogAndPoison b c) :
    keepsLogAndPoison a c :=
  ⟨hbc.1.trans hab.1, fun r h hp => hbc.2 r h (hab.2 r h hp)⟩

theorem keepsLogAndPoison_foldl {α : Type} {f : State → α → State} (hf : ∀ s a, keepsLogAndPoison s (f s a)) (l : List α)
    (s : State) : keepsLogAndPoison s (l.foldl f s) :=
  foldl_only keepsLogAndPoison keepsLogAndPoison_refl keepsLogAndPoison_trans f hf l s

theorem keepsLogAndPoison_of_rg {s t : State} (herr : t.err = s.err) (hrg : t.rg = s.rg) : keepsLogAndPoison s t :=
  ⟨herr, fun r h hp => by simpa only [State.region, hrg] using hp⟩

theorem keepsLogAndPoison_setRegion {s : State} {r : BitVec 6} {g : Region}
    (hg : ∀ h, (s.region r).poisoned h = true → g.poisoned h = true) : keepsLogAndPoison s (s.setRegion r g) := by
  refine ⟨rfl, fun q h hp => ?_⟩
  rw [State.region_setRegion]
  split
  · next hq => exact hg h (hq ▸ hp)
  · exact hp

theorem Region.poisoned_setPoison_true {g : Region} {a h : Bool} (hp : g.poisoned h = true) :
    (g.setPoison a true).poisoned h = true := by
  unfold Region.setPoison
  split
  · exact hp
  · split
    · cases h
      · exact hp
      · rfl
    · cases h
      · rfl
      · exact hp

@[simp] theorem Region.poisoned_setRefs (g : Region) (a h : Bool) (n : Nat) : (g.setRefs a n).poisoned h = g.poisoned h := by
  cases a <;> rfl

theorem State.poison_keepsLogAndPoison (s : State) (h : Ref) : keepsLogAndPoison s (s.poison h) :=
  keepsLogAndPoison_setRegion fun _ hp => Region.poisoned_setPoison_true hp

theorem State.releaseRef_keepsLogAndPoison (s : State) (r : Option Ref) : keepsLogAndPoison s (s.releaseRef r) := by
  cases r with
  | none => exact keepsLogAndPoison_refl s
  | some h => exact keepsLogAndPoison_setRegion fun _ hp => by simpa using hp

theorem State.poisonOutputs_keepsLogAndPoison (s : State) (i : Issued) : keepsLogAndPoison s (s.poisonOutputs i) :=
  keepsLogAndPoison_foldl State.poison_keepsLogAndPoison _ s

theorem State.scramble_keepsLogAndPoison (s : State) (i : Issued) : keepsLogAndPoison s (s.scramble i) := by
  have h := (State.scramble_only s i).1
  exact keepsLogAndPoison_of_rg ((congrArg State.err h).trans rfl) ((congrArg State.rg h).trans rfl)

theorem State.emptyParts_keepsLogAndPoison (s : State) (own : Nat → Nat → Bool) : keepsLogAndPoison s (s.emptyParts own) := by
  have h := State.emptyParts_only s own
  exact keepsLogAndPoison_of_rg ((congrArg State.err h).trans rfl) ((congrArg State.rg h).trans rfl)

theorem State.clearSwaps_keepsLogAndPoison (s : State) :
    keepsLogAndPoison s (s.withRg ⟨mapVec (fun g => { g with swapPending := false }) s.rg.tab⟩) := by
  refine ⟨rfl, fun r h hp => ?_⟩
  have hr : (s.withRg ⟨mapVec (fun g => { g with swapPending := false }) s.rg.tab⟩).region r =
      { s.region r with swapPending := false } := by
    simp [State.region, State.withRg, mapVec]
  rw [hr]
  exact hp

theorem State.abandonTask_keepsLogAndPoison (s : State) (t : Fin 4) : keepsLogAndPoison s (s.abandonTask t) := by
  have hrefs := keepsLogAndPoison_trans _ _ _ s.clearSwaps_keepsLogAndPoison
    (keepsLogAndPoison_foldl (fun s r => State.releaseRef_keepsLogAndPoison s (some r)) (s.taskRefs t) _)
  have hran := keepsLogAndPoison_trans _ _ _ hrefs
    (keepsLogAndPoison_foldl (fun s u => State.scramble_keepsLogAndPoison s u.2) (s.iu.busy.filter fun u => u.2.e.x.task = t) _)
  have hmine := keepsLogAndPoison_trans _ _ _ hran
    (keepsLogAndPoison_foldl (fun s u => State.poisonOutputs_keepsLogAndPoison s u.2)
      ((s.iu.staged ++ s.iu.exec).filter fun u => u.2.e.x.task = t) _)
  unfold State.abandonTask
  exact keepsLogAndPoison_trans _ _ _ ⟨hmine.1, hmine.2⟩ (State.emptyParts_keepsLogAndPoison _ _)

/-! #### A task-fatal fault of a task that it can abort (R56, R57) -/

theorem State.abortable_of_iu {s t : State} (h : t.iu = s.iu) (u : Fin 4) (dpi : W64) : t.abortable u dpi = s.abortable u dpi := by
  unfold State.abortable State.running State.task
  rw [h]

theorem State.not_discarded_of_abortable {s : State} {t : Fin 4} {dpi : W64} (h : s.abortable t dpi = true) :
    ¬ ((s.task t).stopCount != 0#64 && dpi != noDpi && decide ((s.task t).stopCount ≤ dpi)) = true := by
  simp only [State.abortable, Bool.and_eq_true, Bool.or_eq_true, beq_iff_eq, decide_eq_true_eq] at h
  simp only [Bool.and_eq_true, bne_iff_ne, decide_eq_true_eq]
  rintro ⟨⟨hstop, hdpi⟩, hle⟩
  obtain ⟨-, (hzero | hno) | hlt⟩ := h
  · exact hstop hzero
  · exact hdpi hno
  · exact absurd hle (BitVec.not_le.mpr hlt)

theorem State.withJob_self (s : State) : s.withJob s.job = s := rfl

/-- A fault that can abort its task logs it, abandons the task and records its end in the issue unit and the job. -/
theorem State.abortTaskAt_shape {s : State} {t : Fin 4} {dpi : W64} (h : s.abortable t dpi = true) (code : Code) (w : Site)
    (detail : W64) : ∃ tasks late job, s.abortTaskAt t code dpi w detail =
      (((s.logFatal t code dpi w detail).abandonTask t).withIu
        { ((s.logFatal t code dpi w detail).abandonTask t).iu with tasks := tasks, late := late }).withJob job := by
  have hrun : ¬ ((s.task t).st != TaskState.running) = true := by
    have : s.running t = true := (Bool.and_eq_true _ _ ▸ h).1
    simpa [State.running] using this
  unfold State.abortTaskAt
  dsimp only
  rw [if_neg (State.not_discarded_of_abortable h), if_neg hrun]
  split
  · exact ⟨_, _, _, rfl⟩
  · exact ⟨_, _, _, (State.withJob_self _).symm⟩

theorem State.logFatal_iu (s : State) (t : Fin 4) (code : Code) (dpi : W64) (w : Site) (detail : W64) :
    (s.logFatal t code dpi w detail).iu = s.iu := (State.addLog_frame _ _).2.1

theorem State.logFatal_rg (s : State) (t : Fin 4) (code : Code) (dpi : W64) (w : Site) (detail : W64) :
    (s.logFatal t code dpi w detail).rg = s.rg := (State.addLog_frame _ _).2.2.2.1

/-- A task-fatal event is added to a log that has room (R395): it merges with no other. -/
theorem State.logFatal_logged (s : State) (t : Fin 4) (code : Code) (dpi : W64) (w : Site) (detail : W64) :
    logged s (s.logFatal t code dpi w detail) code := by
  intro hroom
  simp [State.logFatal, State.addLog, State.logEntry, ErrClass.bits, hroom, State.latchEvent]

theorem State.abortTaskAt_logged {s : State} {t : Fin 4} {dpi : W64} (h : s.abortable t dpi = true) (code : Code) (w : Site)
    (detail : W64) : logged s (s.abortTaskAt t code dpi w detail) code := by
  obtain ⟨tasks, late, job, hshape⟩ := State.abortTaskAt_shape h code w detail
  have herr : (s.abortTaskAt t code dpi w detail).err = (s.logFatal t code dpi w detail).err := by
    rw [hshape]
    exact (State.abandonTask_keepsLogAndPoison _ t).1
  intro hroom
  rw [herr]
  exact s.logFatal_logged t code dpi w detail hroom

theorem State.abortTaskAt_poisoned {s : State} {t : Fin 4} {dpi : W64} (h : s.abortable t dpi = true) (code : Code) (w : Site)
    (detail : W64) {r : BitVec 6} {half : Bool} (hp : (s.region r).poisoned half = true) :
    ((s.abortTaskAt t code dpi w detail).region r).poisoned half = true := by
  obtain ⟨tasks, late, job, hshape⟩ := State.abortTaskAt_shape h code w detail
  rw [hshape]
  refine (State.abandonTask_keepsLogAndPoison _ t).2 r half ?_
  simpa only [State.region, State.logFatal_rg] using hp

/-- A task's abort leaves the counters, the predicates and the scalar file. -/
theorem State.abortTaskAt_files {s : State} {t : Fin 4} {dpi : W64} (h : s.abortable t dpi = true) (code : Code) (w : Site)
    (detail : W64) : (s.abortTaskAt t code dpi w detail).iu.ec = s.iu.ec ∧ samePdSf s (s.abortTaskAt t code dpi w detail) := by
  obtain ⟨tasks, late, job, hshape⟩ := State.abortTaskAt_shape h code w detail
  have hiu := State.abandonTask_iu (s.logFatal t code dpi w detail) t
  simp only [State.logFatal_iu] at hiu
  rw [hshape]
  exact ⟨(congrArg Iu.ec hiu :), (congrArg Iu.pd hiu :), (congrArg Iu.sf hiu :)⟩

/-! #### A transfer that fails (R79, R296, R308, R326) -/

theorem State.closeRef_eq_releaseRef (s : State) (e : Entry) : s.closeRef e = s.releaseRef e.ref := by
  unfold State.closeRef
  cases e.ref <;> rfl

/-- The half that a load writes, or those that a store into this core's scratchpad writes, are poisoned (R79). -/
def State.poisonDest (s : State) (t : Transfer) (b : StreamBody) : State :=
  if b.dir then ((ownFarBytes s b).filterMap s.locate).foldl State.poison s else s.poison (b.region, t.halfB)

theorem State.poisonDest_only (s : State) (t : Transfer) (b : StreamBody) : onlyRg s (s.poisonDest t b) := by
  unfold State.poisonDest
  split
  · exact foldl_only onlyRg onlyRg_refl onlyRg_trans _ State.poison_only _ s
  · exact State.poison_only s _

theorem State.poisonDest_poisons {s : State} {t : Transfer} {b : StreamBody} (hd : b.dir = false)
    (hv : (s.region b.region).valid = true) (hs : (s.region b.region).split = true) :
    ((s.poisonDest t b).region b.region).poisoned t.halfB = true := by
  simp only [State.poisonDest, hd, Bool.false_eq_true, if_false, State.poison, State.region_setRegion, if_true]
  exact Region.poisoned_setPoison _ _ _ hv fun _ => hs

/-- A transfer whose task has not aborted fails: its destination is poisoned, its reference released and its task aborts. -/
theorem State.failTransfer_eq {s : State} {t : Transfer} (ho : t.orphan = false) (e : Fin 8) (k : Fin 4) (b : StreamBody)
    (code : Code) (detail : W64) : s.failTransfer e k t b code detail [] =
      (((s.setRun e k { t with orphan := true, faulted := true }).poisonDest t b).releaseRef t.i.e.ref).abortTaskAt
        t.i.e.x.task code t.i.e.x.dpi ((slotSite e k).of t.i.e.cmd.h) detail := by
  simp only [State.failTransfer, State.streamFault, ho, Bool.false_eq_true, if_false, State.closeRef_eq_releaseRef,
    State.poisonWords, List.foldl_nil, State.poisonDest]

/-- How a transfer's task ends when the transfer fails. -/
def failsWith (s t : State) (tr : Transfer) (b : StreamBody) (code : Code) : Prop :=
  aborted t tr.i.e.x.task code tr.i.e.x.dpi ∧ logged s t code ∧
  (b.dir = false → (s.region b.region).valid = true → (s.region b.region).split = true →
    (t.region b.region).poisoned tr.halfB = true) ∧
  (∀ j, t.ec j = s.ec j) ∧ samePdSf s t

theorem State.failTransfer_failsWith {s : State} {tr : Transfer} (ho : tr.orphan = false)
    (ha : s.abortable tr.i.e.x.task tr.i.e.x.dpi = true) (e : Fin 8) (k : Fin 4) (b : StreamBody) (code : Code) (detail : W64) :
    failsWith s (s.failTransfer e k tr b code detail []) tr b code := by
  rw [State.failTransfer_eq ho]
  generalize hu : s.setRun e k { tr with orphan := true, faulted := true } = u
  have hur : u.rg = s.rg := by rw [← hu]; rfl
  have hpo : onlyRg u ((u.poisonDest tr b).releaseRef tr.i.e.ref) :=
    onlyRg_trans _ _ _ (u.poisonDest_only tr b) (State.releaseRef_only _ _)
  have hpoison (hd : b.dir = false) (hv : (s.region b.region).valid = true) (hs : (s.region b.region).split = true) :
      (((u.poisonDest tr b).releaseRef tr.i.e.ref).region b.region).poisoned tr.halfB = true :=
    (State.releaseRef_keepsLogAndPoison _ _).2 _ _
      (State.poisonDest_poisons hd (by simpa only [State.region, hur] using hv) (by simpa only [State.region, hur] using hs))
  generalize (u.poisonDest tr b).releaseRef tr.i.e.ref = v at hpo hpoison
  have hiu : v.iu = s.iu := (onlyRg_iu hpo).trans (by rw [← hu]; rfl)
  have herr : v.err = s.err := (congrArg State.err hpo).trans (by rw [← hu]; rfl)
  have hav : v.abortable tr.i.e.x.task tr.i.e.x.dpi = true := (State.abortable_of_iu hiu _ _).trans ha
  obtain ⟨hec, hpd, hsf⟩ := State.abortTaskAt_files hav code ((slotSite e k).of tr.i.e.cmd.h) detail
  refine ⟨State.abortTaskAt_aborted v _ _ _ _ _ hav, ?_, ?_, ?_, ?_, ?_⟩
  · exact fun hroom => State.abortTaskAt_logged hav code _ detail (herr ▸ hroom)
  · exact fun hd hv hs => State.abortTaskAt_poisoned hav code _ detail (hpoison hd hv hs)
  · exact fun j => by simp only [State.ec, hec, hiu]
  · rw [hpd, hiu]
  · rw [hsf, hiu]

/-- Ballast and forecast take nothing back of a failure. -/
theorem failsWith_follow {s t : State} {tr : Transfer} {b : StreamBody} {code : Code} (h : failsWith s t tr b code) :
    failsWith s (s.follow t) tr b code := by
  simpa only [failsWith, aborted, logged, samePdSf, State.task, State.region, State.ec, State.follow_iu, State.follow_err,
    State.follow_rg] using h

theorem State.refused_fails {s : State} {e : Fin 8} {k : Fin 4} {tr : Transfer} {b : StreamBody} {cause : BitVec 8}
    (ht : s.transfer e k = some (tr, b)) (hm : b.mcast = false) (hl : tr.left ≠ 0) (hf : tr.faulted = false)
    (hc : cause ≠ 5#8 ∨ tr.route = none) (chip : BitVec 20) (core : BitVec 3) :
    s.refused e k cause chip core =
      s.failTransfer e k { tr with left := tr.left - 1 } b Code.remoteRefused (peerDetail chip core cause) [] := by
  cases hr : tr.route with
  | none => simp [State.refused, ht, hr, hl, hm, hf]
  | some r =>
    have hcause : cause ≠ 5#8 := hc.resolve_right (by simp [hr])
    simp [State.refused, ht, hr, hl, hf, hcause]

/-- A timeout of the network that the transfer uses (R296, R326). -/
theorem State.timeOut_fails {s : State} {e : Fin 8} {k : Fin 4} {tr : Transfer} {b : StreamBody} {onDie : Bool}
    (ht : s.transfer e k = some (tr, b)) (hm : b.mcast = false) (hl : tr.left ≠ 0) (hf : tr.faulted = false)
    (hnet : tr.route.isSome = !onDie) (code : Code) :
    s.timeOut e k onDie code = s.failTransfer e k { tr with left := 0, reports := 0 } b code 0 [] := by
  simp [State.timeOut, ht, hm, hl, hf, hnet]

/-! #### The commands of the responses -/

theorem exec_ack_engine (e : Fin 8) (k : Fin 4) (n : Nat) (s : State) :
    exec (.ack ⟨e.1, by omega⟩ k n) s = .next (s.follow (s.acknowledge e k n)) := by
  simp [exec, execAck]

theorem exec_refuse_engine (e : Fin 8) (k : Fin 4) (cause : BitVec 8) (chip : BitVec 20) (core : BitVec 3) (s : State) :
    exec (.refuse ⟨e.1, by omega⟩ k cause chip core) s = .next (s.follow (s.refused e k cause chip core)) := by
  simp [exec, execRefuse]

theorem exec_meshTimeout_engine (e : Fin 8) (k : Fin 4) (s : State) :
    exec (.meshTimeout ⟨e.1, by omega⟩ k) s = .next (s.follow (s.timeOut e k true Code.meshTimeout)) := by
  simp [exec, execMeshTimeout, State.agentTimeOut]

theorem exec_fabricTimeout_engine (e : Fin 8) (k : Fin 4) (s : State) :
    exec (.fabricTimeout ⟨e.1, by omega⟩ k) s = .next (s.follow (s.timeOut e k false Code.fabricTimeout)) := by
  simp [exec, execFabricTimeout, State.agentTimeOut]

theorem exec_mreport (e : Fin 8) (k : Fin 4) (result : BitVec 2) (chip : BitVec 20) (core : BitVec 3) (s : State) :
    exec (.mreport e k result chip core) s = .next (s.follow (s.takeReport e k result chip core)) := rfl

/-- A failing response of a transfer: REFUSE that is no path down, or the timeout of the network that the transfer uses (R296, R308,
R326). -/
def failsTransfer (c : Instr) (e : Fin 8) (k : Fin 4) (tr : Transfer) (code : Code) : Prop :=
  (∃ cause chip core, c = .refuse ⟨e.1, by omega⟩ k cause chip core ∧ (cause ≠ 5#8 ∨ tr.route = none) ∧
    code = Code.remoteRefused) ∨
  (c = .meshTimeout ⟨e.1, by omega⟩ k ∧ tr.route = none ∧ code = Code.meshTimeout) ∨
  (c = .fabricTimeout ⟨e.1, by omega⟩ k ∧ tr.route ≠ none ∧ code = Code.fabricTimeout)

theorem exec_failsTransfer {c : Instr} {s : State} {e : Fin 8} {k : Fin 4} {tr : Transfer} {b : StreamBody} {code : Code}
    (ht : s.transfer e k = some (tr, b)) (hm : b.mcast = false) (hl : tr.left ≠ 0) (hf : tr.faulted = false)
    (hc : failsTransfer c e k tr code) :
    ∃ left reports detail, exec c s =
      .next (s.follow (s.failTransfer e k { tr with left := left, reports := reports } b code detail [])) := by
  obtain ⟨cause, chip, core, rfl, hcause, rfl⟩ | ⟨rfl, hroute, rfl⟩ | ⟨rfl, hroute, rfl⟩ := hc
  · rw [exec_refuse_engine, State.refused_fails ht hm hl hf hcause]
    exact ⟨tr.left - 1, tr.reports, _, rfl⟩
  · rw [exec_meshTimeout_engine, State.timeOut_fails ht hm hl hf (by simp [hroute])]
    exact ⟨0, 0, 0, rfl⟩
  · rw [exec_fabricTimeout_engine, State.timeOut_fails ht hm hl hf (by simpa [Option.isSome_iff_ne_none] using hroute)]
    exact ⟨0, 0, 0, rfl⟩

/-- ACK on the slot of a store, with and without the NOTIFY that it lets leave (R261, R306). -/
theorem exec_ack_store {s : State} {e : Fin 8} {k : Fin 4} {tr : Transfer} {b : StreamBody} (n : Nat)
    (ht : s.transfer e k = some (tr, b)) (hd : b.dir = true) (hl : tr.left ≠ 0) :
    ∃ t, exec (.ack ⟨e.1, by omega⟩ k n) s = .next t ∧
      (¬ releasesNotify s tr b n → (t.slot e k).run = some { tr with left := tr.left - n } ∧
        ((t.withSe s.se).withEq s.eq).withOut s.out = s ∧ onlyForecasts s t) ∧
      (releasesNotify s tr b n → (t.slot e k).run = some { tr with left := 1, notified := true } ∧
        (tr.route = none → .notify b.far b.notifyEc b.notifyInc ∈ t.out ∧ t.fp = s.fp) ∧
        (∀ r, tr.route = some r →
          t.fp = (s.sendPackets (s.egressPort r tr.path) e.1 tr.i.e.x.task tr.i.e.x.dpi
            [notifyPacket (s.sender e.1) b.far b.notifyEc b.notifyInc]).fp)) ∧
      (∀ i, t.ec i = s.ec i) ∧ t.iu = s.iu ∧ t.spad = s.spad := by
  refine ⟨_, exec_ack_engine e k n s, ?_⟩
  by_cases hn : releasesNotify s tr b n
  · rw [State.acknowledge_notifies ht hd hl hn]
    refine ⟨fun h => absurd hn h, fun _ => ⟨?_, fun hr => ?_, fun r hr => ?_⟩, fun i => ?_, ?_, ?_⟩
    · rw [State.slot_of_se (State.follow_se _ _), State.slot_of_se (State.sendNotify_se ..), State.run_setRun]
    · rw [hr]
      exact ⟨State.mem_out_follow (by simp [State.sendNotify, State.emit]), State.follow_fp _ _⟩
    · rw [hr, State.follow_fp]
      exact State.sendPackets_fp_setRun s e k _ _ _ _ _ _
    · simp only [State.ec, State.follow_iu, State.sendNotify_iu]
      rfl
    · exact (State.follow_iu _ _).trans (State.sendNotify_iu ..)
    · exact (State.follow_spad _ _).trans (State.sendNotify_spad ..)
  · rw [State.acknowledge_counts ht hd hl hn]
    exact ⟨fun _ => State.follow_setRun s e k _, fun h => absurd h hn, fun i => by simp only [State.ec, State.follow_iu]; rfl,
      State.follow_iu _ _, State.follow_spad _ _⟩

/-- Settles O48: a response is one update of its transfer, which `State.setRun` makes, or the transfer's failure, which
`State.failTransfer` makes; ballast and forecast follow it. -/
theorem responses : Obligations.Responses := by
  refine ⟨fun s e k tr b addr bs ht hd hl hu => ?_, fun s e k tr b n ht hd hl => exec_ack_store n ht hd hl,
    fun s e k tr b core ht hm hr hnew => ?_, fun s e k tr b result chip core ht htold => ?_,
    fun c s e k tr b code ht hm hl hf ho ha hc => ?_⟩
  case refine_1 =>
    exact ⟨_, congrArg Host.Outcome.next (State.landData_unit ht hd hl hu), State.run_setRun s e k _,
      State.setRun_withSe s e k _, fun f q h => State.slot_setRun_other s e f k q _ h⟩
  case refine_2 =>
    have hdelivered := State.follow_setRun s e k { tr with reports := tr.reports - 1, told := tr.told ++ [(s.id.chip, core)] }
    have hdropped := State.follow_setRun s e k { tr with
      reports := tr.reports - 1, told := tr.told ++ [(s.id.chip, core)], drops := tr.drops + 1,
      lateMask := tr.lateMask ||| (1#8 <<< core.toNat) }
    rw [← State.takeReport_delivered ht hm hr hnew] at hdelivered
    rw [← State.takeReport_dropped ht hm hr hnew] at hdropped
    obtain ⟨hrun, hrest, hsent⟩ := hdelivered
    exact ⟨_, _, exec_mreport .., hrun, hrest, hsent, exec_mreport .., hdropped⟩
  case refine_3 =>
    refine ⟨_, exec_mreport .., ?_⟩
    rw [State.takeReport_told ht htold]
    exact ⟨State.follow_se s s, s.follow_rest s, s.follow_forecasts s⟩
  case refine_4 =>
    obtain ⟨left, reports, detail, hexec⟩ := exec_failsTransfer ht hm hl hf hc
    exact ⟨_, hexec, failsWith_follow
      (State.failTransfer_failsWith (tr := { tr with left := left, reports := reports }) ho ha e k b code detail)⟩

end Sys2Proof.Machine
end

/-! ### A program command given whole (R26, R32, R45, R55) -/

section
namespace Sys2Proof.Machine

/-! #### What the issue unit reads of the state -/

@[simp] theorem State.settleSwaps_iu (s : State) : s.settleSwaps.iu = s.iu := rfl
@[simp] theorem State.settleSwaps_spad (s : State) : s.settleSwaps.spad = s.spad := rfl
@[simp] theorem State.settleSwaps_err (s : State) : s.settleSwaps.err = s.err := rfl

theorem State.ec_of_iu {s t : State} (h : t.iu.ec = s.iu.ec) (i : BitVec 6) : t.ec i = s.ec i := by simp only [State.ec, h]

theorem State.pd_of_iu {s t : State} (h : t.iu.pd = s.iu.pd) (i : BitVec 4) : t.pd i = s.pd i := by simp only [State.pd, h]

theorem State.task_of_iu {s t : State} (h : t.iu.tasks = s.iu.tasks) (u : Fin 4) : t.task u = s.task u := by
  simp only [State.task, h]

theorem State.waitsMet_of_iu {s t : State} (h : t.iu.ec = s.iu.ec) (hd : Header) (iters : List Nat) :
    t.waitsMet hd iters = s.waitsMet hd iters := by
  simp only [State.waitsMet, State.waitMet, State.ec_of_iu h]

theorem State.predicated_of_iu {s t : State} (h : t.iu.pd = s.iu.pd) (hd : Header) : t.predicated hd = s.predicated hd := by
  simp only [State.predicated, State.pd_of_iu h]

/-- A task that is active runs, so no fault of its fetch comes late. -/
theorem State.lateFetch_of_active {s : State} {t : Fin 4} (h : s.active t = true) : s.lateFetch t = false := by
  have hr : s.running t = true := by
    simp only [State.active, Bool.and_eq_true] at h
    exact h.2
  simp [State.lateFetch, hr]

/-! #### The fetch state of a task (R26, R48 to R50) -/

/-- The two states of a task differ at most in its fetch: it runs, and stops, alike. -/
def Task.sameRun (k j : Task) : Prop :=
  j.st = k.st ∧ j.stopCount = k.stopCount ∧ j.dpi = k.dpi ∧ j.aux = k.aux ∧ j.fetchEnded = k.fetchEnded

theorem Task.wrap_sameRun (n : Nat) (k : Task) : k.sameRun (k.wrap n) := by
  induction n generalizing k with
  | zero => exact ⟨rfl, rfl, rfl, rfl, rfl⟩
  | succ n ih =>
    unfold Task.wrap
    split
    · exact ⟨rfl, rfl, rfl, rfl, rfl⟩
    · split
      · exact ⟨rfl, rfl, rfl, rfl, rfl⟩
      · split
        · exact ⟨rfl, rfl, rfl, rfl, rfl⟩
        · exact ih _

theorem Task.enter_sameRun (k : Task) (len n : Nat) : k.sameRun (k.enter len n) := by
  unfold Task.enter
  split
  · exact Task.wrap_sameRun 5 _
  · exact ⟨rfl, rfl, rfl, rfl, rfl⟩

/-- Leaving fetch neither ends a task nor moves its STOP_COUNT. -/
theorem Task.passed_runs (k : Task) (d : W64) (c : Cmd) :
    (k.passed d c).st = k.st ∧ (k.passed d c).stopCount = k.stopCount := by
  unfold Task.passed
  dsimp only
  split
  case h_1 =>
    split
    · exact ⟨rfl, rfl⟩
    · obtain ⟨hst, hstop, -⟩ := Task.enter_sameRun _ _ _
      exact ⟨hst, hstop⟩
  case h_5 | h_6 => exact ⟨rfl, rfl⟩
  all_goals
    obtain ⟨hst, hstop, -⟩ := Task.wrap_sameRun 5 _
    exact ⟨hst, hstop⟩

/-- The body and the header agree with an opcode that the issue unit takes (R29, R34). -/
theorem queueOk_of_headerFault {c : Cmd} (h : headerFault c = none) :
    c.op.queueOk c.h = true ∧ c.op.headerOk c.h = true := by
  simp only [headerFault, firstFault] at h
  split at h
  · exact absurd h (by simp)
  · next hok =>
    simp only [Bool.or_eq_true, not_or, Bool.not_eq_true'] at hok
    obtain ⟨⟨⟨⟨hq, -⟩, hh⟩, -⟩, -⟩ := hok
    exact ⟨by simpa using hq, by simpa using hh⟩

theorem headerFault_of_decodeFault {s : State} {e : Entry} (h : s.decodeFault e = none) : headerFault e.cmd = none := by
  unfold State.decodeFault at h
  dsimp only at h
  cases hf : headerFault e.cmd with
  | none => rfl
  | some k => simp [hf, orFault] at h

/-! #### Decoding into the queue -/

@[simp] theorem State.entryOf_x (s : State) (x : Ctx) (h : Header) (op : Op) : (s.entryOf x h op).x = x := rfl
@[simp] theorem State.entryOf_cmd (s : State) (x : Ctx) (h : Header) (op : Op) : (s.entryOf x h op).cmd = ⟨h, op⟩ := rfl

/-- A header whose fetch has decoded agrees with the opcode. -/
theorem State.headerFault_of_decodes {s : State} {x : Ctx} {h : Header} {op : Op} (hd : s.decodes x h op = true) :
    headerFault ⟨h, op⟩ = none := by
  simp only [State.decodes, Bool.and_eq_true, Option.isNone_iff_eq_none] at hd
  exact headerFault_of_decodeFault (e := { s.entryOf x h op with ref := none }) hd.1.2

/-- A decoded command changes its region's references, its task and its queue. -/
theorem State.placed_eq (s : State) (x : Ctx) (h : Header) (op : Op) :
    s.placed x h op = (s.withRg (s.settleSwaps.takeRef (s.entryOf x h op).ref).rg).withIu { s.iu with
      tasks := s.iu.tasks.set x.task.1 ((s.task x.task).passed x.dpi ⟨h, op⟩) x.task.2
      queued := s.iu.queued ++ [s.entryOf x h op] } := by
  unfold State.placed
  rw [State.takeRef_only s.settleSwaps (s.entryOf x h op).ref]
  rfl

/-- No queue holds a command that fetch may take. -/
theorem State.not_queued_of_fetches {s : State} {x : Ctx} {op : Op} (hf : s.fetches x op = true) (e : Entry)
    (he : e ∈ s.iu.queued) : (e.x.task == x.task && e.x.dpi == x.dpi) = false := by
  simp only [State.fetches, Bool.and_eq_true, Bool.not_eq_true', List.any_eq_false] at hf
  obtain ⟨⟨-, hq⟩, -⟩ := hf
  simpa using hq e he

/-- A command that leaves the queue as soon as it is decoded leaves the task's fetch state and its reference behind. -/
theorem State.unqueue_placed {s : State} {x : Ctx} {op : Op} (hf : s.fetches x op = true) (h : Header) :
    (s.placed x h op).unqueue (s.entryOf x h op) =
      ((s.settleSwaps.takeRef (s.entryOf x h op).ref).passDpi x ⟨h, op⟩).touch := by
  have hq : (s.iu.queued ++ [s.entryOf x h op]).filter (fun q => !(q.x.task == x.task && q.x.dpi == x.dpi)) = s.iu.queued := by
    rw [List.filter_append, List.filter_eq_self.mpr fun e he => by simp [State.not_queued_of_fetches hf e he]]
    simp [State.entryOf]
  rw [State.placed_eq, State.takeRef_only s.settleSwaps (s.entryOf x h op).ref]
  unfold State.unqueue
  simp only [State.withIu_iu]
  rw [State.entryOf_x, hq]
  rfl

/-- A command that heads its queue goes through issue as it was decoded. -/
theorem State.command_of_heading {s : State} {x : Ctx} {h : Header} {op : Op} (hh : s.heading x h op = true)
    (haux : ∀ b, op ≠ .vxAux b) : s.command x h op = (s.placed x h op).goOn (s.entryOf x h op) := by
  simp only [State.heading, State.decodes, State.fetches, Bool.and_eq_true, Option.isNone_iff_eq_none, Bool.not_eq_true',
    beq_iff_eq] at hh
  obtain ⟨⟨⟨⟨-, ⟨⟨⟨⟨hact, hdec⟩, hq⟩, hpair⟩, hfault⟩, hplace⟩, hroom⟩, -⟩, -⟩ := hh
  have hnone : s.iu.queued.find? (fun e => e.x.task == x.task && e.x.dpi == x.dpi) = none := by
    rw [List.find?_eq_none]
    simpa [List.any_eq_false] using hq
  unfold State.command
  rw [State.lateFetch_of_active hact]
  have hact0 : s.settleSwaps.active x.task = true := hact
  have hdec0 : s.settleSwaps.mayDecode x = true := hdec
  have hroom0 : s.settleSwaps.queueFull x h = false := hroom
  have hpair0 : s.settleSwaps.auxFor x op = (s.settleSwaps.task x.task).aux := hpair
  have hplace0 : placeFault (s.settleSwaps.task x.task) op = none := hplace
  have hfault0 : s.settleSwaps.decodeFault ⟨x, ⟨h, op⟩, (s.settleSwaps.task x.task).aux, none, false,
    (s.settleSwaps.task x.task).pos, (s.settleSwaps.task x.task).loops, s.cycle⟩ = none := hpair ▸ hfault
  have hentry : s.entryOf x h op = ⟨x, ⟨h, op⟩, (s.settleSwaps.task x.task).aux, s.settleSwaps.versionRef ⟨h, op⟩, false,
    (s.settleSwaps.task x.task).pos, (s.settleSwaps.task x.task).loops, s.cycle⟩ := by rw [State.entryOf, hpair]; rfl
  simp only [State.takeCommand, hact0, hdec0, hroom0, hpair0, hplace0, State.settleSwaps_iu, hnone,
    Bool.not_true, Bool.false_eq_true, if_false]
  unfold State.placed
  rw [hentry]
  cases hk : (s.settleSwaps.task x.task).aux <;> rw [hk] at hfault0 <;> simp only [hfault0]

/-- A program command runs whole. -/
theorem exec_program {c : Instr} {x : Ctx} {h : Header} {op : Op} (hc : programOf c = some (x, h, op)) (s : State) :
    exec c s = .next (s.command x h op) := by
  cases c <;> simp only [programOf, Option.some.injEq, Prod.mk.injEq, reduceCtorEq] at hc <;>
    obtain ⟨rfl, rfl, rfl⟩ := hc <;> rfl

/-! #### The issue of a command that heads its queue (R43, R45, R46) -/

/-- The present state lets a command issue, and its queue in the decoded state does so too. -/
theorem State.placed_mayIssue {s : State} {x : Ctx} (h : Header) (op : Op) (hm : s.mayIssue x = true) :
    (s.placed x h op).mayIssue x = true := by
  have hk : (s.placed x h op).task x.task = (s.task x.task).passed x.dpi ⟨h, op⟩ := by
    rw [State.placed_eq]
    exact (State.task_setTask s _ _ _).trans (if_pos rfl)
  obtain ⟨hst, hstop⟩ := Task.passed_runs (s.task x.task) x.dpi ⟨h, op⟩
  have hrep : (s.placed x h op).rep = s.rep := by rw [State.placed_eq]; rfl
  have hjob : (s.placed x h op).job = s.job := by rw [State.placed_eq]; rfl
  simpa only [State.mayIssue, State.active, State.running, hk, hst, hstop, hrep, hjob] using hm

@[simp] theorem State.placed_ec (s : State) (x : Ctx) (h : Header) (op : Op) : (s.placed x h op).iu.ec = s.iu.ec := by
  rw [State.placed_eq]; rfl
@[simp] theorem State.placed_pd (s : State) (x : Ctx) (h : Header) (op : Op) : (s.placed x h op).iu.pd = s.iu.pd := by
  rw [State.placed_eq]; rfl

/-- The holds that the task has once fetch has passed the command tell whether a LOOP enters its body at issue. -/
def State.entersAtIssue (s : State) (x : Ctx) (h : Header) (op : Op) : Bool :=
  ((s.task x.task).passed x.dpi ⟨h, op⟩).holds.contains x.dpi

theorem State.placed_holds (s : State) (x : Ctx) (h : Header) (op : Op) :
    ((s.placed x h op).task x.task).holds.contains x.dpi = s.entersAtIssue x h op := by
  have hk : (s.placed x h op).task x.task = (s.task x.task).passed x.dpi ⟨h, op⟩ := by
    rw [State.placed_eq]
    exact (State.task_setTask s _ _ _).trans (if_pos rfl)
  rw [hk]
  rfl

/-- A head that may act does what its verdict says; ballast and forecast follow. -/
theorem State.goOn_acts {s : State} {e : Entry} (hhead : s.isHead e = true) (hfirst : s.goesFirst e = true)
    (hv : s.verdict e true ≠ .hold) (hfree : s.verdict e true = .go → s.holds e = false) :
    s.goOn e = s.follow (if s.verdict e true == .go
      then (s.act e true ((s.task e.x.task).holds.contains e.x.dpi)).reballast e.cmd (s.unitOf e.cmd)
      else s.act e true ((s.task e.x.task).holds.contains e.x.dpi)) := by
  have hact : s.mayAct e = true := by
    simp only [State.mayAct, hhead, hfirst, Bool.true_and, Bool.and_true, Bool.and_eq_true, bne_iff_ne, Bool.not_eq_true',
      Bool.and_eq_false_imp, beq_iff_eq]
    exact ⟨hv, hfree⟩
  rw [State.goOn, if_pos hact]

/-- The commands that compute on an array are those with matrix parameters; no other one ends and starts ballast (R378). -/
theorem State.reballast_of_not_mx (s : State) {c : Cmd} (u : UnitId) (hm : c.op.mx? = none) : s.reballast c u = s := by
  unfold State.reballast
  rw [hm]
  cases s.agentOf c <;> rfl

/-- What `heading` says of the decoded state. -/
theorem State.placed_of_heading {s : State} {x : Ctx} {h : Header} {op : Op} (hh : s.heading x h op = true) :
    (s.placed x h op).mayIssue x = true ∧ s.fetches x op = true ∧ headerFault ⟨h, op⟩ = none ∧
    (s.placed x h op).isHead (s.entryOf x h op) = true ∧ (s.placed x h op).goesFirst (s.entryOf x h op) = true := by
  simp only [State.heading, Bool.and_eq_true] at hh
  obtain ⟨⟨⟨⟨hmay, hdec⟩, -⟩, hhead⟩, hfirst⟩ := hh
  have hfetch : s.fetches x op = true := by
    simp only [State.decodes, Bool.and_eq_true] at hdec
    exact hdec.1.1
  exact ⟨State.placed_mayIssue h op hmay, hfetch, State.headerFault_of_decodes hdec, hhead, hfirst⟩

theorem State.heading_of_executes {s : State} {x : Ctx} {h : Header} {op : Op} (hx : s.executes x h op = true) :
    s.heading x h op = true := by
  simp only [State.executes, Bool.and_eq_true] at hx
  obtain ⟨⟨⟨hh, -⟩, -⟩, -⟩ := hx
  exact hh

/-- A command whose waits are met and whose predicate has the other sense is skipped; ballast and forecast follow (R43). -/
theorem exec_skips {c : Instr} {s : State} {x : Ctx} {h : Header} {op : Op} (hc : programOf c = some (x, h, op))
    (hh : s.heading x h op = true) (haux : ∀ b, op ≠ .vxAux b) (hw : s.waitsMet h x.iters = true)
    (hp : s.predicated h = false) :
    exec c s = .next ((s.placed x h op).follow
      ((s.placed x h op).skipCmd (s.entryOf x h op) (s.entersAtIssue x h op))) := by
  obtain ⟨hmay, -, -, hhead, hfirst⟩ := State.placed_of_heading hh
  have hv : (s.placed x h op).verdict (s.entryOf x h op) true = .skip := by
    simp [State.verdict, hmay,
      State.waitsMet_of_iu (State.placed_ec s x h op), State.predicated_of_iu (State.placed_pd s x h op), hw, hp]
  rw [exec_program hc, State.command_of_heading hh haux, State.goOn_acts hhead hfirst (by simp [hv]) (by simp [hv]),
    State.act, hv, ← State.placed_holds]
  rfl

/-- A command of an engine's or of the control queue that completes in its issue cycle does so when no check at issue fails and it is
ready; ballast and forecast follow (R35, R45, R479). -/
theorem exec_atIssue {c : Instr} {s v : State} {x : Ctx} {h : Header} {op : Op} (hc : programOf c = some (x, h, op))
    (hx : s.executes x h op = true) (haux : ∀ b, op ≠ .vxAux b) (hmx : op.mx? = none)
    (hok : (s.placed x h op).issueFault (s.entryOf x h op) = none)
    (hready : (s.placed x h op).ready (s.entryOf x h op) true = true)
    (hat : (((s.settleSwaps.takeRef (s.entryOf x h op).ref).passDpi x ⟨h, op⟩).touch).atIssue (s.entryOf x h op)
      (s.entersAtIssue x h op) = some v) :
    exec c s = .next ((s.placed x h op).follow (v.closeRef (s.entryOf x h op))) := by
  simp only [State.executes, Bool.and_eq_true, Bool.not_eq_true'] at hx
  obtain ⟨⟨⟨hh, hfree⟩, hw⟩, hp⟩ := hx
  obtain ⟨hmay, hfetch, -, hhead, hfirst⟩ := State.placed_of_heading hh
  have hv : (s.placed x h op).verdict (s.entryOf x h op) true = .go := by
    simp [State.verdict, hmay,
      State.waitsMet_of_iu (State.placed_ec s x h op), State.predicated_of_iu (State.placed_pd s x h op), hw, hp, hok, hready]
  rw [exec_program hc, State.command_of_heading hh haux, State.goOn_acts hhead hfirst (by simp [hv]) (fun _ => hfree),
    State.act, hv, State.unqueue_placed hfetch, State.entryOf_x, State.placed_holds]
  simp only [hat, beq_self_eq_true, if_true]
  rw [State.reballast_of_not_mx _ _ hmx]

end Sys2Proof.Machine
end

/-! ### The commands of the control queue (O8 to O11) -/

section
namespace Sys2Proof.Machine

/-! #### What a command that completes at issue leaves alone -/

theorem samePdSf_trans {a b c : State} (hab : samePdSf a b) (hbc : samePdSf b c) : samePdSf a c :=
  ⟨hbc.1.trans hab.1, hbc.2.trans hab.2⟩

theorem sameQueues_trans {a b c : State} {t : Fin 4} (hab : sameQueues a b t) (hbc : sameQueues b c t) : sameQueues a c t := by
  obtain ⟨hq, hs, he, ht⟩ := hab
  obtain ⟨hq', hs', he', ht'⟩ := hbc
  exact ⟨hq'.trans hq, hs'.trans hs, he'.trans he, fun u hu => (ht' u hu).trans (ht u hu)⟩

theorem sameQueues_of_tasks {s t : State} (hq : t.iu.queued = s.iu.queued) (hs : t.iu.staged = s.iu.staged)
    (he : t.iu.exec = s.iu.exec) (ht : t.iu.tasks = s.iu.tasks) (u : Fin 4) : sameQueues s t u :=
  ⟨hq, hs, he, fun v _ => State.task_of_iu ht v⟩

theorem State.setTask_sameQueues (s : State) (t : Fin 4) (k : Task) : sameQueues s (s.setTask t k) t :=
  ⟨rfl, rfl, rfl, fun u hu => (State.task_setTask s t u k).trans (if_neg hu)⟩

theorem State.unhold_withIu (s : State) (e : Entry) (n : Option Nat) (i : Iu) : (s.unhold e n).withIu i = s.withIu i := rfl

theorem State.unhold_sameQueues (s : State) (e : Entry) (n : Option Nat) : sameQueues s (s.unhold e n) e.x.task :=
  s.setTask_sameQueues e.x.task _

theorem sameQueues_of_iu {s t u : State} {k : Fin 4} (hiu : u.iu = t.iu) (h : sameQueues s t k) : sameQueues s u k := by
  simpa only [sameQueues, State.task, hiu] using h

theorem State.signals_samePdSf (s : State) (h : Header) : samePdSf s (s.signals h) := by
  obtain ⟨-, hpd, hsf, -⟩ := State.signals_frame s h
  exact ⟨hpd, hsf⟩

theorem State.signals_sameQueues (s : State) (h : Header) (t : Fin 4) : sameQueues s (s.signals h) t := by
  obtain ⟨-, -, -, ht, hq, hs, he⟩ := State.signals_frame s h
  exact sameQueues_of_tasks hq hs he ht t

theorem State.signals_withIu (s : State) (h : Header) (i : Iu) : (s.signals h).withIu i = s.withIu i :=
  (congrArg (State.withIu · i) (State.signals_frame s h).1 :)

/-- Ballast and forecast are no part of the queues and the files. -/
theorem sameQueues_follow {s t : State} {u : Fin 4} (h : sameQueues s t u) (p : State) : sameQueues s (p.follow t) u := by
  simpa only [sameQueues, State.task, State.follow_iu] using h

theorem samePdSf_follow {s t : State} (h : samePdSf s t) (p : State) : samePdSf s (p.follow t) := by
  simpa only [samePdSf, State.follow_iu] using h

@[simp] theorem State.ec_follow (p s : State) (i : BitVec 6) : (p.follow s).ec i = s.ec i := by
  simp only [State.ec, State.follow_iu]

@[simp] theorem State.pd_follow (p s : State) (i : BitVec 4) : (p.follow s).pd i = s.pd i := by
  simp only [State.pd, State.follow_iu]

@[simp] theorem State.task_follow (p s : State) (t : Fin 4) : (p.follow s).task t = s.task t := by
  simp only [State.task, State.follow_iu]

theorem upToPower_withIu {s t : State} (h : upToPower s t) (i : Iu) : upToPower (s.withIu i) (t.withIu i) := by
  obtain ⟨hout, heq, hrest⟩ := h
  exact ⟨hout, heq, congrArg (State.withIu · i) hrest⟩

/-- Whatever a command that completes at issue has changed besides the issue unit, ballast and forecast alone follow it. -/
theorem upToPower_follow {s v w : State} (hv : v.withIu s.iu = w) (p : State) : upToPower w ((p.follow v).withIu s.iu) :=
  hv ▸ upToPower_withIu (p.follow_upToPower v) s.iu

/-! #### A command without a versioned read (R246) -/

theorem State.entryOf_ref {op : Op} (hv : op.versionedView = none) (s : State) (x : Ctx) (h : Header) :
    (s.entryOf x h op).ref = none := by
  simp [State.entryOf, State.versionRef, Cmd.versioned, hv]

/-- The state in which a command that has left its queue takes effect: its task has passed it, and the quiet time of R27 begins
anew. -/
def State.leftQueue (s : State) (x : Ctx) (h : Header) (op : Op) : State := (s.settleSwaps.passDpi x ⟨h, op⟩).touch

theorem State.leftQueue_sameQueues (s : State) (x : Ctx) (h : Header) (op : Op) : sameQueues s (s.leftQueue x h op) x.task :=
  s.setTask_sameQueues x.task _

theorem State.leftQueue_samePdSf (s : State) (x : Ctx) (h : Header) (op : Op) : samePdSf s (s.leftQueue x h op) := ⟨rfl, rfl⟩

theorem State.leftQueue_withIu (s : State) (x : Ctx) (h : Header) (op : Op) : (s.leftQueue x h op).withIu s.iu = s.settleSwaps := rfl

theorem State.leftQueue_task (s : State) (x : Ctx) (h : Header) (op : Op) :
    (s.leftQueue x h op).task x.task = (s.task x.task).passed x.dpi ⟨h, op⟩ :=
  (State.task_setTask s _ _ _).trans (if_pos rfl)

theorem exec_atIssue_unversioned {c : Instr} {s v : State} {x : Ctx} {h : Header} {op : Op} (hc : programOf c = some (x, h, op))
    (hx : s.executes x h op = true) (haux : ∀ b, op ≠ .vxAux b) (hmx : op.mx? = none) (hvv : op.versionedView = none)
    (hok : (s.placed x h op).issueFault (s.entryOf x h op) = none)
    (hready : (s.placed x h op).ready (s.entryOf x h op) true = true)
    (hat : (s.leftQueue x h op).atIssue (s.entryOf x h op) (s.entersAtIssue x h op) = some v) :
    exec c s = .next ((s.placed x h op).follow v) := by
  have href := State.entryOf_ref hvv s x h
  have hclose : v.closeRef (s.entryOf x h op) = v := by rw [State.closeRef_eq_releaseRef, href]; rfl
  rw [exec_atIssue hc hx haux hmx hok hready (by rw [href]; exact hat), hclose]

/-- A command without views meets the checks of its own chapter alone (R31, R479). -/
theorem State.issueFault_of_no_views {s : State} {e : Entry} (hs : ∀ b, e.cmd.op ≠ .stream b) (hu : usesOf e s.sfSnapshot = [])
    (hf : s.engineFault e (s.resolveAll e [] 12) = none) : s.issueFault e = none := by
  have hv : s.viewsFault e [] = none := by simp [State.viewsFault]
  unfold State.issueFault
  simp only [hu, hf, hv, Option.map_none]

/-! #### SET_EC (R36) -/

theorem ec_setEcRun (s : State) (b : SetEcBody) (i : BitVec 6) :
    (setEcRun s b).ec i = if i = b.ec then (if b.mode then s.ec i + b.value else b.value) else s.ec i := by
  unfold setEcRun
  by_cases hi : i = b.ec <;> cases b.mode <;> simp [State.ec_setEc, State.ec_addEc, hi]

theorem setEcRun_frame (s : State) (b : SetEcBody) (i : Iu) (t : Fin 4) :
    (setEcRun s b).withIu i = s.withIu i ∧ samePdSf s (setEcRun s b) ∧ sameQueues s (setEcRun s b) t := by
  unfold setEcRun
  split <;> exact ⟨rfl, ⟨rfl, rfl⟩, rfl, rfl, rfl, fun _ _ => rfl⟩

theorem exec_setEc {s : State} {x : Ctx} {h : Header} {b : SetEcBody} (hx : s.executes x h (.setEc b) = true) :
    exec (.setEc x h b) s = .next ((s.placed x h (.setEc b)).follow ((setEcRun (s.leftQueue x h (.setEc b)) b).signals h)) :=
  exec_atIssue_unversioned rfl hx nofun rfl rfl (State.issueFault_of_no_views (by simp) rfl rfl) rfl rfl

theorem setEc_effect {s : State} {x : Ctx} {h : Header} {b : SetEcBody} (hx : s.executes x h (.setEc b) = true) :
    ∃ t, exec (.setEc x h b) s = .next t ∧
      (∀ i, t.ec i = (if i = b.ec then (if b.mode then s.ec i + b.value else b.value) else s.ec i) + bump h i) ∧
      samePdSf s t ∧ sameQueues s t x.task ∧ upToPower s.settleSwaps (t.withIu s.iu) := by
  obtain ⟨hiu, hfiles, hqueues⟩ := setEcRun_frame (s.leftQueue x h (.setEc b)) b s.iu x.task
  refine ⟨_, exec_setEc hx, fun i => ?_, samePdSf_follow ?_ _, sameQueues_follow ?_ _, upToPower_follow ?_ _⟩
  · rw [State.ec_follow, State.ec_signals, ec_setEcRun]
    rfl
  · exact samePdSf_trans (s.leftQueue_samePdSf x h _) (samePdSf_trans hfiles (State.signals_samePdSf _ h))
  · exact sameQueues_trans (s.leftQueue_sameQueues x h _) (sameQueues_trans hqueues (State.signals_sameQueues _ h _))
  · rw [State.signals_withIu, hiu]
    rfl

/-- A field of a field. -/
theorem fld_fld {w n m : Nat} (x : BitVec w) (lo i : Nat) (hi : i + m ≤ n) : (fld (fld x lo n) i m : BitVec m) = fld x (lo + i) m := by
  apply BitVec.eq_of_getLsbD_eq
  intro j hj
  have hin : i + j < n := by omega
  simp [fld, hj, hin, Nat.add_assoc]

theorem bit_fld {w n : Nat} (x : BitVec w) (lo i : Nat) (hi : i < n) : bit (fld x lo n : BitVec n) i = bit x (lo + i) := by
  simp [bit, fld, hi]

theorem op_of_parseCmd {w : CmdWord} {c : Cmd} (hp : parseCmd w = .ok c) : parseOp w = some (some c.op) ∧ c.h = parseHeader w := by
  unfold parseCmd at hp
  split at hp
  case h_3 op hop => cases hp; exact ⟨hop, rfl⟩
  all_goals cases hp

/-- The one opcode of SET_EC (R34). -/
theorem parseSetEc_of_parseOp {w : CmdWord} {b : SetEcBody} (hp : parseOp w = some (some (.setEc b))) :
    parseSetEc (fld w 128 384) = some b := by
  unfold parseOp at hp
  dsimp only at hp
  split at hp
  case h_2 => simpa using hp
  all_goals simp at hp

theorem setEc_fields {w : CmdWord} {c : Cmd} {b : SetEcBody} (hp : parseCmd w = .ok c) (hop : c.op = .setEc b) :
    b.ec = fld w 128 6 ∧ b.mode = bit w 134 ∧ bit w 135 = false ∧ b.value = fld w 136 16 ∧ fld w 152 360 = 0#360 := by
  have hb := parseSetEc_of_parseOp (hop ▸ (op_of_parseCmd hp).1)
  unfold parseSetEc at hb
  split at hb
  · cases hb
  · next hz =>
    simp only [Bool.or_eq_true, bne_iff_ne, not_or, not_not, Bool.not_eq_true] at hz
    obtain ⟨hbit, hrest⟩ := hz
    obtain rfl := Option.some.inj hb
    rw [bit_fld _ _ _ (by omega)] at hbit
    rw [fld_fld _ _ _ (by omega)] at hrest
    exact ⟨fld_fld _ _ _ (by omega), bit_fld _ _ _ (by omega), hbit, fld_fld _ _ _ (by omega), hrest⟩

/-- Settles O8: SET_EC issues with its write to the counter and its signals, and its body is read where R36 places it. -/
theorem setEc : Obligations.SetEc :=
  ⟨fun _ _ _ hp hop => setEc_fields hp hop, fun _ _ _ _ hx => setEc_effect hx⟩

end Sys2Proof.Machine
end

section
namespace Sys2Proof.Machine

/-! #### SET_PD (R37, R265) -/

@[simp] theorem State.follow_job (s t : State) : (s.follow t).job = t.job := (congrArg State.job (s.follow_rest t) :)

@[simp] theorem State.placed_job (s : State) (x : Ctx) (h : Header) (op : Op) : (s.placed x h op).job = s.job := by
  rw [State.placed_eq]; rfl

theorem isSample_of_job {s t : State} (hj : t.job = s.job) (b : SetPdBody) : isSample t b = isSample s b := by
  simp only [isSample, hj]

/-- A sample outside replay mode meets its check when the log has room for its record (R265, R359). -/
theorem setPdFault_none_of_room {s : State} {b : SetPdBody} (x : Ctx)
    (hroom : isSample s b = true → s.job.replays = false ∧ (s.job.logs = true → s.job.logPos + 16 ≤ s.job.logLen)) :
    setPdFault s x b = none := by
  unfold setPdFault
  cases hs : isSample s b
  · rfl
  · obtain ⟨hrep, hlen⟩ := hroom hs
    cases hl : s.job.logs
    · simp [hrep, Job.append, hl]
    · simp [hrep, Job.append, hl, Job.logRoom, hlen hl]

theorem setPdReady_of_not_replays {s : State} {b : SetPdBody} (x : Ctx) (hrep : isSample s b = true → s.job.replays = false) :
    setPdReady s x b = true := by
  unfold setPdReady
  cases hs : isSample s b
  · rfl
  · simp [hrep hs]

/-- The value that SET_PD finds, by its source (R37). -/
theorem setPdValue_eq (s : State) (b : SetPdBody) : setPdValue s b =
    (if b.src = 0#2 then b.imm else if b.src = 1#2 then (s.sf b.sfIdx).getLsbD b.sfBit.toNat
      else cmpHolds b.cmp (s.ec b.ecIdx) b.thr) := by
  unfold setPdValue
  have h0 : b.src = 0#2 ↔ b.src.toNat = 0 := BitVec.toNat_inj.symm
  have h1 : b.src = 1#2 ↔ b.src.toNat = 1 := BitVec.toNat_inj.symm
  split
  · next hz => rw [if_pos (h0.mpr hz)]
  · next ho => rw [if_neg (by rw [h0, ho]; decide), if_pos (h1.mpr ho)]
  · next hz ho => rw [if_neg (fun h => hz (h0.mp h)), if_neg (fun h => ho (h1.mp h))]

/-- Outside replay mode SET_PD writes the value that it finds, and a sample appends its record (R37, R359). -/
theorem setPdRun_of_not_replays {s : State} {b : SetPdBody} (x : Ctx) (hrep : isSample s b = true → s.job.replays = false) :
    setPdRun s x b = (s.withJob (if isSample s b
      then (s.job.append 2 x.task.1 (if setPdValue s b then 1 else 0) x.dpi []).1 else s.job)).setPd b.pd (setPdValue s b) := by
  unfold setPdRun
  cases hs : isSample s b
  · rfl
  · simp [hrep hs]

/-- The length of a log to which a record without payload is appended (R359). -/
theorem Job.logPos_append_nil {j : Job} (hroom : j.logs = true → j.logPos + 16 ≤ j.logLen) (kind task aux : Nat) (key : W64) :
    (j.append kind task aux key []).1.logPos = j.logPos + if j.logs then 16 else 0 := by
  unfold Job.append
  cases hl : j.logs
  · simp
  · simp [Job.logRoom, hroom hl]

/-- SET_PD that issues writes one predicate and, where it is a sample, the job's log or its reading. -/
theorem exec_setPd {s : State} {x : Ctx} {h : Header} {b : SetPdBody} {j : Job} {v : Bool} (hx : s.executes x h (.setPd b) = true)
    (hok : setPdFault (s.placed x h (.setPd b)) x b = none) (hready : setPdReady (s.placed x h (.setPd b)) x b = true)
    (hrun : setPdRun (s.leftQueue x h (.setPd b)) x b = ((s.leftQueue x h (.setPd b)).withJob j).setPd b.pd v) :
    ∃ t, exec (.setPd x h b) s = .next t ∧ t.pd b.pd = v ∧ (∀ i, i ≠ b.pd → t.pd i = s.pd i) ∧
      (∀ i, t.ec i = s.ec i + bump h i) ∧ t.iu.sf = s.iu.sf ∧ sameQueues s t x.task ∧
      upToPower (s.settleSwaps.withJob j) (t.withIu s.iu) ∧ t.job = j := by
  have hexec : exec (.setPd x h b) s = .next ((s.placed x h (.setPd b)).follow
      ((((s.leftQueue x h (.setPd b)).withJob j).setPd b.pd v).signals h)) := by
    rw [← hrun]
    exact exec_atIssue_unversioned rfl hx nofun rfl rfl (State.issueFault_of_no_views (by simp) rfl hok) hready rfl
  obtain ⟨-, hpd, hsf, -⟩ := State.signals_frame (((s.leftQueue x h (.setPd b)).withJob j).setPd b.pd v) h
  have hwrite (i : BitVec 4) : ((((s.leftQueue x h (.setPd b)).withJob j).setPd b.pd v).signals h).pd i =
      if i = b.pd then v else s.pd i := (State.pd_of_iu hpd i).trans (State.pd_setPd _ _ _ _)
  refine ⟨_, hexec, ?_, fun i hi => ?_, fun i => ?_, ?_, sameQueues_follow ?_ _, upToPower_follow ?_ _, ?_⟩
  · rw [State.pd_follow, hwrite, if_pos rfl]
  · rw [State.pd_follow, hwrite, if_neg hi]
  · rw [State.ec_follow, State.ec_signals]
    rfl
  · rw [State.follow_iu, hsf]
    rfl
  · exact sameQueues_trans (s.leftQueue_sameQueues x h (.setPd b)) (State.signals_sameQueues _ h _)
  · rw [State.signals_withIu]
    rfl
  · rw [State.follow_job]
    exact (congrArg State.job (State.signals_withIu _ h s.iu) :)

theorem setPd_effect {s : State} {x : Ctx} {h : Header} {b : SetPdBody} (hx : s.executes x h (.setPd b) = true)
    (hsample : isSample s b = true → s.job.replays = false ∧ (s.job.logs = true → s.job.logPos + 16 ≤ s.job.logLen)) :
    ∃ t, exec (.setPd x h b) s = .next t ∧
      t.pd b.pd = (if b.src = 0#2 then b.imm
        else if b.src = 1#2 then (s.sf b.sfIdx).getLsbD b.sfBit.toNat
        else cmpHolds b.cmp (s.ec b.ecIdx) b.thr) ∧
      (∀ i, i ≠ b.pd → t.pd i = s.pd i) ∧ (∀ i, t.ec i = s.ec i + bump h i) ∧ t.iu.sf = s.iu.sf ∧
      sameQueues s t x.task ∧ upToPower (s.settleSwaps.withJob t.job) (t.withIu s.iu) ∧
      t.job = (if isSample s b then (s.job.append 2 x.task.1 (if t.pd b.pd then 1 else 0) x.dpi []).1 else s.job) ∧
      t.job.logPos = s.job.logPos + (if isSample s b && s.job.logs then 16 else 0) := by
  have hrep : isSample s b = true → s.job.replays = false := fun hs => (hsample hs).1
  obtain ⟨t, hexec, hv, hpd, hec, hsf, hqueues, hpower, hjob⟩ := exec_setPd hx
    (setPdFault_none_of_room x (by simpa only [isSample_of_job (s.placed_job x h (.setPd b)), State.placed_job] using hsample))
    (setPdReady_of_not_replays x (by simpa only [isSample_of_job (s.placed_job x h (.setPd b)), State.placed_job] using hrep))
    (setPdRun_of_not_replays (s := s.leftQueue x h (.setPd b)) x hrep)
  have hjob' : t.job = (if isSample s b
      then (s.job.append 2 x.task.1 (if t.pd b.pd then 1 else 0) x.dpi []).1 else s.job) := by rw [hjob, hv]; rfl
  refine ⟨t, hexec, hv.trans (setPdValue_eq _ b), hpd, hec, hsf, hqueues, hjob ▸ hpower, hjob', ?_⟩
  rw [hjob']
  cases hs : isSample s b
  · simp
  · simpa using Job.logPos_append_nil (hsample hs).2 2 x.task.1 (if t.pd b.pd then 1 else 0) x.dpi

/-- A sample in replay mode writes the value that the log gives for it, and notes how far the log has been read (R265). -/
theorem setPd_replayed {s : State} {x : Ctx} {h : Header} {b : SetPdBody} {v : Bool} {j : Job}
    (hx : s.executes x h (.setPd b) = true) (hs : isSample s b = true) (hrep : s.job.replays = true)
    (hlog : s.job.loggedSample x.task x.dpi = some (v, j))
    (hwait : b.src = 2#2 → v = true → cmpHolds b.cmp (s.ec b.ecIdx) b.thr = true) :
    ∃ t, exec (.setPd x h b) s = .next t ∧ t.pd b.pd = v ∧ (∀ i, i ≠ b.pd → t.pd i = s.pd i) ∧
      (∀ i, t.ec i = s.ec i + bump h i) ∧ t.iu.sf = s.iu.sf ∧ sameQueues s t x.task ∧
      upToPower (s.settleSwaps.withJob j) (t.withIu s.iu) := by
  have hsp : isSample (s.placed x h (.setPd b)) b = true := (isSample_of_job (s.placed_job x h _) b).trans hs
  have hok : setPdFault (s.placed x h (.setPd b)) x b = none := by
    simp [setPdFault, hsp, State.placed_job, hrep, hlog]
  have hready : setPdReady (s.placed x h (.setPd b)) x b = true := by
    unfold setPdReady
    simp only [hsp, State.placed_job, hrep, hlog, Bool.true_and, beq_iff_eq]
    by_cases h2 : b.src = 2#2
    · cases v
      · simp
      · simpa [h2, setPdValue_eq, State.ec_of_iu (s.placed_ec x h (.setPd b))] using hwait h2 rfl
    · simp [h2]
  have hrun : setPdRun (s.leftQueue x h (.setPd b)) x b = ((s.leftQueue x h (.setPd b)).withJob j).setPd b.pd v := by
    have hsl : isSample (s.leftQueue x h (.setPd b)) b = true := hs
    have hrl : (s.leftQueue x h (.setPd b)).job.replays = true := hrep
    have hll : (s.leftQueue x h (.setPd b)).job.loggedSample x.task x.dpi = some (v, j) := hlog
    simp [setPdRun, hsl, hrl, hll]
  obtain ⟨t, hexec, hv, hpd, hec, hsf, hqueues, hpower, -⟩ := exec_setPd hx hok hready hrun
  exact ⟨t, hexec, hv, hpd, hec, hsf, hqueues, hpower⟩

/-- Settles O9: SET_PD issues with the value of its source, or of the log for a sample in replay mode. -/
theorem setPd : Obligations.SetPd :=
  ⟨fun _ _ _ _ hx hsample => setPd_effect hx hsample,
    fun _ _ _ _ _ _ hx hs hrep hlog hwait => setPd_replayed hx hs hrep hlog hwait⟩

end Sys2Proof.Machine
end

section
namespace Sys2Proof.Machine

/-! #### LOOP (R48 to R50) -/

/-- Two fetch states stand at the same place of the program. -/
def Task.samePlace (k j : Task) : Prop := j.loops = k.loops ∧ j.pos = k.pos

/-- Where leaving and replaying bodies ends depends on the place alone. -/
theorem Task.wrap_samePlace (n : Nat) {k j : Task} (h : k.samePlace j) : (k.wrap n).samePlace (j.wrap n) := by
  induction n generalizing k j with
  | zero => exact h
  | succ n ih =>
    obtain ⟨hl, hp⟩ := h
    unfold Task.wrap
    rw [hl, hp]
    split
    · exact ⟨rfl, rfl⟩
    · split
      · exact ⟨hl, hp⟩
      · split
        · exact ⟨rfl, rfl⟩
        · exact ih ⟨rfl, rfl⟩

theorem Task.enter_samePlace (len n : Nat) {k j : Task} (h : k.samePlace j) : (k.enter len n).samePlace (j.enter len n) := by
  obtain ⟨hl, hp⟩ := h
  unfold Task.enter
  split
  · exact Task.wrap_samePlace 5 ⟨hl, by rw [hp]⟩
  · exact ⟨by rw [hl, hp], hp⟩

/-- A task as a LOOP that it fetches finds it: fetch has gone past the LOOP. -/
def Task.pastLoop (k : Task) : Task := { k with pos := k.pos + 1 }

/-- A LOOP whose count is not known at decode holds fetch (R49). -/
theorem Task.passed_loop_held (k : Task) (d : W64) {h : Header} {b : LoopBody} (hb : (b.countSrc || h.pen) = true) :
    k.passed d ⟨h, .loop b⟩ = { k with
      dpi := if k.dpi ≤ d then d + 1 else k.dpi, pos := k.pos + 1, aux := none, holds := k.holds ++ [d] } := by
  simp only [Task.passed, hb, if_true]

theorem Task.passed_loop_free (k : Task) (d : W64) {h : Header} {b : LoopBody} (hb : (b.countSrc || h.pen) = false) :
    k.passed d ⟨h, .loop b⟩ = ({ k with dpi := if k.dpi ≤ d then d + 1 else k.dpi, pos := k.pos + 1, aux := none } : Task).enter
      b.bodyLen.toNat b.countImm.toNat := by
  simp only [Task.passed, hb, Bool.false_eq_true, if_false]

theorem Task.wrap_holds (n : Nat) (k : Task) : (k.wrap n).holds = k.holds := by
  induction n generalizing k with
  | zero => rfl
  | succ n ih =>
    unfold Task.wrap
    split
    · rfl
    · split
      · rfl
      · split
        · rfl
        · exact ih _

theorem Task.enter_holds (k : Task) (len n : Nat) : (k.enter len n).holds = k.holds := by
  unfold Task.enter
  split
  · exact Task.wrap_holds 5 _
  · rfl

theorem Task.enter_dpi (k : Task) (len n : Nat) : (k.enter len n).dpi = k.dpi := by
  obtain ⟨-, -, hdpi, -⟩ := Task.enter_sameRun k len n
  exact hdpi

/-- A command that may be decoded finds no other that holds fetch (R49). -/
theorem State.holds_of_fetches {s : State} {x : Ctx} {op : Op} (hf : s.fetches x op = true) : (s.task x.task).holds = [] := by
  simp only [State.fetches, State.mayDecode, Bool.and_eq_true] at hf
  obtain ⟨⟨⟨-, ⟨⟨⟨hholds, -⟩, -⟩, -⟩⟩, -⟩, -⟩ := hf
  simpa using hholds

theorem State.entersAtIssue_loop {s : State} {x : Ctx} {h : Header} {b : LoopBody} (hf : s.fetches x (.loop b) = true) :
    s.entersAtIssue x h (.loop b) = (b.countSrc || h.pen) := by
  unfold State.entersAtIssue
  cases hb : b.countSrc || h.pen
  · rw [Task.passed_loop_free _ _ hb, Task.enter_holds]
    simp [State.holds_of_fetches hf]
  · rw [Task.passed_loop_held _ _ hb]
    simp

/-- A LOOP that issues with the count `n`, or that decode knew to have it, leaves its task where entering its body `n` times does. -/
theorem State.unhold_loop {s : State} {x : Ctx} {h : Header} {b : LoopBody} (hf : s.fetches x (.loop b) = true) {n : Nat}
    (hn : (b.countSrc || h.pen) = false → n = b.countImm.toNat) :
    let t := (s.leftQueue x h (.loop b)).unhold (s.entryOf x h (.loop b))
      (if s.entersAtIssue x h (.loop b) then some n else none)
    ((s.task x.task).pastLoop.enter b.bodyLen.toNat n).samePlace (t.task x.task) ∧
      ((s.task x.task).dpi = x.dpi → (t.task x.task).dpi = x.dpi + 1) := by
  intro t
  have htask : t.task x.task = _ := (State.task_setTask (s.leftQueue x h (.loop b)) x.task _ _).trans (if_pos rfl)
  rw [htask, State.entersAtIssue_loop hf, State.entryOf_x, State.entryOf_cmd, State.leftQueue_task]
  cases hb : b.countSrc || h.pen
  · rw [Task.passed_loop_free _ _ hb, hn hb]
    simp only [Bool.false_eq_true, if_false]
    refine ⟨Task.enter_samePlace _ _ ⟨rfl, rfl⟩, fun hd => ?_⟩
    rw [Task.enter_dpi]
    simp [hd]
  · rw [Task.passed_loop_held _ _ hb]
    simp only [if_true]
    refine ⟨Task.enter_samePlace _ _ ⟨rfl, rfl⟩, fun hd => ?_⟩
    rw [Task.enter_dpi]
    simp [hd, Task.mark]

/-- Entering a body places its loop level, and its first command is next (R50). -/
theorem Task.enter_pos (k : Task) (len : Nat) {n : Nat} (hn : 0 < n) :
    (k.enter len n).loops = k.loops ++ [⟨k.pos, len, n, 0⟩] ∧ (k.enter len n).pos = k.pos := by
  simp [Task.enter, Nat.ne_of_gt hn]

/-- A LOOP with the count 0 passes its body (R50). -/
theorem passesBody_of_enter_zero {s t : State} {x : Ctx} {b : LoopBody}
    (h : ((s.task x.task).pastLoop.enter b.bodyLen.toNat 0).samePlace (t.task x.task)) : passesBody s t x b := h

theorem loopFault_placed (s : State) (x : Ctx) (h : Header) (op : Op) (b : LoopBody) :
    loopFault (s.placed x h op) b = loopFault s b := by
  rw [State.placed_eq]; rfl

theorem loop_effect {s : State} {x : Ctx} {h : Header} {b : LoopBody} (hx : s.executes x h (.loop b) = true)
    (hok : loopFault s b = none) :
    ∃ t, exec (.loop x h b) s = .next t ∧
      (0 < loopCount s b → (t.task x.task).loops =
        (s.task x.task).loops ++ [⟨(s.task x.task).pos + 1, b.bodyLen.toNat, loopCount s b, 0⟩] ∧
        (t.task x.task).pos = (s.task x.task).pos + 1) ∧
      (loopCount s b = 0 → passesBody s t x b) ∧
      ((s.task x.task).dpi = x.dpi → (t.task x.task).dpi = x.dpi + 1) ∧
      (∀ i, t.ec i = s.ec i) ∧ samePdSf s t ∧ sameQueues s t x.task ∧ upToPower s.settleSwaps (t.withIu s.iu) := by
  have hf : s.fetches x (.loop b) = true := by
    obtain ⟨-, hfetch, -⟩ := State.placed_of_heading (State.heading_of_executes hx)
    exact hfetch
  have hexec : exec (.loop x h b) s = .next ((s.placed x h (.loop b)).follow ((s.leftQueue x h (.loop b)).unhold
      (s.entryOf x h (.loop b)) (if s.entersAtIssue x h (.loop b) then some (loopCount s b) else none))) :=
    exec_atIssue_unversioned rfl hx nofun rfl rfl
      (State.issueFault_of_no_views (by simp) rfl ((loopFault_placed s x h _ b).trans hok)) rfl rfl
  have hcount : (b.countSrc || h.pen) = false → loopCount s b = b.countImm.toNat := fun hb => by
    simp [loopCount, (Bool.or_eq_false_iff.mp hb).1]
  obtain ⟨hplace, hdpi⟩ := State.unhold_loop hf hcount (h := h)
  generalize hu : (s.leftQueue x h (.loop b)).unhold (s.entryOf x h (.loop b))
    (if s.entersAtIssue x h (.loop b) then some (loopCount s b) else none) = u at hexec hplace hdpi
  have hqueues : sameQueues s u x.task :=
    hu ▸ sameQueues_trans (s.leftQueue_sameQueues x h (.loop b)) (State.unhold_sameQueues _ _ _)
  have hrest : u.withIu s.iu = s.settleSwaps := by rw [← hu]; rfl
  have hfiles : u.iu.ec = s.iu.ec ∧ samePdSf s u := by rw [← hu]; exact ⟨rfl, rfl, rfl⟩
  rw [← State.task_follow (s.placed x h (.loop b)) u] at hplace hdpi
  refine ⟨_, hexec, fun hn => ?_, fun hn => ?_, hdpi, fun i => ?_, samePdSf_follow hfiles.2 _, sameQueues_follow hqueues _,
    upToPower_follow hrest _⟩
  · obtain ⟨hloops, hpos⟩ := Task.enter_pos (s.task x.task).pastLoop b.bodyLen.toNat hn
    exact ⟨hplace.1.trans hloops, hplace.2.trans hpos⟩
  · rw [hn] at hplace
    exact passesBody_of_enter_zero hplace
  · rw [State.ec_follow, State.ec_of_iu hfiles.1]

/-! #### END (R38) -/

theorem endReady_placed {s : State} {x : Ctx} {h : Header} {op : Op} (hq : h.q = 22) (hr : endReady s x = true) :
    endReady (s.placed x h op) x = true := by
  have he : endReady (s.placed x h op) x = endReady s x := by
    rw [State.placed_eq]
    simp [endReady, hq]
  rw [he, hr]

theorem end_effect {s : State} {x : Ctx} {h : Header} (hx : s.executes x h .fin = true) (hr : endReady s x = true) :
    ∃ t, exec (.fin x h) s = .next t ∧ (t.task x.task).st = .ended 0 ∧ (t.task x.task).fetchEnded = true ∧
      (∀ i, t.ec i = s.ec i) ∧ samePdSf s t ∧ sameQueues s t x.task ∧ upToPower s.settleSwaps (t.withIu s.iu) := by
  have hq : h.q = 22 := by
    obtain ⟨-, -, hhead, -⟩ := State.placed_of_heading (State.heading_of_executes hx)
    simpa [Op.queueOk, Header.q] using (queueOk_of_headerFault hhead).1
  have hexec : exec (.fin x h) s = .next ((s.placed x h .fin).follow (endRun (s.leftQueue x h .fin) x)) :=
    exec_atIssue_unversioned rfl hx nofun rfl rfl (State.issueFault_of_no_views (by simp) rfl rfl) (endReady_placed hq hr) rfl
  have htask : (endRun (s.leftQueue x h .fin) x).task x.task = _ :=
    (State.task_setTask (s.leftQueue x h .fin) x.task _ _).trans (if_pos rfl)
  have hec : (endRun (s.leftQueue x h .fin) x).iu.ec = s.iu.ec := rfl
  have hfiles : samePdSf s (endRun (s.leftQueue x h .fin) x) := ⟨rfl, rfl⟩
  have hrest : (endRun (s.leftQueue x h .fin) x).withIu s.iu = s.settleSwaps := rfl
  refine ⟨_, hexec, ?_, ?_, fun i => ?_, samePdSf_follow hfiles _, sameQueues_follow ?_ _, upToPower_follow hrest _⟩
  · rw [State.task_follow, htask]
  · rw [State.task_follow, htask]
  · rw [State.ec_follow, State.ec_of_iu hec]
  · exact sameQueues_trans (s.leftQueue_sameQueues x h .fin) (State.setTask_sameQueues _ _ _)

/-- Settles O10: LOOP enters its body from decode, or from issue where its count was not known; END ends its task. -/
theorem loopAndEnd : Obligations.LoopAndEnd :=
  ⟨fun _ _ _ _ hx hok => loop_effect hx hok, fun _ _ _ hx hr => end_effect hx hr⟩

end Sys2Proof.Machine
end

section
namespace Sys2Proof.Machine

/-! #### NOP, MASK_SET and ARRAY_MODE (R35, R149, R171, R172) -/

theorem sameQueues_unhold {s u t : State} {e : Entry} (hu : sameQueues s u e.x.task) (hiu : t.iu = u.iu) (n : Option Nat) :
    sameQueues s (t.unhold e n) e.x.task :=
  sameQueues_trans (sameQueues_of_iu hiu hu) (t.unhold_sameQueues e n)

theorem State.array_setArray (s : State) (n k : Fin 4) (a : Array_) : (s.setArray n a).array k = if k = n then a else s.array k := by
  by_cases h : k = n
  · subst h; simp [State.setArray, State.array]
  · have hn : n.1 ≠ k.1 := fun e => h (Fin.ext e.symm)
    simp [State.setArray, State.array, h, Vector.getElem_set_ne _ _ hn]

/-- The place of a queue's masks: forward queues first, by partition (R171). -/
def maskIdx (back : Bool) (p : Fin 4) : Fin 8 := ⟨(if back then 4 else 0) + p.1, by split <;> omega⟩

theorem maskIdx_inj {back dir : Bool} {p q : Fin 4} (h : (maskIdx back p).1 = (maskIdx dir q).1) : dir = back ∧ q = p := by
  revert back dir p q
  decide

theorem Array_.maskOf_eq (a : Array_) (back : Bool) (p : Fin 4) : a.maskOf back p = a.masks[(maskIdx back p).1] := by
  have hlen : (maskIdx back p).1 < a.masks.toList.length := by rw [Vector.length_toList]; exact (maskIdx back p).2
  exact (List.getD_eq_getElem _ _ hlen).trans (Vector.getElem_toList _)

theorem Array_.masks_setMask (a : Array_) (back : Bool) (p : Fin 4) (m : Masks) :
    (a.setMask back p m).masks = a.masks.set (maskIdx back p).1 m (maskIdx back p).2 := by
  cases back <;> simp [Array_.setMask, maskIdx]

/-- Writing a queue's masks gives it the value and leaves those of every other queue. -/
theorem Array_.maskOf_setMask (a : Array_) (back dir : Bool) (p q : Fin 4) (m : Masks) :
    (a.setMask back p m).maskOf dir q = if dir = back ∧ q = p then m else a.maskOf dir q := by
  simp only [Array_.maskOf_eq, Array_.masks_setMask, Vector.getElem_set]
  by_cases h : dir = back ∧ q = p
  · rw [if_pos h, if_pos (by rw [h.1, h.2])]
  · rw [if_neg h, if_neg fun he => h (maskIdx_inj he)]

theorem State.partBad_placed (s : State) (x : Ctx) (h : Header) (op : Op) : (s.placed x h op).partBad h = s.partBad h := by
  rw [State.placed_eq]; rfl

theorem upToPower_withMx {s t : State} (h : upToPower s t) (m : Vector Array_ 4) : upToPower (s.withMx m) (t.withMx m) := by
  obtain ⟨hout, heq, hrest⟩ := h
  exact ⟨hout, heq, congrArg (State.withMx · m) hrest⟩

theorem State.dropBallast_upToPower (s : State) (p : BitVec 8 → Bool) : upToPower s (s.dropBallast p) :=
  ⟨⟨[], by simp [State.dropBallast]⟩, rfl, rfl⟩

theorem State.dropBallast_withIu (s : State) (p : BitVec 8 → Bool) (i : Iu) :
    (s.dropBallast p).withIu i = (s.withIu i).dropBallast p := rfl

theorem State.setArray_withMx (s : State) (n : Fin 4) (a : Array_) (i : Iu) (m : Vector Array_ 4) :
    ((s.setArray n a).withIu i).withMx m = (s.withIu i).withMx m := rfl

@[simp] theorem State.follow_mx (s t : State) : (s.follow t).mx = t.mx := (congrArg State.mx (s.follow_rest t) :)
@[simp] theorem State.array_follow (s t : State) (n : Fin 4) : (s.follow t).array n = t.array n := by
  simp only [State.array, State.follow_mx]

theorem State.signals_mx (s : State) (h : Header) : (s.signals h).mx = s.mx := (congrArg State.mx (State.signals_frame s h).1 :)

theorem nop_effect {s : State} {x : Ctx} {h : Header} (hx : s.executes x h .nop = true) (hp : s.partBad h = false) :
    ∃ t, exec (.nop x h) s = .next t ∧ (∀ i, t.ec i = s.ec i + bump h i) ∧ samePdSf s t ∧ sameQueues s t x.task ∧
      upToPower s.settleSwaps (t.withIu s.iu) := by
  have hok : (s.placed x h .nop).engineFault (s.entryOf x h .nop) ((s.placed x h .nop).resolveAll (s.entryOf x h .nop) [] 12) =
      none := by
    simp [State.engineFault, State.partBad_placed, hp]
  have hexec : exec (.nop x h) s = .next ((s.placed x h .nop).follow ((s.leftQueue x h .nop).signals h)) :=
    exec_atIssue_unversioned rfl hx nofun rfl rfl (State.issueFault_of_no_views (by simp) rfl hok) rfl rfl
  refine ⟨_, hexec, fun i => ?_, samePdSf_follow ?_ _, sameQueues_follow ?_ _, upToPower_follow (State.signals_withIu _ h _) _⟩
  · rw [State.ec_follow, State.ec_signals]
    rfl
  · exact samePdSf_trans (s.leftQueue_samePdSf x h .nop) (State.signals_samePdSf _ h)
  · exact sameQueues_trans (s.leftQueue_sameQueues x h .nop) (State.signals_sameQueues _ h _)

theorem exec_maskSet {s : State} {x : Ctx} {h : Header} {b : MaskSetBody} (hx : s.executes x h (.maskSet b) = true)
    (hp : s.partBad h = false) :
    exec (.maskSet x h b) s = .next ((s.placed x h (.maskSet b)).follow (((s.leftQueue x h (.maskSet b)).setArray (mxArray h)
      ((s.array (mxArray h)).setMask (isBack h) (mxPart h) ⟨b.row, b.block⟩)).signals h)) := by
  have hok : (s.placed x h (.maskSet b)).engineFault (s.entryOf x h (.maskSet b))
      ((s.placed x h (.maskSet b)).resolveAll (s.entryOf x h (.maskSet b)) [] 12) = none := by
    simp [State.engineFault, State.partBad_placed, hp]
  exact exec_atIssue_unversioned rfl hx nofun rfl rfl (State.issueFault_of_no_views (by simp) rfl hok) rfl rfl

theorem maskSet_effect {s : State} {x : Ctx} {h : Header} {b : MaskSetBody} (hx : s.executes x h (.maskSet b) = true)
    (hp : s.partBad h = false) :
    ∃ t, exec (.maskSet x h b) s = .next t ∧
      (t.array (mxArray h)).maskOf (isBack h) (mxPart h) = ⟨b.row, b.block⟩ ∧
      (∀ n back p, ¬ (n = mxArray h ∧ back = isBack h ∧ p = mxPart h) →
        (t.array n).maskOf back p = (s.array n).maskOf back p) ∧
      (∀ n, (t.array n).parts = (s.array n).parts ∧ (t.array n).acc0 = (s.array n).acc0 ∧
        (t.array n).acc1 = (s.array n).acc1 ∧ (t.array n).st0 = (s.array n).st0 ∧ (t.array n).st1 = (s.array n).st1 ∧
        (t.array n).mode = (s.array n).mode) ∧
      (∀ i, t.ec i = s.ec i + bump h i) ∧ samePdSf s t ∧ sameQueues s t x.task ∧
      upToPower s.settleSwaps ((t.withIu s.iu).withMx s.mx) := by
  generalize hu : ((s.leftQueue x h (.maskSet b)).setArray (mxArray h)
    ((s.array (mxArray h)).setMask (isBack h) (mxPart h) ⟨b.row, b.block⟩)).signals h = u
  have harray (n : Fin 4) : u.array n = if n = mxArray h then (s.array (mxArray h)).setMask (isBack h) (mxPart h) ⟨b.row, b.block⟩
      else s.array n := by
    rw [← hu, State.array, State.signals_mx]
    exact State.array_setArray _ _ _ _
  have hrest : (u.withIu s.iu).withMx s.mx = s.settleSwaps := by
    rw [← hu, State.signals_withIu, State.setArray_withMx, State.leftQueue_withIu]
    rfl
  have hpower := upToPower_withMx (upToPower_withIu ((s.placed x h (.maskSet b)).follow_upToPower u) s.iu) s.mx
  refine ⟨_, exec_maskSet hx hp, ?_, fun n back p hne => ?_, fun n => ?_, fun i => ?_, samePdSf_follow ?_ _,
    sameQueues_follow ?_ _, ?_⟩
  · rw [hu, State.array_follow, harray, if_pos rfl, Array_.maskOf_setMask, if_pos ⟨rfl, rfl⟩]
  · rw [hu, State.array_follow, harray]
    split
    · next hn =>
      rw [Array_.maskOf_setMask, if_neg fun h => hne ⟨hn, h.1, h.2⟩, hn]
    · rfl
  · rw [hu, State.array_follow, harray]
    split
    · next hn =>
      rw [hn]
      exact ⟨rfl, rfl, rfl, rfl, rfl, rfl⟩
    · exact ⟨rfl, rfl, rfl, rfl, rfl, rfl⟩
  · rw [State.ec_follow, State.ec_signals]
    rfl
  · exact samePdSf_trans (s.leftQueue_samePdSf x h (.maskSet b)) (State.signals_samePdSf _ h)
  · exact sameQueues_trans (s.leftQueue_sameQueues x h (.maskSet b)) (State.signals_sameQueues _ h _)
  · rw [hu, ← hrest]
    exact hpower

theorem exec_arrayMode {s : State} {x : Ctx} {h : Header} {mode : BitVec 2} (hx : s.executes x h (.arrayMode mode) = true)
    (hq : (s.placed x h (.arrayMode mode)).arrayQuiet (s.entryOf x h (.arrayMode mode)) = true) :
    exec (.arrayMode x h mode) s = .next ((s.placed x h (.arrayMode mode)).follow (((((s.leftQueue x h (.arrayMode mode)).dropBallast
      (agentOn (s.physMx (mxArray h)))).setArray (mxArray h) (Array_.empty mode)).unhold (s.entryOf x h (.arrayMode mode))
        none).signals h)) :=
  exec_atIssue_unversioned rfl hx nofun rfl rfl (State.issueFault_of_no_views (by simp) rfl rfl) hq rfl

theorem arrayMode_effect {s : State} {x : Ctx} {h : Header} {mode : BitVec 2} (hx : s.executes x h (.arrayMode mode) = true)
    (hq : (s.placed x h (.arrayMode mode)).arrayQuiet (s.entryOf x h (.arrayMode mode)) = true) :
    ∃ t, exec (.arrayMode x h mode) s = .next t ∧ t.array (mxArray h) = Array_.empty mode ∧
      (∀ n, n ≠ mxArray h → t.array n = s.array n) ∧ (∀ i, t.ec i = s.ec i + bump h i) ∧ samePdSf s t ∧
      sameQueues s t x.task ∧ upToPower s.settleSwaps ((t.withIu s.iu).withMx s.mx) := by
  have hexec := exec_arrayMode hx hq
  generalize hw : ((s.leftQueue x h (.arrayMode mode)).dropBallast (agentOn (s.physMx (mxArray h)))).setArray (mxArray h)
    (Array_.empty mode) = w at hexec
  have hiu : w.iu = (s.leftQueue x h (.arrayMode mode)).iu := by rw [← hw]; rfl
  have hrest : (w.withIu s.iu).withMx s.mx = s.settleSwaps.dropBallast (agentOn (s.physMx (mxArray h))) := by
    rw [← hw, State.setArray_withMx, State.dropBallast_withIu, State.leftQueue_withIu]
    rfl
  have hwarray (n : Fin 4) : w.array n = if n = mxArray h then Array_.empty mode else s.array n := by
    rw [← hw]
    exact State.array_setArray _ _ _ _
  have hqueues := sameQueues_unhold (e := s.entryOf x h (.arrayMode mode)) (s.leftQueue_sameQueues x h (.arrayMode mode)) hiu none
  have hec : (w.unhold (s.entryOf x h (.arrayMode mode)) none).iu.ec = s.iu.ec := (congrArg Iu.ec hiu :)
  have hfiles : samePdSf s (w.unhold (s.entryOf x h (.arrayMode mode)) none) := ⟨(congrArg Iu.pd hiu :), (congrArg Iu.sf hiu :)⟩
  have hmx : (w.unhold (s.entryOf x h (.arrayMode mode)) none).mx = w.mx := rfl
  have hvrest : (w.unhold (s.entryOf x h (.arrayMode mode)) none).withIu s.iu = w.withIu s.iu := rfl
  generalize w.unhold (s.entryOf x h (.arrayMode mode)) none = v at hexec hqueues hec hfiles hmx hvrest
  have harray (n : Fin 4) : (v.signals h).array n = if n = mxArray h then Array_.empty mode else s.array n := by
    rw [← hwarray, State.array, State.signals_mx, hmx]
    rfl
  have hpower := upToPower_withMx (upToPower_withIu ((s.placed x h (.arrayMode mode)).follow_upToPower (v.signals h)) s.iu) s.mx
  refine ⟨_, hexec, ?_, fun n hn => ?_, fun i => ?_, samePdSf_follow ?_ _, sameQueues_follow ?_ _, ?_⟩
  · rw [State.array_follow, harray, if_pos rfl]
  · rw [State.array_follow, harray, if_neg hn]
  · rw [State.ec_follow, State.ec_signals, State.ec_of_iu hec]
  · exact samePdSf_trans hfiles (State.signals_samePdSf _ h)
  · exact sameQueues_trans hqueues (State.signals_sameQueues _ h _)
  · rw [State.signals_withIu, hvrest, hrest] at hpower
    exact upToPower_trans _ _ _ (s.settleSwaps.dropBallast_upToPower _) hpower

/-- Settles O11: the three commands complete in their issue cycle, and only MASK_SET and ARRAY_MODE change an array. -/
theorem nopMaskMode : Obligations.NopMaskMode :=
  ⟨fun _ _ _ hx hp => nop_effect hx hp, fun _ _ _ _ hx hp => maskSet_effect hx hp,
    fun _ _ _ _ hx hq => arrayMode_effect hx hq⟩

end Sys2Proof.Machine
end

/-! ### Skipped commands (O15) -/

section
namespace Sys2Proof.Machine

/-- Releasing a reference that has just been taken leaves the region table as it was (R249). -/
theorem State.releaseRef_takeRef (s : State) (r : Option Ref) : (s.takeRef r).releaseRef r = s := by
  cases r with
  | none => rfl
  | some h =>
    have hreg : ((s.region h.1).setRefs h.2 ((s.region h.1).refs h.2 + 1)).setRefs h.2
        (((s.region h.1).setRefs h.2 ((s.region h.1).refs h.2 + 1)).refs h.2 - 1) = s.region h.1 := by
      cases h.2 <;> simp [Region.setRefs, Region.refs]
    simp only [State.takeRef, State.releaseRef, State.region_setRegion, if_true, hreg]
    simp [State.setRegion, State.region, State.withRg]

theorem State.releaseRef_withIu (s : State) (r : Option Ref) (i : Iu) : (s.releaseRef r).withIu i = (s.withIu i).releaseRef r := by
  cases r <;> rfl

/-- A versioned command that has left its queue has taken its reference besides (R248). -/
theorem State.unqueue_placed_withRg {s : State} {x : Ctx} {op : Op} (hf : s.fetches x op = true) (h : Header) :
    (s.placed x h op).unqueue (s.entryOf x h op) =
      (s.leftQueue x h op).withRg (s.settleSwaps.takeRef (s.entryOf x h op).ref).rg := by
  rw [State.unqueue_placed hf, State.takeRef_only s.settleSwaps (s.entryOf x h op).ref]
  rfl

/-- The header of a VX_AUX has no predicate (R193). -/
theorem not_vxAux_of_pen {h : Header} {op : Op} (hhead : headerFault ⟨h, op⟩ = none) (hpen : h.pen = true) (b : AuxBody) :
    op ≠ .vxAux b := by
  rintro rfl
  have hok := (queueOk_of_headerFault hhead).2
  simp only [Op.headerOk, Bool.and_eq_true, beq_iff_eq] at hok
  rw [hok.2] at hpen
  simp [Header.plain] at hpen

/-- The signals of a skipped command (R43). -/
theorem State.ec_skipSignals (s : State) (h : Header) (i : BitVec 6) :
    (if h.silent then s else s.signals h).ec i = s.ec i + (if h.silent then 0 else bump h i) := by
  cases h.silent
  · simp [State.ec_signals]
  · simp

theorem State.skipSignals_frame (s : State) (h : Header) (t : Fin 4) (i : Iu) :
    (if h.silent then s else s.signals h).withIu i = s.withIu i ∧ samePdSf s (if h.silent then s else s.signals h) ∧
    sameQueues s (if h.silent then s else s.signals h) t ∧ (if h.silent then s else s.signals h).iu.tasks = s.iu.tasks := by
  obtain ⟨-, -, -, htasks, -⟩ := State.signals_frame s h
  cases h.silent
  · exact ⟨s.signals_withIu h i, s.signals_samePdSf h, s.signals_sameQueues h t, htasks⟩
  · exact ⟨rfl, ⟨rfl, rfl⟩, ⟨rfl, rfl, rfl, fun _ _ => rfl⟩, rfl⟩

theorem skipped_effect {c : Instr} {s : State} {x : Ctx} {h : Header} {op : Op} (hc : programOf c = some (x, h, op))
    (hh : s.heading x h op = true) (hw : s.waitsMet h x.iters = true) (hpen : h.pen = true) (hp : s.pd h.psel ≠ h.psense) :
    ∃ t, exec c s = .next t ∧ (∀ i, t.ec i = s.ec i + (if h.silent then 0 else bump h i)) ∧ samePdSf s t ∧
      sameQueues s t x.task ∧ (∀ b, op = .loop b → passesBody s t x b) ∧
      upToPower s.settleSwaps (t.withIu s.iu) := by
  obtain ⟨-, hfetch, hhead, -⟩ := State.placed_of_heading hh
  have hpred : s.predicated h = false := by simp [State.predicated, hpen, hp]
  have hexec := exec_skips hc hh (not_vxAux_of_pen hhead hpen) hw hpred
  generalize he : s.entryOf x h op = e at hexec
  have hxe : e.x = x := by rw [← he]; rfl
  have hce : e.cmd = ⟨h, op⟩ := by rw [← he]; rfl
  simp only [State.skipCmd, hce, State.closeRef_eq_releaseRef] at hexec
  rw [← he, State.unqueue_placed_withRg hfetch, he] at hexec
  generalize hr : (s.settleSwaps.takeRef e.ref).rg = r at hexec
  generalize hn : (if s.entersAtIssue x h op then some 0 else none : Option Nat) = n at hexec
  generalize hu : ((s.leftQueue x h op).withRg r).unhold e n = u at hexec
  have hec : u.iu.ec = s.iu.ec := by rw [← hu]; rfl
  have hfiles : samePdSf s u := by rw [← hu]; exact ⟨rfl, rfl⟩
  have hqueues : sameQueues s u x.task := by
    rw [← hu, ← hxe]
    exact sameQueues_unhold (hxe ▸ s.leftQueue_sameQueues x h op) rfl n
  have hrest : u.withIu s.iu = s.settleSwaps.takeRef e.ref := by
    rw [State.takeRef_only s.settleSwaps e.ref, hr, ← hu, State.unhold_withIu]
    exact congrArg (State.withRg · r) (s.leftQueue_withIu x h op)
  have hbody (b : LoopBody) (hb : op = .loop b) : passesBody s u x b := by
    subst hb he
    have hplace := (State.unhold_loop hfetch (h := h) (n := 0) (by simp [hpen])).1
    rw [hn] at hplace
    rw [← hu]
    exact passesBody_of_enter_zero hplace
  clear hu
  obtain ⟨hsrest, hsfiles, hsqueues, hstasks⟩ := u.skipSignals_frame h x.task s.iu
  generalize hv : (if h.silent then u else u.signals h) = v at hexec hsrest hsfiles hsqueues hstasks
  have hviu : (v.releaseRef e.ref).iu = v.iu := onlyRg_iu (v.releaseRef_only e.ref)
  refine ⟨_, hexec, fun i => ?_, samePdSf_follow ?_ _, sameQueues_follow ?_ _, fun b hb => ?_, upToPower_follow ?_ _⟩
  · rw [State.ec_follow, State.ec_of_iu (congrArg Iu.ec hviu), ← hv, State.ec_skipSignals, State.ec_of_iu hec]
  · obtain ⟨hpd, hsf⟩ := samePdSf_trans hfiles hsfiles
    exact ⟨(congrArg Iu.pd hviu).trans hpd, (congrArg Iu.sf hviu).trans hsf⟩
  · exact sameQueues_of_iu hviu (sameQueues_trans hqueues hsqueues)
  · have htask : (v.releaseRef e.ref).task x.task = u.task x.task := State.task_of_iu ((congrArg Iu.tasks hviu).trans hstasks) _
    simp only [passesBody, State.task_follow, htask]
    exact hbody b hb
  · rw [State.releaseRef_withIu, hsrest, hrest, State.releaseRef_takeRef]

/-- Settles O15: a command whose predicate fails leaves its queue, with its signals or without, and its reference. -/
theorem skippedCommand : Obligations.SkippedCommand :=
  fun _ _ _ _ _ hc hh hw hpen hp => skipped_effect hc hh hw hpen hp

end Sys2Proof.Machine
end

/-! ### A fault at decode (O16) -/

section
namespace Sys2Proof.Machine

theorem State.task_abandonTask (s : State) (t u : Fin 4) : (s.abandonTask t).task u = s.task u := by
  simp only [State.task, State.abandonTask_iu]

theorem State.task_logFatal (s : State) (t u : Fin 4) (code : Code) (dpi : W64) (w : Site) (detail : W64) :
    (s.logFatal t code dpi w detail).task u = s.task u := by
  simp only [State.task, State.logFatal_iu]

/-- A task-fatal fault leaves the state of every other task (R56). -/
theorem State.task_abortTaskAt_other (s : State) {t u : Fin 4} (hu : u ≠ t) (code : Code) (dpi : W64) (w : Site) (detail : W64) :
    (s.abortTaskAt t code dpi w detail).task u = s.task u := by
  unfold State.abortTaskAt
  dsimp only
  split
  · rfl
  · split
    · have hlog := s.task_logFatal t u code dpi w detail
      split
      · exact (State.task_setTask _ t u _).trans ((if_neg hu).trans hlog)
      · exact hlog
    · generalize hv : (s.logFatal t code dpi w detail).abandonTask t = v
      have hset (j : Iu) (hj : j.tasks = v.iu.tasks) (k : Task) : ((v.withIu j).setTask t k).task u = s.task u := by
        rw [State.task_setTask, if_neg hu, State.task_of_iu hj, ← hv, State.task_abandonTask, State.task_logFatal]
      split
      · exact hset { v.iu with late := v.iu.late ++ [s.lateOf t dpi] } rfl _
      · exact hset { v.iu with late := v.iu.late ++ [s.lateOf t dpi] } rfl _

theorem aborted_follow {t : State} {u : Fin 4} {code : Code} {dpi : W64} (h : aborted t u code dpi) (p : State) :
    aborted (p.follow t) u code dpi := by
  simpa only [aborted, State.task, State.follow_iu] using h

theorem logged_follow {s t : State} {code : Code} (h : logged s t code) (p : State) : logged s (p.follow t) code := by
  simpa only [logged, State.follow_err] using h

/-- How a task that a fault can abort ends: the fault is logged, nothing of the task is left, and no counter, predicate, scalar-file
entry or other task changes (R42, R56). -/
theorem State.abortTaskAt_ends {s : State} {t : Fin 4} {dpi : W64} (h : s.abortable t dpi = true) (code : Code) (w : Site)
    (detail : W64) :
    let v := s.abortTaskAt t code dpi w detail
    aborted v t code dpi ∧ logged s v code ∧ (∀ i, v.ec i = s.ec i) ∧ samePdSf s v ∧ ∀ u, u ≠ t → v.task u = s.task u := by
  obtain ⟨hec, hfiles⟩ := State.abortTaskAt_files h code w detail
  exact ⟨s.abortTaskAt_aborted t code dpi w detail h, State.abortTaskAt_logged h code w detail, fun i => State.ec_of_iu hec i, hfiles,
    fun u hu => s.task_abortTaskAt_other hu code dpi w detail⟩

/-- What decode finds wrong with a command that fetch has taken: a check on it, or its place in a body (R51, R55, R193). -/
def State.decodeRefuses (s : State) (x : Ctx) (h : Header) (op : Op) (f : Code × W64) : Prop :=
  let d := s.settleSwaps.decodeFault { s.entryOf x h op with ref := none }
  d = some f ∨ (d = none ∧ placeFault (s.task x.task) op = some f.1 ∧ f.2 = x.dpi)

/-- A command that decode refuses aborts its task; ballast and forecast follow. -/
theorem State.command_of_decodeRefuses {s : State} {x : Ctx} {h : Header} {op : Op} {f : Code × W64} (hf : s.fetches x op = true)
    (hd : s.decodeRefuses x h op f) :
    s.command x h op = s.follow (s.settleSwaps.abortTaskAt x.task f.1 f.2 (Site.iu.of h) 0) := by
  simp only [State.fetches, Bool.and_eq_true, Bool.not_eq_true', beq_iff_eq] at hf
  obtain ⟨⟨⟨hact, hdec⟩, hq⟩, hpair⟩ := hf
  have hnone : s.iu.queued.find? (fun e => e.x.task == x.task && e.x.dpi == x.dpi) = none := by
    rw [List.find?_eq_none]
    simpa [List.any_eq_false] using hq
  have hact0 : s.settleSwaps.active x.task = true := hact
  have hdec0 : s.settleSwaps.mayDecode x = true := hdec
  have hpair0 : s.settleSwaps.auxFor x op = (s.settleSwaps.task x.task).aux := hpair
  have hentry : ({ s.entryOf x h op with ref := none } : Entry) = ⟨x, ⟨h, op⟩, (s.settleSwaps.task x.task).aux, none, false,
    (s.settleSwaps.task x.task).pos, (s.settleSwaps.task x.task).loops, s.cycle⟩ := by rw [State.entryOf, hpair]; rfl
  unfold State.decodeRefuses at hd
  rw [hentry] at hd
  have hplace0 : placeFault (s.settleSwaps.task x.task) op = placeFault (s.task x.task) op := rfl
  unfold State.command
  rw [State.lateFetch_of_active hact]
  simp only [State.takeCommand, hact0, hdec0, hpair0, State.settleSwaps_iu, hnone, Bool.not_true, Bool.false_eq_true, if_false]
  obtain hcheck | ⟨hcheck, hplace, hdpi⟩ := hd
  · cases hk : (s.settleSwaps.task x.task).aux <;> rw [hk] at hcheck <;> simp only [hcheck]
  · cases hk : (s.settleSwaps.task x.task).aux <;> rw [hk] at hcheck <;> simp only [hcheck, hplace0, hplace, hdpi]

theorem State.settleSwaps_abortable (s : State) (t : Fin 4) (dpi : W64) : s.settleSwaps.abortable t dpi = s.abortable t dpi :=
  State.abortable_of_iu s.settleSwaps_iu t dpi

/-- Settles O16: the fault stops the command before it reaches its queue, so that its task's abort is all that happens. -/
theorem decodeFaultAborts : Obligations.DecodeFaultAborts := by
  intro c s x h op f hc hf hd ha
  obtain ⟨habort, hlog, hec, hfiles, htasks⟩ :=
    State.abortTaskAt_ends ((s.settleSwaps_abortable x.task f.2).trans ha) f.1 (Site.iu.of h) 0
  refine ⟨_, (exec_program hc s).trans (congrArg _ (State.command_of_decodeRefuses hf hd)), aborted_follow habort s,
    logged_follow hlog s, fun i => ?_, samePdSf_follow hfiles s, fun u hu => ?_⟩
  · rw [State.ec_follow, hec]
    rfl
  · rw [State.task_follow, htasks u hu]
    rfl

end Sys2Proof.Machine
end

/-! ### Fetch (O26) -/

section
namespace Sys2Proof.Machine

/-- Fetch of a task that may fetch is not one of a task that has just aborted. -/
theorem exec_commandFetch {s : State} {t : Fin 4} (hm : s.mayFetch t = true) (d : Fetched) :
    exec (.commandFetch t d) s = .next (s.follow (s.fetch t d)) := by
  have hact : s.active t = true := by
    simp only [State.mayFetch, Bool.and_eq_true] at hm
    obtain ⟨⟨⟨⟨hact, -⟩, -⟩, -⟩, -⟩ := hm
    exact hact
  simp [exec, execCommandFetch, State.lateFetch_of_active hact]

/-- A task that may fetch replays a command of its buffer, or reads its program: from the own scratchpad with the checks of R64 and
R308, or from other memory, whose answer the surroundings give (R26). -/
theorem State.fetch_eq {s : State} {t : Fin 4} (hm : s.mayFetch t = true) (d : Fetched) :
    s.fetch t d = match (s.task t).buffer.find? fun p => p.1 == (s.task t).pos with
      | some p => s.settleSwaps.placeWord t p.2
      | none =>
        let a := addrOff (s.task t).prog + 64 * (s.task t).pos
        if s.ownAddr (s.task t).prog then
          if s.spadBytes < a + 64 then
            s.settleSwaps.abortTaskAt t Code.remoteRefused (s.task t).dpi Site.iu (refusedBy (s.task t).prog 1)
          else if (s.spad.badIn a 64).isEmpty then s.settleSwaps.placeWord t (BitVec.ofNat 512 (leNat (s.bytes a 64)))
          else (s.settleSwaps.poisonWords (s.spad.badIn a 64)).abortTaskAt t Code.uncorrectable (s.task t).dpi Site.iu
            (wordDetail (s.spad.badIn a 64))
        else match d with
          | .refused cause =>
            s.settleSwaps.abortTaskAt t Code.remoteRefused (s.task t).dpi Site.iu (refusedBy (s.task t).prog cause)
          | .word w => s.settleSwaps.placeWord t w := by
  have htask : s.settleSwaps.task t = s.task t := rfl
  have hown : s.settleSwaps.ownAddr = s.ownAddr := rfl
  have hcap : s.settleSwaps.spadBytes = s.spadBytes := rfl
  have hbytes : s.settleSwaps.bytes = s.bytes := rfl
  simp only [State.fetch, hm, Bool.not_true, Bool.false_eq_true, if_false, htask, hown, hcap, hbytes, State.settleSwaps_spad]
  cases (s.task t).buffer.find? fun p => p.1 == (s.task t).pos with
  | some p => rfl
  | none =>
    dsimp only
    split
    · split
      · rfl
      · cases s.spad.badIn (addrOff (s.task t).prog + 64 * (s.task t).pos) 64 <;> simp
    · cases d <;> rfl

/-- Fetch decodes the word that it takes (R26). -/
theorem State.fetch_of_takes {s : State} {t : Fin 4} {d : Fetched} {w : CmdWord} (hm : s.mayFetch t = true)
    (ht : s.takes t d = some w) : s.fetch t d = s.settleSwaps.placeWord t w := by
  rw [State.fetch_eq hm]
  simp only [State.takes] at ht
  cases hb : (s.task t).buffer.find? fun p => p.1 == (s.task t).pos with
  | some p =>
    rw [hb] at ht
    cases ht
    rfl
  | none =>
    rw [hb] at ht
    cases hown : s.ownAddr (s.task t).prog
    · simp only [hown, Bool.not_false, if_true] at ht
      cases d with
      | word _ => simpa using congrArg (Option.map (s.settleSwaps.placeWord t)) ht
      | refused _ => cases ht
    · simp only [hown, Bool.not_true, Bool.false_eq_true, if_false] at ht
      split at ht
      · cases ht
      · next hgood =>
        simp only [Bool.or_eq_true, decide_eq_true_eq, not_or, Bool.not_eq_true', Bool.not_eq_false] at hgood
        rw [← Option.some.inj ht]
        simp [hgood.1, hgood.2]

/-- The fetch state of a task past a command: the next DPI, and no VX_AUX but the one that the command is (R193, R351). -/
theorem Task.passed_dpi_aux (k : Task) (c : Cmd) :
    (k.passed k.dpi c).dpi = k.dpi + 1 ∧
    ((∀ b, c.op ≠ .vxAux b) → (k.passed k.dpi c).aux = none) ∧
    ∀ b, c.op = .vxAux b → (k.passed k.dpi c).aux = some (k.dpi, b) := by
  have hle : k.dpi ≤ k.dpi := BitVec.le_refl _
  unfold Task.passed
  dsimp only
  rw [if_pos hle]
  split
  case h_1 b hop =>
    split
    · exact ⟨rfl, fun _ => rfl, fun b' hb => by rw [hop] at hb; cases hb⟩
    · obtain ⟨-, -, hdpi, haux, -⟩ := Task.enter_sameRun
        ({ k with dpi := k.dpi + 1, pos := k.pos + 1, aux := none } : Task) b.bodyLen.toNat b.countImm.toNat
      exact ⟨hdpi, fun _ => haux, fun b' hb => by rw [hop] at hb; cases hb⟩
  case h_5 b hop => exact ⟨rfl, fun h => absurd hop (h b), fun b' hb => by rw [hop] at hb; cases hb; rfl⟩
  case h_6 hop => exact ⟨rfl, fun _ => rfl, fun b' hb => by rw [hop] at hb; cases hb⟩
  case h_7 h1 h2 h3 h4 h5 h6 =>
    obtain ⟨-, -, hdpi, haux, -⟩ := Task.wrap_sameRun 5 ({ k with dpi := k.dpi + 1, pos := k.pos + 1, aux := none } : Task)
    exact ⟨hdpi, fun _ => haux, fun b' hb => absurd hb (h5 b')⟩
  all_goals
    next hop =>
      obtain ⟨-, -, hdpi, haux, -⟩ := Task.wrap_sameRun 5 ({ k with
        dpi := k.dpi + 1, pos := k.pos + 1, aux := none, holds := k.holds ++ [k.dpi] } : Task)
      exact ⟨hdpi, fun _ => haux, fun b' hb => by rw [hop] at hb; cases hb⟩

/-- The entry with which fetch places the task's next command in its queue. -/
def State.fetchedEntry (s : State) (t : Fin 4) (c : Cmd) : Entry :=
  let x : Ctx := ⟨t, (s.task t).dpi, (s.task t).loops.map Loop.idx⟩
  ⟨x, c, s.auxFor x c.op, s.versionRef c, false, (s.task t).pos, (s.task t).loops, s.cycle⟩

/-- A VX_AUX waits with its task for the command after it (R193). -/
def isVxAux : Op → Bool
  | .vxAux _ => true
  | _ => false

theorem isVxAux_iff {op : Op} : isVxAux op = true ↔ ∃ b, op = .vxAux b := by
  unfold isVxAux
  split
  case h_1 b => exact iff_of_true rfl ⟨b, rfl⟩
  case h_2 hne => exact iff_of_false Bool.false_ne_true fun ⟨b, hb⟩ => hne b hb

/-- A word that decodes advances its task: a VX_AUX is kept there, a full queue stalls it, and any other command takes its region's
reference and the end of its queue (R26, R28, R29, R193, R248). -/
theorem State.placeWord_eq {s : State} {t : Fin 4} {w : CmdWord} {c : Cmd} (hp : parseCmd w = .ok c)
    (hskip : (s.task t).skip.contains (s.task t).dpi = false)
    (hpair : s.auxFor (s.fetchedEntry t c).x c.op = (s.task t).aux)
    (hcheck : s.decodeFault { s.fetchedEntry t c with ref := none } = none)
    (hplace : placeFault (s.task t) c.op = none) :
    s.placeWord t w =
      if isVxAux c.op then s.setTask t ((s.task t).advance w c)
      else if s.queueFull (s.fetchedEntry t c).x c.h then s
      else ((s.takeRef (s.versionRef c)).setTask t ((s.task t).advance w c)).enqueue (s.fetchedEntry t c) := by
  unfold State.fetchedEntry at hpair hcheck ⊢
  simp only [State.placeWord, hp, hskip, Bool.false_eq_true, if_false]
  dsimp only at hpair hcheck ⊢
  rw [hpair] at hcheck ⊢
  cases hk : (s.task t).aux <;> rw [hk] at hcheck <;> simp only [hcheck, hplace] <;> rfl

/-- Placing a command in its queue changes its region's references, its task and its queue. -/
theorem State.enqueued_frame (s : State) (t : Fin 4) (r : Option Ref) (k : Task) (e : Entry) :
    ((s.takeRef r).setTask t k).enqueue e = (s.withRg (s.takeRef r).rg).withIu { s.iu with
      tasks := s.iu.tasks.set t.1 k t.2
      queued := s.iu.queued ++ [{ e with since := s.cycle }] } := by
  rw [State.takeRef_only s r]
  rfl

/-- What a word that decodes does: nothing of it runs yet, and no other task changes. -/
theorem State.placeWord_effect {s : State} {t : Fin 4} {w : CmdWord} {c : Cmd} (hp : parseCmd w = .ok c)
    (hskip : (s.task t).skip.contains (s.task t).dpi = false)
    (hpair : s.auxFor (s.fetchedEntry t c).x c.op = (s.task t).aux)
    (hcheck : s.decodeFault { s.fetchedEntry t c with ref := none } = none)
    (hplace : placeFault (s.task t) c.op = none) :
    let u := s.placeWord t w
    let x := (s.fetchedEntry t c).x
    (∀ q, q ≠ t → u.task q = s.task q) ∧ u.iu.staged = s.iu.staged ∧ u.iu.exec = s.iu.exec ∧ u.iu.ec = s.iu.ec ∧
    samePdSf s u ∧ u.spad = s.spad ∧
    ((∀ b, c.op ≠ .vxAux b) → s.queueFull x c.h = false → (u.task t).dpi = (s.task t).dpi + 1 ∧ (u.task t).aux = none ∧
      ∃ e, u.iu.queued = s.iu.queued ++ [e] ∧ e.cmd = c ∧ e.x = x ∧ e.aux = s.auxFor x c.op ∧ e.injected = false) ∧
    (∀ b, c.op = .vxAux b → u.iu.queued = s.iu.queued ∧ (u.task t).dpi = (s.task t).dpi + 1 ∧
      (u.task t).aux = some ((s.task t).dpi, b)) ∧
    ((∀ b, c.op ≠ .vxAux b) → s.queueFull x c.h = true → u.iu = s.iu) := by
  obtain ⟨hdpi, haux, hkept⟩ := Task.passed_dpi_aux ({ s.task t with buffer := (s.task t).keep w } : Task) c
  have hset (k : Task) (q : Fin 4) : (s.setTask t k).task q = if q = t then k else s.task q := State.task_setTask s t q k
  dsimp only
  rw [State.placeWord_eq hp hskip hpair hcheck hplace]
  split
  case isTrue hop =>
    obtain ⟨b0, hb0⟩ := isVxAux_iff.mp hop
    have hne : ¬ ∀ b, c.op ≠ .vxAux b := fun h => h b0 hb0
    refine ⟨fun q hq => by rw [hset, if_neg hq], rfl, rfl, rfl, ⟨rfl, rfl⟩, rfl, fun h => absurd h hne, fun b hb => ?_,
      fun h => absurd h hne⟩
    rw [hset, if_pos rfl]
    exact ⟨rfl, hdpi, hkept b hb⟩
  case isFalse hop =>
    have hne (b : AuxBody) (hb : c.op = .vxAux b) : False := hop (isVxAux_iff.mpr ⟨b, hb⟩)
    split
    case isTrue hfull =>
      exact ⟨fun _ _ => rfl, rfl, rfl, rfl, ⟨rfl, rfl⟩, rfl, fun _ h => absurd (hfull.symm.trans h) (by decide),
        fun b hb => (hne b hb).elim, fun _ _ => rfl⟩
    case isFalse hroom =>
      rw [State.enqueued_frame]
      refine ⟨fun q hq => (hset _ q).trans (if_neg hq), rfl, rfl, rfl, ⟨rfl, rfl⟩, rfl, fun h _ => ?_,
        fun b hb => (hne b hb).elim, fun _ h => absurd h hroom⟩
      have htask : (((s.withRg (s.takeRef (s.versionRef c)).rg).withIu { s.iu with
          tasks := s.iu.tasks.set t.1 ((s.task t).advance w c) t.2
          queued := s.iu.queued ++ [{ s.fetchedEntry t c with since := s.cycle }] } : State).task t) = (s.task t).advance w c :=
        (hset _ t).trans (if_pos rfl)
      rw [htask]
      exact ⟨hdpi, haux h, _, rfl, rfl, rfl, rfl, rfl⟩

/-- The header of a command has its fields where R28 places them. -/
theorem header_fields {w : CmdWord} {c : Cmd} (hp : parseCmd w = .ok c) :
    c.h.queue = fld w 8 5 ∧ c.h.silent = bit w 13 ∧ c.h.pen = bit w 14 ∧ c.h.psense = bit w 15 ∧ c.h.psel = fld w 16 4 ∧
    c.h.part = fld w 20 2 ∧ c.h.version = bit w 22 ∧ c.h.vtag = bit w 23 ∧ c.h.fuse = fld w 24 8 ∧
    c.h.waitA = ⟨fld w 32 6, fld w 38 2, fld w 40 16, fld w 56 4⟩ ∧ c.h.vstage = fld w 60 4 ∧
    c.h.waitB = ⟨fld w 64 6, fld w 70 2, fld w 72 16, fld w 88 4⟩ ∧ c.h.mbatch = fld w 92 8 ∧
    c.h.sigA = ⟨fld w 100 6, fld w 106 8⟩ ∧ c.h.sigB = ⟨fld w 114 6, fld w 120 8⟩ := by
  rw [(op_of_parseCmd hp).2]
  exact ⟨rfl, rfl, rfl, rfl, rfl, rfl, rfl, rfl, rfl, rfl, rfl, rfl, rfl, rfl, rfl⟩

theorem logged_of_err {s s' t : State} {code : Code} (h : logged s' t code) (herr : s'.err = s.err) : logged s t code := by
  simpa only [logged, herr] using h

/-- A fault of fetch aborts the task; ballast and forecast follow. -/
theorem exec_fetch_aborts {s v : State} {t : Fin 4} {d : Fetched} {code : Code} {w : Site} {detail : W64}
    (hm : s.mayFetch t = true) (ha : s.abortable t (s.task t).dpi = true) (hiu : v.iu = s.iu) (herr : v.err = s.err)
    (hf : s.fetch t d = v.abortTaskAt t code (s.task t).dpi w detail) :
    ∃ u, exec (.commandFetch t d) s = .next u ∧ aborted u t code (s.task t).dpi ∧ logged s u code := by
  obtain ⟨habort, hlog, -⟩ := State.abortTaskAt_ends ((State.abortable_of_iu hiu t _).trans ha) code w detail
  rw [exec_commandFetch hm, hf]
  exact ⟨_, rfl, aborted_follow habort s, logged_of_err (logged_follow hlog s) herr⟩

/-- A read that other memory refuses, or that lies beyond the own scratchpad (R308). -/
theorem fetch_refused {s : State} {t : Fin 4} {d : Fetched} (hm : s.mayFetch t = true)
    (hb : (s.task t).buffer.find? (fun p => p.1 == (s.task t).pos) = none)
    (hr : (s.ownAddr (s.task t).prog = false ∧ ∃ cause, d = .refused cause) ∨
      (s.ownAddr (s.task t).prog = true ∧ s.spadBytes < addrOff (s.task t).prog + 64 * (s.task t).pos + 64)) :
    ∃ cause, s.fetch t d = s.settleSwaps.abortTaskAt t Code.remoteRefused (s.task t).dpi Site.iu (refusedBy (s.task t).prog cause) := by
  rw [State.fetch_eq hm]
  obtain ⟨hown, cause, rfl⟩ | ⟨hown, hout⟩ := hr
  · exact ⟨cause, by simp [hb, hown]⟩
  · exact ⟨1, by simp [hb, hown, hout]⟩

/-- A read of an uncorrectable word of the own scratchpad, whose region is poisoned (R64, R72). -/
theorem fetch_uncorrectable {s : State} {t : Fin 4} (d : Fetched) (hm : s.mayFetch t = true)
    (hb : (s.task t).buffer.find? (fun p => p.1 == (s.task t).pos) = none) (hown : s.ownAddr (s.task t).prog = true)
    (hin : addrOff (s.task t).prog + 64 * (s.task t).pos + 64 ≤ s.spadBytes)
    (hbad : s.spad.badIn (addrOff (s.task t).prog + 64 * (s.task t).pos) 64 ≠ []) :
    ∃ v detail, onlyRg s.settleSwaps v ∧
      s.fetch t d = v.abortTaskAt t Code.uncorrectable (s.task t).dpi Site.iu detail := by
  refine ⟨_, wordDetail (s.spad.badIn (addrOff (s.task t).prog + 64 * (s.task t).pos) 64),
    s.settleSwaps.poisonWords_only (s.spad.badIn (addrOff (s.task t).prog + 64 * (s.task t).pos) 64), ?_⟩
  rw [State.fetch_eq hm]
  simp only [hb, hown, if_true, if_neg (Nat.not_lt.mpr hin), List.isEmpty_iff, if_neg hbad]

/-- Settles O26: fetch decodes the word that it takes and places the command; a read that fails aborts the task instead. -/
theorem fetchQueues : Obligations.FetchQueues := by
  refine ⟨fun s t d w c hm ht hp hskip => ?_, fun s t d hm hb ha => ?_⟩
  · intro x aux hpair hcheck hplace
    have heff := State.placeWord_effect (s := s.settleSwaps) (t := t) hp hskip hpair hcheck hplace
    rw [exec_commandFetch hm, State.fetch_of_takes hm ht]
    generalize s.settleSwaps.placeWord t w = v at heff ⊢
    obtain ⟨htasks, hstaged, hexec, hec, hfiles, hspad, hqueue, hkept, hstall⟩ := heff
    refine ⟨_, rfl, fun q hq => ?_, ?_, ?_, fun i => ?_, samePdSf_follow hfiles s, ?_, fun hne hroom => ?_, fun b hb => ?_,
      fun hne hfull => ?_, header_fields hp⟩
    · rw [State.task_follow, htasks q hq]
      rfl
    · rw [State.follow_iu, hstaged]
      rfl
    · rw [State.follow_iu, hexec]
      rfl
    · rw [State.ec_follow]
      exact State.ec_of_iu hec i
    · rw [State.follow_spad, hspad]
      rfl
    · rw [State.task_follow, State.follow_iu]
      exact hqueue hne hroom
    · rw [State.task_follow, State.follow_iu]
      exact hkept b hb
    · rw [State.follow_iu]
      exact hstall hne hfull
  · by_cases hr : (s.ownAddr (s.task t).prog = false ∧ ∃ cause, d = .refused cause) ∨
      (s.ownAddr (s.task t).prog = true ∧ s.spadBytes < addrOff (s.task t).prog + 64 * (s.task t).pos + 64)
    · obtain ⟨cause, hf⟩ := fetch_refused hm hb hr
      obtain ⟨u, hu, hend⟩ := exec_fetch_aborts hm ha s.settleSwaps_iu s.settleSwaps_err hf
      refine ⟨u, hu, fun _ => hend, fun hown hin => ?_⟩
      obtain ⟨hno, -⟩ | ⟨-, hout⟩ := hr
      · rw [hown] at hno
        cases hno
      · exact absurd hin (Nat.not_le.mpr hout)
    · by_cases hbad : s.ownAddr (s.task t).prog = true ∧
        addrOff (s.task t).prog + 64 * (s.task t).pos + 64 ≤ s.spadBytes ∧
        s.spad.badIn (addrOff (s.task t).prog + 64 * (s.task t).pos) 64 ≠ []
      · obtain ⟨hown, hin, hws⟩ := hbad
        obtain ⟨v, detail, hv, hf⟩ := fetch_uncorrectable d hm hb hown hin hws
        obtain ⟨u, hu, hend⟩ := exec_fetch_aborts hm ha (onlyRg_iu hv) ((congrArg State.err hv).trans rfl) hf
        exact ⟨u, hu, fun h => absurd h hr, fun _ _ _ => hend⟩
      · exact ⟨_, exec_commandFetch hm d, fun h => absurd h hr, fun hown hin hws => absurd ⟨hown, hin, hws⟩ hbad⟩

end Sys2Proof.Machine
end

/-! ### Issue (O27) -/

section
namespace Sys2Proof.Machine

/-! #### The ballast of partitions that have a command (R378) -/

/-- Ballast stands on no partition that has a command. -/
def State.ballastIdle (s : State) : Prop := ∀ p ∈ s.eq.partBallast, s.agentBusy p.1 = false

theorem State.agentBusy_of_upToPower {s t : State} (h : upToPower s t) (a : BitVec 8) : t.agentBusy a = s.agentBusy a := by
  obtain ⟨-, -, hrest⟩ := h
  rw [← hrest]
  rfl

theorem State.endBallast_idle (s : State) : s.endBallast.ballastIdle := by
  intro p hp
  have hkept : p ∈ s.eq.partBallast.filter fun q => !s.agentBusy q.1 := hp
  exact (Bool.not_eq_true' _).mp (List.mem_filter.mp hkept).2

theorem State.startBallast_idle {s : State} (h : s.ballastIdle) (u : UnitId) : (s.startBallast u).ballastIdle := by
  cases u with
  | mx n p =>
    simp only [State.startBallast]
    split
    · exact h
    · next hgo =>
      simp only [Bool.or_eq_true, not_or, Bool.not_eq_true] at hgo
      obtain ⟨⟨⟨⟨-, -⟩, hidle⟩, -⟩, -⟩ := hgo
      intro q hq
      obtain hq | hq := List.mem_append.mp hq
      · exact h q hq
      · rw [List.mem_singleton.mp hq]
        exact hidle
  | _ => exact h

theorem State.forecast_idle {s : State} (h : s.ballastIdle) : s.forecast.ballastIdle := by
  have hkept : s.forecast.eq.partBallast = s.eq.partBallast := by
    unfold State.forecast
    dsimp only
    split
    · rfl
    · split <;> rfl
  intro p hp
  rw [State.agentBusy_of_upToPower s.forecast_upToPower]
  exact h p (hkept ▸ hp)

theorem State.follow_idle {t : State} (h : t.ballastIdle) (s : State) : (s.follow t).ballastIdle := by
  refine State.forecast_idle (List.foldlRecOn (motive := State.ballastIdle) _ _ h fun u hu q _ => ?_)
  split
  · exact hu
  · exact State.startBallast_idle hu q.1

/-! #### The head that issues (R46, R54, R381) -/

theorem le_of_issuesBefore {a b : Entry} (h : issuesBefore a b = true) :
    a.x.dpi ≤ b.x.dpi ∧ (a.x.dpi = b.x.dpi → a.x.task ≤ b.x.task) := by
  simp only [issuesBefore, Bool.or_eq_true, Bool.and_eq_true, decide_eq_true_eq, beq_iff_eq] at h
  obtain hlt | ⟨heq, htask⟩ := h
  · exact ⟨BitVec.le_of_lt hlt, fun heq => absurd hlt (heq ▸ BitVec.lt_irrefl _)⟩
  · exact ⟨heq ▸ BitVec.le_refl _, fun _ => Nat.le_of_lt htask⟩

/-- The head that is picked comes before every other one that can issue. -/
theorem State.pick_first {s : State} {e q : Entry} (hp : s.pick = some e) (hq : q ∈ s.readyHeads) (hfree : s.heldBack q = false)
    (hin : s.foldedOut s.readyHeads q = false) : e.x.dpi ≤ q.x.dpi ∧ (e.x.dpi = q.x.dpi → e.x.task ≤ q.x.task) := by
  have hpick := List.find?_some hp
  simp only [State.goesFirst, Bool.and_eq_true, List.all_eq_true, Bool.or_eq_true] at hpick
  obtain ⟨-, -, hall⟩ := hpick
  obtain ((hsame | hout) | hheld) | hbefore := hall q hq
  · simp only [Entry.same, Bool.and_eq_true, beq_iff_eq] at hsame
    obtain ⟨htask, hdpi⟩ := hsame
    exact ⟨hdpi ▸ BitVec.le_refl _, fun _ => htask ▸ Nat.le_refl _⟩
  · rw [hin] at hout
    cases hout
  · rw [hfree] at hheld
    cases hheld
  · exact le_of_issuesBefore hbefore

/-! #### What an issued engine command does (R45) -/

/-- The commands that run on a unit. -/
def runsOnUnit : Op → Prop
  | .mmOs _ | .mmSt _ | .mmEw _ | .mmDrain _ | .vxMap _ | .vxReduce _ | .vxProg _ | .vxTable _ | .cuMap _
  | .cuReduce _ | .cuProg _ | .cuTable _ | .transpose _ => True
  | _ => False

/-- A command of a unit that goes is staged. -/
theorem State.act_stages {s : State} {e : Entry} (hv : s.verdict e false = .go) (hop : runsOnUnit e.cmd.op) (enters : Bool) :
    s.act e false enters = (s.unqueue e).stage e := by
  unfold State.act
  rw [hv]
  unfold runsOnUnit at hop
  split at hop
  case h_14 => exact hop.elim
  all_goals
    next hk => simp [State.atIssue, hk]

/-- Staging a command occupies its unit, and its transpose unit, and ends the ballast of an array that changes hands. -/
theorem State.stage_frame (s : State) (e : Entry) :
    (s.stage e).iu = { s.iu with staged := s.iu.staged ++ [(s.unitOf e.cmd, s.issued e)] } ∧ (s.stage e).spad = s.spad ∧
    (s.stage e).mx = s.mx := by
  have htu (i : Issued) : (s.takeTu i).iu = s.iu ∧ (s.takeTu i).spad = s.spad ∧ (s.takeTu i).mx = s.mx := by
    unfold State.takeTu
    split <;> exact ⟨rfl, rfl, rfl⟩
  have harray (v : State) (u : UnitId) :
      (v.noteArray u).iu = v.iu ∧ (v.noteArray u).spad = v.spad ∧ (v.noteArray u).mx = v.mx := by
    unfold State.noteArray
    split
    · dsimp only
      split <;> exact ⟨rfl, rfl, rfl⟩
    · exact ⟨rfl, rfl, rfl⟩
  obtain ⟨hiu, hspad, hmx⟩ := harray (s.takeTu (s.issued e)) (s.unitOf e.cmd)
  obtain ⟨hiu', hspad', hmx'⟩ := htu (s.issued e)
  have h : (((s.takeTu (s.issued e)).noteArray (s.unitOf e.cmd)).iu) = s.iu := hiu.trans hiu'
  unfold State.stage
  dsimp only
  rw [h]
  exact ⟨rfl, hspad.trans hspad', hmx.trans hmx'⟩

/-- An engine command that is picked, and comes late for no aborted task, is staged. -/
theorem State.issueCycle_stages {s : State} {e : Entry} (hp : s.settleSwaps.pick = some e)
    (hv : s.settleSwaps.verdict e false = .go) (hlate : s.issueLate = none) (hop : runsOnUnit e.cmd.op) :
    s.issueCycle = (s.settleSwaps.unqueue e).stage e := by
  rw [State.issueCycle, hlate, State.issueNext]
  dsimp only
  rw [hp]
  exact State.act_stages hv hop _

theorem State.noteHolds_frame (s : State) (l : List Entry) :
    (s.noteHolds l).iu = s.iu ∧ (s.noteHolds l).spad = s.spad ∧ (s.noteHolds l).mx = s.mx := by
  unfold State.noteHolds
  split <;> exact ⟨rfl, rfl, rfl⟩

theorem State.noteHolds_event {l : List Entry} (hl : l ≠ []) (s : State) : (s.noteHolds l).eq.events.getLsbD 4 = true := by
  unfold State.noteHolds
  rw [if_neg (by simpa using hl)]
  simp [Eqx.event]

/-- After an issue only Equinox and the forecast change, and no ballast is left on a partition that has a command. -/
theorem exec_commandIssue (s : State) :
    ∃ t, exec .commandIssue s = .next t ∧ upToPower (s.issueCycle.noteHolds s.settleSwaps.heldHeads) t ∧ t.ballastIdle :=
  ⟨_, rfl, upToPower_trans _ _ _ (State.dropBallast_upToPower _ _) (State.follow_upToPower s _),
    State.follow_idle (State.endBallast_idle _) s⟩

theorem upToPower_frame {s t : State} (h : upToPower s t) : t.iu = s.iu ∧ t.spad = s.spad ∧ t.mx = s.mx := by
  obtain ⟨-, -, hrest⟩ := h
  exact ⟨(congrArg State.iu hrest :), (congrArg State.spad hrest :), (congrArg State.mx hrest :)⟩

/-- An engine command that issues leaves its queue for the staging slot of its unit, and has no effect yet (R45). -/
theorem exec_commandIssue_stages {s : State} {e : Entry} (hp : s.settleSwaps.pick = some e)
    (hv : s.settleSwaps.verdict e false = .go) (hlate : s.issueLate = none) (hop : runsOnUnit e.cmd.op) :
    ∃ t i, exec .commandIssue s = .next t ∧ i.e = e ∧ i.sf = s.sfSnapshot ∧ t.spad = s.spad ∧ t.mx = s.mx ∧
      t.iu = { s.iu with
        queued := s.iu.queued.filter fun q => !(q.x.task == e.x.task && q.x.dpi == e.x.dpi)
        quiet := 0
        staged := s.iu.staged ++ [(s.unitOf e.cmd, i)] } := by
  obtain ⟨t, ht, hpower, -⟩ := exec_commandIssue s
  obtain ⟨hiu, hspad, hmx⟩ := upToPower_frame hpower
  obtain ⟨hiu', hspad', hmx'⟩ := State.noteHolds_frame s.issueCycle s.settleSwaps.heldHeads
  rw [State.issueCycle_stages hp hv hlate hop] at hiu hspad hmx hiu' hspad' hmx'
  obtain ⟨hstaged, hspad0, hmx0⟩ := (s.settleSwaps.unqueue e).stage_frame e
  exact ⟨t, (s.settleSwaps.unqueue e).issued e, ht, rfl, rfl, hspad.trans (hspad'.trans (hspad0.trans rfl)),
    hmx.trans (hmx'.trans (hmx0.trans rfl)), hiu.trans (hiu'.trans (hstaged.trans rfl))⟩

/-- Settles O27: the pick is the least of the heads that can issue, and its staging changes only its queue and its unit's slot. -/
theorem issueLowest : Obligations.IssueLowest := by
  refine ⟨fun s e hp => ⟨fun q hq hfree hin => State.pick_first hp hq hfree hin, fun hv hlate hop => ?_⟩, fun s => ?_⟩
  · obtain ⟨t, i, ht, he, hsf, hspad, hmx, hiu⟩ := exec_commandIssue_stages hp hv hlate hop
    refine ⟨t, i, ht, ?_, he, hsf, ?_, ?_, fun j => State.ec_of_iu ?_ j, ⟨?_, ?_⟩, hspad, hmx⟩
    all_goals rw [hiu]
  · obtain ⟨t, ht, ⟨-, heq, -⟩, hidle⟩ := exec_commandIssue s
    refine ⟨t, ht, hidle, fun hheld => ?_⟩
    rw [heq]
    exact State.noteHolds_event hheld _

end Sys2Proof.Machine
end

/-! ### The issue timeout (O30) -/

section
namespace Sys2Proof.Machine

/-! #### A task's abort and what lies outside the core's engines (R56) -/

/-- The time, the identity, the ports and routes of the fabric and the messages sent are the same. -/
def sameOutside (s t : State) : Prop :=
  t.cycle = s.cycle ∧ t.id = s.id ∧ t.fp = s.fp ∧ t.fa = s.fa ∧ t.out = s.out

theorem sameOutside_refl (s : State) : sameOutside s s := ⟨rfl, rfl, rfl, rfl, rfl⟩

theorem sameOutside_trans (a b c : State) (hab : sameOutside a b) (hbc : sameOutside b c) : sameOutside a c := by
  obtain ⟨hcycle, hid, hfp, hfa, hout⟩ := hab
  obtain ⟨hcycle', hid', hfp', hfa', hout'⟩ := hbc
  exact ⟨hcycle'.trans hcycle, hid'.trans hid, hfp'.trans hfp, hfa'.trans hfa, hout'.trans hout⟩

theorem sameOutside_foldl {α : Type} {f : State → α → State} (hf : ∀ s a, sameOutside s (f s a)) (l : List α) (s : State) :
    sameOutside s (l.foldl f s) :=
  foldl_only sameOutside sameOutside_refl sameOutside_trans f hf l s

theorem sameOutside_of_onlyRg {s t : State} (h : onlyRg s t) : sameOutside s t :=
  ⟨(congrArg State.cycle h).trans rfl, (congrArg State.id h).trans rfl, (congrArg State.fp h).trans rfl,
    (congrArg State.fa h).trans rfl, (congrArg State.out h).trans rfl⟩

theorem sameOutside_of_onlySpad {s t : State} (h : onlySpad s t) : sameOutside s t := by
  obtain ⟨h, -⟩ := h
  exact ⟨(congrArg State.cycle h).trans rfl, (congrArg State.id h).trans rfl, (congrArg State.fp h).trans rfl,
    (congrArg State.fa h).trans rfl, (congrArg State.out h).trans rfl⟩

theorem sameOutside_of_onlyMx {s t : State} (h : onlyMx s t) : sameOutside s t :=
  ⟨(congrArg State.cycle h).trans rfl, (congrArg State.id h).trans rfl, (congrArg State.fp h).trans rfl,
    (congrArg State.fa h).trans rfl, (congrArg State.out h).trans rfl⟩

theorem State.withRg_sameOutside (s : State) (x : RegionTable) : sameOutside s (s.withRg x) := ⟨rfl, rfl, rfl, rfl, rfl⟩

theorem State.withIu_sameOutside (s : State) (x : Iu) : sameOutside s (s.withIu x) := ⟨rfl, rfl, rfl, rfl, rfl⟩

theorem State.withSe_sameOutside (s : State) (x : Streams) : sameOutside s (s.withSe x) := ⟨rfl, rfl, rfl, rfl, rfl⟩

theorem State.freeHeld_sameOutside (s : State) (p : Fin 4 × W64 → Bool) : sameOutside s (s.freeHeld p) := ⟨rfl, rfl, rfl, rfl, rfl⟩

theorem State.addLog_sameOutside (s : State) (e : LogEntry) : sameOutside s (s.addLog e) := by
  obtain ⟨h, -, -, -, -, hout, hfp⟩ := State.addLog_frame s e
  exact ⟨by simpa using congrArg State.cycle h, by simpa using congrArg State.id h, hfp, by simpa using congrArg State.fa h, hout⟩

theorem State.abandonTask_sameOutside (s : State) (t : Fin 4) : sameOutside s (s.abandonTask t) := by
  have hrefs := sameOutside_trans _ _ _ (s.withRg_sameOutside ⟨mapVec (fun e => { e with swapPending := false }) s.rg.tab⟩)
    (sameOutside_foldl (fun s r => sameOutside_of_onlyRg (State.releaseRef_only s (some r))) (s.taskRefs t) _)
  have hran := sameOutside_trans _ _ _ hrefs
    (sameOutside_foldl (fun s u => sameOutside_of_onlySpad (State.scramble_only s u.2)) (s.iu.busy.filter fun u => u.2.e.x.task = t) _)
  have hmine := sameOutside_trans _ _ _ hran
    (sameOutside_foldl (fun s u => sameOutside_of_onlyRg (State.poisonOutputs_only s u.2))
      ((s.iu.staged ++ s.iu.exec).filter fun u => u.2.e.x.task = t) _)
  unfold State.abandonTask
  dsimp only
  refine sameOutside_trans _ _ _ ?_ (sameOutside_of_onlyMx (State.emptyParts_only _ _))
  refine sameOutside_trans _ _ _ ?_ (State.freeHeld_sameOutside _ _)
  refine sameOutside_trans _ _ _ ?_ (State.withSe_sameOutside _ _)
  exact sameOutside_trans _ _ _ hmine (State.withIu_sameOutside _ _)

theorem State.abortTaskAt_discarded {s : State} {t : Fin 4} {dpi : W64} (hr : s.running t = true)
    (h : s.abortable t dpi = false) (code : Code) (w : Site) (detail : W64) : s.abortTaskAt t code dpi w detail = s := by
  simp only [State.abortable, hr, Bool.true_and, Bool.or_eq_false_iff, beq_eq_false_iff_ne, decide_eq_false_iff_not] at h
  obtain ⟨⟨hstop, hdpi⟩, hlt⟩ := h
  unfold State.abortTaskAt
  dsimp only
  exact if_pos (by simp [hstop, hdpi, BitVec.not_lt.mp hlt])

/-- A task's abort reaches nothing outside the core's engines. -/
theorem State.abortTaskAt_sameOutside (s : State) (t : Fin 4) (code : Code) (dpi : W64) (w : Site) (detail : W64) :
    sameOutside s (s.abortTaskAt t code dpi w detail) := by
  have hlog : sameOutside s (s.logFatal t code dpi w detail) := s.addLog_sameOutside _
  have hend := sameOutside_trans _ _ _ hlog (State.abandonTask_sameOutside _ t)
  unfold State.abortTaskAt
  dsimp only
  generalize (s.logFatal t code dpi w detail).abandonTask t = v at hend ⊢
  generalize s.logFatal t code dpi w detail = l at hlog ⊢
  obtain ⟨hcycle, hid, hfp, hfa, hout⟩ := hlog
  obtain ⟨hcycle', hid', hfp', hfa', hout'⟩ := hend
  split
  · exact sameOutside_refl s
  · split
    · split <;> exact ⟨hcycle, hid, hfp, hfa, hout⟩
    · split <;> exact ⟨hcycle', hid', hfp', hfa', hout'⟩

/-- The task's state and its commands in the queues are the same, and no more of it runs. -/
def keepsTask (u : Fin 4) (s t : State) : Prop :=
  t.task u = s.task u ∧ (t.iu.queued.filter fun e => e.x.task = u) = (s.iu.queued.filter fun e => e.x.task = u) ∧
  ∀ q ∈ t.iu.staged ++ t.iu.exec, q ∈ s.iu.staged ++ s.iu.exec

theorem keepsTask_refl (u : Fin 4) (s : State) : keepsTask u s s := ⟨rfl, rfl, fun _ h => h⟩

theorem keepsTask_trans {u : Fin 4} {a b c : State} (hab : keepsTask u a b) (hbc : keepsTask u b c) : keepsTask u a c := by
  obtain ⟨htask, hqueued, hunits⟩ := hab
  obtain ⟨htask', hqueued', hunits'⟩ := hbc
  exact ⟨htask'.trans htask, hqueued'.trans hqueued, fun q hq => hunits q (hunits' q hq)⟩

theorem keepsTask_of_iu {s t : State} (hi : t.iu.tasks = s.iu.tasks) (hq : t.iu.queued = s.iu.queued)
    (hs : t.iu.staged = s.iu.staged) (he : t.iu.exec = s.iu.exec) (u : Fin 4) : keepsTask u s t :=
  ⟨State.task_of_iu hi u, by rw [hq], fun q h => by rwa [hs, he] at h⟩

theorem aborted_of_keepsTask {u : Fin 4} {s t : State} (h : keepsTask u s t) {code : Code} {dpi : W64} (ha : aborted s u code dpi) :
    aborted t u code dpi := by
  obtain ⟨htask, hqueued, hunits⟩ := h
  obtain ⟨hst, hfault, hnone, hidle⟩ := ha
  refine ⟨htask ▸ hst, htask ▸ hfault, fun e he heq => ?_, fun q hq => hidle q (hunits q hq)⟩
  have hmem : e ∈ t.iu.queued.filter fun e => e.x.task = u := List.mem_filter.mpr ⟨he, decide_eq_true heq⟩
  rw [hqueued] at hmem
  exact hnone e (List.mem_of_mem_filter hmem) heq

theorem State.lowestDpi_of_keepsTask {u : Fin 4} {s t : State} (h : keepsTask u s t) : t.lowestDpi u = s.lowestDpi u := by
  obtain ⟨htask, hqueued, -⟩ := h
  unfold State.lowestDpi
  rw [htask, hqueued]

theorem State.abortable_of_task {u : Fin 4} {s t : State} (h : t.task u = s.task u) (dpi : W64) :
    t.abortable u dpi = s.abortable u dpi := by
  simp only [State.abortable, State.running, h]

/-- A task that a fault aborts leaves the commands of every other task. -/
theorem State.abortTaskAt_keepsTask {s : State} {t u : Fin 4} {dpi : W64} (h : s.abortable t dpi = true) (hu : u ≠ t) (code : Code)
    (w : Site) (detail : W64) : keepsTask u s (s.abortTaskAt t code dpi w detail) := by
  obtain ⟨tasks, late, job, hshape⟩ := State.abortTaskAt_shape h code w detail
  have hiu := State.abandonTask_iu (s.logFatal t code dpi w detail) t
  rw [State.logFatal_iu] at hiu
  refine ⟨s.task_abortTaskAt_other hu code dpi w detail, ?_, ?_⟩
  · have hq : (s.abortTaskAt t code dpi w detail).iu.queued = s.iu.queued.filter fun e => !(e.x.task == t) := by
      rw [hshape]
      exact (congrArg Iu.queued hiu :)
    rw [hq, List.filter_filter]
    refine List.filter_congr fun e _ => ?_
    by_cases he : e.x.task = u <;> simp [he, hu]
  · have hunits : (s.abortTaskAt t code dpi w detail).iu.staged ++ (s.abortTaskAt t code dpi w detail).iu.exec =
        (s.iu.staged ++ s.iu.exec).filter fun q => !(q.2.e.x.task == t) := by
      rw [List.filter_append, hshape]
      exact (congrArg (fun i : Iu => i.staged ++ i.exec) hiu :)
    rw [hunits]
    exact fun q hq => List.mem_of_mem_filter hq

/-! #### Every running task aborts (R27, R351) -/

/-- The timeout of one task. -/
def State.timeoutTask (s : State) (t : Fin 4) : State :=
  if s.running t then s.abortTask t Code.issueTimeout (s.lowestDpi t) else s

theorem State.timeoutTasks_eq (s : State) : s.timeoutTasks = (List.finRange 4).foldl State.timeoutTask s := rfl

/-- A task that runs, and whose lowest DPI lies below its STOP_COUNT, aborts; any other one keeps the state as it is. -/
theorem State.timeoutTask_cases (s : State) (t : Fin 4) :
    (s.abortable t (s.lowestDpi t) = true ∧ s.timeoutTask t = s.abortTask t Code.issueTimeout (s.lowestDpi t)) ∨
    (s.abortable t (s.lowestDpi t) = false ∧ s.timeoutTask t = s) := by
  unfold State.timeoutTask
  cases ha : s.abortable t (s.lowestDpi t)
  · refine .inr ⟨rfl, ?_⟩
    split
    · next hr => exact State.abortTaskAt_discarded hr ha _ _ _
    · rfl
  · have hr : s.running t = true := by
      simp only [State.abortable, Bool.and_eq_true] at ha
      exact ha.1
    exact .inl ⟨rfl, if_pos hr⟩

theorem State.timeoutTask_keepsTask (s : State) {t u : Fin 4} (hu : u ≠ t) : keepsTask u s (s.timeoutTask t) := by
  obtain ⟨ha, h⟩ | ⟨-, h⟩ := s.timeoutTask_cases t
  · rw [h]
    exact State.abortTaskAt_keepsTask ha hu _ _ _
  · rw [h]
    exact keepsTask_refl u s

/-- The counters, the predicates, the scalar file and the time are the same. -/
def sameFilesAndTime (s t : State) : Prop :=
  t.iu.ec = s.iu.ec ∧ t.iu.pd = s.iu.pd ∧ t.iu.sf = s.iu.sf ∧ t.cycle = s.cycle

theorem State.timeoutTask_sameFilesAndTime (s : State) (t : Fin 4) : sameFilesAndTime s (s.timeoutTask t) := by
  obtain ⟨ha, h⟩ | ⟨-, h⟩ := s.timeoutTask_cases t
  · rw [h]
    obtain ⟨hec, hpd, hsf⟩ := State.abortTaskAt_files ha Code.issueTimeout Site.iu 0
    exact ⟨hec, hpd, hsf, (s.abortTaskAt_sameOutside t _ _ _ _).1⟩
  · rw [h]
    exact ⟨rfl, rfl, rfl, rfl⟩

theorem State.foldl_timeoutTask_sameFilesAndTime (l : List (Fin 4)) (s : State) : sameFilesAndTime s (l.foldl State.timeoutTask s) :=
  foldl_only sameFilesAndTime (fun _ => ⟨rfl, rfl, rfl, rfl⟩)
    (fun _ _ _ ⟨hec, hpd, hsf, hc⟩ ⟨hec', hpd', hsf', hc'⟩ => ⟨hec'.trans hec, hpd'.trans hpd, hsf'.trans hsf, hc'.trans hc⟩)
    State.timeoutTask State.timeoutTask_sameFilesAndTime l s

theorem State.foldl_timeoutTask_keepsTask {l : List (Fin 4)} {u : Fin 4} (hu : u ∉ l) (s : State) :
    keepsTask u s (l.foldl State.timeoutTask s) := by
  induction l generalizing s with
  | nil => exact keepsTask_refl u s
  | cons t l ih =>
    simp only [List.mem_cons, not_or] at hu
    obtain ⟨hne, hl⟩ := hu
    exact keepsTask_trans (s.timeoutTask_keepsTask hne) (ih hl _)

/-- Each task ends by its own fault: those before it and after it leave it as it was. -/
theorem State.foldl_timeoutTask_aborted {l : List (Fin 4)} {u : Fin 4} (hl : l.Nodup) (hu : u ∈ l) {s : State}
    (ha : s.abortable u (s.lowestDpi u) = true) : aborted (l.foldl State.timeoutTask s) u Code.issueTimeout (s.lowestDpi u) := by
  induction l generalizing s with
  | nil => cases hu
  | cons t l ih =>
    obtain ⟨hnot, hl⟩ := List.nodup_cons.mp hl
    by_cases htu : u = t
    · subst htu
      refine aborted_of_keepsTask (State.foldl_timeoutTask_keepsTask hnot _) ?_
      obtain ⟨-, h⟩ | ⟨hna, -⟩ := s.timeoutTask_cases u
      · rw [h]
        exact s.abortTaskAt_aborted u _ _ _ _ ha
      · rw [ha] at hna
        cases hna
    · have hkeep := s.timeoutTask_keepsTask htu
      have hlow := State.lowestDpi_of_keepsTask hkeep
      rw [List.foldl_cons, ← hlow]
      refine ih hl ((List.mem_cons.mp hu).resolve_left htu) ?_
      rw [hlow, State.abortable_of_task hkeep.1]
      exact ha

/-- A task that does not run stays as it is. -/
theorem State.foldl_timeoutTask_idle {u : Fin 4} (l : List (Fin 4)) {s : State} (hr : s.running u = false) :
    (l.foldl State.timeoutTask s).task u = s.task u := by
  induction l generalizing s with
  | nil => rfl
  | cons t l ih =>
    have htask : (s.timeoutTask t).task u = s.task u := by
      by_cases htu : u = t
      · rw [State.timeoutTask, ← htu, hr]
        rfl
      · exact (s.timeoutTask_keepsTask htu).1
    have hr' : (s.timeoutTask t).running u = false := by rwa [State.running, htask]
    rw [List.foldl_cons, ih hr', htask]

/-- The timeout aborts each task that runs, changes no task that does not, and no counter, predicate or scalar-file entry. -/
theorem State.timeoutTasks_effect (s : State) :
    sameFilesAndTime s s.timeoutTasks ∧
    (∀ u, s.abortable u (s.lowestDpi u) = true → aborted s.timeoutTasks u Code.issueTimeout (s.lowestDpi u)) ∧
    ∀ u, s.running u = false → s.timeoutTasks.task u = s.task u := by
  rw [State.timeoutTasks_eq]
  exact ⟨State.foldl_timeoutTask_sameFilesAndTime (List.finRange 4) s,
    fun u ha => State.foldl_timeoutTask_aborted (List.nodup_finRange 4) (List.mem_finRange u) ha,
    fun _ hr => State.foldl_timeoutTask_idle (List.finRange 4) hr⟩

/-! #### Time passes (R27, R338) -/

/-- Only the scalar file differs. -/
def onlySf (s t : State) : Prop := t = s.withIu { s.iu with sf := t.iu.sf }

theorem onlySf_trans (a b c : State) (hab : onlySf a b) (hbc : onlySf b c) : onlySf a c := by
  unfold onlySf at *
  rw [hbc, hab]
  rfl

/-- Landing the CSR writes of the scalar file changes the scalar file only. -/
theorem State.landSf_eq (s : State) :
    ∃ sf, s.landSf = s.withIu { s.iu with sf := sf, sfOld := [], sfNext := [] } ∧ (s.iu.sfNext = [] → sf = s.iu.sf) := by
  have honly : onlySf s (s.iu.sfNext.foldl (fun s p => s.putSf p.1 p.2) s) :=
    foldl_only onlySf (fun _ => rfl) onlySf_trans (fun s (p : BitVec 6 × W64) => s.putSf p.1 p.2) (fun _ _ => rfl) _ s
  have hnone (h : s.iu.sfNext = []) : (s.iu.sfNext.foldl (fun s p => s.putSf p.1 p.2) s).iu.sf = s.iu.sf := by
    rw [h]
    rfl
  unfold State.landSf
  dsimp only
  generalize s.iu.sfNext.foldl (fun s p => s.putSf p.1 p.2) s = v at honly hnone ⊢
  unfold onlySf at honly
  exact ⟨v.iu.sf, by rw [honly]; rfl, hnone⟩

/-- Time that passes changes neither the tasks and their commands nor the counters and the predicates. -/
theorem State.advanceTo_frame {s : State} {c : Nat} (hc : s.cycle ≤ c) :
    let t := s.advanceTo c
    t.cycle = c ∧ (∀ u, keepsTask u s t) ∧ t.iu.ec = s.iu.ec ∧ t.iu.pd = s.iu.pd ∧ (s.iu.sfNext = [] → t.iu.sf = s.iu.sf) := by
  dsimp only
  unfold State.advanceTo
  split
  · obtain ⟨sf, hland, hsf⟩ := s.landSf_eq
    rw [hland]
    exact ⟨rfl, keepsTask_of_iu rfl rfl rfl rfl, rfl, rfl, hsf⟩
  · next hlt =>
    exact ⟨Nat.le_antisymm hc (Nat.not_lt.mp hlt), fun u => keepsTask_refl u s, rfl, rfl, fun _ => rfl⟩

theorem State.cycle_follow_touch (s t : State) : (s.follow t.touch).cycle = t.cycle :=
  (congrArg State.cycle (s.follow_rest t.touch) :)

theorem exec_issueTimeout {s : State} (hjob : s.job.st = .running) (hfence : s.rep.coreFenced = false) :
    exec .issueTimeout s =
      .next (s.follow (s.advanceTo (s.cycle + (2 ^ 24 - s.iu.quiet))).timeoutTasks.touch) := by
  have h : exec .issueTimeout s = execIssueTimeout s := rfl
  rw [h, execIssueTimeout, hjob, hfence]
  rfl

/-- Settles O30: the tasks abort one after another, and none of them reaches another. -/
theorem timeoutAborts : Obligations.TimeoutAborts := by
  intro s hjob hfence
  generalize hn : s.cycle + (2 ^ 24 - s.iu.quiet) = n
  have hrun := exec_issueTimeout hjob hfence
  rw [hn] at hrun
  have hle : s.cycle ≤ n := hn ▸ Nat.le_add_right _ _
  obtain ⟨hcycle, hkeep, hec, hpd, hsf⟩ := State.advanceTo_frame hle
  generalize s.advanceTo n = v at hrun hcycle hkeep hec hpd hsf
  obtain ⟨⟨hec', hpd', hsf', hcycle'⟩, hend, hidle⟩ := v.timeoutTasks_effect
  generalize v.timeoutTasks = w at hrun hec' hpd' hsf' hcycle' hend hidle
  have htouch (u : Fin 4) : keepsTask u w (s.follow w.touch) := by
    refine keepsTask_of_iu ?_ ?_ ?_ ?_ u <;> rw [State.follow_iu] <;> rfl
  refine ⟨_, hrun, ?_, ?_, fun u ha => ?_, fun u hr => ?_, fun i => State.ec_of_iu ?_ i, ?_, fun hnext => ?_⟩
  · rw [State.follow_iu]
    rfl
  · rw [State.cycle_follow_touch, hcycle', hcycle]
  · have hlow := State.lowestDpi_of_keepsTask (hkeep u)
    have hend' := hend u
    rw [hlow, State.abortable_of_task (hkeep u).1] at hend'
    exact aborted_of_keepsTask (htouch u) (hend' ha)
  · have hr' : v.running u = false := by rwa [State.running, (hkeep u).1]
    rw [(htouch u).1, hidle u hr', (hkeep u).1]
  · rw [State.follow_iu]
    exact hec'.trans hec
  · rw [State.follow_iu]
    exact hpd'.trans hpd
  · rw [State.follow_iu]
    exact hsf'.trans (hsf hnext)

end Sys2Proof.Machine
end

/-! ### Notifies, multicasts and ports that go down (O49) -/

section
namespace Sys2Proof.Machine

/-! #### Answers (R306, R310, R315) -/

theorem State.answer_rest (s : State) (req : Requester) (m : Msg) (us : List FabUnit) :
    ((s.answer req m us).withFp s.fp).withOut s.out = s := by
  unfold State.answer
  split
  · rfl
  · exact State.sendPackets_frame s _ _ _ _ _

/-- A requester of the chip is answered by a message over the mesh. -/
theorem State.answer_local {s : State} {req : Requester} (h : req.chip = s.id.chip) (m : Msg) (us : List FabUnit) :
    s.answer req m us = s.emit m := by
  rw [State.answer, if_pos (by simpa using h)]

/-- NOTIFY (R41, R261, R284). -/
theorem notify_effect (s : State) (q : Requester) (ec : BitVec 6) (inc : BitVec 8) :
    (s.live = true → ∃ t u : State, exec (.notify q ec inc) s = .next t ∧ t.ec ec = s.ec ec + inc.setWidth 16 ∧
      (∀ i, i ≠ ec → t.ec i = s.ec i) ∧ samePdSf s t ∧ t = u.ackNotify q ec inc ∧ u.withIu s.iu = s ∧
      (q.chip = s.id.chip → t.out = s.out ++ [.ack q] ∧ t.fp = s.fp)) ∧
    (s.live = false → exec (.notify q ec inc) s = .next (s.refuseNotify q ec inc 4) ∧
      (q.chip = s.id.chip → s.refuseNotify q ec inc 4 = s.emit (.refuse q 4))) := by
  refine ⟨fun hlive => ?_, fun hdead => ⟨?_, fun hchip => State.answer_local hchip _ _⟩⟩
  · obtain ⟨hrest, hpd, hsf, -⟩ := State.signal_frame s ⟨ec, inc⟩
    have hec := State.ec_signal s ⟨ec, inc⟩
    have hrun : exec (.notify q ec inc) s = .next ((s.signal ⟨ec, inc⟩).ackNotify q ec inc) := by
      simp [exec, execNotify, hlive]
    generalize s.signal ⟨ec, inc⟩ = u at hrest hpd hsf hec hrun
    have hiu : (u.ackNotify q ec inc).iu = u.iu := (congrArg State.iu (u.answer_rest _ _ _) :)
    refine ⟨_, u, hrun, ?_, fun i hi => ?_, ⟨?_, ?_⟩, rfl, hrest, fun hchip => ?_⟩
    · rw [State.ec_of_iu (congrArg Iu.ec hiu), hec]
      simp
    · rw [State.ec_of_iu (congrArg Iu.ec hiu), hec]
      simp [hi.symm]
    · rw [hiu, hpd]
    · rw [hiu, hsf]
    · have hid : q.chip = u.id.chip := hchip.trans (congrArg (fun x : State => x.id.chip) hrest).symm
      rw [State.ackNotify, State.answer_local hid]
      exact ⟨congrArg (· ++ [Msg.ack q]) (congrArg State.out hrest :), (congrArg State.fp hrest :)⟩
  · simp [exec, execNotify, hdead]

/-! #### What the log gains (R395, R397) -/

theorem mem_mergeLog {e : LogEntry} {l : List LogEntry} (h : l.any (fun x => x.sameEvent e) = true) :
    ∃ x ∈ mergeLog e l, x.code = e.code := by
  induction l with
  | nil => cases h
  | cons y l ih =>
    unfold mergeLog
    split
    · next hy =>
      refine ⟨_, List.mem_cons_self, ?_⟩
      simp only [LogEntry.sameEvent, Bool.and_eq_true, beq_iff_eq] at hy
      obtain ⟨⟨⟨⟨⟨-, hcode⟩, -⟩, -⟩, -⟩, -⟩ := hy
      exact hcode
    · next hy =>
      obtain ⟨x, hx, hcode⟩ := ih (by simpa [hy] using h)
      exact ⟨x, List.mem_cons_of_mem y hx, hcode⟩

/-- An event that finds room in the log is in it afterwards, alone or merged (R395). -/
theorem State.addLog_logged (s : State) (e : LogEntry) : logged s (s.addLog e) e.code := by
  intro hroom
  unfold State.addLog
  split
  · next hsame =>
    exact mem_mergeLog (Bool.and_eq_true _ _ ▸ hsame).2
  · exact ⟨{ e with num := s.err.seq }, List.mem_append_right _ List.mem_cons_self, rfl⟩

/-- A notice that brings no hint only logs its event (R397). -/
theorem State.note_of_not_hintable {code : Code} {unit : BitVec 8} (h : hintable code unit = false) (s : State) (sub : BitVec 8)
    (loc : W32) (dpi detail : W64) :
    s.note code unit sub loc dpi detail = s.addLog (s.logEntry code .minor 0 unit sub loc dpi detail) := by
  simp only [State.note, State.noteFor, h, Bool.false_and, Bool.false_eq_true, if_false]

/-! #### Groups of a job (R297, R298) -/

@[simp] theorem Job.group_setGroup (j : Job) (g k : BitVec 12) (m : McastGroup) :
    (j.setGroup g m).group k = if k = g then m else j.group k := by
  unfold Job.group Job.setGroup
  by_cases h : k = g
  · simp [h]
  · have hne : ¬ g.toNat = k.toNat := fun e => h (BitVec.eq_of_toNat_eq e.symm)
    have hp : (fun p : Nat × McastGroup => decide ((!(p.1 == g.toNat)) = true ∧ (p.1 == k.toNat) = true)) =
        fun p => p.1 == k.toNat := by
      funext p
      by_cases hp : p.1 = k.toNat
      · simp [hp, Ne.symm hne]
      · simp [hp]
    rw [List.find?_cons_of_neg (by simpa using hne), List.find?_filter, hp, if_neg h]

theorem McastGroup.take_last (m : McastGroup) (t : Taken) : (m.take t).taken.getLast? = some t := by
  simp [McastGroup.take]

/-! #### A multicast at its receiver (R75, R285, R298, R299) -/

section
variable (s : State) (g : BitVec 12) (chip : BitVec 20) (core : BitVec 3) (seq : BitVec 16) (rs : List (Nat × List Byte))
  (note : Option (BitVec 6 × BitVec 8)) (back : Fin 64)

/-- A transfer that the receiver has not taken before is dropped when the log records it so, in replay mode, or else when it has not been
released. -/
def State.dropsMcast : Bool :=
  if s.job.st == .running && s.job.replays then (s.loggedDrop (mdropKey g chip core seq)).isSome else !s.released (s.job.group g)

/-- The job as a drop leaves its log: read up to the drop in replay mode, with one record more otherwise (R359). -/
def State.dropJob : Job :=
  if s.job.st == .running && s.job.replays then (s.loggedDrop (mdropKey g chip core seq)).getD s.job
  else if s.job.st == .running then (s.job.append 3 0 0 (mdropKey g chip core seq) []).1 else s.job

/-- A transfer whose window check fails is logged. -/
def State.mcastRefused (c : BitVec 8) (ws : List Nat) : State :=
  (s.noteWords 0 (fun _ => noDpi) ws).note Code.inboundRefused 0x28 0 0 noDpi (peerDetail chip core c)

/-- A transfer is delivered. -/
def State.mcastDelivered : State :=
  let m := s.job.group g
  let s1 := (s.withJob (s.job.setGroup g ({ m with delivered := m.delivered + 1, owes := true }.take ⟨chip, core, seq, true⟩))).withSpad
    (s.spad.write (runWrites rs))
  match note with | some n => s1.signal ⟨n.1, n.2⟩ | none => s1

/-- A transfer is dropped. -/
def State.mcastDropped : State :=
  (s.withJob ((s.dropJob g chip core seq).setGroup g ((s.job.group g).take ⟨chip, core, seq, false⟩))).dropMcast (s.job.group g) g seq

/-- What a receiver makes of a transfer, and what it reports. -/
def State.received : State × BitVec 2 :=
  if !s.live then (s, 2)
  else match s.writeCause (runWrites rs) with
    | some (c, ws) => (s.mcastRefused chip core c ws, 2)
    | none => match (s.job.group g).took chip core seq with
      | some d => if d then (s.withSpad (s.spad.write (runWrites rs)), 0) else (s, 1)
      | none =>
        if s.dropsMcast g chip core seq then (s.mcastDropped g chip core seq, 1) else (s.mcastDelivered g chip core seq rs note, 0)

theorem State.receiveMcast_eq :
    s.receiveMcast g chip core seq rs note back =
      (s.received g chip core seq rs note).1.reportMcast g chip core seq rs back (s.received g chip core seq rs note).2 := by
  unfold State.receiveMcast State.received
  dsimp only
  split
  · rfl
  · cases s.writeCause (runWrites rs) with
    | some p => rfl
    | none =>
      dsimp only
      cases (s.job.group g).took chip core seq with
      | some d => cases d <;> rfl
      | none =>
        unfold State.dropsMcast State.mcastDropped State.dropJob
        dsimp only
        split
        · cases s.loggedDrop (mdropKey g chip core seq) <;> rfl
        · cases s.released (s.job.group g) <;> rfl

end

end Sys2Proof.Machine
end

section
namespace Sys2Proof.Machine

/-! #### What each outcome of a multicast leaves of the receiver -/

/-- The identity and the ports are the same. -/
def sameSender (s t : State) : Prop := t.id = s.id ∧ t.fp = s.fp

theorem onlyNote_sameSender {s t : State} (h : onlyNote s t) : sameSender s t := by
  obtain ⟨hrest, -⟩ := h
  exact ⟨(congrArg State.id hrest).trans rfl, (congrArg State.fp hrest).trans rfl⟩

theorem onlyNote_spad {s t : State} (h : onlyNote s t) : t.spad = s.spad := by
  obtain ⟨hrest, -⟩ := h
  exact (congrArg State.spad hrest).trans rfl

/-- Only the log, the region table, the latched events, the hints and the messages may differ. -/
def noticed (s t : State) : Prop := sameSender s t ∧ t.spad = s.spad ∧ t.iu = s.iu

theorem noticed_refl (s : State) : noticed s s := ⟨⟨rfl, rfl⟩, rfl, rfl⟩

theorem noticed_trans (a b c : State) (hab : noticed a b) (hbc : noticed b c) : noticed a c := by
  obtain ⟨⟨hid, hfp⟩, hspad, hiu⟩ := hab
  obtain ⟨⟨hid', hfp'⟩, hspad', hiu'⟩ := hbc
  exact ⟨⟨hid'.trans hid, hfp'.trans hfp⟩, hspad'.trans hspad, hiu'.trans hiu⟩

theorem noticed_of_onlyNote {s t : State} (h : onlyNote s t) : noticed s t :=
  ⟨onlyNote_sameSender h, onlyNote_spad h, onlyNote_iu h⟩

theorem noticed_of_onlyRg {s t : State} (h : onlyRg s t) : noticed s t :=
  ⟨⟨(congrArg State.id h).trans rfl, (congrArg State.fp h).trans rfl⟩, (congrArg State.spad h).trans rfl, onlyRg_iu h⟩

theorem State.noteWords_noticed (s : State) (task : BitVec 2) (dpi : Nat → W64) (ws : List Nat) :
    noticed s (s.noteWords task dpi ws) :=
  foldl_only noticed noticed_refl noticed_trans _
    (fun s w => noticed_trans _ _ _ (noticed_of_onlyNote (s.noteFor_only task Code.uncorrectable 0x47 0 (s.bankLoc (8 * w)) (dpi w)
      (wordDetail [w]))) (noticed_of_onlyRg (State.poisonWords_only _ [w]))) ws s

theorem State.mcastRefused_noticed (s : State) (chip : BitVec 20) (core : BitVec 3) (c : BitVec 8) (ws : List Nat) :
    noticed s (s.mcastRefused chip core c ws) :=
  noticed_trans _ _ _ (s.noteWords_noticed 0 (fun _ => noDpi) ws) (noticed_of_onlyNote (State.note_only _ _ _ _ _ _ _))

/-- A delivered transfer lands its bytes and its notify, and the receiver owes a release notice (R298, R299). -/
theorem State.mcastDelivered_effect (s : State) (g : BitVec 12) (chip : BitVec 20) (core : BitVec 3) (seq : BitVec 16)
    (rs : List (Nat × List Byte)) (note : Option (BitVec 6 × BitVec 8)) :
    let m := s.job.group g
    let v := s.mcastDelivered g chip core seq rs note
    sameSender s v ∧ v.out = s.out ∧ v.spad = s.spad.write (runWrites rs) ∧
    v.job = s.job.setGroup g ({ m with delivered := m.delivered + 1, owes := true }.take ⟨chip, core, seq, true⟩) ∧
    ∀ i, v.ec i = s.ec i + (match note with | some n => if n.1 = i then n.2.setWidth 16 else 0 | none => 0) := by
  cases note with
  | none => exact ⟨⟨rfl, rfl⟩, rfl, rfl, rfl, fun i => by simp; rfl⟩
  | some n =>
    obtain ⟨hrest, -⟩ := State.signal_frame ((s.withJob (s.job.setGroup g
      ({ s.job.group g with delivered := (s.job.group g).delivered + 1, owes := true }.take ⟨chip, core, seq, true⟩))).withSpad
        (s.spad.write (runWrites rs))) ⟨n.1, n.2⟩
    exact ⟨⟨(congrArg State.id hrest :), (congrArg State.fp hrest :)⟩, (congrArg State.out hrest :), (congrArg State.spad hrest :),
      (congrArg State.job hrest :), fun i => State.ec_signal _ ⟨n.1, n.2⟩ i⟩

theorem State.dropMcast_eq (s : State) (m : McastGroup) (g : BitVec 12) (seq : BitVec 16) :
    ∃ e : LogEntry, e.code = Code.mcastDrop ∧ s.dropMcast m g seq = (s.addEc m.rlateEc 1).addLog e := by
  have hplain : hintable Code.mcastDrop 0x28 = false := by decide
  exact ⟨_, rfl, State.note_of_not_hintable hplain _ _ _ _ _⟩

/-- A dropped transfer counts in RLATE and is logged; nothing lands (R298, R299). -/
theorem State.mcastDropped_effect (s : State) (g : BitVec 12) (chip : BitVec 20) (core : BitVec 3) (seq : BitVec 16) :
    let v := s.mcastDropped g chip core seq
    sameSender s v ∧ v.spad = s.spad ∧ v.iu = (s.addEc (s.job.group g).rlateEc 1).iu ∧
    v.job.group g = (s.job.group g).take ⟨chip, core, seq, false⟩ ∧ logged s v Code.mcastDrop := by
  dsimp only
  unfold State.mcastDropped
  generalize hj : (s.dropJob g chip core seq).setGroup g ((s.job.group g).take ⟨chip, core, seq, false⟩) = j
  obtain ⟨e, hcode, heq⟩ := (s.withJob j).dropMcast_eq (s.job.group g) g seq
  rw [heq]
  obtain ⟨-, hiu, hspad, -, hjob, -, hfp⟩ := State.addLog_frame ((s.withJob j).addEc (s.job.group g).rlateEc 1) e
  obtain ⟨-, hid, -⟩ := State.addLog_sameOutside ((s.withJob j).addEc (s.job.group g).rlateEc 1) e
  have hlog := State.addLog_logged ((s.withJob j).addEc (s.job.group g).rlateEc 1) e
  rw [hcode] at hlog
  refine ⟨⟨hid, hfp⟩, hspad, hiu, ?_, hlog⟩
  rw [hjob]
  show j.group g = _
  rw [← hj, Job.group_setGroup, if_pos rfl]

/-- A transfer that the receiver has taken before leaves its bytes again where it was delivered (R285). -/
def State.mcastAgain (s : State) (rs : List (Nat × List Byte)) (d : Bool) : State :=
  if d then s.withSpad (s.spad.write (runWrites rs)) else s

/-! #### The outcomes (R75, R284, R285, R298) -/

section
variable {s : State} {g : BitVec 12} {chip : BitVec 20} {core : BitVec 3} {seq : BitVec 16} {rs : List (Nat × List Byte)}
  {note : Option (BitVec 6 × BitVec 8)}

theorem State.received_dead (h : s.live = false) : s.received g chip core seq rs note = (s, 2) := by
  simp [State.received, h]

theorem State.received_refused (h : s.live = true) {c : BitVec 8} {ws : List Nat} (hc : s.writeCause (runWrites rs) = some (c, ws)) :
    s.received g chip core seq rs note = (s.mcastRefused chip core c ws, 2) := by
  simp [State.received, h, hc]

theorem State.received_again (h : s.live = true) (hc : s.writeCause (runWrites rs) = none) {d : Bool}
    (hd : (s.job.group g).took chip core seq = some d) :
    s.received g chip core seq rs note = (s.mcastAgain rs d, if d then 0 else 1) := by
  cases d <;> simp [State.received, State.mcastAgain, h, hc, hd]

theorem State.received_dropped (h : s.live = true) (hc : s.writeCause (runWrites rs) = none)
    (hd : (s.job.group g).took chip core seq = none) (hdrop : s.dropsMcast g chip core seq = true) :
    s.received g chip core seq rs note = (s.mcastDropped g chip core seq, 1) := by
  simp [State.received, h, hc, hd, hdrop]

theorem State.received_delivered (h : s.live = true) (hc : s.writeCause (runWrites rs) = none)
    (hd : (s.job.group g).took chip core seq = none) (hdrop : s.dropsMcast g chip core seq = false) :
    s.received g chip core seq rs note = (s.mcastDelivered g chip core seq rs note, 0) := by
  simp [State.received, h, hc, hd, hdrop]

/-- Every transfer is refused, taken again, dropped or delivered. -/
theorem State.received_cases (s : State) (g : BitVec 12) (chip : BitVec 20) (core : BitVec 3) (seq : BitVec 16)
    (rs : List (Nat × List Byte)) (note : Option (BitVec 6 × BitVec 8)) {P : State × BitVec 2 → Prop}
    (hdead : s.live = false → P (s, 2))
    (hrefused : s.live = true → ∀ c ws, s.writeCause (runWrites rs) = some (c, ws) → P (s.mcastRefused chip core c ws, 2))
    (hagain : s.live = true → s.writeCause (runWrites rs) = none → ∀ d, (s.job.group g).took chip core seq = some d →
      P (s.mcastAgain rs d, if d then 0 else 1))
    (hdropped : s.live = true → s.writeCause (runWrites rs) = none → (s.job.group g).took chip core seq = none →
      s.dropsMcast g chip core seq = true → P (s.mcastDropped g chip core seq, 1))
    (hdelivered : s.live = true → s.writeCause (runWrites rs) = none → (s.job.group g).took chip core seq = none →
      s.dropsMcast g chip core seq = false → P (s.mcastDelivered g chip core seq rs note, 0)) :
    P (s.received g chip core seq rs note) := by
  cases hl : s.live
  · exact State.received_dead hl ▸ hdead hl
  · cases hc : s.writeCause (runWrites rs) with
    | some p => exact State.received_refused hl hc ▸ hrefused hl p.1 p.2 hc
    | none =>
      cases hd : (s.job.group g).took chip core seq with
      | some d => exact State.received_again hl hc hd ▸ hagain hl hc d hd
      | none =>
        cases hdrop : s.dropsMcast g chip core seq
        · exact State.received_delivered hl hc hd hdrop ▸ hdelivered hl hc hd hdrop
        · exact State.received_dropped hl hc hd hdrop ▸ hdropped hl hc hd hdrop

theorem State.mcastAgain_sameSender (s : State) (rs : List (Nat × List Byte)) (d : Bool) : sameSender s (s.mcastAgain rs d) := by
  cases d <;> exact ⟨rfl, rfl⟩

theorem State.received_sameSender (s : State) (g : BitVec 12) (chip : BitVec 20) (core : BitVec 3) (seq : BitVec 16)
    (rs : List (Nat × List Byte)) (note : Option (BitVec 6 × BitVec 8)) :
    sameSender s (s.received g chip core seq rs note).1 :=
  State.received_cases s g chip core seq rs note (P := fun p => sameSender s p.1) (fun _ => ⟨rfl, rfl⟩)
    (fun _ c ws _ => (s.mcastRefused_noticed chip core c ws).1) (fun _ _ d _ => s.mcastAgain_sameSender rs d)
    (fun _ _ _ _ => (s.mcastDropped_effect g chip core seq).1)
    (fun _ _ _ _ => (s.mcastDelivered_effect g chip core seq rs note).1)

/-- A write of whole words, or over sound ones, is not refused for a word that it would merge into (R64). -/
theorem State.narrow_of_writeCause {ws : Bytes} (h : s.writeCause ws = none) : s.spad.narrow ws = [] := by
  unfold State.writeCause at h
  split at h
  · cases h
  · split at h
    · cases h
    · split at h
      · next hn => exact hn
      · cases h

theorem State.mem_wf_of_memoryOk (h : s.memoryOk = true) : s.spad.mem.wf = true := by
  simp only [State.memoryOk, Bool.and_eq_true] at h
  obtain ⟨⟨⟨⟨⟨hwf, -⟩, -⟩, -⟩, -⟩, -⟩ := h
  exact hwf

/-- The report of a multicast changes nothing but the messages and the ports. -/
theorem State.reportMcast_rest (u : State) (back : Fin 64) (r : BitVec 2) :
    let t := u.reportMcast g chip core seq rs back r
    t.spad = u.spad ∧ t.iu = u.iu ∧ t.job = u.job ∧ t.err = u.err := by
  have h : ((u.reportMcast g chip core seq rs back r).withFp u.fp).withOut u.out = u := u.answer_rest _ _ _
  exact ⟨(congrArg State.spad h :), (congrArg State.iu h :), (congrArg State.job h :), (congrArg State.err h :)⟩

/-- The bytes that a write without a merge leaves (R64). -/
theorem State.byte_of_written {t : State} {ws : Bytes} (hwf : s.spad.mem.wf = true) (hn : s.spad.narrow ws = [])
    (h : t.spad = s.spad.write ws) (a : Nat) : t.byte a = lastByte ws a (s.byte a) := by
  simp only [State.byte, h, Spad.get_write s.spad ws hwf hn a]

end

/-- MCAST_WRITE of a transfer of the chip (R75, R284, R285, R298, R299). -/
theorem mcastWrite_effect (s : State) (g : BitVec 12) (chip : BitVec 20) (core : BitVec 3) (seq : BitVec 16) (rs : List (Nat × List Byte))
    (note : Option (BitVec 6 × BitVec 8)) (back : Fin 64) (hmem : s.memoryOk = true) :
    ∃ t u : State, exec (.mcastWrite g chip core seq rs ⟨note, none, back⟩) s = .next t ∧ u.id = s.id ∧ u.fp = s.fp ∧
      (∀ r, chip = s.id.chip → u.reportMcast g chip core seq rs back r = u.emit (.mreport g chip core seq r)) ∧
      (s.live = false → t = s.reportMcast g chip core seq rs back 2) ∧
      (s.live = true → s.writeCause (runWrites rs) ≠ none →
        t = u.reportMcast g chip core seq rs back 2 ∧ t.spad.mem = s.spad.mem ∧ ∀ i, t.ec i = s.ec i) ∧
      (s.live = true → s.writeCause (runWrites rs) = none → (s.job.group g).took chip core seq = none →
        s.dropsMcast g chip core seq = false →
        (∀ a, t.byte a = lastByte (runWrites rs) a (s.byte a)) ∧ t = u.reportMcast g chip core seq rs back 0 ∧ u.out = s.out ∧
        (t.job.group g).taken.getLast? = some ⟨chip, core, seq, true⟩ ∧
        (t.job.group g).delivered = (s.job.group g).delivered + 1 ∧ (t.job.group g).owes = true ∧
        (∀ i, t.ec i = s.ec i + (match note with | some n => if n.1 = i then n.2.setWidth 16 else 0 | none => 0))) ∧
      (s.live = true → s.writeCause (runWrites rs) = none → (s.job.group g).took chip core seq = none →
        s.dropsMcast g chip core seq = true →
        t.spad = s.spad ∧ t = u.reportMcast g chip core seq rs back 1 ∧ (t.job.group g).owes = (s.job.group g).owes ∧
        (t.job.group g).taken.getLast? = some ⟨chip, core, seq, false⟩ ∧
        (t.job.group g).delivered = (s.job.group g).delivered ∧
        (∀ i, t.ec i = s.ec i + (if i = (s.job.group g).rlateEc then 1 else 0)) ∧ logged s t Code.mcastDrop) ∧
      ∀ d, s.live = true → s.writeCause (runWrites rs) = none → (s.job.group g).took chip core seq = some d →
        t = u.reportMcast g chip core seq rs back (if d then 0 else 1) ∧ u.withSpad s.spad = s ∧
        ∀ a, t.byte a = if d then lastByte (runWrites rs) a (s.byte a) else s.byte a := by
  have hwf := State.mem_wf_of_memoryOk hmem
  have hrun : exec (.mcastWrite g chip core seq rs ⟨note, none, back⟩) s = .next (s.receiveMcast g chip core seq rs note back) := rfl
  rw [State.receiveMcast_eq] at hrun
  obtain ⟨hid, hfp⟩ := s.received_sameSender g chip core seq rs note
  obtain ⟨hspad, hiu, hjob, herr⟩ := State.reportMcast_rest (g := g) (chip := chip) (core := core) (seq := seq) (rs := rs)
    (s.received g chip core seq rs note).1 back (s.received g chip core seq rs note).2
  refine ⟨_, (s.received g chip core seq rs note).1, hrun, hid, hfp, fun r hchip => State.answer_local (hchip.trans (by rw [hid])) _ _,
    fun hl => ?_, fun hl hc => ?_, fun hl hc hd hdrop => ?_, fun hl hc hd hdrop => ?_, fun d hl hc hd => ?_⟩
  · rw [State.received_dead hl]
  · obtain ⟨⟨c, ws⟩, hcause⟩ := Option.ne_none_iff_exists'.mp hc
    rw [State.received_refused hl hcause] at hspad hiu ⊢
    obtain ⟨-, hspad', hiu'⟩ := s.mcastRefused_noticed chip core c ws
    exact ⟨rfl, congrArg Spad.mem (hspad.trans hspad'), fun i => State.ec_of_iu (congrArg Iu.ec (hiu.trans hiu')) i⟩
  · rw [State.received_delivered hl hc hd hdrop] at hspad hiu hjob ⊢
    obtain ⟨-, hout, hspad', hjob', hec⟩ := s.mcastDelivered_effect g chip core seq rs note
    have hgroup := congrArg (fun j => j.group g) (hjob.trans hjob')
    rw [Job.group_setGroup, if_pos rfl] at hgroup
    refine ⟨State.byte_of_written hwf (State.narrow_of_writeCause hc) (hspad.trans hspad'), rfl, hout, ?_, ?_, ?_, fun i => ?_⟩
    · exact hgroup ▸ McastGroup.take_last _ _
    · exact congrArg McastGroup.delivered hgroup
    · exact congrArg McastGroup.owes hgroup
    · rw [State.ec_of_iu (congrArg Iu.ec hiu), hec]
  · rw [State.received_dropped hl hc hd hdrop] at hspad hiu hjob herr ⊢
    obtain ⟨-, hspad', hiu', hgroup', hlog⟩ := s.mcastDropped_effect g chip core seq
    have hgroup := (congrArg (fun j => j.group g) hjob).trans hgroup'
    refine ⟨hspad.trans hspad', rfl, (congrArg McastGroup.owes hgroup).trans rfl, ?_,
      (congrArg McastGroup.delivered hgroup).trans rfl, fun i => ?_, ?_⟩
    · exact hgroup ▸ McastGroup.take_last _ _
    · rw [State.ec_of_iu (congrArg Iu.ec (hiu.trans hiu')), State.ec_addEc]
      split
      · next hi => rw [hi]
      · exact (BitVec.add_zero _).symm
    · simpa only [logged, herr] using hlog
  · rw [State.received_again hl hc hd] at hspad ⊢
    cases d
    · exact ⟨rfl, rfl, fun a => congrArg (fun sp : Spad => sp.mem.get a) hspad⟩
    · exact ⟨rfl, rfl, State.byte_of_written hwf (State.narrow_of_writeCause hc) hspad⟩

/-! #### What the messages sent so far do not decide -/

theorem State.mcastDelivered_withOut (s : State) (o : List Msg) (g : BitVec 12) (chip : BitVec 20) (core : BitVec 3) (seq : BitVec 16)
    (rs : List (Nat × List Byte)) (note : Option (BitVec 6 × BitVec 8)) :
    let v := (s.withOut o).mcastDelivered g chip core seq rs note
    v.spad = (s.mcastDelivered g chip core seq rs note).spad ∧ v.iu = (s.mcastDelivered g chip core seq rs note).iu := by
  cases note with
  | none => exact ⟨rfl, rfl⟩
  | some n =>
    unfold State.mcastDelivered State.signal
    dsimp only
    split <;> exact ⟨rfl, rfl⟩

/-- What a receiver makes of a transfer does not depend on the messages sent so far. -/
theorem State.received_withOut (s : State) (o : List Msg) (g : BitVec 12) (chip : BitVec 20) (core : BitVec 3) (seq : BitVec 16)
    (rs : List (Nat × List Byte)) (note : Option (BitVec 6 × BitVec 8)) :
    let v := ((s.withOut o).received g chip core seq rs note).1
    v.spad = (s.received g chip core seq rs note).1.spad ∧ v.iu = (s.received g chip core seq rs note).1.iu := by
  have hlive : (s.withOut o).live = s.live := rfl
  have hcause : (s.withOut o).writeCause (runWrites rs) = s.writeCause (runWrites rs) := rfl
  have htook : ((s.withOut o).job.group g).took chip core seq = (s.job.group g).took chip core seq := rfl
  have hdrops : (s.withOut o).dropsMcast g chip core seq = s.dropsMcast g chip core seq := rfl
  dsimp only
  cases hl : s.live
  · rw [State.received_dead hl, State.received_dead (hlive.trans hl)]
    exact ⟨rfl, rfl⟩
  · cases hc : s.writeCause (runWrites rs) with
    | some p =>
      obtain ⟨-, hspad, hiu⟩ := s.mcastRefused_noticed chip core p.1 p.2
      obtain ⟨-, hspad', hiu'⟩ := (s.withOut o).mcastRefused_noticed chip core p.1 p.2
      rw [State.received_refused hl hc, State.received_refused (hlive.trans hl) (hcause.trans hc)]
      exact ⟨hspad'.trans hspad.symm, hiu'.trans hiu.symm⟩
    | none =>
      cases hd : (s.job.group g).took chip core seq with
      | some d =>
        rw [State.received_again hl hc hd, State.received_again (hlive.trans hl) (hcause.trans hc) (htook.trans hd)]
        cases d <;> exact ⟨rfl, rfl⟩
      | none =>
        cases hdrop : s.dropsMcast g chip core seq
        · rw [State.received_delivered hl hc hd hdrop,
            State.received_delivered (hlive.trans hl) (hcause.trans hc) (htook.trans hd) (hdrops.trans hdrop)]
          exact s.mcastDelivered_withOut o g chip core seq rs note
        · obtain ⟨-, hspad, hiu, -⟩ := s.mcastDropped_effect g chip core seq
          obtain ⟨-, hspad', hiu', -⟩ := (s.withOut o).mcastDropped_effect g chip core seq
          rw [State.received_dropped hl hc hd hdrop,
            State.received_dropped (hlive.trans hl) (hcause.trans hc) (htook.trans hd) (hdrops.trans hdrop)]
          exact ⟨hspad'.trans hspad.symm, hiu'.trans hiu.symm⟩

/-! #### The messages sent -/

/-- The messages sent so far stay sent. -/
def sendsOn (s t : State) : Prop := s.out <+: t.out

theorem sendsOn_refl (s : State) : sendsOn s s := List.prefix_refl _

theorem sendsOn_trans (a b c : State) (hab : sendsOn a b) (hbc : sendsOn b c) : sendsOn a c := List.IsPrefix.trans hab hbc

theorem sendsOn_of_out {s t : State} (h : t.out = s.out) : sendsOn s t := by
  rw [sendsOn, h]

theorem State.emit_sendsOn (s : State) (m : Msg) : sendsOn s (s.emit m) := List.prefix_append _ _

theorem State.mem_out_emit (s : State) (m : Msg) : m ∈ (s.emit m).out := List.mem_append_right _ List.mem_cons_self

theorem sendsOn_mem {s t : State} (h : sendsOn s t) {m : Msg} (hm : m ∈ s.out) : m ∈ t.out := h.subset hm

theorem sendsOn_foldl {α : Type} {f : State → α → State} (hf : ∀ s a, sendsOn s (f s a)) (l : List α) (s : State) :
    sendsOn s (l.foldl f s) :=
  foldl_only sendsOn sendsOn_refl sendsOn_trans f hf l s

/-- What one step of a fold sends is among the messages at its end. -/
theorem mem_out_foldl {α : Type} {f : State → α → State} {P : State → Prop} (hf : ∀ s a, sendsOn s (f s a))
    (hP : ∀ s a, P s → P (f s a)) {m : Msg} {a : α} (ha : ∀ s, P s → m ∈ (f s a).out) {l : List α} (hl : a ∈ l) {s : State}
    (hs : P s) : m ∈ (l.foldl f s).out := by
  induction l generalizing s with
  | nil => cases hl
  | cons b l ih =>
    rw [List.foldl_cons]
    obtain rfl | hl := List.mem_cons.mp hl
    · exact sendsOn_mem (sendsOn_foldl hf l _) (ha s hs)
    · exact ih hl (hP s b hs)

theorem State.out_addLog (s : State) (e : LogEntry) : (s.addLog e).out = s.out := by
  obtain ⟨-, -, -, -, hout⟩ := State.addLog_sameOutside s e
  exact hout

theorem State.noteFor_sendsOn (s : State) (task : BitVec 2) (code : Code) (unit sub : BitVec 8) (loc : W32) (dpi detail : W64) :
    sendsOn s (s.noteFor task code unit sub loc dpi detail) := by
  have hlog := sendsOn_of_out (s.out_addLog (s.logEntry code .minor task unit sub loc dpi detail))
  unfold State.noteFor
  dsimp only
  split
  · generalize s.addLog (s.logEntry code .minor task unit sub loc dpi detail) = u at hlog ⊢
    have hhint : sendsOn u ((u.withJob { u.job with hints := (unit, loc) :: u.job.hints }).addLog
        (s.logEntry Code.repairHint .minor 0 unit sub loc noDpi 0)) :=
      sendsOn_of_out ((State.out_addLog _ _).trans rfl)
    exact sendsOn_trans _ _ _ hlog (sendsOn_trans _ _ _ hhint (State.emit_sendsOn _ _))
  · exact hlog

theorem sendsOn_of_onlyRg {s t : State} (h : onlyRg s t) : sendsOn s t := sendsOn_of_out ((congrArg State.out h).trans rfl)

theorem State.noteWords_sendsOn (s : State) (task : BitVec 2) (dpi : Nat → W64) (ws : List Nat) :
    sendsOn s (s.noteWords task dpi ws) :=
  sendsOn_foldl (fun s w => sendsOn_trans _ _ _
    (s.noteFor_sendsOn task Code.uncorrectable 0x47 0 (s.bankLoc (8 * w)) (dpi w) (wordDetail [w]))
    (sendsOn_of_onlyRg (State.poisonWords_only _ [w]))) ws s

theorem State.sendPackets_sendsOn (s : State) (q agent : Nat) (task : Fin 4) (dpi : W64) (ps : List (List FabUnit)) :
    sendsOn s (s.sendPackets q agent task dpi ps) := by
  refine sendsOn_foldl (fun s us => ?_) ps s
  dsimp only
  split
  · exact sendsOn_of_out rfl
  · exact s.emit_sendsOn _

theorem State.received_sendsOn (s : State) (g : BitVec 12) (chip : BitVec 20) (core : BitVec 3) (seq : BitVec 16)
    (rs : List (Nat × List Byte)) (note : Option (BitVec 6 × BitVec 8)) :
    sendsOn s (s.received g chip core seq rs note).1 :=
  State.received_cases s g chip core seq rs note (P := fun p => sendsOn s p.1) (fun _ => sendsOn_refl s)
    (fun _ c ws _ => sendsOn_trans _ _ _ (s.noteWords_sendsOn 0 (fun _ => noDpi) ws) (State.noteFor_sendsOn _ _ _ _ _ _ _ _))
    (fun _ _ d _ => by cases d <;> exact sendsOn_of_out rfl)
    (fun _ _ _ _ => by
      obtain ⟨e, -, heq⟩ := (s.withJob ((s.dropJob g chip core seq).setGroup g ((s.job.group g).take
        ⟨chip, core, seq, false⟩))).dropMcast_eq (s.job.group g) g seq
      rw [State.mcastDropped, heq]
      exact sendsOn_of_out ((State.out_addLog _ e).trans rfl))
    (fun _ _ _ _ => sendsOn_of_out (s.mcastDelivered_effect g chip core seq rs note).2.1)

theorem State.answer_sendsOn (s : State) (req : Requester) (m : Msg) (us : List FabUnit) : sendsOn s (s.answer req m us) := by
  unfold State.answer
  split
  · exact s.emit_sendsOn m
  · exact s.sendPackets_sendsOn _ _ _ _ _

end Sys2Proof.Machine
end

section
namespace Sys2Proof.Machine

/-! #### A multicast that arrives from the fabric (R317) -/

/-- Only the messages differ. -/
def onlyOut (s t : State) : Prop := t = s.withOut t.out

theorem onlyOut_refl (s : State) : onlyOut s s := rfl

theorem onlyOut_trans (a b c : State) (hab : onlyOut a b) (hbc : onlyOut b c) : onlyOut a c := by
  unfold onlyOut at *
  rw [hbc, hab]
  rfl

section
variable (g : BitVec 12) (chip : BitVec 20) (core : BitVec 3) (seq : BitVec 16) (rs : List (Nat × List Byte))
  (note : Option (BitVec 6 × BitVec 8)) (back : Fin 64) (e : BitVec 128)

/-- A multicast entry delivers a transfer to the core `c` of its LOCAL_CORES. -/
def State.toCore (s : State) (c : Nat) : State :=
  if !bit e (8 + c) then s
  else if c = s.id.core.toNat then s.receiveMcast g chip core seq rs note back
  else s.emit (.mcastTo c g chip core seq rs note)

/-- A multicast entry replicates a transfer onto the port `q` of its PORTS. -/
def State.toMcastPort (s : State) (q : Nat) : State :=
  if bit e (16 + q) then s.emit (.mcastOn q g chip core seq rs note) else s

theorem State.spreadMcast_eq {s : State} (hlive : s.live = true) (r : BitVec 12)
    (hv : routeValid (s.fa.route.get r.toNat) = true) (hm : routeMcast (s.fa.route.get r.toNat) = true) :
    s.spreadMcast g chip core seq rs note back r =
      (List.range 64).foldl (State.toMcastPort g chip core seq rs note (s.fa.route.get r.toNat))
        ((List.range 8).foldl (State.toCore g chip core seq rs note back (s.fa.route.get r.toNat)) s) := by
  unfold State.spreadMcast
  dsimp only
  rw [hlive, hv, hm]
  rfl

theorem State.spreadMcast_of_no_entry {s : State} (hlive : s.live = true) (r : BitVec 12)
    (h : routeValid (s.fa.route.get r.toNat) = false ∨ routeMcast (s.fa.route.get r.toNat) = false) :
    s.spreadMcast g chip core seq rs note back r = s.note Code.calMismatch 0x43 0 0 noDpi 0 := by
  unfold State.spreadMcast
  dsimp only
  rw [hlive, if_neg (by decide), if_pos]
  obtain h | h := h <;> simp [h]

theorem State.receiveMcast_sendsOn (s : State) : sendsOn s (s.receiveMcast g chip core seq rs note back) := by
  rw [State.receiveMcast_eq]
  exact sendsOn_trans _ _ _ (s.received_sendsOn g chip core seq rs note) (State.answer_sendsOn _ _ _ _)

theorem State.receiveMcast_id (s : State) : (s.receiveMcast g chip core seq rs note back).id = s.id := by
  rw [State.receiveMcast_eq]
  obtain ⟨hid, -⟩ := s.received_sameSender g chip core seq rs note
  exact (congrArg State.id (State.answer_rest _ _ _ _) :).trans hid

theorem State.toCore_sendsOn (s : State) (c : Nat) : sendsOn s (s.toCore g chip core seq rs note back e c) := by
  unfold State.toCore
  split
  · exact sendsOn_refl s
  · split
    · exact s.receiveMcast_sendsOn g chip core seq rs note back
    · exact s.emit_sendsOn _

theorem State.toCore_id (s : State) (c : Nat) : (s.toCore g chip core seq rs note back e c).id = s.id := by
  unfold State.toCore
  split
  · rfl
  · split
    · exact s.receiveMcast_id g chip core seq rs note back
    · rfl

theorem State.toCore_other {s : State} {c : Nat} (hc : c ≠ s.id.core.toNat) :
    onlyOut s (s.toCore g chip core seq rs note back e c) := by
  unfold State.toCore
  split
  · exact onlyOut_refl s
  · rfl

theorem State.toMcastPort_onlyOut (s : State) (q : Nat) : onlyOut s (s.toMcastPort g chip core seq rs note e q) := by
  unfold State.toMcastPort
  split <;> rfl

theorem State.toMcastPort_sendsOn (s : State) (q : Nat) : sendsOn s (s.toMcastPort g chip core seq rs note e q) := by
  unfold State.toMcastPort
  split
  · exact s.emit_sendsOn _
  · exact sendsOn_refl s

/-- The cores other than this one are only sent the transfer. -/
theorem State.foldl_toCore_others {l : List Nat} {s : State} (hl : s.id.core.toNat ∉ l) :
    onlyOut s (l.foldl (State.toCore g chip core seq rs note back e) s) := by
  induction l generalizing s with
  | nil => exact onlyOut_refl s
  | cons c l ih =>
    simp only [List.mem_cons, not_or] at hl
    obtain ⟨hc, hl⟩ := hl
    refine onlyOut_trans _ _ _ (State.toCore_other g chip core seq rs note back e (Ne.symm hc)) (ih ?_)
    rwa [State.toCore_id]

/-- What the transfer does at this core: all that it receives, where LOCAL_CORES names it. -/
theorem State.toCores_here (s : State) :
    let t := (List.range 8).foldl (State.toCore g chip core seq rs note back e) s
    let v := (s.received g chip core seq rs note).1
    t.spad = (if bit e (8 + s.id.core.toNat) then v.spad else s.spad) ∧
    t.iu = if bit e (8 + s.id.core.toNat) then v.iu else s.iu := by
  have hmem : s.id.core.toNat ∈ List.range 8 := List.mem_range.mpr s.id.core.isLt
  obtain ⟨pre, post, hsplit⟩ := List.append_of_mem hmem
  have hnodup := List.nodup_range (n := 8)
  rw [hsplit, List.nodup_append, List.nodup_cons] at hnodup
  obtain ⟨-, ⟨hpost, -⟩, hdisj⟩ := hnodup
  have hpre : s.id.core.toNat ∉ pre := fun h => hdisj _ h _ List.mem_cons_self rfl
  dsimp only
  rw [hsplit, List.foldl_append, List.foldl_cons]
  have hfirst := State.foldl_toCore_others g chip core seq rs note back e hpre
  generalize pre.foldl (State.toCore g chip core seq rs note back e) s = v at hfirst ⊢
  unfold onlyOut at hfirst
  have hid : (v.toCore g chip core seq rs note back e s.id.core.toNat).id = s.id := by
    rw [State.toCore_id, hfirst]
    rfl
  have hlast := State.foldl_toCore_others g chip core seq rs note back e
    (s := v.toCore g chip core seq rs note back e s.id.core.toNat) (l := post) (by rwa [hid])
  have hstep : (v.toCore g chip core seq rs note back e s.id.core.toNat) =
      if bit e (8 + s.id.core.toNat) then v.receiveMcast g chip core seq rs note back else v := by
    unfold State.toCore
    have hcore : s.id.core.toNat = v.id.core.toNat := by rw [hfirst]; rfl
    rw [if_pos hcore]
    cases bit e (8 + s.id.core.toNat) <;> rfl
  unfold onlyOut at hlast
  rw [hlast]
  generalize hw : (v.toCore g chip core seq rs note back e s.id.core.toNat) = w at hstep ⊢
  show w.spad = _ ∧ w.iu = _
  rw [hstep]
  split
  · obtain ⟨hspad, hiu, -⟩ := State.reportMcast_rest (g := g) (chip := chip) (core := core) (seq := seq) (rs := rs)
      (v.received g chip core seq rs note).1 back (v.received g chip core seq rs note).2
    obtain ⟨hspad', hiu'⟩ := s.received_withOut v.out g chip core seq rs note
    rw [← hfirst] at hspad' hiu'
    rw [State.receiveMcast_eq]
    exact ⟨hspad.trans hspad', hiu.trans hiu'⟩
  · rw [hfirst]
    exact ⟨rfl, rfl⟩

end

/-- MCAST_WRITE of a transfer from the fabric (R317). -/
theorem spread_effect (s : State) (g : BitVec 12) (chip : BitVec 20) (core : BitVec 3) (seq : BitVec 16) (rs : List (Nat × List Byte))
    (note : Option (BitVec 6 × BitVec 8)) (r : BitVec 12) (back : Fin 64) (hlive : s.live = true) :
    let e := s.fa.route.get r.toNat
    ∃ t u : State, exec (.mcastWrite g chip core seq rs ⟨note, some r, back⟩) s = .next t ∧
      exec (.mcastWrite g chip core seq rs ⟨note, none, back⟩) s = .next u ∧
      (routeValid e = false ∨ routeMcast e = false → logged s t Code.calMismatch ∧ t.spad = s.spad ∧ t.iu = s.iu) ∧
      (routeValid e = true → routeMcast e = true →
        t.spad = (if bit e (8 + s.id.core.toNat) then u.spad else s.spad) ∧
        (∀ i, t.ec i = (if bit e (8 + s.id.core.toNat) then u.ec i else s.ec i)) ∧
        (∀ c, c < 8 → c ≠ s.id.core.toNat → bit e (8 + c) = true → .mcastTo c g chip core seq rs note ∈ t.out) ∧
        ∀ q, q < 64 → bit e (16 + q) = true → .mcastOn q g chip core seq rs note ∈ t.out) := by
  have hrun : exec (.mcastWrite g chip core seq rs ⟨note, some r, back⟩) s =
    .next (s.spreadMcast g chip core seq rs note back r) := rfl
  have hrun' : exec (.mcastWrite g chip core seq rs ⟨note, none, back⟩) s =
    .next (s.receiveMcast g chip core seq rs note back) := rfl
  dsimp only
  refine ⟨_, _, hrun, hrun', fun hno => ?_, fun hv hm => ?_⟩
  · have hplain : hintable Code.calMismatch 0x43 = false := by decide
    rw [State.spreadMcast_of_no_entry g chip core seq rs note back hlive r hno, State.note_of_not_hintable hplain]
    obtain ⟨-, hiu, hspad, -⟩ := State.addLog_frame s (s.logEntry Code.calMismatch .minor 0 0x43 0 0 noDpi 0)
    exact ⟨State.addLog_logged s _, hspad, hiu⟩
  · rw [State.spreadMcast_eq g chip core seq rs note back hlive r hv hm, State.receiveMcast_eq]
    generalize s.fa.route.get r.toNat = e
    obtain ⟨hspad, hiu⟩ := s.toCores_here g chip core seq rs note back e
    obtain ⟨hspad', hiu', -⟩ := State.reportMcast_rest (g := g) (chip := chip) (core := core) (seq := seq) (rs := rs)
      (s.received g chip core seq rs note).1 back (s.received g chip core seq rs note).2
    have hto (c : Nat) (hc : c < 8) (hne : c ≠ s.id.core.toNat) (hb : bit e (8 + c) = true) :
        .mcastTo c g chip core seq rs note ∈ ((List.range 8).foldl (State.toCore g chip core seq rs note back e) s).out := by
      refine mem_out_foldl (P := fun v => v.id = s.id) (State.toCore_sendsOn g chip core seq rs note back e)
        (fun v a hv => (v.toCore_id g chip core seq rs note back e a).trans hv) (fun v hv => ?_) (List.mem_range.mpr hc) rfl
      have hcore : c ≠ v.id.core.toNat := by rwa [hv]
      simp only [State.toCore, hb, Bool.not_true, Bool.false_eq_true, if_false, if_neg hcore]
      exact v.mem_out_emit _
    generalize (List.range 8).foldl (State.toCore g chip core seq rs note back e) s = w at hspad hiu hto ⊢
    have hports : onlyOut w ((List.range 64).foldl (State.toMcastPort g chip core seq rs note e) w) :=
      foldl_only onlyOut onlyOut_refl onlyOut_trans _ (State.toMcastPort_onlyOut g chip core seq rs note e) _ w
    have hsent := sendsOn_foldl (State.toMcastPort_sendsOn g chip core seq rs note e) (List.range 64) w
    have hon (q : Nat) (hq : q < 64) (hb : bit e (16 + q) = true) :
        .mcastOn q g chip core seq rs note ∈ ((List.range 64).foldl (State.toMcastPort g chip core seq rs note e) w).out := by
      refine mem_out_foldl (P := fun _ => True) (State.toMcastPort_sendsOn g chip core seq rs note e)
        (fun _ _ _ => trivial) (fun v _ => ?_) (List.mem_range.mpr hq) trivial
      rw [State.toMcastPort, if_pos hb]
      exact v.mem_out_emit _
    generalize (List.range 64).foldl (State.toMcastPort g chip core seq rs note e) w = t at hports hsent hon ⊢
    refine ⟨?_, fun i => ?_, fun c hc hne hb => sendsOn_mem hsent (hto c hc hne hb), hon⟩
    · rw [hspad']
      exact ((congrArg State.spad hports).trans rfl).trans hspad
    · have ht : t.iu = w.iu := (congrArg State.iu hports).trans rfl
      simp only [State.ec, ht.trans hiu, hiu']
      split <;> rfl

/-! #### Release notices (R299) -/

/-- A group after a release notice: the receiver counts once, and the drops that it tells are known. -/
def McastGroup.addNotice (m : McastGroup) (chip : BitVec 20) (core : BitVec 3) (drops : List W64) : McastGroup :=
  { m with
    notices := if m.notices.contains (chip, core) then m.notices else m.notices ++ [(chip, core)]
    drops := m.drops ++ (drops.map fun d => (chip, core, d)).filter fun d => !m.drops.contains d }

theorem McastGroup.mem_drops_addNotice (m : McastGroup) (chip : BitVec 20) (core : BitVec 3) (drops : List W64)
    (x : BitVec 20 × BitVec 3 × W64) :
    x ∈ (m.addNotice chip core drops).drops ↔ x ∈ m.drops ∨ ∃ d ∈ drops, x = (chip, core, d) := by
  simp only [McastGroup.addNotice, List.mem_append, List.mem_filter, List.mem_map, Bool.not_eq_true', List.contains_eq_mem,
    decide_eq_false_iff_not, eq_comm (a := x)]
  tauto

theorem McastGroup.notices_addNotice (m : McastGroup) (chip : BitVec 20) (core : BitVec 3) (drops : List W64) :
    (m.addNotice chip core drops).notices =
      m.notices ++ if m.notices.contains (chip, core) then [] else [(chip, core)] := by
  unfold McastGroup.addNotice
  dsimp only
  split
  · exact (List.append_nil _).symm
  · rfl

theorem releaseNotice_effect (s : State) (g : BitVec 12) (chip : BitVec 20) (core : BitVec 3) (drops : List W64)
    (hjob : s.job.st = .running) :
    ∃ t, exec (.releaseNotice g chip ⟨core, drops⟩) s = .next t ∧
      (∀ x, x ∈ (t.job.group g).drops ↔ x ∈ (s.job.group g).drops ∨ ∃ d ∈ drops, x = (chip, core, d)) ∧
      (t.job.group g).notices = (s.job.group g).notices ++
        (if (s.job.group g).notices.contains (chip, core) then [] else [(chip, core)]) ∧
      (∀ k, k ≠ g → t.job.group k = s.job.group k) ∧ t.withJob s.job = s := by
  have hrun : exec (.releaseNotice g chip ⟨core, drops⟩) s =
      .next (s.withJob (s.job.setGroup g ((s.job.group g).addNotice chip core drops))) := by
    simp only [exec, execReleaseNotice, hjob, beq_self_eq_true, if_true]
    rfl
  refine ⟨_, hrun, fun x => ?_, ?_, fun k hk => ?_, rfl⟩
  · rw [State.withJob_job, Job.group_setGroup, if_pos rfl, McastGroup.mem_drops_addNotice]
  · rw [State.withJob_job, Job.group_setGroup, if_pos rfl, McastGroup.notices_addNotice]
  · rw [State.withJob_job, Job.group_setGroup, if_neg hk]

end Sys2Proof.Machine
end

section
namespace Sys2Proof.Machine

/-! #### What a route change leaves of the fabric (R325, R326) -/

/-- The routes, the identity and the state of the links are the same, and the messages sent stay sent. -/
def keepsFabric (s t : State) : Prop :=
  t.fa = s.fa ∧ t.id = s.id ∧ (∀ i : Fin 8, (t.port i).up = (s.port i).up) ∧ sendsOn s t

theorem keepsFabric_refl (s : State) : keepsFabric s s := ⟨rfl, rfl, fun _ => rfl, sendsOn_refl s⟩

theorem keepsFabric_trans (a b c : State) (hab : keepsFabric a b) (hbc : keepsFabric b c) : keepsFabric a c := by
  obtain ⟨hfa, hid, hup, hout⟩ := hab
  obtain ⟨hfa', hid', hup', hout'⟩ := hbc
  exact ⟨hfa'.trans hfa, hid'.trans hid, fun i => (hup' i).trans (hup i), sendsOn_trans _ _ _ hout hout'⟩

theorem keepsFabric_foldl {α : Type} {f : State → α → State} (hf : ∀ s a, keepsFabric s (f s a)) (l : List α) (s : State) :
    keepsFabric s (l.foldl f s) :=
  foldl_only keepsFabric keepsFabric_refl keepsFabric_trans f hf l s

theorem keepsFabric_of_sameOutside {s t : State} (h : sameOutside s t) : keepsFabric s t := by
  obtain ⟨-, hid, hfp, hfa, hout⟩ := h
  exact ⟨hfa, hid, fun i => by rw [State.port, State.port, hfp], sendsOn_of_out hout⟩

theorem keepsFabric_of_onlyRg {s t : State} (h : onlyRg s t) : keepsFabric s t :=
  keepsFabric_of_sameOutside (sameOutside_of_onlyRg h)

theorem keepsFabric_of_onlyNote {s t : State} (h : onlyNote s t) (hout : sendsOn s t) : keepsFabric s t := by
  obtain ⟨hid, hfp⟩ := onlyNote_sameSender h
  obtain ⟨hrest, -⟩ := h
  exact ⟨(congrArg State.fa hrest).trans rfl, hid, fun i => by rw [State.port, State.port, hfp], hout⟩

theorem State.noteFor_keepsFabric (s : State) (task : BitVec 2) (code : Code) (unit sub : BitVec 8) (loc : W32) (dpi detail : W64) :
    keepsFabric s (s.noteFor task code unit sub loc dpi detail) :=
  keepsFabric_of_onlyNote (s.noteFor_only task code unit sub loc dpi detail) (s.noteFor_sendsOn task code unit sub loc dpi detail)

theorem State.emit_keepsFabric (s : State) (m : Msg) : keepsFabric s (s.emit m) := ⟨rfl, rfl, fun _ => rfl, s.emit_sendsOn m⟩

theorem State.unsend_keepsFabric (s : State) (task : Fin 4) (dpi : W64) : keepsFabric s (s.unsend task dpi) :=
  ⟨rfl, rfl, fun i => by simp [State.unsend, State.port, State.withFp, mapVec], sendsOn_of_out rfl⟩

theorem State.queueUnits_keepsFabric (s : State) (p : Fin 8) (q : OutPacket) : keepsFabric s (s.queueUnits p q) := by
  refine ⟨rfl, rfl, fun i => ?_, sendsOn_of_out rfl⟩
  simp only [State.queueUnits, State.setPort, State.port, State.withFp_fp, Vector.getElem_set]
  split
  · next h => simp [h]
  · rfl

theorem State.sendPackets_keepsFabric (s : State) (q agent : Nat) (task : Fin 4) (dpi : W64) (ps : List (List FabUnit)) :
    keepsFabric s (s.sendPackets q agent task dpi ps) := by
  refine keepsFabric_foldl (fun s us => ?_) ps s
  dsimp only
  split
  · exact s.queueUnits_keepsFabric _ _
  · exact s.emit_keepsFabric _

theorem State.sendRuns_keepsFabric (s : State) (e : Fin 8) (i : Issued) (b : StreamBody) (bs : Bytes) (route : Option Nat)
    (path : BitVec 2) (us : List (Nat × Nat)) : keepsFabric s (s.sendRuns e i b bs route path us) := by
  unfold State.sendRuns
  split
  · exact s.sendPackets_keepsFabric _ _ _ _ _
  · split
    · exact keepsFabric_refl s
    · split
      · exact s.emit_keepsFabric _
      · exact keepsFabric_foldl (fun s u => s.emit_keepsFabric _) us s

theorem State.sendExport_keepsFabric (s : State) (u : UnitId) (i : Issued) (p : Exporting) :
    keepsFabric s (s.sendExport u i p) := by
  unfold State.sendExport
  split
  · exact s.sendPackets_keepsFabric _ _ _ _ _
  · exact s.emit_keepsFabric _

theorem State.setRun_keepsFabric (s : State) (e : Fin 8) (k : Fin 4) (t : Transfer) : keepsFabric s (s.setRun e k t) :=
  ⟨rfl, rfl, fun _ => rfl, sendsOn_of_out rfl⟩

theorem State.withIu_keepsFabric (s : State) (i : Iu) : keepsFabric s (s.withIu i) :=
  ⟨rfl, rfl, fun _ => rfl, sendsOn_of_out rfl⟩

theorem State.putExport_keepsFabric (s : State) (u : UnitId) (i : Issued) (p : Exporting) : keepsFabric s (s.putExport u i p) :=
  s.withIu_keepsFabric _

theorem State.closeRef_only (s : State) (e : Entry) : onlyRg s (s.closeRef e) := by
  rw [State.closeRef_eq_releaseRef]
  exact s.releaseRef_only e.ref

theorem State.abortTaskAt_keepsFabric (s : State) (t : Fin 4) (code : Code) (dpi : W64) (w : Site) (detail : W64) :
    keepsFabric s (s.abortTaskAt t code dpi w detail) :=
  keepsFabric_of_sameOutside (s.abortTaskAt_sameOutside t code dpi w detail)

/-- A transfer that fails poisons regions and aborts its task (R72, R79). -/
theorem State.failTransfer_keepsFabric (s : State) (e : Fin 8) (k : Fin 4) (t : Transfer) (b : StreamBody) (code : Code) (detail : W64)
    (ws : List Nat) : keepsFabric s (s.failTransfer e k t b code detail ws) := by
  have hset := s.setRun_keepsFabric e k { t with orphan := true, faulted := true }
  unfold State.failTransfer State.streamFault
  generalize s.setRun e k { t with orphan := true, faulted := true } = u at hset ⊢
  have hpoison : onlyRg u (if t.orphan then u
      else if b.dir then ((ownFarBytes u b).filterMap u.locate).foldl State.poison u else u.poison (b.region, t.halfB)) := by
    split
    · exact onlyRg_refl u
    · split
      · exact foldl_only onlyRg onlyRg_refl onlyRg_trans State.poison (fun s h => State.poison_only s h) _ u
      · exact u.poison_only _
  refine keepsFabric_trans _ _ _ hset (keepsFabric_trans _ _ _ ?_ (State.abortTaskAt_keepsFabric _ _ _ _ _ _))
  exact keepsFabric_of_onlyRg (onlyRg_trans _ _ _ hpoison (onlyRg_trans _ _ _ (State.poisonWords_only _ ws) (State.closeRef_only _ _)))

/-- A transfer whose route entry moves is sent again, or fails (R326). -/
theorem State.reroute_keepsFabric (s : State) (k : Nat) (v : BitVec 2) (e : Fin 8) (q : Fin 4) : keepsFabric s (s.reroute k v e q) := by
  unfold State.reroute
  split
  · exact keepsFabric_refl s
  · next t b _ =>
    split
    · exact keepsFabric_refl s
    · split
      · split
        · exact s.setRun_keepsFabric e q _
        · exact s.failTransfer_keepsFabric e q _ b _ _ _
      · refine keepsFabric_trans _ _ _ (keepsFabric_trans _ _ _ (keepsFabric_trans _ _ _
          (s.unsend_keepsFabric t.i.e.x.task t.i.e.x.dpi) (State.setRun_keepsFabric _ e q { t with path := v })) ?_)
          (State.noteFor_keepsFabric _ _ _ _ _ _ _ _)
        exact State.sendRuns_keepsFabric _ _ _ _ _ _ _ _

/-- What a command exports is sent again when its route entry moves, or fails (R326). -/
theorem State.exportReroute_keepsFabric (s : State) (k : Nat) (v : BitVec 2) (u : UnitId) (i : Issued) (p : Exporting) :
    keepsFabric s (s.exportReroute k v u i p) := by
  unfold State.exportReroute
  split
  · exact keepsFabric_refl s
  · split
    · unfold State.exportFail
      have hdrop : keepsFabric s (s.dropExec i) := s.withIu_keepsFabric _
      refine keepsFabric_trans _ _ _ (keepsFabric_trans _ _ _ hdrop ?_) (State.abortTaskAt_keepsFabric _ _ _ _ _ _)
      exact keepsFabric_of_onlyRg (onlyRg_trans _ _ _ (State.poisonOutputs_only _ i) (State.closeRef_only _ _))
    · refine keepsFabric_trans _ _ _ (keepsFabric_trans _ _ _ (keepsFabric_trans _ _ _
          (s.unsend_keepsFabric i.e.x.task i.e.x.dpi) (State.putExport_keepsFabric _ u i { p with path := v })) ?_)
          (State.noteFor_keepsFabric _ _ _ _ _ _ _ _)
      exact State.sendExport_keepsFabric _ u i { p with path := v }

theorem State.exportsReroute_keepsFabric (s : State) (k : Nat) (v : BitVec 2) : keepsFabric s (s.exportsReroute k v) := by
  refine keepsFabric_foldl (fun s x => ?_) s.iu.exec s
  split
  · exact s.exportReroute_keepsFabric k v _ _ _
  · exact keepsFabric_refl s

/-! #### The selections that move (R317, R325) -/

theorem State.portLive_of_fabric {s t : State} (hlive : t.fa.portLive = s.fa.portLive) (hid : t.id = s.id)
    (hup : ∀ i : Fin 8, (t.port i).up = (s.port i).up) (p : Nat) : t.portLive p = s.portLive p := by
  have hport (u : State) : u.fp.toList[p % 8]? = some (u.port ⟨p % 8, Nat.mod_lt _ (by decide)⟩) := by
    have hlt : p % 8 < u.fp.toList.length := by
      rw [Vector.length_toList]
      exact Nat.mod_lt _ (by decide)
    rw [List.getElem?_eq_getElem hlt]
    simp [State.port]
  unfold State.portLive
  rw [hid, hlive, hport t, hport s]
  simp only [hup]

theorem State.pathFrom_of_portLive {s t : State} (h : ∀ p, t.portLive p = s.portLive p) (e : BitVec 128) (k : Nat) :
    t.pathFrom e k = s.pathFrom e k := by
  simp only [State.pathFrom, h]

/-- Moving one selection leaves every other one. -/
theorem State.routeSel_setSel (s : State) (k j : Nat) (v : BitVec 2) :
    (s.setSel k v).routeSel j = if j = k ∧ k ∈ s.fa.sel.map Prod.fst then v else s.routeSel j := by
  have hkey : ((fun p : Nat × BitVec 2 => p.1 == j) ∘ fun p => if p.1 == k then (k, v) else p) = fun p => p.1 == j := by
    funext p
    by_cases hp : p.1 = k <;> simp [hp]
  simp only [State.routeSel, State.setSel, State.withFa_fa, List.find?_map, hkey]
  cases hf : s.fa.sel.find? fun p => p.1 == j with
  | none =>
    have hnot : ¬ (j = k ∧ k ∈ s.fa.sel.map Prod.fst) := by
      rintro ⟨rfl, hmem⟩
      obtain ⟨p, hp, hpj⟩ := List.mem_map.mp hmem
      exact absurd (List.find?_eq_none.mp hf p hp) (by simp [hpj])
    rw [if_neg hnot]
    rfl
  | some p =>
    have hp : p.1 = j := by simpa using List.find?_some hf
    have hmem : j ∈ s.fa.sel.map Prod.fst := List.mem_map.mpr ⟨p, List.mem_of_find?_eq_some hf, hp⟩
    by_cases hjk : j = k
    · rw [if_pos ⟨hjk, hjk ▸ hmem⟩]
      simp [hp, hjk]
    · rw [if_neg fun h => hjk h.1]
      simp [hp, hjk]

/-- The routes, the links and the identity are the same, only selections differ, and the messages sent stay sent. -/
def onlySel (s t : State) : Prop :=
  t.fa = { s.fa with sel := t.fa.sel } ∧ t.fa.sel.map Prod.fst = s.fa.sel.map Prod.fst ∧ t.id = s.id ∧
  (∀ i : Fin 8, (t.port i).up = (s.port i).up) ∧ sendsOn s t

theorem onlySel_refl (s : State) : onlySel s s := ⟨rfl, rfl, rfl, fun _ => rfl, sendsOn_refl s⟩

theorem onlySel_trans (a b c : State) (hab : onlySel a b) (hbc : onlySel b c) : onlySel a c := by
  obtain ⟨hfa, hkeys, hid, hup, hout⟩ := hab
  obtain ⟨hfa', hkeys', hid', hup', hout'⟩ := hbc
  exact ⟨hfa'.trans (congrArg (fun f : Fa => { f with sel := c.fa.sel }) hfa), hkeys'.trans hkeys, hid'.trans hid,
    fun i => (hup' i).trans (hup i), sendsOn_trans _ _ _ hout hout'⟩

theorem onlySel_of_keepsFabric {s t : State} (h : keepsFabric s t) : onlySel s t := by
  obtain ⟨hfa, hid, hup, hout⟩ := h
  exact ⟨by rw [hfa], by rw [hfa], hid, hup, hout⟩

theorem State.setSel_onlySel (s : State) (k : Nat) (v : BitVec 2) : onlySel s (s.setSel k v) := by
  refine ⟨rfl, ?_, rfl, fun _ => rfl, sendsOn_of_out rfl⟩
  simp only [State.setSel, State.withFa_fa, List.map_map]
  refine List.map_congr_left fun p _ => ?_
  by_cases hp : p.1 = k <;> simp [hp]

theorem State.pathFrom_of_onlySel {s t : State} (h : onlySel s t) (e : BitVec 128) (k : Nat) : t.pathFrom e k = s.pathFrom e k := by
  obtain ⟨hfa, -, hid, hup, -⟩ := h
  exact State.pathFrom_of_portLive (State.portLive_of_fabric ((congrArg Fa.portLive hfa).trans rfl) hid hup) e k

/-- An entry whose new selection is DEAD is reported (R326). -/
def State.noteDead (s : State) (en : BitVec 128) (v : BitVec 2) : State :=
  if v = 3#2 then (s.note Code.noPath 0x43 0 0 noDpi 0).emit (.noPath (fld en 8 20) (fld en 28 20)) else s

theorem State.noteDead_effect (s : State) (en : BitVec 128) (v : BitVec 2) :
    keepsFabric s (s.noteDead en v) ∧ (v = 3#2 → .noPath (fld en 8 20) (fld en 28 20) ∈ (s.noteDead en v).out) := by
  unfold State.noteDead
  split
  · exact ⟨keepsFabric_trans _ _ _ (s.noteFor_keepsFabric _ _ _ _ _ _ _) (State.emit_keepsFabric _ _),
      fun _ => State.mem_out_emit _ _⟩
  · next hv => exact ⟨keepsFabric_refl s, fun h => absurd h hv⟩

/-- Every transfer, and all that commands send to a peer, meets the new selection of a route entry (R326). -/
def State.rerouteAll (s : State) (k : Nat) (v : BitVec 2) : State :=
  (s.slotsInOrder.foldl (fun s q => s.reroute k v q.1 q.2) s).exportsReroute k v

theorem State.reroutes_keepsFabric (k : Nat) (v : BitVec 2) (l : List (Fin 8 × Fin 4)) (s : State) :
    keepsFabric s (l.foldl (fun s q => s.reroute k v q.1 q.2) s) :=
  keepsFabric_foldl (fun s (q : Fin 8 × Fin 4) => s.reroute_keepsFabric k v q.1 q.2) l s

theorem State.rerouteAll_keepsFabric (s : State) (k : Nat) (v : BitVec 2) : keepsFabric s (s.rerouteAll k v) :=
  keepsFabric_trans _ _ _ (State.reroutes_keepsFabric k v s.slotsInOrder s) (State.exportsReroute_keepsFabric _ k v)

theorem State.moveSel_eq (s : State) (k n : Nat) :
    s.moveSel k n = (((s.setSel k (s.pathFrom (s.fa.route.get k) (n + 1))).note Code.routeChange 0x43 0 0 noDpi 0).noteDead
      (s.fa.route.get k) (s.pathFrom (s.fa.route.get k) (n + 1))).rerouteAll k (s.pathFrom (s.fa.route.get k) (n + 1)) := rfl

/-- A selection that moves takes the next path with a live first port; an entry that has none is reported (R325, R326). -/
theorem State.moveSel_effect (s : State) (k n : Nat) :
    let v := s.pathFrom (s.fa.route.get k) (n + 1)
    onlySel s (s.moveSel k n) ∧ (s.moveSel k n).fa = (s.setSel k v).fa ∧
    (v = 3#2 → .noPath (fld (s.fa.route.get k) 8 20) (fld (s.fa.route.get k) 28 20) ∈ (s.moveSel k n).out) := by
  dsimp only
  rw [State.moveSel_eq]
  generalize s.pathFrom (s.fa.route.get k) (n + 1) = v
  generalize s.fa.route.get k = en
  have hset := s.setSel_onlySel k v
  generalize s.setSel k v = u at hset ⊢
  have hnote : keepsFabric u (u.note Code.routeChange 0x43 0 0 noDpi 0) := u.noteFor_keepsFabric _ _ _ _ _ _ _
  generalize u.note Code.routeChange 0x43 0 0 noDpi 0 = w at hnote ⊢
  obtain ⟨hdead, hreport⟩ := w.noteDead_effect en v
  generalize w.noteDead en v = x at hdead hreport ⊢
  have hrest := x.rerouteAll_keepsFabric k v
  have hall := keepsFabric_trans _ _ _ hnote (keepsFabric_trans _ _ _ hdead hrest)
  obtain ⟨-, -, -, hsent⟩ := hrest
  exact ⟨onlySel_trans _ _ _ hset (onlySel_of_keepsFabric hall), hall.1, fun hv => sendsOn_mem hsent (hreport hv)⟩

/-- The selections of several distinct entries move, each by its own route and from its own selection. -/
theorem State.foldl_moveSel {l : List (Nat × Nat)} {s : State} (hl : (l.map Prod.fst).Nodup)
    (hkeys : ∀ p ∈ l, p.1 ∈ s.fa.sel.map Prod.fst) :
    let t := l.foldl (fun s p => s.moveSel p.1 p.2) s
    onlySel s t ∧ (∀ k v, (k, v) ∈ l → t.routeSel k = s.pathFrom (s.fa.route.get k) (v + 1)) ∧
    (∀ k, k ∉ l.map Prod.fst → t.routeSel k = s.routeSel k) ∧
    ∀ k v, (k, v) ∈ l → s.pathFrom (s.fa.route.get k) (v + 1) = 3#2 →
      .noPath (fld (s.fa.route.get k) 8 20) (fld (s.fa.route.get k) 28 20) ∈ t.out := by
  induction l generalizing s with
  | nil => exact ⟨onlySel_refl s, fun _ _ h => absurd h List.not_mem_nil, fun _ _ => rfl, fun _ _ h => absurd h List.not_mem_nil⟩
  | cons p l ih =>
    obtain ⟨j, n⟩ := p
    rw [List.map_cons, List.nodup_cons] at hl
    obtain ⟨hj, hl⟩ := hl
    obtain ⟨hmove, hfa, hdead⟩ := s.moveSel_effect j n
    have hjkey : j ∈ s.fa.sel.map Prod.fst := hkeys (j, n) List.mem_cons_self
    have hsel (k : Nat) : (s.moveSel j n).routeSel k =
        if k = j then s.pathFrom (s.fa.route.get j) (n + 1) else s.routeSel k := by
      have h := s.routeSel_setSel j k (s.pathFrom (s.fa.route.get j) (n + 1))
      simp only [hjkey, and_true] at h
      rw [← h]
      simp only [State.routeSel, hfa]
    have hpath (k v : Nat) : (s.moveSel j n).pathFrom ((s.moveSel j n).fa.route.get k) (v + 1) =
        s.pathFrom (s.fa.route.get k) (v + 1) := by
      rw [State.pathFrom_of_onlySel hmove, hfa]
      rfl
    have hroute : (s.moveSel j n).fa.route = s.fa.route := by
      rw [hfa]
      rfl
    have hkeys' : ∀ p ∈ l, p.1 ∈ (s.moveSel j n).fa.sel.map Prod.fst := fun p hp => by
      rw [hmove.2.1]
      exact hkeys p (List.mem_cons_of_mem _ hp)
    obtain ⟨hrest, hmoved, hkept, hreported⟩ := ih hl hkeys'
    dsimp only
    rw [List.foldl_cons]
    refine ⟨onlySel_trans _ _ _ hmove hrest, fun k v hkv => ?_, fun k hk => ?_, fun k v hkv hv => ?_⟩
    · obtain heq | hkv := List.mem_cons.mp hkv
      · obtain ⟨rfl, rfl⟩ := Prod.mk.inj heq
        rw [hkept k hj, hsel, if_pos rfl]
      · rw [hmoved k v hkv, hpath]
    · simp only [List.map_cons, List.mem_cons, not_or] at hk
      rw [hkept k hk.2, hsel, if_neg hk.1]
    · obtain heq | hkv := List.mem_cons.mp hkv
      · obtain ⟨rfl, rfl⟩ := Prod.mk.inj heq
        obtain ⟨-, -, -, -, hsent⟩ := hrest
        exact sendsOn_mem hsent (hdead hv)
      · have h := hreported k v hkv ((hpath k v).trans hv)
        rwa [hroute] at h

/-- An entry whose selection uses a port is one that has a selection. -/
theorem State.keys_entriesOn (s : State) (q : Nat) : ((s.entriesOn q).map Prod.fst).Sublist (s.fa.sel.map Prod.fst) := by
  unfold State.entriesOn
  induction s.fa.sel with
  | nil => exact List.Sublist.slnil
  | cons p l ih =>
    rw [List.filterMap_cons]
    dsimp only
    split
    · exact ih.cons _
    · next h =>
      split at h
      · rw [← Option.some.inj h]
        exact ih.cons_cons _
      · cases h

theorem State.mem_keys_of_entriesOn {s : State} {q : Nat} (p : Nat × Nat) (hp : p ∈ s.entriesOn q) :
    p.1 ∈ s.fa.sel.map Prod.fst := (s.keys_entriesOn q).subset (List.mem_map_of_mem hp)

theorem exec_portDownNotice {s : State} (hlive : s.live = true) (p : Fin 64) :
    let u := s.withFa { s.fa with portLive := s.fa.portLive &&& ~~~(1#64 <<< p.1) }
    exec (.portDownNotice p) s = .next (if s.job.st == .running
      then s.follow ((u.entriesOn p.1).foldl (fun s p => s.moveSel p.1 p.2) u) else u) := by
  have h : exec (.portDownNotice p) s = .next (if s.live then s.losePort p else s) := rfl
  dsimp only
  rw [h, hlive]
  rfl

/-- A port that goes down between jobs is only marked so. -/
theorem portDown_idle {s : State} (hlive : s.live = true) (hjob : s.job.st ≠ .running) (p : Fin 64) :
    exec (.portDownNotice p) s = .next (s.withFa { s.fa with portLive := s.fa.portLive &&& ~~~(1#64 <<< p.1) }) := by
  rw [exec_portDownNotice hlive, if_neg (by simpa using hjob)]

/-- A port that goes down in a job moves the selections that use it (R325). -/
theorem portDown_moves {s : State} (hlive : s.live = true) (hjob : s.job.st = .running) (hkeys : (s.fa.sel.map Prod.fst).Nodup)
    (p : Fin 64) :
    let u := s.withFa { s.fa with portLive := s.fa.portLive &&& ~~~(1#64 <<< p.1) }
    ∃ t, exec (.portDownNotice p) s = .next t ∧ t.fa.portLive = u.fa.portLive ∧ t.fa.route = s.fa.route ∧
      (∀ k v, (k, v) ∈ u.entriesOn p.1 → t.routeSel k = u.pathFrom (s.fa.route.get k) (v + 1)) ∧
      (∀ k, (∀ v, (k, v) ∉ u.entriesOn p.1) → t.routeSel k = s.routeSel k) ∧
      ∀ k v, (k, v) ∈ u.entriesOn p.1 → u.pathFrom (s.fa.route.get k) (v + 1) = 3#2 →
        .noPath (fld (s.fa.route.get k) 8 20) (fld (s.fa.route.get k) 28 20) ∈ t.out := by
  have hrun := exec_portDownNotice hlive p
  dsimp only at hrun ⊢
  rw [if_pos (by simpa using hjob)] at hrun
  have hroute : (s.withFa { s.fa with portLive := s.fa.portLive &&& ~~~(1#64 <<< p.1) }).fa.route = s.fa.route := rfl
  have hsel (k : Nat) : (s.withFa { s.fa with portLive := s.fa.portLive &&& ~~~(1#64 <<< p.1) }).routeSel k = s.routeSel k := rfl
  have hnodup : ((s.withFa { s.fa with portLive := s.fa.portLive &&& ~~~(1#64 <<< p.1) }).fa.sel.map Prod.fst).Nodup := hkeys
  generalize s.withFa { s.fa with portLive := s.fa.portLive &&& ~~~(1#64 <<< p.1) } = u at hrun hroute hsel hnodup ⊢
  obtain ⟨⟨hfa, -⟩, hmoved, hkept, hreported⟩ := State.foldl_moveSel ((u.keys_entriesOn p.1).nodup hnodup)
    (fun p hp => State.mem_keys_of_entriesOn p hp)
  generalize (u.entriesOn p.1).foldl (fun s p => s.moveSel p.1 p.2) u = v at hrun hfa hmoved hkept hreported
  have hfa' : (s.follow v).fa = v.fa := (congrArg State.fa (s.follow_rest v) :)
  have hsel' (k : Nat) : (s.follow v).routeSel k = v.routeSel k := by rw [State.routeSel, State.routeSel, hfa']
  refine ⟨_, hrun, ?_, ?_, fun k n hk => ?_, fun k hk => ?_, fun k n hk hdead => ?_⟩
  · rw [hfa', hfa]
  · rw [hfa', hfa, ← hroute]
  · rw [hsel', hmoved k n hk, hroute]
  · rw [hsel', hkept k ?_, hsel]
    intro hmem
    obtain ⟨q, hq, rfl⟩ := List.mem_map.mp hmem
    exact hk q.2 hq
  · have h := hreported k n hk (by rwa [hroute])
    rw [hroute] at h
    exact State.mem_out_follow h

/-- Settles O49: each notice and each transfer by its own effect. -/
theorem notifyAndMulticast : Obligations.NotifyAndMulticast :=
  ⟨notify_effect, mcastWrite_effect, spread_effect, releaseNotice_effect, fun _ p hlive hjob => portDown_idle hlive hjob p,
    fun _ p hlive hjob hkeys => portDown_moves hlive hjob hkeys p⟩

end Sys2Proof.Machine
end

/-! ### The state under reset (O4) -/

section
namespace Sys2Proof.Machine

/-- The reset state meets what every step keeps. -/
theorem State.reset_invariants : State.reset.memoryOk = true ∧ State.reset.logOk = true ∧ State.reset.sfOk = true ∧
    State.reset.hartOk = true ∧ State.reset.fenceOk = true := by decide

theorem State.reset_region (r : BitVec 6) : State.reset.region r = Region.empty := by
  simp [State.region, State.reset, RegionTable.zero_]

theorem State.reset_ec (i : BitVec 6) : State.reset.ec i = 0 := by
  simp [State.ec, State.reset, Iu.zero_]

theorem State.reset_pd (i : BitVec 4) : State.reset.pd i = false := by
  simp [State.pd, State.reset, Iu.zero_]

/-- SF47 is the time (R337); every other entry is zero. -/
theorem State.reset_sf {i : BitVec 6} (hi : i ≠ 47#6) : State.reset.sf i = 0 := by
  simp [State.sf, State.reset, Iu.zero_, hi]

theorem State.reset_part (n p : Fin 4) : (State.reset.array n).part p = Part.empty := by
  simp [State.array, State.reset, Array_.part, Array_.empty]

theorem State.reset_ringAt (n : Fin 8) : State.reset.ringAt n = Ring.zero_ := by
  simp [State.ringAt, State.reset]

/-- Settles O4: the reset state is one value, of which each field is read. -/
theorem resetState : Obligations.ResetState := by
  obtain ⟨hmem, hlog, hsf, hhart, hfence⟩ := State.reset_invariants
  exact ⟨rfl, hmem, hlog, hsf, hhart, hfence, fun _ => rfl, State.reset_region, State.reset_ec, State.reset_pd,
    fun _ hi => State.reset_sf hi, State.reset_part, rfl, rfl, rfl, rfl, rfl, rfl, rfl, rfl, rfl, rfl, rfl,
    fun n => by rw [State.reset_ringAt]; exact ⟨rfl, rfl, rfl⟩, rfl, rfl⟩

end Sys2Proof.Machine
end

/-! ### The region commands (O13, O14) -/

section
namespace Sys2Proof.Machine

/-! #### A command that changes one region -/

@[simp] theorem State.region_settle_leftQueue (s : State) (x : Ctx) (h : Header) (op : Op) (r : BitVec 6) :
    (s.leftQueue x h op).region r = s.settleSwaps.region r := rfl

theorem State.region_of_rg {s t : State} (h : t.rg = s.rg) (r : BitVec 6) : t.region r = s.region r := by
  simp only [State.region, h]

/-- A command without a versioned read leaves the regions with their due swaps settled (R250). -/
theorem State.placed_rg {op : Op} (hv : op.versionedView = none) (s : State) (x : Ctx) (h : Header) :
    (s.placed x h op).rg = s.settleSwaps.rg := by
  rw [State.placed_eq, State.entryOf_ref hv]
  rfl

theorem State.signals_rg (s : State) (h : Header) : (s.signals h).rg = s.rg :=
  (congrArg State.rg (State.signals_withIu s h s.iu) :)

theorem State.signals_spad (s : State) (h : Header) : (s.signals h).spad = s.spad :=
  (congrArg State.spad (State.signals_withIu s h s.iu) :)

/-- What a command that replaces the entry of one region leaves: the other regions, the scratchpad, the files and the queues. -/
def changesRegion (s t : State) (x : Ctx) (h : Header) (r : BitVec 6) (g : Region) : Prop :=
  t.region r = g ∧ (∀ q, q ≠ r → t.region q = s.settleSwaps.region q) ∧ t.spad = s.spad ∧
  (∀ i, t.ec i = s.ec i + bump h i) ∧ samePdSf s t ∧ sameQueues s t x.task

/-- The signals of a command that has replaced an entry, and may have ended its hold of fetch (R247), change no more. -/
theorem changesRegion_signals {s v : State} {x : Ctx} {h : Header} {op : Op} {r : BitVec 6} {g : Region} (p : State)
    (hrg : v.rg = ((s.leftQueue x h op).setRegion r g).rg) (hspad : v.spad = s.spad) (hec : v.iu.ec = s.iu.ec)
    (hfiles : samePdSf s v) (hqueues : sameQueues s v x.task) : changesRegion s (p.follow (v.signals h)) x h r g := by
  have hregion (q : BitVec 6) : (p.follow (v.signals h)).region q = if q = r then g else s.settleSwaps.region q := by
    rw [State.region_of_rg ((State.follow_rg _ _).trans ((v.signals_rg h).trans hrg)), State.region_setRegion]
    rfl
  refine ⟨?_, fun q hq => ?_, ?_, fun i => ?_, samePdSf_follow ?_ _, sameQueues_follow ?_ _⟩
  · rw [hregion, if_pos rfl]
  · rw [hregion, if_neg hq]
  · rw [State.follow_spad, State.signals_spad, hspad]
  · rw [State.ec_follow, State.ec_signals, State.ec_of_iu hec]
  · exact samePdSf_trans hfiles (State.signals_samePdSf v h)
  · exact sameQueues_trans hqueues (State.signals_sameQueues v h _)

/-- A command of the control queue that replaces an entry and holds fetch no longer. -/
theorem changesRegion_unhold (s : State) (x : Ctx) (h : Header) (op : Op) (r : BitVec 6) (g : Region) (p : State) :
    changesRegion s (p.follow ((((s.leftQueue x h op).setRegion r g).unhold (s.entryOf x h op) none).signals h)) x h r g :=
  changesRegion_signals (op := op) p rfl rfl rfl ⟨rfl, rfl⟩
    (sameQueues_trans (s.leftQueue_sameQueues x h op) (State.unhold_sameQueues _ (s.entryOf x h op) none))

/-- Only the commands that wait and the tasks' fetch differ. -/
def onlyFetch (s t : State) : Prop := t = s.withIu { s.iu with tasks := t.iu.tasks, queued := t.iu.queued }

theorem State.placed_onlyFetch {op : Op} (hv : op.versionedView = none) (s : State) (x : Ctx) (h : Header) :
    onlyFetch s.settleSwaps (s.placed x h op) := by
  unfold onlyFetch
  rw [State.placed_eq, State.entryOf_ref hv]
  rfl

/-! #### REGION_SET (R69) -/

theorem regionSetFault_of_onlyFetch {s t : State} (h : onlyFetch s t) (b : RegionSetBody) :
    regionSetFault t b = regionSetFault s b := by
  rw [h]
  rfl

theorem regionSetReady_of_onlyFetch {s t : State} (h : onlyFetch s t) (b : RegionSetBody) :
    regionSetReady t b = regionSetReady s b := by
  rw [h]
  rfl

theorem exec_regionSet {s : State} {x : Ctx} {h : Header} {b : RegionSetBody} (hx : s.executes x h (.regionSet b) = true)
    (hok : regionSetFault s.settleSwaps b = none) (hready : regionSetReady s.settleSwaps b = true) :
    ∃ t, exec (.regionSet x h b) s = .next t ∧ changesRegion s t x h b.region (Region.ofBits b.entry) := by
  have hplaced := State.placed_onlyFetch (op := .regionSet b) rfl s x h
  exact ⟨_, exec_atIssue_unversioned rfl hx nofun rfl rfl
    (State.issueFault_of_no_views (by simp) rfl ((regionSetFault_of_onlyFetch hplaced b).trans hok))
    ((regionSetReady_of_onlyFetch hplaced b).trans hready) rfl, changesRegion_unhold s x h (.regionSet b) b.region _ _⟩

/-! #### REGION_ATTR (R71) -/

theorem regionAttrReady_of_onlyFetch {s t : State} (h : onlyFetch s t) (b : RegionAttrBody) :
    regionAttrReady t b = regionAttrReady s b := by
  rw [h]
  rfl

/-- The entry that REGION_ATTR leaves. -/
def Region.withAttr (g : Region) (b : RegionAttrBody) : Region :=
  let g1 := { g with
    frozen := (g.frozen || b.setFrozen) && !b.clrFrozen, background := (g.background || b.setBg) && !b.clrBg }
  let g2 := if b.clrPoisonCur then g1.setPoison (g.physical false) false else g1
  if b.clrPoisonNext then g2.setPoison (g.physical true) false else g2

theorem regionAttrRun_eq (s : State) (b : RegionAttrBody) :
    regionAttrRun s b = s.setRegion b.region ((s.region b.region).withAttr b) := rfl

/-- Clearing the poison bit of a half that the region has leaves every other field and the other half's bit. -/
theorem Region.clearPoison_eq {g : Region} (hv : g.valid = true) {a : Bool} (ha : a = true → g.split = true) (c : Bool) :
    (if c then g.setPoison a false else g) =
      { g with poisonA := g.poisonA && !(c && false == a), poisonB := g.poisonB && !(c && true == a) } := by
  cases c
  · simp
  · cases a
    · simp [Region.setPoison, hv]
    · simp [Region.setPoison, hv, ha rfl]

/-- A region without halves has its bytes in half A. -/
theorem Region.split_of_physical {g : Region} {next : Bool} (h : g.physical next = true) : g.split = true :=
  (Bool.and_eq_true _ _ ▸ h).1

/-- REGION_ATTR of a valid region clears the poison bits of the halves that CUR and NEXT name, and writes the attributes. -/
theorem Region.withAttr_eq {g : Region} (hv : g.valid = true) (b : RegionAttrBody) : g.withAttr b = { g with
    frozen := (g.frozen || b.setFrozen) && !b.clrFrozen
    background := (g.background || b.setBg) && !b.clrBg
    poisonA := g.poisonA && !(b.clrPoisonCur && false == g.physical false) && !(b.clrPoisonNext && false == g.physical true)
    poisonB := g.poisonB && !(b.clrPoisonCur && true == g.physical false) && !(b.clrPoisonNext && true == g.physical true) } := by
  let g1 : Region := { g with
    frozen := (g.frozen || b.setFrozen) && !b.clrFrozen, background := (g.background || b.setBg) && !b.clrBg }
  have hcur := Region.clearPoison_eq (g := g1) hv (a := g.physical false) Region.split_of_physical b.clrPoisonCur
  unfold Region.withAttr
  dsimp only [g1] at hcur ⊢
  rw [hcur]
  refine Region.clearPoison_eq ?_ ?_ b.clrPoisonNext
  · exact hv
  · exact Region.split_of_physical

theorem exec_regionAttr {s : State} {x : Ctx} {h : Header} {b : RegionAttrBody} (hx : s.executes x h (.regionAttr b) = true)
    (hv : (s.settleSwaps.region b.region).valid = true) (hready : regionAttrReady s.settleSwaps b = true) :
    ∃ t, exec (.regionAttr x h b) s = .next t ∧
      changesRegion s t x h b.region ((s.settleSwaps.region b.region).withAttr b) := by
  have hplaced := State.placed_onlyFetch (op := .regionAttr b) rfl s x h
  have hok : (s.placed x h (.regionAttr b)).engineFault (s.entryOf x h (.regionAttr b))
      ((s.placed x h (.regionAttr b)).resolveAll (s.entryOf x h (.regionAttr b)) [] 12) = none := by
    have hrg : (s.placed x h (.regionAttr b)).region b.region = s.settleSwaps.region b.region :=
      State.region_of_rg (State.placed_rg rfl s x h) b.region
    show (if ((s.placed x h (.regionAttr b)).region b.region).valid then none else some Code.badRegion) = none
    rw [hrg, if_pos hv]
  exact ⟨_, exec_atIssue_unversioned rfl hx nofun rfl rfl (State.issueFault_of_no_views (by simp) rfl hok)
    ((regionAttrReady_of_onlyFetch hplaced b).trans hready) rfl,
    changesRegion_signals (op := .regionAttr b) _ rfl rfl rfl ⟨rfl, rfl⟩ (s.leftQueue_sameQueues x h (.regionAttr b))⟩

/-- Settles O13: REGION_SET and REGION_ATTR replace the entry of their region and no more. -/
theorem regionSetAttr : Obligations.RegionSetAttr := by
  refine ⟨fun s x h b hx hok hready => exec_regionSet hx hok hready, fun s x h b hx hv hready => ?_⟩
  obtain ⟨t, ht, hregion, hrest⟩ := exec_regionAttr hx hv hready
  rw [Region.withAttr_eq hv] at hregion
  refine ⟨t, ht, ?_, ?_, fun half => ?_, ?_, ?_, ?_, hrest⟩
  case refine_3 => cases half <;> rw [hregion] <;> rfl
  all_goals rw [hregion]

/-! #### REGION_SWAP (R70, R250) -/

/-- A split region whose swap pends makes the half that CUR names NEXT, once no reference is held there. -/
theorem Region.swapEffect_free {g : Region} (hp : g.swapPending = true) (hr : g.refs (g.physical false) = 0) :
    g.swapEffect = { g with curIsB := !g.curIsB, vbit := !g.vbit, swapPending := false } := by
  simp [Region.swapEffect, hp, hr]

theorem Region.swapEffect_held {g : Region} (hr : g.refs (g.physical false) ≠ 0) : g.swapEffect = g := by
  simp [Region.swapEffect, hr]

theorem Region.physical_cur {g : Region} (hs : g.split = true) : g.physical false = g.curIsB := by
  simp [Region.physical, hs]

theorem exec_regionSwap {s : State} {x : Ctx} {h : Header} {r : BitVec 6} (hx : s.executes x h (.regionSwap r) = true)
    (hs : (s.settleSwaps.region r).split = true) (hf : (s.settleSwaps.region r).frozen = false)
    (hp : (s.settleSwaps.region r).swapPending = false) :
    ∃ t, exec (.regionSwap x h r) s = .next t ∧
      changesRegion s t x h r ({ s.settleSwaps.region r with swapPending := true } : Region).swapEffect := by
  have hrg : (s.placed x h (.regionSwap r)).region r = s.settleSwaps.region r := State.region_of_rg (State.placed_rg rfl s x h) r
  have hok : regionSwapFault (s.placed x h (.regionSwap r)) r = none := by
    simp [regionSwapFault, hrg, hs, hf, firstFault]
  have hready : (s.placed x h (.regionSwap r)).ready (s.entryOf x h (.regionSwap r)) true = true := by
    show (!((s.placed x h (.regionSwap r)).region r).swapPending) = true
    rw [hrg, hp]
    rfl
  exact ⟨_, exec_atIssue_unversioned rfl hx nofun rfl rfl (State.issueFault_of_no_views (by simp) rfl hok) hready rfl,
    changesRegion_unhold s x h (.regionSwap r) r _ _⟩

theorem swapTakesEffect_effect {s : State} {k : Fin 64} (hp : (s.region (BitVec.ofNat 6 k)).swapPending = true)
    (hr : (s.region (BitVec.ofNat 6 k)).refs ((s.region (BitVec.ofNat 6 k)).physical false) = 0) :
    ∃ t, exec (.swapTakesEffect k) s = .next t ∧
      t.region (BitVec.ofNat 6 k) = { s.region (BitVec.ofNat 6 k) with
        curIsB := !(s.region (BitVec.ofNat 6 k)).curIsB, vbit := !(s.region (BitVec.ofNat 6 k)).vbit, swapPending := false } ∧
      t.withRg s.rg = s ∧ ∀ r, r ≠ BitVec.ofNat 6 k → t.region r = s.region r := by
  refine ⟨s.setRegion (BitVec.ofNat 6 k) (s.region (BitVec.ofNat 6 k)).swapEffect, rfl, ?_, rfl, fun r hne => ?_⟩
  · rw [State.region_setRegion, if_pos rfl, Region.swapEffect_free hp hr]
  · rw [State.region_setRegion, if_neg hne]

/-- Settles O14: the swap pends, and takes effect at once where no reference holds it back. -/
theorem regionSwap : Obligations.RegionSwap := by
  refine ⟨fun s x h r hx hs hf hp => ?_, fun s k hp hr => swapTakesEffect_effect hp hr⟩
  obtain ⟨t, ht, hregion, hrest⟩ := exec_regionSwap hx hs hf hp
  have hphys : ({ s.settleSwaps.region r with swapPending := true } : Region).physical false = (s.settleSwaps.region r).curIsB :=
    Region.physical_cur hs
  refine ⟨t, ht, fun hfree => ?_, fun hheld => ?_, hrest⟩
  · rw [hregion, Region.swapEffect_free rfl (by rw [hphys]; exact hfree)]
    exact ⟨rfl, rfl, rfl⟩
  · rw [hregion, Region.swapEffect_held (by rw [hphys]; exact hheld)]

end Sys2Proof.Machine
end

/-! ### The memories stay canonical (O5) -/

section
namespace Sys2Proof.Machine

/-! #### Which fields hold memories

Every operation of the model keeps the memories canonical: `State.memoryOk_f` says so of the operation `f`. These lemmas are `simp`
lemmas, so that the proof for an operation is a split into its cases, and `simp` composes the steps of each case. The lemmas that
carry the content are those of the operations that write a memory: they end in `Store.wf_set`, `Store.wf_filter` or `Store.wf_foldl`. -/

/-- A fold of operations that each keep the memories canonical. -/
theorem State.memoryOk_foldl {α : Type} {f : State → α → State} (hf : ∀ s a, s.memoryOk = true → (f s a).memoryOk = true)
    (l : List α) {s : State} (h : s.memoryOk = true) : (l.foldl f s).memoryOk = true :=
  List.foldlRecOn l f h fun s hs a _ => hf s a hs

/-- A fold of operations that leave the memories alone. -/
theorem State.memoryOk_foldl_same {α : Type} {f : State → α → State} (hf : ∀ s a, (f s a).memoryOk = s.memoryOk) (l : List α)
    (s : State) :
    (l.foldl f s).memoryOk = s.memoryOk :=
  List.foldlRecOn (motive := fun t => t.memoryOk = s.memoryOk) l f rfl fun t ht a _ => (hf t a).trans ht

@[simp] theorem State.memoryOk_ite {p : Prop} [Decidable p] (a b : State) :
    (if p then a else b).memoryOk = if p then a.memoryOk else b.memoryOk :=
  apply_ite State.memoryOk p a b

/-- The words of an array, and not its modes, masks and states, are memory. -/
theorem Array_.wordsOk_iff (a : Array_) :
    a.wordsOk = true ↔ a.acc0.wf = true ∧ a.acc1.wf = true ∧ a.st0.wf = true ∧ a.st1.wf = true := by
  simp [Array_.wordsOk, and_assoc]

theorem State.memoryOk_iff (s : State) : s.memoryOk = true ↔ s.spad.mem.wf = true ∧ s.cc.imem.wf = true ∧ s.cc.dmem.wf = true ∧
    (∀ n, (s.array n).wordsOk = true) ∧ s.fa.route.wf = true ∧ s.fa.staged.wf = true := by
  have harrays : s.mx.toList.all Array_.wordsOk = true ↔ ∀ n, (s.array n).wordsOk = true := by
    simp only [List.all_eq_true, Vector.mem_toList_iff, Vector.mem_iff_getElem]
    exact ⟨fun h n => h _ ⟨n.1, n.2, rfl⟩, by rintro h _ ⟨n, hn, rfl⟩; exact h ⟨n, hn⟩⟩
  simp only [State.memoryOk, Bool.and_eq_true, harrays, and_assoc]

section
variable {s : State} (h : s.memoryOk = true)
include h

@[simp] theorem State.spad_wf : s.spad.mem.wf = true := State.mem_wf_of_memoryOk h
@[simp] theorem State.imem_wf : s.cc.imem.wf = true := ((State.memoryOk_iff s).mp h).2.1
@[simp] theorem State.dmem_wf : s.cc.dmem.wf = true := ((State.memoryOk_iff s).mp h).2.2.1
@[simp] theorem State.wordsOk_array (n : Fin 4) : (s.array n).wordsOk = true := ((State.memoryOk_iff s).mp h).2.2.2.1 n
@[simp] theorem State.route_wf : s.fa.route.wf = true := ((State.memoryOk_iff s).mp h).2.2.2.2.1
@[simp] theorem State.staged_wf : s.fa.staged.wf = true := ((State.memoryOk_iff s).mp h).2.2.2.2.2

/-- A field that holds a memory is replaced by one whose memories are canonical. -/
@[simp] theorem State.memoryOk_withSpad {x : Spad} (hx : x.mem.wf = true) : (s.withSpad x).memoryOk = true := by
  simpa [State.memoryOk_iff, State.array, hx] using ((State.memoryOk_iff s).mp h).2

@[simp] theorem State.memoryOk_withCc {x : Cc} (hi : x.imem.wf = true) (hd : x.dmem.wf = true) : (s.withCc x).memoryOk = true := by
  obtain ⟨hspad, -, -, hrest⟩ := (State.memoryOk_iff s).mp h
  exact (State.memoryOk_iff _).mpr ⟨hspad, hi, hd, hrest⟩

@[simp] theorem State.memoryOk_withFa {x : Fa} (hr : x.route.wf = true) (hs : x.staged.wf = true) : (s.withFa x).memoryOk = true := by
  obtain ⟨hspad, hi, hd, hmx, -⟩ := (State.memoryOk_iff s).mp h
  exact (State.memoryOk_iff _).mpr ⟨hspad, hi, hd, hmx, hr, hs⟩

theorem State.memoryOk_withMx {x : Vector Array_ 4} (hx : ∀ n : Fin 4, (x[n.1]).wordsOk = true) : (s.withMx x).memoryOk = true := by
  obtain ⟨hspad, hi, hd, -, hrest⟩ := (State.memoryOk_iff s).mp h
  exact (State.memoryOk_iff _).mpr ⟨hspad, hi, hd, hx, hrest⟩

@[simp] theorem State.memoryOk_setArray (n : Fin 4) {a : Array_} (ha : a.wordsOk = true) : (s.setArray n a).memoryOk = true := by
  refine State.memoryOk_withMx h fun m => ?_
  rw [Vector.getElem_set]
  split
  · exact ha
  · exact State.wordsOk_array h m

end

/-- A field that holds a memory is replaced by one with the same memory. -/
@[simp] theorem State.memoryOk_withSpad_same (s : State) {x : Spad} (hx : x.mem = s.spad.mem) : (s.withSpad x).memoryOk = s.memoryOk := by
  simp [State.memoryOk, hx]

@[simp] theorem State.memoryOk_withCc_same (s : State) {x : Cc} (hi : x.imem = s.cc.imem) (hd : x.dmem = s.cc.dmem) :
    (s.withCc x).memoryOk = s.memoryOk := by
  simp [State.memoryOk, hi, hd]

@[simp] theorem State.memoryOk_withFa_same (s : State) {x : Fa} (hr : x.route = s.fa.route) (ht : x.staged = s.fa.staged) :
    (s.withFa x).memoryOk = s.memoryOk := by
  simp [State.memoryOk, hr, ht]

/-! #### Fields without a memory -/

section
variable (s : State)

@[simp] theorem State.memoryOk_withPending (x : List Instr) : (s.withPending x).memoryOk = s.memoryOk := rfl
@[simp] theorem State.memoryOk_withOut (x : List Msg) : (s.withOut x).memoryOk = s.memoryOk := rfl
@[simp] theorem State.memoryOk_withFreeCtr (x : Nat) : (s.withFreeCtr x).memoryOk = s.memoryOk := rfl
@[simp] theorem State.memoryOk_withCycle (x : Nat) : (s.withCycle x).memoryOk = s.memoryOk := rfl
@[simp] theorem State.memoryOk_withId (x : Ident) : (s.withId x).memoryOk = s.memoryOk := rfl
@[simp] theorem State.memoryOk_withBring (x : Bring) : (s.withBring x).memoryOk = s.memoryOk := rfl
@[simp] theorem State.memoryOk_withRg (x : RegionTable) : (s.withRg x).memoryOk = s.memoryOk := rfl
@[simp] theorem State.memoryOk_withIu (x : Iu) : (s.withIu x).memoryOk = s.memoryOk := rfl
@[simp] theorem State.memoryOk_withVx (x : VecState) : (s.withVx x).memoryOk = s.memoryOk := rfl
@[simp] theorem State.memoryOk_withCu (x : VecState) : (s.withCu x).memoryOk = s.memoryOk := rfl
@[simp] theorem State.memoryOk_withSe (x : Streams) : (s.withSe x).memoryOk = s.memoryOk := rfl
@[simp] theorem State.memoryOk_withTu (x : Transposers) : (s.withTu x).memoryOk = s.memoryOk := rfl
@[simp] theorem State.memoryOk_withAlm (x : Alm) : (s.withAlm x).memoryOk = s.memoryOk := rfl
@[simp] theorem State.memoryOk_withCal (x : Cal) : (s.withCal x).memoryOk = s.memoryOk := rfl
@[simp] theorem State.memoryOk_withSol (x : Sol) : (s.withSol x).memoryOk = s.memoryOk := rfl
@[simp] theorem State.memoryOk_withFp (x : Vector Port 8) : (s.withFp x).memoryOk = s.memoryOk := rfl
@[simp] theorem State.memoryOk_withRing (x : Vector Ring 8) : (s.withRing x).memoryOk = s.memoryOk := rfl
@[simp] theorem State.memoryOk_withJob (x : Job) : (s.withJob x).memoryOk = s.memoryOk := rfl
@[simp] theorem State.memoryOk_withEq (x : Eqx) : (s.withEq x).memoryOk = s.memoryOk := rfl
@[simp] theorem State.memoryOk_withErr (x : Err) : (s.withErr x).memoryOk = s.memoryOk := rfl
@[simp] theorem State.memoryOk_withRep (x : Repair) : (s.withRep x).memoryOk = s.memoryOk := rfl
@[simp] theorem State.memoryOk_withBg (x : Background) : (s.withBg x).memoryOk = s.memoryOk := rfl
@[simp] theorem State.memoryOk_withSu (x : Setup) : (s.withSu x).memoryOk = s.memoryOk := rfl
@[simp] theorem State.memoryOk_withTap (x : Tap) : (s.withTap x).memoryOk = s.memoryOk := rfl

end

end Sys2Proof.Machine
end

/-! #### Operations of the state, the setup window and the control core's registers -/

section
namespace Sys2Proof.Machine

@[simp] theorem State.memoryOk_emit (s : State) (m : Msg) : (s.emit m).memoryOk = s.memoryOk := by
  simp [State.emit]

@[simp] theorem State.memoryOk_draw (s : State) : s.draw.2.memoryOk = s.memoryOk := rfl

@[simp] theorem State.memoryOk_setEc (s : State) (i : BitVec 6) (v : BitVec 16) : (s.setEc i v).memoryOk = s.memoryOk := by
  simp [State.setEc]

@[simp] theorem State.memoryOk_addEc (s : State) (i : BitVec 6) (v : BitVec 16) : (s.addEc i v).memoryOk = s.memoryOk := by
  simp [State.addEc]

@[simp] theorem State.memoryOk_signal (s : State) (g : Signal) : (s.signal g).memoryOk = s.memoryOk := by
  simp [State.signal]

@[simp] theorem State.memoryOk_signals (s : State) (h : Header) : (s.signals h).memoryOk = s.memoryOk := by
  simp [State.signals]

@[simp] theorem State.memoryOk_setPd (s : State) (i : BitVec 4) (b : Bool) : (s.setPd i b).memoryOk = s.memoryOk := by
  simp [State.setPd]

@[simp] theorem State.memoryOk_putSf (s : State) (i : BitVec 6) (v : W64) : (s.putSf i v).memoryOk = s.memoryOk := by
  simp [State.putSf]

@[simp] theorem State.memoryOk_setSf (s : State) (i : BitVec 6) (v : W64) : (s.setSf i v).memoryOk = s.memoryOk := by
  simp [State.setSf]

@[simp] theorem State.memoryOk_queueSf (s : State) (i : BitVec 6) (v : W64) : (s.queueSf i v).memoryOk = s.memoryOk := by
  simp [State.queueSf]

@[simp] theorem State.memoryOk_landSf (s : State) : s.landSf.memoryOk = s.memoryOk := by
  unfold State.landSf
  exact State.memoryOk_foldl_same (fun s a => by simp) _ s

@[simp] theorem State.memoryOk_setTask (s : State) (t : Fin 4) (k : Task) : (s.setTask t k).memoryOk = s.memoryOk := by
  simp [State.setTask]

@[simp] theorem State.memoryOk_touch (s : State) : s.touch.memoryOk = s.memoryOk := by
  simp [State.touch]

@[simp] theorem State.memoryOk_setRegion (s : State) (r : BitVec 6) (e : Region) : (s.setRegion r e).memoryOk = s.memoryOk := by
  simp [State.setRegion]

@[simp] theorem State.memoryOk_poison (s : State) (h : Ref) : (s.poison h).memoryOk = s.memoryOk := by
  simp [State.poison]

@[simp] theorem State.memoryOk_poisonWords (s : State) (ws : List Nat) : (s.poisonWords ws).memoryOk = s.memoryOk := by
  unfold State.poisonWords
  exact State.memoryOk_foldl_same (fun s a => by split <;> simp) _ s

@[simp] theorem State.memoryOk_releaseRef (s : State) (r : Option Ref) : (s.releaseRef r).memoryOk = s.memoryOk := by
  cases r <;> rfl

@[simp] theorem State.memoryOk_takeRef (s : State) (r : Option Ref) : (s.takeRef r).memoryOk = s.memoryOk := by
  cases r <;> rfl

@[simp] theorem State.memoryOk_latchEvent (s : State) (b : Nat) : (s.latchEvent b).memoryOk = s.memoryOk := by
  simp [State.latchEvent]

@[simp] theorem State.memoryOk_addLog (s : State) (e : LogEntry) : (s.addLog e).memoryOk = s.memoryOk := by
  simp [State.addLog]

@[simp] theorem State.memoryOk_noteFor (s : State) (task : BitVec 2) (code : Code) (unit sub : BitVec 8) (loc : W32) (dpi detail : W64) :
    (s.noteFor task code unit sub loc dpi detail).memoryOk = s.memoryOk := by
  simp [State.noteFor]

@[simp] theorem State.memoryOk_note (s : State) (code : Code) (unit sub : BitVec 8) (loc : W32) (dpi detail : W64) :
    (s.note code unit sub loc dpi detail).memoryOk = s.memoryOk := by
  simp [State.note]

@[simp] theorem State.memoryOk_poisonOutputs (s : State) (i : Issued) : (s.poisonOutputs i).memoryOk = s.memoryOk := by
  unfold State.poisonOutputs
  exact State.memoryOk_foldl_same (fun s a => by simp) _ s

@[simp] theorem State.memoryOk_freeBytes {s : State} (hs : s.memoryOk = true) (a n : Nat) : (s.freeBytes a n).memoryOk = true := by
  unfold State.freeBytes
  refine State.memoryOk_foldl (fun s a hs => ?_) _ hs
  split
  · exact hs
  · exact State.memoryOk_withSpad (by simp [hs]) (Spad.wf_writeByte _ _ _ (State.spad_wf hs))

@[simp] theorem State.memoryOk_scramble {s : State} (hs : s.memoryOk = true) (i : Issued) : (s.scramble i).memoryOk = true := by
  unfold State.scramble
  exact State.memoryOk_foldl (fun s a hs => by simp [hs]) _ hs

@[simp] theorem State.memoryOk_dropBallast (s : State) (p : BitVec 8 → Bool) : (s.dropBallast p).memoryOk = s.memoryOk := by
  simp [State.dropBallast]

@[simp] theorem Array_.wordsOk_emptyPart {a : Array_} (ha : a.wordsOk = true) (p : Fin 4) : (a.emptyPart p).wordsOk = true := ha

@[simp] theorem State.memoryOk_emptyParts {s : State} (hs : s.memoryOk = true) (own : Nat → Nat → Bool) :
    (s.emptyParts own).memoryOk = true := by
  unfold State.emptyParts
  refine State.memoryOk_foldl (fun s n hs => State.memoryOk_foldl (fun s p hs => ?_) _ hs) _ hs
  split
  · exact State.memoryOk_setArray hs n (Array_.wordsOk_emptyPart (State.wordsOk_array hs n) p)
  · exact hs

@[simp] theorem State.memoryOk_freeHeld (s : State) (p : Fin 4 × W64 → Bool) : (s.freeHeld p).memoryOk = s.memoryOk := by
  simp [State.freeHeld]

@[simp] theorem State.memoryOk_abandonTask {s : State} (hs : s.memoryOk = true) (t : Fin 4) : (s.abandonTask t).memoryOk = true := by
  unfold State.abandonTask
  extract_lets s1 s2 mine ran s3 keep _ s4 _ s5 s6
  have h2 : s2.memoryOk = true := State.memoryOk_foldl (fun s a hs => by simp [hs]) _ hs
  have h3 : s3.memoryOk = true :=
    State.memoryOk_foldl (fun s a hs => by simp [hs]) _ (State.memoryOk_foldl (fun s a hs => by simp [hs]) _ h2)
  exact State.memoryOk_emptyParts (by simpa [s6, s5, s4] using h3) _

@[simp] theorem State.memoryOk_corrected (s : State) (addr : Nat) : (s.corrected addr).memoryOk = s.memoryOk := by
  simp [State.corrected]

@[simp] theorem State.memoryOk_logFatal (s : State) (t : Fin 4) (code : Code) (dpi : W64) (w : Site) (detail : W64) :
    (s.logFatal t code dpi w detail).memoryOk = s.memoryOk := by
  simp [State.logFatal]

@[simp] theorem State.memoryOk_abortTaskAt {s : State} (hs : s.memoryOk = true) (t : Fin 4) (code : Code) (dpi : W64) (w : Site)
    (detail : W64) :
    (s.abortTaskAt t code dpi w detail).memoryOk = true := by
  simp [State.abortTaskAt, hs]

@[simp] theorem State.memoryOk_abortTask {s : State} (hs : s.memoryOk = true) (t : Fin 4) (code : Code) (dpi : W64) :
    (s.abortTask t code dpi).memoryOk = true := by
  simp [State.abortTask, hs]

@[simp] theorem State.memoryOk_stopCore {s : State} (hs : s.memoryOk = true) : s.stopCore.memoryOk = true := by
  unfold State.stopCore
  extract_lets stop s0 _ s1 _ s2 s2' s3
  have h0 : s0.memoryOk = true := State.memoryOk_foldl (fun s a hs => by simp [hs]) _ hs
  have h2 : s2'.memoryOk = true := (State.memoryOk_freeHeld s2 _).trans h0
  exact (State.memoryOk_withCc_same s3 rfl rfl).trans h2

@[simp] theorem State.memoryOk_fenceCore {s : State} (hs : s.memoryOk = true) (code : Code) (unit : BitVec 8) (dpi : W64) :
    (s.fenceCore code unit dpi).memoryOk = true := by
  unfold State.fenceCore
  extract_lets s1 _ s2 s3 s4
  have h1 : s1.memoryOk = true := by simp [s1, hs]
  have h3 : s3.memoryOk = true := by
    unfold s3
    split <;> simp [s2, h1]
  simp [h1, h3, s4]

@[simp] theorem State.memoryOk_respond (s : State) (code : BitVec 3) (data : W64) : (s.respond code data).memoryOk = s.memoryOk := by
  simp [State.respond]

@[simp] theorem State.memoryOk_ok (s : State) : s.ok.memoryOk = s.memoryOk := by
  simp [State.ok]

@[simp] theorem State.memoryOk_refuseImm (s : State) (reason : BitVec 3) : (s.refuseImm reason).memoryOk = s.memoryOk := by
  simp [State.refuseImm]

theorem State.memoryOk_served {s : State} {f : State → State} (hs : s.memoryOk = true) (hf : (f s).memoryOk = true) :
    (s.served f).memoryOk = true := by
  simp [State.served, hs, hf]

@[simp] theorem State.memoryOk_setPort (s : State) (p : Fin 8) (x : Port) : (s.setPort p x).memoryOk = s.memoryOk := by
  simp [State.setPort]

@[simp] theorem State.memoryOk_setRing (s : State) (n : Fin 8) (r : Ring) : (s.setRing n r).memoryOk = s.memoryOk := by
  simp [State.setRing]

@[simp] theorem State.memoryOk_refuseRing (s : State) (n : Fin 8) (reason : BitVec 3) :
    (s.refuseRing n reason).memoryOk = s.memoryOk := by
  simp [State.refuseRing]

@[simp] theorem State.memoryOk_requestPreempt (s : State) : s.requestPreempt.memoryOk = s.memoryOk := by
  simp [State.requestPreempt]

@[simp] theorem State.memoryOk_updateRing (s : State) (n : Fin 8) (r : Ring) : (s.updateRing n r).memoryOk = s.memoryOk := by
  simp [State.updateRing]

@[simp] theorem State.memoryOk_queueUnits (s : State) (p : Fin 8) (q : OutPacket) : (s.queueUnits p q).memoryOk = s.memoryOk := by
  simp [State.queueUnits]

@[simp] theorem State.memoryOk_sendPackets (s : State) (q agent : Nat) (task : Fin 4) (dpi : W64) (ps : List (List FabUnit)) :
    (s.sendPackets q agent task dpi ps).memoryOk = s.memoryOk := by
  unfold State.sendPackets
  exact State.memoryOk_foldl_same (fun s a => by simp) _ s

@[simp] theorem State.memoryOk_unsend (s : State) (task : Fin 4) (dpi : W64) : (s.unsend task dpi).memoryOk = s.memoryOk := by
  simp [State.unsend]

@[simp] theorem State.memoryOk_queueTile (s : State) (r : BitVec 1536) : (s.queueTile r).1.memoryOk = s.memoryOk := by
  unfold State.queueTile
  dsimp only
  split <;> simp

@[simp] theorem State.memoryOk_assay (s : State) (dpi : W64) (h : Header) (source : BitVec 8) (v : RView) (pre : Int) (os : List Obs)
    (empty : List Nat) :
    (s.assay dpi h source v pre os empty).memoryOk = s.memoryOk := by
  unfold State.assay
  extract_lets entry s1 bad _ s2
  have h2 : s2.memoryOk = s.memoryOk := by
    unfold s2 entry
    split <;> simp [s1]
  unfold entry
  split
  · split
    · refine (State.memoryOk_foldl_same (fun s k => ?_) _ s2).trans h2
      dsimp only
      split <;> simp
    · exact h2
  · exact h2

theorem Run.memoryOk_land {r : Run} (hr : r.s.memoryOk = true) : r.land.memoryOk = true :=
  State.memoryOk_withSpad hr (Spad.wf_write _ _ (State.spad_wf hr))

@[simp] theorem State.memoryOk_foldSeen (s : State) (i : Issued) (u : UnitId) (l : List Seen) :
    (s.foldSeen i u l).memoryOk = s.memoryOk := by
  unfold State.foldSeen
  exact State.memoryOk_foldl_same (fun s a => by simp) _ s

@[simp] theorem State.memoryOk_almanacStep (s : State) : s.almanacStep.memoryOk = s.memoryOk := by
  simp [State.almanacStep]

@[simp] theorem State.memoryOk_setSlot (s : State) (e : Fin 8) (k : Fin 4) (x : Slot) : (s.setSlot e k x).memoryOk = s.memoryOk := by
  simp [State.setSlot]

@[simp] theorem State.memoryOk_sendRuns (s : State) (e : Fin 8) (i : Issued) (b : StreamBody) (bs : Bytes) (route : Option Nat)
    (path : BitVec 2) (us : List (Nat × Nat)) :
    (s.sendRuns e i b bs route path us).memoryOk = s.memoryOk := by
  unfold State.sendRuns
  split
  · simp
  · split
    · rfl
    · split
      · rfl
      · exact State.memoryOk_foldl_same (fun s a => by simp) _ s

@[simp] theorem State.memoryOk_sendNotify (s : State) (agent : Nat) (x : Ctx) (route : Option Nat) (path : BitVec 2) (far : W64)
    (ec : BitVec 6) (inc : BitVec 8) :
    (s.sendNotify agent x route path far ec inc).memoryOk = s.memoryOk := by
  unfold State.sendNotify
  split <;> simp

@[simp] theorem State.memoryOk_sendMcast (s : State) (e : Fin 8) (i : Issued) (b : StreamBody) (bs : Bytes) (seq : BitVec 16) :
    (s.sendMcast e i b bs seq).memoryOk = s.memoryOk := by
  unfold State.sendMcast
  extract_lets m s1
  have h1 : s1.memoryOk = s.memoryOk := by simp [s1]
  split
  · exact (State.memoryOk_foldl_same (fun s a => by simp) _ s1).trans h1
  · exact h1

@[simp] theorem State.memoryOk_countSent (s : State) (g : BitVec 12) (reaches : Bool) :
    (s.countSent g reaches).memoryOk = s.memoryOk := by
  simp [State.countSent]

@[simp] theorem State.memoryOk_countAdmitted (s : State) : s.countAdmitted.memoryOk = s.memoryOk := by
  simp [State.countAdmitted]

@[simp] theorem State.memoryOk_enterSlot (s : State) (e : Fin 8) (k : Fin 4) (i : Issued) (b : StreamBody) :
    (s.enterSlot e k i b).memoryOk = s.memoryOk := by
  simp [State.enterSlot]

@[simp] theorem State.memoryOk_setTu (s : State) (n : Fin 4) (h : Option (Fin 4 × W64)) : (s.setTu n h).memoryOk = s.memoryOk := by
  simp [State.setTu]

@[simp] theorem State.memoryOk_ringCommit (s : State) (n : Fin 8) : (s.ringCommit n).memoryOk = s.memoryOk := by
  unfold State.ringCommit
  split <;> simp

@[simp] theorem State.memoryOk_ringWrite (s : State) (n : Fin 8) (o : Nat) (v : W64) : (s.ringWrite n o v).memoryOk = s.memoryOk := by
  unfold State.ringWrite
  dsimp only
  split <;> simp [commitWrite, statusWrite]

@[simp] theorem State.memoryOk_refuseEq (s : State) (k : BitVec 3) : (s.refuseEq k).memoryOk = s.memoryOk := by
  simp [State.refuseEq]

@[simp] theorem State.memoryOk_eqCommit (s : State) : s.eqCommit.memoryOk = s.memoryOk := by
  simp [State.eqCommit]

@[simp] theorem State.memoryOk_eqWrite (s : State) (o : Nat) (v : W64) : (s.eqWrite o v).memoryOk = s.memoryOk := by
  unfold State.eqWrite
  dsimp only
  split <;> simp [commitWrite, statusWrite]

@[simp] theorem State.memoryOk_refuseBg (s : State) (k : BitVec 3) : (s.refuseBg k).memoryOk = s.memoryOk := by
  simp [State.refuseBg]

@[simp] theorem State.memoryOk_bgCommit (s : State) : s.bgCommit.memoryOk = s.memoryOk := by
  simp [State.bgCommit]

@[simp] theorem State.memoryOk_bgWrite (s : State) (o : Nat) (v : W64) : (s.bgWrite o v).memoryOk = s.memoryOk := by
  unfold State.bgWrite
  split <;> simp [commitWrite, statusWrite]

@[simp] theorem State.memoryOk_errlogPop (s : State) (v : W64) : (s.errlogPop v).memoryOk = s.memoryOk := by
  simp [State.errlogPop]

@[simp] theorem State.memoryOk_refusePort (s : State) (p : Fin 8) (k : BitVec 3) : (s.refusePort p k).memoryOk = s.memoryOk := by
  simp [State.refusePort]

@[simp] theorem State.memoryOk_portCommit (s : State) (p : Fin 8) : (s.portCommit p).memoryOk = s.memoryOk := by
  unfold State.portCommit
  split
  · simp
  · split <;> simp

@[simp] theorem State.memoryOk_portCommitWrite (s : State) (p : Fin 8) (v : W64) : (s.portCommitWrite p v).memoryOk = s.memoryOk := by
  simp [State.portCommitWrite, commitWrite]

@[simp] theorem State.memoryOk_portClear (s : State) (p : Fin 8) (v : W64) : (s.portClear p v).memoryOk = s.memoryOk := by
  simp [State.portClear]

@[simp] theorem State.memoryOk_portWrite (s : State) (p : Fin 8) (o : Nat) (v : W64) : (s.portWrite p o v).memoryOk = s.memoryOk := by
  unfold State.portWrite
  dsimp only
  split <;> simp [statusWrite]

@[simp] theorem State.memoryOk_refuseRoute (s : State) (k : BitVec 3) : (s.refuseRoute k).memoryOk = s.memoryOk := by
  simp [State.refuseRoute]

@[simp] theorem State.memoryOk_routeCommit {s : State} (hs : s.memoryOk = true) : s.routeCommit.memoryOk = true := by
  simp [State.routeCommit, hs]

@[simp] theorem State.memoryOk_stageRoute {s : State} (hs : s.memoryOk = true) (hi : Bool) (v : W64) :
    (s.stageRoute hi v).memoryOk = true :=
  State.memoryOk_withFa hs (State.route_wf hs) (Store.wf_set _ _ _ (State.staged_wf hs))

@[simp] theorem State.memoryOk_routeWrite {s : State} (hs : s.memoryOk = true) (o : Nat) (v : W64) :
    (s.routeWrite o v).memoryOk = true := by
  unfold State.routeWrite
  split <;> simp [commitWrite, statusWrite, hs]

@[simp] theorem State.memoryOk_refuseObs (s : State) (k : BitVec 3) : (s.refuseObs k).memoryOk = s.memoryOk := by
  simp [State.refuseObs]

@[simp] theorem State.memoryOk_obsCommit (s : State) : s.obsCommit.memoryOk = s.memoryOk := by
  simp [State.obsCommit]

@[simp] theorem State.memoryOk_obsWrite (s : State) (o : Nat) (v : W64) : (s.obsWrite o v).memoryOk = s.memoryOk := by
  unfold State.obsWrite
  split
  · simp
  · split <;> simp [commitWrite, statusWrite]
    split <;> simp

@[simp] theorem State.memoryOk_ccBoot (s : State) : s.ccBoot.memoryOk = s.memoryOk := by
  simp [State.ccBoot]

@[simp] theorem State.memoryOk_ccCtrl (s : State) (v : W64) : (s.ccCtrl v).memoryOk = s.memoryOk := by
  simp [State.ccCtrl]

@[simp] theorem State.memoryOk_ccHalt (s : State) : s.ccHalt.memoryOk = s.memoryOk := by
  simp [State.ccHalt]

@[simp] theorem State.memoryOk_ccStep (s : State) : s.ccStep.memoryOk = s.memoryOk := by
  simp [State.ccStep]

@[simp] theorem State.memoryOk_ccFix (s : State) (w : Nat) : (s.ccFix w).memoryOk = s.memoryOk := by
  simp [State.ccFix]

@[simp] theorem State.memoryOk_ccUpset (s : State) (w : Nat) (double : Bool) : (s.ccUpset w double).memoryOk = s.memoryOk := by
  simp [State.ccUpset]

@[simp] theorem State.memoryOk_ccRead (s : State) : s.ccRead.memoryOk = s.memoryOk := by
  unfold State.ccRead
  split <;> simp

@[simp] theorem State.memoryOk_ccWrite {s : State} (hs : s.memoryOk = true) (v : W64) : (s.ccWrite v).memoryOk = true := by
  unfold State.ccWrite
  split
  · simp [hs]
  next d o _ =>
    extract_lets put w _ c
    have hput : ∀ m : Store 8, m.wf = true → (put m).wf = true :=
      fun m hm => Store.wf_foldl _ (fun m a hm => Store.wf_set m _ _ hm) _ m hm
    have h1 : (s.withCc (if d then { c with dmem := put c.dmem } else { c with imem := put c.imem })).memoryOk = true := by
      split
      · exact State.memoryOk_withCc hs (State.imem_wf hs) (hput _ (State.dmem_wf hs))
      · exact State.memoryOk_withCc hs (hput _ (State.imem_wf hs)) (State.dmem_wf hs)
    simp [h1]

@[simp] theorem State.memoryOk_ctrlWrite {s : State} (hs : s.memoryOk = true) (o : Nat) (v : W64) :
    (s.ctrlWrite o v).memoryOk = true := by
  unfold State.ctrlWrite
  split <;> simp [hs]

@[simp] theorem State.memoryOk_doorbell (s : State) (n : Fin 8) (v : W64) : (s.doorbell n v).memoryOk = s.memoryOk := by
  simp [State.doorbell]

@[simp] theorem State.memoryOk_writeRegister {s : State} (hs : s.memoryOk = true) (off : Nat) (v : W64) :
    (s.writeRegister off v).memoryOk = true := by
  simp [State.writeRegister, hs]

@[simp] theorem State.memoryOk_discardMsg (s : State) : s.discardMsg.memoryOk = s.memoryOk := by
  simp [State.discardMsg]

@[simp] theorem State.memoryOk_deliverMsg (s : State) (m : FabMsg) : (s.deliverMsg m).memoryOk = s.memoryOk := by
  unfold State.deliverMsg
  split <;> simp

@[simp] theorem State.memoryOk_routeMsg (s : State) (m : FabMsg) : (s.routeMsg m).memoryOk = s.memoryOk := by
  unfold State.routeMsg
  split
  · simp
  · split <;> simp

@[simp] theorem State.memoryOk_passMessage (s : State) : s.passMessage.memoryOk = s.memoryOk := by
  unfold State.passMessage
  split <;> simp

@[simp] theorem State.memoryOk_passMessages (s : State) : s.passMessages.memoryOk = s.memoryOk := by
  unfold State.passMessages
  exact State.memoryOk_foldl_same (fun s a => by simp) _ s

@[simp] theorem State.memoryOk_queueMessage (s : State) : s.queueMessage.memoryOk = s.memoryOk := by
  simp [State.queueMessage]

@[simp] theorem State.memoryOk_messageStore (s : State) (o : Nat) (v : W64) : (s.messageStore o v).memoryOk = s.memoryOk := by
  unfold State.messageStore
  split <;> simp

@[simp] theorem State.memoryOk_advanceTo (s : State) (c : Nat) : (s.advanceTo c).memoryOk = s.memoryOk := by
  simp [State.advanceTo]

@[simp] theorem memoryOk_setEcRun (s : State) (b : SetEcBody) : (setEcRun s b).memoryOk = s.memoryOk := by
  simp [setEcRun]

@[simp] theorem memoryOk_setPdRun (s : State) (x : Ctx) (b : SetPdBody) : (setPdRun s x b).memoryOk = s.memoryOk := by
  unfold setPdRun
  split
  · simp
  · split
    · split <;> simp
    · simp

@[simp] theorem State.memoryOk_present {s : State} (hs : s.memoryOk = true) (a : Arrived) : (s.present a).memoryOk = true := by
  simp [State.present, hs]

@[simp] theorem memoryOk_barrierRun {s : State} (hs : s.memoryOk = true) (x : Ctx) (b : BarrierBody) :
    (barrierRun s x b).memoryOk = true := by
  simp [barrierRun, hs]

@[simp] theorem memoryOk_calLoadRun (s : State) (x : Ctx) (b : CalLoadBody) : (calLoadRun s x b).memoryOk = s.memoryOk := by
  simp [calLoadRun]

@[simp] theorem memoryOk_regionSetRun (s : State) (b : RegionSetBody) : (regionSetRun s b).memoryOk = s.memoryOk := by
  simp [regionSetRun]

@[simp] theorem memoryOk_regionSwapRun (s : State) (r : BitVec 6) : (regionSwapRun s r).memoryOk = s.memoryOk := by
  simp [regionSwapRun]

@[simp] theorem memoryOk_regionAttrRun (s : State) (b : RegionAttrBody) : (regionAttrRun s b).memoryOk = s.memoryOk := by
  simp [regionAttrRun]

@[simp] theorem memoryOk_endRun (s : State) (x : Ctx) : (endRun s x).memoryOk = s.memoryOk := by
  simp [endRun]

end Sys2Proof.Machine
end

section
namespace Sys2Proof.Machine

/-! #### The words of an array -/

theorem Array_.wf_plane {a : Array_} (ha : a.wordsOk = true) (pl : Bool) : (a.plane pl).wf = true := by
  obtain ⟨h0, h1, -, -⟩ := a.wordsOk_iff.mp ha
  cases pl
  · exact h0
  · exact h1

theorem Array_.wf_st {a : Array_} (ha : a.wordsOk = true) (r : Bool) : (a.st r).wf = true := by
  obtain ⟨-, -, h0, h1⟩ := a.wordsOk_iff.mp ha
  cases r
  · exact h0
  · exact h1

theorem Array_.wordsOk_setPlane {a : Array_} (ha : a.wordsOk = true) (pl : Bool) {m : Store 40} (hm : m.wf = true) :
    (a.setPlane pl m).wordsOk = true := by
  obtain ⟨h0, h1, hst⟩ := a.wordsOk_iff.mp ha
  refine (Array_.wordsOk_iff _).mpr ?_
  cases pl
  · exact ⟨hm, h1, hst⟩
  · exact ⟨h0, hm, hst⟩

theorem Array_.wordsOk_setSt {a : Array_} (ha : a.wordsOk = true) (r : Bool) {m : Store 32} (hm : m.wf = true) :
    (a.setSt r m).wordsOk = true := by
  obtain ⟨h0, h1, hs0, hs1⟩ := a.wordsOk_iff.mp ha
  refine (Array_.wordsOk_iff _).mpr ?_
  cases r
  · exact ⟨h0, h1, hm, hs1⟩
  · exact ⟨h0, h1, hs0, hm⟩

@[simp] theorem Array_.wordsOk_setPart (a : Array_) (p : Fin 4) (k : Part) : (a.setPart p k).wordsOk = a.wordsOk := rfl
@[simp] theorem Array_.wordsOk_setMask (a : Array_) (back : Bool) (p : Fin 4) (m : Masks) :
    (a.setMask back p m).wordsOk = a.wordsOk := rfl
@[simp] theorem Array_.wordsOk_empty (mode : BitVec 2) : (Array_.empty mode).wordsOk = true :=
  (Array_.wordsOk_iff _).mpr ⟨rfl, rfl, rfl, rfl⟩

theorem wf_startPlane {m : Store 40} (hm : m.wf = true) (g : Geom) (cont : Bool) : (startPlane m g cont).wf = true := by
  cases cont
  · exact Store.wf_filter m _ hm
  · exact hm

theorem Store.wf_ite_set {w : Nat} {m : Store w} (hm : m.wf = true) (c : Bool) (i : Nat) (x : BitVec w) :
    (if c then Store.set m i x else m).wf = true := by
  cases c
  · exact hm
  · exact Store.wf_set m i x hm

/-- A fold that sets some of the words it visits. -/
theorem Store.wf_foldl_set {w : Nat} {α : Type} {c : Store w → α → Bool} {i : Store w → α → Nat}
    {x : Store w → α → BitVec w} (l : List α) {m : Store w} (hm : m.wf = true) :
    (l.foldl (fun m a => if c m a then Store.set m (i m a) (x m a) else m) m).wf = true :=
  Store.wf_foldl _ (fun _ _ hm => Store.wf_ite_set hm _ _ _) l m hm

theorem wf_osPlane (s : State) (i : Issued) (p : MxParams) (g : Geom) {m : Store 40} (hm : m.wf = true) (va vb : RView) :
    (osPlane s i p g m va vb).wf = true :=
  Store.wf_foldl_set _ (wf_startPlane hm g p.start)

theorem wf_ewPlane (s : State) (i : Issued) (p : MxParams) (g : Geom) {m : Store 40} (hm : m.wf = true) (v : Option RView) :
    (ewPlane s i p g m v).wf = true :=
  Store.wf_foldl_set _ hm

theorem wf_loadTile (s : State) (p : MxParams) (g : Geom) (v : RView) (t : Nat) {m : Store 32} (hm : m.wf = true) :
    (loadTile s p g v t m).wf = true :=
  Store.wf_foldl _ (fun m _ hm => Store.wf_set m _ _ hm) _ _ (Store.wf_filter m _ hm)

theorem wf_stTile (s : State) (i : Issued) (p : MxParams) (g : Geom) (vv : RView) (l : Loaded) (reg : Store 32) (t : Nat)
    {m : Store 40} (hm : m.wf = true) : (stTile s i p g vv l reg t m).wf = true := by
  refine Store.wf_foldl _ (fun m rj hm => ?_) _ _ hm
  dsimp only
  split <;> exact Store.wf_ite_set hm _ _ _

theorem wordsOk_stRun {s : State} (hs : s.memoryOk = true) (i : Issued) (p : MxParams) (n pt : Fin 4) (vv : RView) (v1 : Option RView) :
    (stRun s i p n pt vv v1).wordsOk = true := by
  have hstart := Array_.wordsOk_setPlane (State.wordsOk_array hs n) p.plane
    (wf_startPlane (Array_.wf_plane (State.wordsOk_array hs n) p.plane) (geom (s.array n).mode pt.1) p.start)
  unfold stRun
  extract_lets a g a0
  split
  · exact hstart
  · refine List.foldlRecOn (motive := fun a : Array_ => a.wordsOk = true) _ _ hstart fun a ha t _ => ?_
    extract_lets r a1
    have h1 : a1.wordsOk = true := by
      unfold a1
      split
      · exact Array_.wordsOk_setSt ha r (wf_loadTile s p _ _ t (Array_.wf_st ha r))
      · exact ha
    clear_value a1
    split
    · exact Array_.wordsOk_setPlane h1 _ (wf_stTile s i p _ vv _ _ t (Array_.wf_plane h1 _))
    · exact h1

theorem wordsOk_mxStepped {s : State} (hs : s.memoryOk = true) (i : Issued) (b : MxBody) : (mxStepped s i b).wordsOk = true := by
  have ha := State.wordsOk_array hs (mxArray i.e.cmd.h)
  unfold mxStepped
  dsimp only
  split
  · exact ha
  · split
    · exact Array_.wordsOk_setPlane ha _ (wf_osPlane s i b.p _ (Array_.wf_plane ha _) _ _)
    · exact wordsOk_stRun hs i b.p _ _ _ _
    · exact Array_.wordsOk_setPlane ha _ (wf_ewPlane s i b.p _ (Array_.wf_plane ha _) _)
    · exact ha

/-- A chain that writes a register leaves the register's words canonical. -/
theorem Drain.wordsOk_writeReg (d : Drain) {a : Array_} (ha : a.wordsOk = true) (vals : List (Nat × List (Nat × Num))) :
    (d.writeReg a vals).wordsOk = true := by
  refine Array_.wordsOk_setSt ha _ (Store.wf_foldl _ (fun m row hm => ?_) vals _ (Store.wf_filter _ _ (Array_.wf_st ha _)))
  exact Store.wf_foldl _ (fun m q hm => Store.wf_set m _ _ hm) row.2 m hm

theorem wordsOk_drainAttnFwd (d : Drain) (ha : d.a.wordsOk = true) : (drainAttnFwd d).a.wordsOk = true := by
  unfold drainAttnFwd
  extract_lets comp fresh cols row rows bytes m0 m1 a1 a2
  have h0 : m0.wf = true := by
    unfold m0
    split
    · exact wf_startPlane (Array_.wf_plane ha _) _ _
    · exact Array_.wf_plane ha _
  have h1 : m1.wf = true :=
    Store.wf_foldl _ (fun m q hm => Store.wf_foldl _ (fun m c hm => Store.wf_set m _ _ hm) _ m hm) _ _ h0
  have h2 : a2.wordsOk = true := Array_.wordsOk_setPlane ha comp h1
  exact d.wordsOk_writeReg h2 _

/-- ATTN_FWD writes the companion plane, it and the two parts of ATTN_BWD a register; every other drain leaves the array. -/
theorem wordsOk_drainOf (fuse : Nat) (d : Drain) (ha : d.a.wordsOk = true) : (drainOf fuse d).a.wordsOk = true := by
  unfold drainOf
  split
  case h_5 => exact wordsOk_drainAttnFwd d ha
  case h_8 => exact d.wordsOk_writeReg ha _
  case h_9 => exact d.wordsOk_writeReg ha _
  all_goals exact ha

theorem memoryOk_mxRun {s : State} (hs : s.memoryOk = true) (i : Issued) (b : MxBody) : (mxRun s i b).s.memoryOk = true := by
  have hstepped := wordsOk_mxStepped hs i b
  unfold mxRun
  extract_lets h n p a close e v2 d s1
  have hclose : ∀ a : Array_, a.wordsOk = true → (close a).wordsOk = true := fun a ha => by
    unfold close
    split <;> exact ha
  split
  · exact hs
  · split
    · exact State.memoryOk_setArray hs n (hclose a hstepped)
    · have h1 : s1.memoryOk = true := State.memoryOk_setArray hs n (hclose _ (wordsOk_drainOf _ _ hstepped))
      unfold v2
      split <;> exact h1

/-! #### The vector commands and TRANSPOSE: no memory before they land -/

theorem memoryOk_vxMapRun (s : State) (i : Issued) (b : VxBody) (m n : Nat) (f : Nat → Nat → Num) (empty : List Nat) (chain : Bytes) :
    (vxMapRun s i b m n f empty chain).s.memoryOk = s.memoryOk := by
  unfold vxMapRun
  split <;> rfl

theorem memoryOk_softmaxRun (s : State) (i : Issued) (b : VxBody) (m n : Nat) : (softmaxRun s i b m n).s.memoryOk = s.memoryOk := by
  unfold softmaxRun
  split
  · rfl
  · split
    · rfl
    · exact memoryOk_vxMapRun ..

theorem memoryOk_softmaxBwdRun (s : State) (i : Issued) (b : VxBody) (m n : Nat) :
    (softmaxBwdRun s i b m n).s.memoryOk = s.memoryOk := by
  unfold softmaxBwdRun
  split
  · rfl
  · exact memoryOk_vxMapRun ..

theorem memoryOk_vxReduceRun (s : State) (i : Issued) (b : VxBody) (m n : Nat) (y : Nat → Nat → Num) :
    (vxReduceRun s i b m n y).s.memoryOk = s.memoryOk := by
  unfold vxReduceRun
  dsimp only
  split <;> simp

theorem memoryOk_vxRun (s : State) (i : Issued) (b : VxBody) (red : Bool) : (vxRun s i b red).s.memoryOk = s.memoryOk := by
  unfold vxRun
  dsimp only
  split
  · exact memoryOk_softmaxRun ..
  · exact memoryOk_softmaxBwdRun ..
  · split
    · rfl
    · split
      · exact memoryOk_vxReduceRun ..
      · split
        · rfl
        · exact memoryOk_vxMapRun ..

@[simp] theorem State.memoryOk_setVec (s : State) (cu : Bool) (v : VecState) : (s.setVec cu v).memoryOk = s.memoryOk := by
  simp [State.setVec]

theorem memoryOk_vxLoadRun (s : State) (i : Issued) (b : VxLoadBody) (table : Bool) :
    (vxLoadRun s i b table).s.memoryOk = s.memoryOk := by
  unfold vxLoadRun
  dsimp only
  split
  · rfl
  · exact State.memoryOk_setVec ..

theorem memoryOk_transposeRun (s : State) (i : Issued) : (transposeRun s i).s = s := by
  unfold transposeRun
  split <;> rfl

/-- What a computing command does when it completes, before its bytes land. -/
theorem State.memoryOk_runOf {s : State} (hs : s.memoryOk = true) (i : Issued) : (s.runOf i).s.memoryOk = true := by
  unfold State.runOf
  split
  case h_1 | h_2 | h_3 | h_4 => exact memoryOk_mxRun hs i _
  case h_5 | h_6 => exact (memoryOk_vxRun s i _ false).trans hs
  case h_7 | h_8 => exact (memoryOk_vxRun s i _ true).trans hs
  case h_9 | h_10 => exact (memoryOk_vxLoadRun s i _ false).trans hs
  case h_11 | h_12 => exact (memoryOk_vxLoadRun s i _ true).trans hs
  case h_13 => exact (congrArg State.memoryOk (memoryOk_transposeRun s i)).trans hs
  case h_14 => exact hs

end Sys2Proof.Machine
end

/-! #### Issue, fetch, execution and the transfers -/

section
namespace Sys2Proof.Machine

@[simp] theorem State.memoryOk_putExport (s : State) (u : UnitId) (i : Issued) (p : Exporting) :
    (s.putExport u i p).memoryOk = s.memoryOk := by
  simp [State.putExport]

@[simp] theorem State.memoryOk_sendExport (s : State) (u : UnitId) (i : Issued) (p : Exporting) :
    (s.sendExport u i p).memoryOk = s.memoryOk := by
  unfold State.sendExport
  split <;> simp

@[simp] theorem State.memoryOk_settleSwaps (s : State) : s.settleSwaps.memoryOk = s.memoryOk := by
  simp [State.settleSwaps]

@[simp] theorem State.memoryOk_enqueue (s : State) (e : Entry) : (s.enqueue e).memoryOk = s.memoryOk := by
  simp [State.enqueue]

@[simp] theorem State.memoryOk_unqueue (s : State) (e : Entry) : (s.unqueue e).memoryOk = s.memoryOk := by
  simp [State.unqueue]

@[simp] theorem State.memoryOk_unhold (s : State) (e : Entry) (n : Option Nat) : (s.unhold e n).memoryOk = s.memoryOk := by
  simp [State.unhold]

@[simp] theorem State.memoryOk_closeRef (s : State) (e : Entry) : (s.closeRef e).memoryOk = s.memoryOk := by
  unfold State.closeRef
  split <;> simp

@[simp] theorem State.memoryOk_skipCmd (s : State) (e : Entry) (enters : Bool) : (s.skipCmd e enters).memoryOk = s.memoryOk := by
  simp [State.skipCmd]

theorem State.memoryOk_atIssue {s t : State} (hs : s.memoryOk = true) {e : Entry} {enters : Bool} (h : s.atIssue e enters = some t) :
    t.memoryOk = true := by
  suffices ∀ t ∈ s.atIssue e enters, t.memoryOk = true from this t h
  unfold State.atIssue
  dsimp only
  split <;> simp [hs]

@[simp] theorem State.memoryOk_freeTu (s : State) (i : Issued) : (s.freeTu i).memoryOk = s.memoryOk := by
  unfold State.freeTu
  split <;> simp

@[simp] theorem State.memoryOk_admitOrFault {s : State} (hs : s.memoryOk = true) (eng : Fin 8) (k : Fin 4) (i : Issued) (b : StreamBody) :
    (s.admitOrFault eng k i b).memoryOk = true := by
  unfold State.admitOrFault
  split <;> simp [hs]

@[simp] theorem State.memoryOk_armStream {s : State} (hs : s.memoryOk = true) (e : Entry) (b : StreamBody) :
    (s.armStream e b).memoryOk = true := by
  unfold State.armStream
  extract_lets _ i eng k s1
  have h1 : s1.memoryOk = true := by simp [s1, hs]
  split <;> simp [h1]

@[simp] theorem State.memoryOk_noteWords (s : State) (task : BitVec 2) (dpi : Nat → W64) (ws : List Nat) :
    (s.noteWords task dpi ws).memoryOk = s.memoryOk := by
  unfold State.noteWords
  exact State.memoryOk_foldl_same (fun s a => by simp) _ s

@[simp] theorem State.memoryOk_execFaultAt {s : State} (hs : s.memoryOk = true) (w : Site) (i : Issued) (code : Code) (dpi : W64)
    (ws : List Nat) (wrote : Bool) :
    (s.execFaultAt w i code dpi ws wrote).memoryOk = true := by
  unfold State.execFaultAt
  extract_lets s1
  have h1 : s1.memoryOk = true := by simp [s1, hs]
  simp [h1]

@[simp] theorem State.memoryOk_execFault {s : State} (hs : s.memoryOk = true) (u : UnitId) (i : Issued) (code : Code) (dpi : W64)
    (ws : List Nat) (wrote : Bool) :
    (s.execFault u i code dpi ws wrote).memoryOk = true := by
  simp [State.execFault, hs]

@[simp] theorem State.memoryOk_closeCmd (s : State) (i : Issued) : (s.closeCmd i).memoryOk = s.memoryOk := by
  simp [State.closeCmd]

@[simp] theorem State.memoryOk_sendPeer {s : State} (hs : s.memoryOk = true) (u : UnitId) (i : Issued) (bs : Bytes) (seen : List Seen) :
    (s.sendPeer u i bs seen).memoryOk = true := by
  unfold State.sendPeer
  split
  · split
    · simp [hs]
    · have h1 : ((s.foldSeen i u seen).withSpad (s.spad.write (localBytes bs))).memoryOk = true :=
        State.memoryOk_withSpad (by simp [hs]) (Spad.wf_write _ _ (State.spad_wf hs))
      simp [h1]
  · simp [hs]

@[simp] theorem State.memoryOk_finishCmd {s : State} (hs : s.memoryOk = true) (u : UnitId) (i : Issued) :
    (s.finishCmd u i).memoryOk = true := by
  unfold State.finishCmd
  split
  · simp [hs]
  · dsimp only
    split
    · simp [hs]
    · simp [Run.memoryOk_land (State.memoryOk_runOf hs i)]

@[simp] theorem State.memoryOk_startPlane {s : State} (hs : s.memoryOk = true) (i : Issued) : (s.startPlane i).memoryOk = true := by
  unfold State.startPlane
  dsimp only
  split
  · exact hs
  · simp [hs]

@[simp] theorem State.memoryOk_putExec (s : State) (i : Issued) : (s.putExec i).memoryOk = s.memoryOk := by
  simp [State.putExec]

@[simp] theorem State.memoryOk_dropExec (s : State) (i : Issued) : (s.dropExec i).memoryOk = s.memoryOk := by
  simp [State.dropExec]

@[simp] theorem State.memoryOk_endSteps {s : State} (hs : s.memoryOk = true) (u : UnitId) (i : Issued) :
    (s.endSteps u i).memoryOk = true := by
  unfold State.endSteps
  split
  · exact hs
  · split
    · exact hs
    · split
      · simp [hs]
      · simp [State.memoryOk_setArray hs, wordsOk_mxStepped hs]

@[simp] theorem State.memoryOk_endAhead {s : State} (hs : s.memoryOk = true) (u : UnitId) (n : Nat) :
    (s.endAhead u n).memoryOk = true := by
  unfold State.endAhead
  exact State.memoryOk_foldl (fun s a hs => by simp [hs]) _ hs

@[simp] theorem State.memoryOk_noteArray (s : State) (u : UnitId) : (s.noteArray u).memoryOk = s.memoryOk := by
  unfold State.noteArray
  split <;> simp

@[simp] theorem State.memoryOk_takeTu (s : State) (i : Issued) : (s.takeTu i).memoryOk = s.memoryOk := by
  unfold State.takeTu
  split <;> simp

@[simp] theorem State.memoryOk_stage (s : State) (e : Entry) : (s.stage e).memoryOk = s.memoryOk := by
  simp [State.stage]

@[simp] theorem State.memoryOk_runWhole {s : State} (hs : s.memoryOk = true) (e : Entry) : (s.runWhole e).memoryOk = true := by
  unfold State.runWhole
  dsimp only
  split <;> simp [hs]

@[simp] theorem State.memoryOk_act {s : State} (hs : s.memoryOk = true) (e : Entry) (direct enters : Bool) :
    (s.act e direct enters).memoryOk = true := by
  unfold State.act
  split
  · exact hs
  · simp [hs]
  · simp [hs]
  · dsimp only
    cases h : (s.unqueue e).atIssue e enters with
    | some s2 => simp [State.memoryOk_atIssue (by simp [hs]) h]
    | none => dsimp only; split <;> simp [hs]

@[simp] theorem State.memoryOk_endBallast (s : State) : s.endBallast.memoryOk = s.memoryOk := by
  simp [State.endBallast]

@[simp] theorem State.memoryOk_stopBallast (s : State) : s.stopBallast.memoryOk = s.memoryOk := by
  simp [State.stopBallast]

@[simp] theorem State.memoryOk_startBallast (s : State) (u : UnitId) : (s.startBallast u).memoryOk = s.memoryOk := by
  unfold State.startBallast
  split <;> simp

@[simp] theorem State.memoryOk_reballast (s : State) (c : Cmd) (u : UnitId) : (s.reballast c u).memoryOk = s.memoryOk := by
  unfold State.reballast
  split <;> simp

@[simp] theorem State.memoryOk_forecast (s : State) : s.forecast.memoryOk = s.memoryOk := by
  simp [State.forecast]

@[simp] theorem State.memoryOk_follow (s t : State) : (s.follow t).memoryOk = t.memoryOk := by
  unfold State.follow
  rw [State.memoryOk_forecast]
  exact State.memoryOk_foldl_same (fun t q => by split <;> simp) _ t

@[simp] theorem State.memoryOk_noteHolds (s : State) (l : List Entry) : (s.noteHolds l).memoryOk = s.memoryOk := by
  simp [State.noteHolds]

@[simp] theorem State.memoryOk_putOwn {s : State} (hs : s.memoryOk = true) (a n : Nat) (img : Bytes) :
    (s.putOwn a n img).memoryOk = true := by
  unfold State.putOwn
  extract_lets hi inside cut mem0 mem1
  have h1 : mem1.wf = true :=
    Store.wf_foldl _ (fun m p hm => Store.wf_ite_set hm _ _ _) _ _ (Store.wf_filter _ _ (State.spad_wf hs))
  have h2 : ∀ sp : Spad, sp.mem = mem1 → (s.withSpad sp).memoryOk = true := fun sp hsp => State.memoryOk_withSpad hs (hsp ▸ h1)
  simp [h2]

@[simp] theorem State.memoryOk_putImage {s : State} (hs : s.memoryOk = true) (a : W64) (n : Nat) (img : Bytes) :
    (s.putImage a n img).memoryOk = true := by
  simp [State.putImage, hs]

@[simp] theorem State.memoryOk_putBytes {s : State} (hs : s.memoryOk = true) (a : W64) (bs : List Byte) :
    (s.putBytes a bs).memoryOk = true := by
  simp [State.putBytes, hs]

@[simp] theorem State.memoryOk_skipWord (s : State) (t : Fin 4) (w : CmdWord) (c : Cmd) : (s.skipWord t w c).memoryOk = s.memoryOk := by
  simp [State.skipWord]

@[simp] theorem State.memoryOk_placeWord {s : State} (hs : s.memoryOk = true) (t : Fin 4) (w : CmdWord) :
    (s.placeWord t w).memoryOk = true := by
  unfold State.placeWord
  dsimp only
  split
  · split <;> simp [hs]
  · split
    · simp [hs]
    · split
      · simp [hs]
      · split <;> simp [hs]

@[simp] theorem State.memoryOk_fetch {s : State} (hs : s.memoryOk = true) (t : Fin 4) (data : Fetched) :
    (s.fetch t data).memoryOk = true := by
  unfold State.fetch
  dsimp only
  split
  · exact hs
  · split
    · simp [hs]
    · split
      · split
        · simp [hs]
        · split <;> simp [hs]
      · split <;> simp [hs]

@[simp] theorem State.memoryOk_lateBy (s : State) (t : Fin 4) (close : Late → Late) (f : State → State) :
    (s.lateBy t close f).memoryOk = s.memoryOk := by
  unfold State.lateBy
  split
  · rfl
  · extract_lets u _ s1 _ _ s2
    have h2 : s2.memoryOk = s.memoryOk := State.memoryOk_withCc_same (s1.withErr u.err) rfl rfl
    split
    · rfl
    · simp [h2]

@[simp] theorem State.memoryOk_issueNext {s : State} (hs : s.memoryOk = true) : s.issueNext.memoryOk = true := by
  unfold State.issueNext
  dsimp only
  split <;> simp [hs]

@[simp] theorem State.memoryOk_issueCycle {s : State} (hs : s.memoryOk = true) : s.issueCycle.memoryOk = true := by
  unfold State.issueCycle
  split <;> simp [hs]

@[simp] theorem State.memoryOk_unitAhead {s : State} (hs : s.memoryOk = true) (u : UnitId) : (s.unitAhead u).memoryOk = true := by
  simp [State.unitAhead, hs]

@[simp] theorem State.memoryOk_startUnit {s : State} (hs : s.memoryOk = true) (u : UnitId) : (s.startUnit u).memoryOk = true := by
  unfold State.startUnit
  split
  · exact hs
  · dsimp only
    split
    · simp [hs]
    · split <;> simp [hs]

@[simp] theorem State.memoryOk_startCycle {s : State} (hs : s.memoryOk = true) (u : UnitId) : (s.startCycle u).memoryOk = true := by
  unfold State.startCycle
  split
  · simp [hs]
  · split
    · simp [hs]
    · exact hs

@[simp] theorem State.memoryOk_lateFault {s : State} (hs : s.memoryOk = true) (u : UnitId) (i : Issued) (code : Code) (dpi : W64)
    (loc : PhysLoc) (detail : W64) :
    (s.lateFault u i code dpi loc detail).memoryOk = true := by
  simp [State.lateFault, hs]

@[simp] theorem State.memoryOk_lateComplete {s : State} (hs : s.memoryOk = true) (u : UnitId) : (s.lateComplete u).memoryOk = true := by
  unfold State.lateComplete
  split
  · exact hs
  · dsimp only
    split
    · simp [hs]
    · split
      · simp [hs]
      · split <;> simp [hs]

@[simp] theorem State.memoryOk_completeUnit {s : State} (hs : s.memoryOk = true) (u : UnitId) (n : Nat) :
    (s.completeUnit u n).memoryOk = true := by
  unfold State.completeUnit
  dsimp only
  split <;> simp [hs]

@[simp] theorem State.memoryOk_promote {s : State} (hs : s.memoryOk = true) (e : Fin 8) (k : Fin 4) :
    (s.promote e k).memoryOk = true := by
  unfold State.promote
  dsimp only
  split
  · split
    · simp [hs]
    · exact hs
  · exact hs

@[simp] theorem State.memoryOk_streamFault {s : State} (hs : s.memoryOk = true) (e : Fin 8) (k : Fin 4) (t : Transfer) (b : StreamBody)
    (code : Code) (ws : List Nat) (detail : W64) :
    (s.streamFault e k t b code ws detail).memoryOk = true := by
  unfold State.streamFault
  extract_lets s1
  have h1 : s1.memoryOk = true := by
    unfold s1
    split
    · exact hs
    · split
      · exact State.memoryOk_foldl (fun s h hs => by simp [hs]) _ hs
      · simp [hs]
  simp [h1]

@[simp] theorem State.memoryOk_endMcast {s : State} (hs : s.memoryOk = true) (t : Transfer) (b : StreamBody) :
    (s.endMcast t b).memoryOk = true := by
  simp [State.endMcast, hs]

@[simp] theorem State.memoryOk_finishStream {s : State} (hs : s.memoryOk = true) (e : Fin 8) (k : Fin 4) :
    (s.finishStream e k).memoryOk = true := by
  unfold State.finishStream
  split
  · exact hs
  next t _ =>
    split
    · exact hs
    next b _ =>
      split
      · exact hs
      · extract_lets _ s1 c s2 s3 s4
        have h1 : s1.memoryOk = true := by simp [s1, hs]
        have h2 : s2.memoryOk = true := State.memoryOk_withSpad h1 (Spad.wf_write _ _ (State.spad_wf h1))
        split
        · simp [h1]
        · simp [s4, s3, h2]

@[simp] theorem State.memoryOk_timeoutTasks {s : State} (hs : s.memoryOk = true) : s.timeoutTasks.memoryOk = true := by
  unfold State.timeoutTasks
  exact State.memoryOk_foldl (fun s a hs => by simp [hs]) _ hs

@[simp] theorem State.memoryOk_answer (s : State) (req : Requester) (m : Msg) (us : List FabUnit) :
    (s.answer req m us).memoryOk = s.memoryOk := by
  simp [State.answer]

@[simp] theorem State.memoryOk_ackRun (s : State) (req : Requester) (addr len : Nat) : (s.ackRun req addr len).memoryOk = s.memoryOk := by
  simp [State.ackRun]

@[simp] theorem State.memoryOk_refuseRun (s : State) (req : Requester) (addr len : Nat) (cause : BitVec 8) :
    (s.refuseRun req addr len cause).memoryOk = s.memoryOk := by
  simp [State.refuseRun]

@[simp] theorem State.memoryOk_dataRun (s : State) (req : Requester) (addr len : Nat) :
    (s.dataRun req addr len).memoryOk = s.memoryOk := by
  simp [State.dataRun]

@[simp] theorem State.memoryOk_ackNotify (s : State) (req : Requester) (ec : BitVec 6) (inc : BitVec 8) :
    (s.ackNotify req ec inc).memoryOk = s.memoryOk := by
  simp [State.ackNotify]

@[simp] theorem State.memoryOk_refuseNotify (s : State) (req : Requester) (ec : BitVec 6) (inc cause : BitVec 8) :
    (s.refuseNotify req ec inc cause).memoryOk = s.memoryOk := by
  simp [State.refuseNotify]

@[simp] theorem State.memoryOk_refuseInbound (s : State) (req : Requester) (addr len : Nat) (cause : BitVec 8) :
    (s.refuseInbound req addr len cause).memoryOk = s.memoryOk := by
  simp [State.refuseInbound]

@[simp] theorem State.memoryOk_refuseWords (s : State) (req : Requester) (addr len : Nat) (ws : List Nat) (cause : BitVec 8) :
    (s.refuseWords req addr len ws cause).memoryOk = s.memoryOk := by
  simp [State.refuseWords]

@[simp] theorem State.memoryOk_windowWrite {s : State} (hs : s.memoryOk = true) (req : Requester) (addr : Nat) (bytes : List Byte) :
    (s.windowWrite req addr bytes).memoryOk = true := by
  unfold State.windowWrite
  split
  · simp [hs]
  · split
    · simp [hs]
    · simp [State.memoryOk_withSpad hs (Spad.wf_write _ _ (State.spad_wf hs))]

@[simp] theorem State.memoryOk_inboundWrite {s : State} (hs : s.memoryOk = true) (req : Requester) (addr : Nat) (bytes : List Byte) :
    (s.inboundWrite req addr bytes).memoryOk = true := by
  unfold State.inboundWrite
  exact State.memoryOk_foldl (fun s a hs => by simp [hs]) _ hs

@[simp] theorem State.memoryOk_windowRead (s : State) (req : Requester) (addr len : Nat) :
    (s.windowRead req addr len).memoryOk = s.memoryOk := by
  unfold State.windowRead
  split
  · simp
  · split
    · simp
    · split
      · simp
      · split <;> simp

@[simp] theorem State.memoryOk_inboundRead (s : State) (req : Requester) (addr len : Nat) :
    (s.inboundRead req addr len).memoryOk = s.memoryOk := by
  unfold State.inboundRead
  exact State.memoryOk_foldl_same (fun s a => by simp) _ s

end Sys2Proof.Machine
end

/-! #### Acknowledgements, failures, jobs and their images -/

section
namespace Sys2Proof.Machine

@[simp] theorem State.memoryOk_setRun (s : State) (e : Fin 8) (k : Fin 4) (t : Transfer) : (s.setRun e k t).memoryOk = s.memoryOk := by
  simp [State.setRun]

@[simp] theorem State.memoryOk_failTransfer {s : State} (hs : s.memoryOk = true) (e : Fin 8) (k : Fin 4) (t : Transfer) (b : StreamBody)
    (code : Code) (detail : W64) (ws : List Nat) :
    (s.failTransfer e k t b code detail ws).memoryOk = true := by
  simp [State.failTransfer, hs]

@[simp] theorem State.memoryOk_landData (s : State) (e : Fin 8) (k : Fin 4) (addr : Nat) (bytes : List Byte) :
    (s.landData e k addr bytes).memoryOk = s.memoryOk := by
  unfold State.landData
  split <;> simp

@[simp] theorem State.memoryOk_acknowledge (s : State) (e : Fin 8) (k : Fin 4) (n : Nat) :
    (s.acknowledge e k n).memoryOk = s.memoryOk := by
  unfold State.acknowledge
  split <;> simp

@[simp] theorem State.memoryOk_lateExport {s : State} (hs : s.memoryOk = true) (a k : Nat) (code : Code) (detail : W64) :
    (s.lateExport a k code detail).memoryOk = true := by
  unfold State.lateExport
  split <;> simp [hs]

@[simp] theorem State.memoryOk_exportDone (s : State) (u : UnitId) (i : Issued) : (s.exportDone u i).memoryOk = s.memoryOk := by
  simp [State.exportDone]

@[simp] theorem State.memoryOk_exportAck (s : State) (a k n : Nat) : (s.exportAck a k n).memoryOk = s.memoryOk := by
  unfold State.exportAck
  split <;> simp

@[simp] theorem State.memoryOk_exportFail {s : State} (hs : s.memoryOk = true) (u : UnitId) (i : Issued) (code : Code) (detail : W64) :
    (s.exportFail u i code detail).memoryOk = true := by
  simp [State.exportFail, hs]

@[simp] theorem State.memoryOk_exportReroute {s : State} (hs : s.memoryOk = true) (k : Nat) (v : BitVec 2) (u : UnitId) (i : Issued)
    (p : Exporting) :
    (s.exportReroute k v u i p).memoryOk = true := by
  simp [State.exportReroute, hs]

@[simp] theorem State.memoryOk_exportsReroute {s : State} (hs : s.memoryOk = true) (k : Nat) (v : BitVec 2) :
    (s.exportsReroute k v).memoryOk = true := by
  unfold State.exportsReroute
  exact State.memoryOk_foldl (fun s a hs => by split <;> simp [hs]) _ hs

@[simp] theorem State.memoryOk_setSel (s : State) (k : Nat) (v : BitVec 2) : (s.setSel k v).memoryOk = s.memoryOk := by
  simp [State.setSel]

@[simp] theorem State.memoryOk_reroute {s : State} (hs : s.memoryOk = true) (k : Nat) (v : BitVec 2) (e : Fin 8) (q : Fin 4) :
    (s.reroute k v e q).memoryOk = true := by
  unfold State.reroute
  split <;> simp [hs]

@[simp] theorem State.memoryOk_moveSel {s : State} (hs : s.memoryOk = true) (k : Nat) (from_ : Nat) :
    (s.moveSel k from_).memoryOk = true := by
  unfold State.moveSel
  extract_lets en v s1 s2
  have h2 : s2.memoryOk = true := by simp [s2, s1, hs]
  exact State.memoryOk_exportsReroute (State.memoryOk_foldl (fun s q hs => by simp [hs]) _ h2) k v

@[simp] theorem State.memoryOk_losePort {s : State} (hs : s.memoryOk = true) (q : Fin 64) : (s.losePort q).memoryOk = true := by
  unfold State.losePort
  extract_lets _ s1
  have h1 : s1.memoryOk = true := (State.memoryOk_withFa_same s rfl rfl).trans hs
  split
  · rw [State.memoryOk_follow]
    exact State.memoryOk_foldl (fun s p hs => by simp [hs]) _ h1
  · exact h1

@[simp] theorem State.memoryOk_refused {s : State} (hs : s.memoryOk = true) (e : Fin 8) (k : Fin 4) (cause : BitVec 8)
    (chip : BitVec 20) (core : BitVec 3) :
    (s.refused e k cause chip core).memoryOk = true := by
  unfold State.refused
  split
  · exact hs
  · split <;> simp [hs]

@[simp] theorem State.memoryOk_exportRefused {s : State} (hs : s.memoryOk = true) (a k : Nat) (cause : BitVec 8) (chip : BitVec 20)
    (core : BitVec 3) :
    (s.exportRefused a k cause chip core).memoryOk = true := by
  unfold State.exportRefused
  split
  · simp [hs]
  · split <;> simp [hs]

@[simp] theorem State.memoryOk_timeOut {s : State} (hs : s.memoryOk = true) (e : Fin 8) (k : Fin 4) (onDie : Bool) (code : Code) :
    (s.timeOut e k onDie code).memoryOk = true := by
  unfold State.timeOut
  split <;> simp [hs]

@[simp] theorem State.memoryOk_exportTimeOut {s : State} (hs : s.memoryOk = true) (a k : Nat) (onDie : Bool) (code : Code) :
    (s.exportTimeOut a k onDie code).memoryOk = true := by
  unfold State.exportTimeOut
  split <;> simp [hs]

@[simp] theorem State.memoryOk_agentTimeOut {s : State} (hs : s.memoryOk = true) (e : Fin 13) (k : Fin 4) (onDie : Bool) (code : Code) :
    (s.agentTimeOut e k onDie code).memoryOk = true := by
  unfold State.agentTimeOut
  split <;> simp [hs]

@[simp] theorem State.memoryOk_reportMcast (s : State) (g : BitVec 12) (chip : BitVec 20) (core : BitVec 3) (seq : BitVec 16) (rs : List
    (Nat × List Byte)) (back : Fin 64) (result : BitVec 2) :
    (s.reportMcast g chip core seq rs back result).memoryOk = s.memoryOk := by
  simp [State.reportMcast]

@[simp] theorem State.memoryOk_dropMcast (s : State) (m : McastGroup) (g : BitVec 12) (seq : BitVec 16) :
    (s.dropMcast m g seq).memoryOk = s.memoryOk := by
  simp [State.dropMcast]

@[simp] theorem State.memoryOk_receiveMcast {s : State} (hs : s.memoryOk = true) (g : BitVec 12) (chip : BitVec 20) (core : BitVec 3)
    (seq : BitVec 16) (rs : List (Nat × List Byte)) (note : Option (BitVec 6 × BitVec 8)) (back : Fin 64) :
    (s.receiveMcast g chip core seq rs note back).memoryOk = true := by
  have hland : ∀ {t : State}, t.memoryOk = true → (t.withSpad (t.spad.write (runWrites rs))).memoryOk = true :=
    fun ht => State.memoryOk_withSpad ht (Spad.wf_write _ _ (State.spad_wf ht))
  unfold State.receiveMcast
  extract_lets tell m key runs put s1 s2 s3 deliver
  have htell : ∀ t r, (tell t r).memoryOk = t.memoryOk := fun t r => State.memoryOk_reportMcast t ..
  split
  · rw [htell, hs]
  · split
    · simp [htell, hs]
    · have hput : ∀ j m d, (put j m d).memoryOk = true := fun _ _ _ => hs
      have hdeliver : deliver.memoryOk = true := by
        rw [htell]
        unfold s3
        split <;> simp [hland, hput, s2, s1]
      split
      · rw [htell]
        exact hland hs
      · rw [htell, hs]
      · split
        · split
          · rw [htell, State.memoryOk_dropMcast, hput]
          · exact hdeliver
        · simp [hdeliver, htell, hput]

@[simp] theorem State.memoryOk_spreadMcast {s : State} (hs : s.memoryOk = true) (g : BitVec 12) (chip : BitVec 20) (core : BitVec 3)
    (seq : BitVec 16) (rs : List (Nat × List Byte)) (note : Option (BitVec 6 × BitVec 8)) (back : Fin 64) (r : BitVec 12) :
    (s.spreadMcast g chip core seq rs note back r).memoryOk = true := by
  unfold State.spreadMcast
  extract_lets e s1
  have h1 : s1.memoryOk = true := State.memoryOk_foldl (fun s c hs => by simp [hs]) _ hs
  simp [hs, State.memoryOk_foldl_same (f := fun s q => if bit e (16 + q) then s.emit (.mcastOn q g chip core seq rs note) else s)
    (fun s q => by simp), h1]

@[simp] theorem State.memoryOk_takeReport {s : State} (hs : s.memoryOk = true) (e : Fin 8) (k : Fin 4) (result : BitVec 2)
    (chip : BitVec 20) (core : BitVec 3) :
    (s.takeReport e k result chip core).memoryOk = true := by
  unfold State.takeReport
  split <;> simp [hs]

@[simp] theorem State.memoryOk_sendReleases {s : State} (hs : s.memoryOk = true) : s.sendReleases.memoryOk = true := by
  unfold State.sendReleases
  split
  · exact hs
  · exact State.memoryOk_foldl (fun s p hs => by simp [hs]) _ hs

@[simp] theorem State.memoryOk_level (s : State) (c : Fin 4) (age : Nat) : (s.level c age).memoryOk = s.memoryOk := by
  simp [State.level]

@[simp] theorem State.memoryOk_levels (s : State) : s.levels.memoryOk = s.memoryOk := by
  unfold State.levels
  exact State.memoryOk_foldl_same (fun s a => by simp) _ s

@[simp] theorem State.memoryOk_scrub (s : State) (addr : Nat) (found : EccKind) : (s.scrub addr found).memoryOk = s.memoryOk := by
  unfold State.scrub
  split <;> simp

@[simp] theorem State.memoryOk_passWord (s : State) : s.passWord.memoryOk = s.memoryOk := by
  simp [State.passWord]

@[simp] theorem State.memoryOk_drainTile {s : State} (hs : s.memoryOk = true) : s.drainTile.memoryOk = true := by
  unfold State.drainTile
  split <;> simp [hs]

@[simp] theorem State.memoryOk_queueTele (s : State) : s.queueTele.memoryOk = s.memoryOk := by
  simp [State.queueTele]

@[simp] theorem State.memoryOk_sendTele (s : State) : s.sendTele.memoryOk = s.memoryOk := by
  unfold State.sendTele
  split <;> simp

@[simp] theorem State.memoryOk_keepTags (s : State) : s.keepTags.memoryOk = s.memoryOk := by
  simp [State.keepTags]

@[simp] theorem State.memoryOk_writeDump {s : State} (hs : s.memoryOk = true) (status : Nat) : (s.writeDump status).memoryOk = true := by
  simp [State.writeDump, hs]

@[simp] theorem State.memoryOk_savedVx (s : State) : s.savedVx.memoryOk = s.memoryOk := by
  simp [State.savedVx]

@[simp] theorem State.memoryOk_writeSave {s : State} (hs : s.memoryOk = true) : s.writeSave.memoryOk = true := by
  simp [State.writeSave, hs]

@[simp] theorem State.memoryOk_restoreRegions {s : State} (hs : s.memoryOk = true) (img : Bytes) (d : BitVec 2048)
    (tab : Vector Region 64) :
    (s.restoreRegions img d tab).memoryOk = true :=
  List.foldlRecOn (motive := fun acc : State × Nat => acc.1.memoryOk = true) _ _ hs
    fun _ h _ _ => State.memoryOk_putOwn h ..

theorem getElem_mapVec {α β : Type} {n : Nat} (f : α → β) (v : Vector α n) {i : Nat} (h : i < n) : (mapVec f v)[i] = f v[i] := by
  simp [mapVec]

theorem wordsOk_mapVec {α : Type} {f : α → Array_} (hf : ∀ a, (f a).wordsOk = true) (v : Vector α 4) (n : Fin 4) :
    ((mapVec f v)[n.1]).wordsOk = true := by
  rw [getElem_mapVec]
  exact hf _

theorem wf_imageStore {n : Nat} (img : Bytes) (w a : Nat) : Store.wf (imageStore (n := n) img w a) = true :=
  Store.wf_foldl _ (fun m p hm => by
    split
    · exact Store.wf_set m _ _ hm
    · exact hm) img [] rfl

theorem wordsOk_arrayRestore (e d : Bytes) (n : Fin 4) (a : Option Nat) : (arrayRestore e d n a).wordsOk = true := by
  refine (Array_.wordsOk_iff _).mpr ?_
  cases a with
  | none => exact ⟨rfl, rfl, rfl, rfl⟩
  | some a => exact ⟨wf_imageStore .., wf_imageStore .., wf_imageStore .., wf_imageStore ..⟩

@[simp] theorem State.memoryOk_restore {s : State} (hs : s.memoryOk = true) (img : Bytes) (ntasks : Nat) :
    (s.restore img ntasks).memoryOk = true := by
  unfold State.restore
  extract_lets d tab e c s1 _ s2 where_ s3 v s4 es _ s5 m bank sb cal _ s6 _ s7
  have h1 : s1.memoryOk = true := State.memoryOk_restoreRegions hs ..
  have h3 : s3.memoryOk = true := State.memoryOk_withMx (s := s2) h1 (wordsOk_mapVec (fun n => wordsOk_arrayRestore ..) _)
  have h4 : s4.memoryOk = true := by simp [s4, h3]
  have h5 : s5.memoryOk = true := (State.memoryOk_withAlm ..).trans h4
  have h6 : s6.memoryOk = true := (State.memoryOk_withCal ..).trans h5
  exact (State.memoryOk_withJob ..).trans ((State.memoryOk_withSol ..).trans h6)

@[simp] theorem State.memoryOk_select (s : State) : s.select.memoryOk = s.memoryOk := by
  unfold State.select
  split
  · rfl
  · split <;> simp

@[simp] theorem State.memoryOk_finishJob (s : State) (m : BitVec 256) (rec : Bool) : (s.finishJob m rec).memoryOk = s.memoryOk := by
  simp [State.finishJob]

@[simp] theorem State.memoryOk_closeJob {s : State} (hs : s.memoryOk = true) (rec : Option (BitVec 512)) (m : BitVec 256) :
    (s.closeJob rec m).memoryOk = true := by
  unfold State.closeJob
  extract_lets s1 r _ s2 _ s3
  have h1 : s1.memoryOk = true := by
    unfold s1
    split <;> simp [hs]
  have h3 : s3.memoryOk = true := by simp [s3, s2, h1]
  split
  · exact h3
  · exact State.memoryOk_finishJob s3 .. ▸ h3

@[simp] theorem State.memoryOk_logRefusal (s : State) (code : Code) : (s.logRefusal code).memoryOk = s.memoryOk := by
  simp [State.logRefusal]

@[simp] theorem State.memoryOk_refuseDescriptor {s : State} (hs : s.memoryOk = true) : s.refuseDescriptor.memoryOk = true := by
  simp [State.refuseDescriptor, hs]

@[simp] theorem State.memoryOk_reportDead (s : State) : s.reportDead.memoryOk = s.memoryOk := by
  unfold State.reportDead
  exact State.memoryOk_foldl_same (fun s a => by simp) _ s

@[simp] theorem State.memoryOk_writeStartLog {s : State} (hs : s.memoryOk = true) : s.writeStartLog.memoryOk = true := by
  simp [State.writeStartLog, hs]

@[simp] theorem State.memoryOk_endOldBallast (s t : State) : (s.endOldBallast t).memoryOk = t.memoryOk :=
  State.memoryOk_foldl_same (fun u n => by simp) _ t

@[simp] theorem State.memoryOk_startJob {s : State} (hs : s.memoryOk = true) (ext : Bytes) (x : JobImages) :
    (s.startJob ext x).memoryOk = true := by
  unfold State.startJob
  extract_lets d es _ j _ s1 _ _ s2 _ _ s3 s4 _ s5 s6
  have h0 := State.memoryOk_withMx (s := s.withJob j) hs
    (wordsOk_mapVec (fun n => Array_.wordsOk_empty (jobMode d n)) (Vector.range 4))
  have h1 : s1.memoryOk = true := by
    rw [State.memoryOk_withIu, State.memoryOk_withRg, State.memoryOk_withCu, State.memoryOk_withVx]
    exact h0
  have h3 : s3.memoryOk = true := (State.memoryOk_withFa_same (s2.withSol _) rfl rfl).trans h1
  have h5 : s5.memoryOk = true := by simp [s5, s4, h3]
  simp [s6, h5]

@[simp] theorem State.memoryOk_refuseJob {s : State} (hs : s.memoryOk = true) (d : BitVec 2048) (code : Code) :
    (s.refuseJob d code).memoryOk = true := by
  simp [State.refuseJob, hs]

@[simp] theorem State.memoryOk_loadJob {s : State} (hs : s.memoryOk = true) (ext : Bytes) : (s.loadJob ext).memoryOk = true := by
  unfold State.loadJob
  split
  · exact hs
  · dsimp only
    split
    · simp [hs]
    · split <;> simp [hs]

@[simp] theorem State.memoryOk_stopTasks (s : State) : s.stopTasks.memoryOk = s.memoryOk := by
  unfold State.stopTasks
  exact State.memoryOk_foldl_same (fun s a => by simp) _ s

@[simp] theorem State.memoryOk_writeLog {s : State} (hs : s.memoryOk = true) : s.writeLog.memoryOk = true := by
  simp [State.writeLog, hs]

@[simp] theorem State.memoryOk_dropInjection (s : State) : s.dropInjection.memoryOk = s.memoryOk := by
  simp [State.dropInjection]

@[simp] theorem State.memoryOk_reportJob {s : State} (hs : s.memoryOk = true) (status : Nat) (updated : Bool) :
    (s.reportJob status updated).memoryOk = true := by
  simp [State.reportJob, hs]

@[simp] theorem State.memoryOk_writeAlmanac {s : State} (hs : s.memoryOk = true) (fin : Bool) : (s.writeAlmanac fin).memoryOk = true := by
  simp [State.writeAlmanac, hs]

@[simp] theorem State.memoryOk_endJob {s : State} (hs : s.memoryOk = true) : s.endJob.memoryOk = true := by
  unfold State.endJob
  extract_lets status fin s1 s2
  have h2 : s2.memoryOk = true := by simp [s2, s1, hs]
  have h3 : (s2.writeAlmanac fin).memoryOk = true := by simp [h2]
  simp [h3]

@[simp] theorem State.memoryOk_tryEnd {s : State} (hs : s.memoryOk = true) (p : State → Bool) : (s.tryEnd p).memoryOk = true := by
  simp [State.tryEnd, hs]

@[simp] theorem State.memoryOk_dropRefs (s : State) : s.dropRefs.memoryOk = s.memoryOk := by
  simp [State.dropRefs]

@[simp] theorem State.memoryOk_preemptJob {s : State} (hs : s.memoryOk = true) : s.preemptJob.memoryOk = true := by
  unfold State.preemptJob
  extract_lets s1 s2 _ s3
  have h1 : s1.memoryOk = true := by simp [s1, hs]
  have h2 : s2.memoryOk = true := by simp [s2, h1]
  have h3 : (s3.writeAlmanac false).memoryOk = true :=
    State.memoryOk_writeAlmanac ((State.memoryOk_withIu ..).trans h2) false
  simp [h1, h3]

end Sys2Proof.Machine
end

/-! #### Ports, bring-up, repair, power and the hart -/

section
namespace Sys2Proof.Machine

@[simp] theorem State.memoryOk_dropPort {s : State} (hs : s.memoryOk = true) (p : Fin 8) : (s.dropPort p).memoryOk = true := by
  simp [State.dropPort, hs]

@[simp] theorem State.memoryOk_expireKey {s : State} (hs : s.memoryOk = true) (p : Fin 8) : (s.expireKey p).memoryOk = true := by
  simp [State.expireKey, hs]

@[simp] theorem State.memoryOk_sendAbsent (s : State) (p : Fin 8) (hb : BitVec 8) : (s.sendAbsent p hb).memoryOk = s.memoryOk := by
  simp [State.sendAbsent]

@[simp] theorem State.memoryOk_sendPattern (s : State) (p : Fin 8) : (s.sendPattern p).memoryOk = s.memoryOk := by
  simp [State.sendPattern]

@[simp] theorem State.memoryOk_sendRunning (s : State) (p : Fin 8) : (s.sendRunning p).memoryOk = s.memoryOk := by
  simp [State.sendRunning]

@[simp] theorem State.memoryOk_sendFrame {s : State} (hs : s.memoryOk = true) (p : Fin 8) : (s.sendFrame p).memoryOk = true := by
  simp [State.sendFrame, hs]

@[simp] theorem State.memoryOk_extendBounds (s : State) (p : Fin 8) (fs : List SentFrame) :
    (s.extendBounds p fs).memoryOk = s.memoryOk := by
  unfold State.extendBounds
  exact State.memoryOk_foldl_same (fun s a => by simp) _ s

@[simp] theorem State.memoryOk_replayLink (s : State) (p : Fin 8) (seq : BitVec 12) (epoch : Bool) :
    (s.replayLink p seq epoch).memoryOk = s.memoryOk := by
  unfold State.replayLink
  extract_lets x fs s1 s2
  have h2 : s2.memoryOk = s.memoryOk := by simp [s2, s1]
  split
  · rfl
  · exact (State.memoryOk_foldl_same (fun s f => by simp) _ s2).trans h2

@[simp] theorem State.memoryOk_mismatch (s : State) (p : Fin 8) : (s.mismatch p).memoryOk = s.memoryOk := by
  simp [State.mismatch]

@[simp] theorem State.memoryOk_holdPosition (s : State) (p : Fin 8) (h : HeldPos) : (s.holdPosition p h).memoryOk = s.memoryOk := by
  simp [State.holdPosition]

@[simp] theorem State.memoryOk_takePosition (s : State) (p : Fin 8) (f : Frame) (pos : Nat) (us : List FabUnit) :
    (s.takePosition p f pos us).memoryOk = s.memoryOk := by
  unfold State.takePosition
  extract_lets x o cur skip w opens s1 s2
  have h2 : s2.memoryOk = s.memoryOk :=
    (State.memoryOk_foldl_same (fun s f => by simp) _ s1).trans (by simp [s1])
  exact (State.memoryOk_foldl_same (fun s f => by simp) _ s2).trans h2

@[simp] theorem State.memoryOk_takePositions (s : State) (p : Fin 8) (f : Frame) (n pos : Nat) (us : List FabUnit) :
    (s.takePositions p f n pos us).memoryOk = s.memoryOk := by
  induction n generalizing s pos us with
  | zero => exact State.memoryOk_setPort ..
  | succ n ih =>
    rw [State.takePositions]
    split
    · exact State.memoryOk_setPort ..
    · exact (ih ..).trans (State.memoryOk_takePosition ..)

@[simp] theorem State.memoryOk_takeMessage (s : State) (p : Fin 8) (u : FabUnit) : (s.takeMessage p u).memoryOk = s.memoryOk := by
  unfold State.takeMessage
  split
  · rfl
  · split
    · simp
    · split <;> simp

@[simp] theorem State.memoryOk_acceptFrame {s : State} (hs : s.memoryOk = true) (p : Fin 8) (f : Frame) :
    (s.acceptFrame p f).memoryOk = true := by
  unfold State.acceptFrame
  extract_lets x abs n us old x1 s1 s2
  have h2 : s2.memoryOk = true :=
    State.memoryOk_foldl (fun s u hs => by simp [hs]) _ (by simp [s1, hs])
  split
  · exact State.memoryOk_dropPort h2 p
  · exact h2

@[simp] theorem State.memoryOk_rejectFrame {s : State} (hs : s.memoryOk = true) (p : Fin 8) (tagOnly : Bool) :
    (s.rejectFrame p tagOnly).memoryOk = true := by
  simp [State.rejectFrame, hs]

@[simp] theorem State.memoryOk_receiveFrame {s : State} (hs : s.memoryOk = true) (p : Fin 8) (f : Frame) :
    (s.receiveFrame p f).memoryOk = true := by
  simp [State.receiveFrame, hs]

@[simp] theorem State.memoryOk_missBeat {s : State} (hs : s.memoryOk = true) (p : Fin 8) : (s.missBeat p).memoryOk = true := by
  simp [State.missBeat, hs]

@[simp] theorem State.memoryOk_refuseBack (s : State) (down inport inpos : Nat) (u : FabUnit) :
    (s.refuseBack down inport inpos u).memoryOk = s.memoryOk := by
  unfold State.refuseBack
  dsimp only
  split
  · split <;> simp
  · simp

@[simp] theorem State.memoryOk_passOn (s : State) (p : Fin 8) (pos inport inpos skip : Nat) (us : List FabUnit) :
    (s.passOn p pos inport inpos skip us).memoryOk = s.memoryOk := by
  unfold State.passOn
  split
  · simp
  · exact State.memoryOk_foldl_same (fun s u => by simp) _ s

@[simp] theorem State.memoryOk_forwardTransit (s : State) (p : Fin 8) (pos : Nat) (inport inpos skip : Nat) (units : List FabUnit) :
    (s.forwardTransit p pos inport inpos skip units).memoryOk = s.memoryOk := by
  unfold State.forwardTransit
  dsimp only
  split
  · rfl
  · split
    · simp
    · split <;> simp

@[simp] theorem State.memoryOk_useRecord {s : State} (hs : s.memoryOk = true) (r : BitVec 2048) (fence : W32) :
    (s.useRecord r fence).memoryOk = true :=
  (State.memoryOk_withSpad_same _ rfl).trans hs

@[simp] theorem State.memoryOk_reportRecord (s : State) : s.reportRecord.memoryOk = s.memoryOk := by
  simp [State.reportRecord]

@[simp] theorem State.memoryOk_steer {s : State} (hs : s.memoryOk = true) (r : BitVec 2048) : (s.steer r).memoryOk = true := by
  simp [State.steer, hs]

@[simp] theorem State.memoryOk_applyRepair {s : State} (hs : s.memoryOk = true) (failed : W32) :
    (s.applyRepair failed).memoryOk = true := by
  unfold State.applyRepair
  split
  · exact hs
  next r _ =>
    split
    · exact hs
    · extract_lets cleared stay s1 s2 s3
      have h1 : s1.memoryOk = true := by simp [s1, hs]
      have h2 : s2.memoryOk = true := State.memoryOk_foldl (fun s k hs => by simp [hs]) _ h1
      have h3 : s3.memoryOk = true := State.memoryOk_foldl (fun s p hs => by simp [hs]) _ h2
      split <;> simp [h3]

@[simp] theorem State.memoryOk_zeroise (s : State) : s.zeroise.memoryOk = true := by
  refine (State.memoryOk_iff _).mpr ⟨rfl, rfl, rfl, fun n => ?_, rfl, rfl⟩
  have h : s.zeroise.array n = Array_.empty 0 := Vector.getElem_replicate ..
  rw [h, Array_.wordsOk_empty]

@[simp] theorem State.memoryOk_inReset (s : State) (cold unlocked : Bool) : (s.inReset cold unlocked).memoryOk = true := rfl

@[simp] theorem State.memoryOk_sendReport (s : State) : s.sendReport.memoryOk = s.memoryOk := by
  simp [State.sendReport]

@[simp] theorem State.memoryOk_failBring (s : State) (cause : BitVec 4) (unit : BitVec 8) (loc : W32) :
    (s.failBring cause unit loc).memoryOk = s.memoryOk := by
  simp [State.failBring]

@[simp] theorem State.memoryOk_discardItem (s : State) : s.discardItem.memoryOk = s.memoryOk := by
  simp [State.discardItem]

@[simp] theorem State.memoryOk_toPhase (s : State) (p : BitVec 4) : (s.toPhase p).memoryOk = s.memoryOk := by
  simp [State.toPhase]

@[simp] theorem State.memoryOk_release {s : State} (hs : s.memoryOk = true) (testHold : Bool) (failing : Option FailLoc) :
    (s.release testHold failing).memoryOk = true := by
  unfold State.release
  split
  · exact hs
  · dsimp only
    split <;> simp

@[simp] theorem State.memoryOk_endPhase2 (s : State) : s.endPhase2.memoryOk = s.memoryOk := by
  simp [State.endPhase2]

@[simp] theorem State.memoryOk_dropKeys (s : State) : s.dropKeys.memoryOk = s.memoryOk := by
  unfold State.dropKeys
  exact State.memoryOk_foldl_same (fun s a => by simp) _ s

@[simp] theorem State.memoryOk_heldBist (s : State) (failing : List FailLoc) : (s.heldBist failing).memoryOk = s.memoryOk := by
  simp [State.heldBist]

@[simp] theorem State.memoryOk_endBist (s : State) (failing : List FailLoc) : (s.endBist failing).memoryOk = s.memoryOk := by
  unfold State.endBist
  extract_lets fs _ s1 s2
  have h2 : s2.memoryOk = s.memoryOk :=
    (State.memoryOk_foldl_same (fun s f => by simp) _ s1).trans (by simp [s1])
  split <;> simp [h2]

@[simp] theorem State.memoryOk_firstRecord {s : State} (hs : s.memoryOk = true) (r : BitVec 2048) :
    (s.firstRecord r).memoryOk = true := by
  unfold State.firstRecord
  split <;> simp [hs]

@[simp] theorem State.memoryOk_laterRecord (s : State) (r : BitVec 2048) : (s.laterRecord r).memoryOk = s.memoryOk := by
  simp [State.laterRecord]

@[simp] theorem State.memoryOk_phase8 (s : State) : s.phase8.memoryOk = s.memoryOk := by
  simp [State.phase8]

@[simp] theorem State.memoryOk_endPhase6 (s : State) : s.endPhase6.memoryOk = s.memoryOk := by
  simp [State.endPhase6]

@[simp] theorem State.memoryOk_takeDefault (s : State) (img : Bytes) : (s.takeDefault img).memoryOk = s.memoryOk := by
  simp [State.takeDefault]

@[simp] theorem State.memoryOk_holdDetour (s : State) (n : Fin 8) (img : Bytes) : (s.holdDetour n img).memoryOk = s.memoryOk := by
  simp [State.holdDetour]

@[simp] theorem State.memoryOk_takeDetour (s : State) (n : Fin 8) (img : Bytes) : (s.takeDetour n img).memoryOk = s.memoryOk := by
  simp [State.takeDetour]

@[simp] theorem State.memoryOk_raiseReady (s : State) : s.raiseReady.memoryOk = s.memoryOk := by
  simp [State.raiseReady]

@[simp] theorem State.memoryOk_tapSelect (s : State) (code : BitVec 5) : (s.tapSelect code).memoryOk = s.memoryOk := by
  simp [State.tapSelect]

theorem State.memoryOk_byCc {s : State} (hs : s.memoryOk = true) {f : State → State} (hf : (f s).memoryOk = true) :
    (s.byCc f).memoryOk = true := by
  simp [State.byCc, hs, hf]

@[simp] theorem State.memoryOk_evpendWrite (s : State) (v : W64) : (s.evpendWrite v).memoryOk = s.memoryOk := by
  simp [State.evpendWrite]

@[simp] theorem State.memoryOk_wdLimitStore (s : State) (v : W64) : (s.wdLimitStore v).memoryOk = s.memoryOk := by
  simp [State.wdLimitStore]

@[simp] theorem State.memoryOk_watchStore (s : State) (slot : Fin 8) (v : W64) : (s.watchStore slot v).memoryOk = s.memoryOk := by
  simp [State.watchStore]

@[simp] theorem State.memoryOk_injStore (s : State) (o : Nat) (v : W64) : (s.injStore o v).memoryOk = s.memoryOk := by
  simp [State.injStore]

@[simp] theorem State.memoryOk_submit (s : State) : s.submit.memoryOk = s.memoryOk := by
  unfold State.submit
  dsimp only
  split
  · simp
  · split
    · rfl
    · obtain ⟨sf, hland, -⟩ := s.landSf_eq
      rw [hland]
      exact State.memoryOk_withCc_same (s.withIu _) rfl rfl

@[simp] theorem State.memoryOk_injDone (s : State) (submitted : Bool) : (s.injDone submitted).memoryOk = s.memoryOk := by
  simp [State.injDone]

@[simp] theorem State.memoryOk_placeInjected {s : State} (hs : s.memoryOk = true) (w : CmdWord) (submitted : Bool) :
    (s.placeInjected w submitted).memoryOk = true := by
  unfold State.placeInjected
  dsimp only
  split
  · simp [hs]
  · split <;> simp [hs]

@[simp] theorem State.memoryOk_inject {s : State} (hs : s.memoryOk = true) : s.inject.memoryOk = true := by
  unfold State.inject
  dsimp only
  split
  · exact hs
  · split
    · simp [hs]
    · split
      · split
        · split <;> simp [hs]
        · exact hs
      · split
        · exact hs
        · split
          · exact hs
          · split <;> simp [hs]

@[simp] theorem State.memoryOk_checkCrossing (s : State) (was : Nat) (k : Fin 8) (m : CrossingRead) :
    (s.checkCrossing was k m).memoryOk = s.memoryOk := by
  unfold State.checkCrossing
  extract_lets sides fastA fast slow hotA hotB ratio level s1 s2
  have h2 : s2.memoryOk = s.memoryOk := by simp [s2, s1]
  split
  · rfl
  · split <;> simp [h2]

@[simp] theorem State.memoryOk_monitor (s : State) (l : List CrossingRead) : (s.monitor l).memoryOk = s.memoryOk := by
  unfold State.monitor
  refine (State.memoryOk_foldl_same (fun s k => ?_) _ _).trans (State.memoryOk_withEq ..)
  split <;> simp

@[simp] theorem State.memoryOk_ballastParity (s : State) (q : Fin 4 × Fin 4 × PhysLoc) : (s.ballastParity q).memoryOk = s.memoryOk := by
  simp [State.ballastParity]

@[simp] theorem State.memoryOk_sample {s : State} (hs : s.memoryOk = true) (p : PowerSample) : (s.sample p).memoryOk = true := by
  unfold State.sample
  extract_lets s' e temps tmax sp hot placed e1 s0 s1 s2
  have h0 : s'.memoryOk = true := State.memoryOk_foldl (fun s q hs => by simp [hs]) _ hs
  have h2 : s2.memoryOk = true := by simp [s2, s1, s0, h0]
  simp [h2]

@[simp] theorem State.memoryOk_tick (s : State) (band : BitVec 33) (toggle : Bool) : (s.tick band toggle).memoryOk = s.memoryOk := by
  simp [State.tick]

@[simp] theorem State.memoryOk_setClock (s : State) (t st : Nat) : (s.setClock t st).memoryOk = s.memoryOk := by
  simp [State.setClock]

@[simp] theorem State.memoryOk_replayCmd (s : State) (u : UnitId) (i : Issued) (code : Code) (loc : PhysLoc) :
    (s.replayCmd u i code loc).memoryOk = s.memoryOk := by
  simp [State.replayCmd]

@[simp] theorem State.memoryOk_failCmd {s : State} (hs : s.memoryOk = true) (u : UnitId) (i : Issued) (code : Code) (loc : PhysLoc) :
    (s.failCmd u i code loc).memoryOk = true := by
  simp [State.failCmd, hs]

@[simp] theorem State.memoryOk_parity {s : State} (hs : s.memoryOk = true) (u : UnitId) (hit : ParityHit) (f : Issued → ParityEnd) :
    (s.parity u hit f).memoryOk = true := by
  unfold State.parity
  split
  · split <;> simp [hs]
  · split
    · split <;> simp [hs]
    · exact hs

@[simp] theorem State.memoryOk_shareFault {s : State} (hs : s.memoryOk = true) (n : Fin 4) (loc : PhysLoc) :
    (s.shareFault n loc).memoryOk = true := by
  unfold State.shareFault
  dsimp only
  split
  · exact hs
  · split
    · simp [hs]
    · exact State.memoryOk_foldl (fun s t hs => by simp [hs]) _ hs

@[simp] theorem State.memoryOk_peerRefuses {s : State} (hs : s.memoryOk = true) (u : UnitId) (cause : BitVec 8) :
    (s.peerRefuses u cause).memoryOk = true := by
  unfold State.peerRefuses
  split
  · split
    · simp [hs]
    · split <;> simp [hs]
  · simp [hs]
  · split <;> simp [hs]

@[simp] theorem State.memoryOk_foundWord {s : State} (hs : s.memoryOk = true) (u : UnitId) (w nth : Nat) :
    (s.foundWord u w nth).memoryOk = true := by
  unfold State.foundWord
  dsimp only
  split <;> simp [hs]

@[simp] theorem State.memoryOk_foundFault {s : State} (hs : s.memoryOk = true) (u : UnitId) (f : FoundFault) :
    (s.foundFault u f).memoryOk = true := by
  unfold State.foundFault
  split
  · split <;> simp [hs]
  all_goals simp [hs]

@[simp] theorem State.memoryOk_stopClock {s : State} (hs : s.memoryOk = true) (c : ClockIn) : (s.stopClock c).memoryOk = true := by
  unfold State.stopClock
  split
  · exact State.memoryOk_fenceCore (s := s.withCal { s.cal with routerFenced := true }) hs ..
  · simp [hs]
  · exact State.memoryOk_foldl (fun s p hs => by simp [hs]) _ hs
  · simp [hs]

@[simp] theorem State.memoryOk_withdraw {s : State} (hs : s.memoryOk = true) : s.withdraw.memoryOk = true := by
  unfold State.withdraw
  split
  · exact hs
  · exact State.memoryOk_foldl (fun s p hs => by simp [hs]) _ (s := s.withCal { s.cal with withdrawn := true }) hs

@[simp] theorem State.memoryOk_forwardFlits (s : State) (slot : Nat) (arrived : List (Fin 9 × Nat)) :
    (s.forwardFlits slot arrived).memoryOk = s.memoryOk := by
  unfold State.forwardFlits
  extract_lets w due go out _ s1 s2
  have h2 : s2.memoryOk = s.memoryOk := by simp [s2, s1]
  exact (State.memoryOk_foldl_same (fun s f => by simp) _ s2).trans h2

@[simp] theorem State.memoryOk_meshFault {s : State} (hs : s.memoryOk = true) (q : Fin 13 × Fin 4) : (s.meshFault q).memoryOk = true := by
  unfold State.meshFault
  dsimp only
  split
  · split
    · simp [hs]
    · split
      · simp [hs]
      · split <;> simp [hs]
  · split
    · split <;> simp [hs]
    · simp [hs]

@[simp] theorem State.memoryOk_replayFlit {s : State} (hs : s.memoryOk = true) (second : Bool) (flit : Flit) (xfer : Option
    (Fin 13 × Fin 4)) :
    (s.replayFlit second flit xfer).memoryOk = true := by
  unfold State.replayFlit
  dsimp only
  split
  · simp [hs]
  · split <;> simp [hs]

@[simp] theorem State.memoryOk_detourNote (s : State) (i : Issued) : (s.detourNote i).memoryOk = s.memoryOk := by
  simp [State.detourNote]

@[simp] theorem State.memoryOk_detourTransfer {s : State} (hs : s.memoryOk = true) (n : BitVec 4) (e : Fin 8) (k : Fin 4) :
    (s.detourTransfer n e k).memoryOk = true := by
  unfold State.detourTransfer
  split <;> simp [hs]

@[simp] theorem State.memoryOk_detourExport {s : State} (hs : s.memoryOk = true) (n : BitVec 4) (x : UnitId × Issued) :
    (s.detourExport n x).memoryOk = true := by
  unfold State.detourExport
  split <;> simp [hs]

@[simp] theorem State.memoryOk_switchDetour {s : State} (hs : s.memoryOk = true) : s.switchDetour.memoryOk = true := by
  unfold State.switchDetour
  split
  · exact hs
  next n _ =>
    split
    · exact hs
    · extract_lets _ s1 s2
      have h1 : s1.memoryOk = true := by simp [s1, hs]
      have h2 : s2.memoryOk = true :=
        State.memoryOk_foldl (fun s x hs => by simp [hs]) _ (State.memoryOk_foldl (fun s q hs => by simp [hs]) _ h1)
      simp [h2]

@[simp] theorem State.memoryOk_passDpi (s : State) (x : Ctx) (c : Cmd) : (s.passDpi x c).memoryOk = s.memoryOk := by
  simp [State.passDpi]

@[simp] theorem State.memoryOk_goOn {s : State} (hs : s.memoryOk = true) (e : Entry) : (s.goOn e).memoryOk = true := by
  simp [State.goOn, hs]

@[simp] theorem State.memoryOk_takeCommand {s : State} (hs : s.memoryOk = true) (x : Ctx) (h : Header) (op : Op) :
    (s.takeCommand x h op).memoryOk = true := by
  unfold State.takeCommand
  dsimp only
  split
  · exact hs
  · split
    · split <;> simp [hs]
    · split
      · exact hs
      · split
        · simp [hs]
        · split
          · simp [hs]
          · simp [hs]
          · split
            · simp [hs]
            · split <;> simp [hs]

@[simp] theorem State.memoryOk_command {s : State} (hs : s.memoryOk = true) (x : Ctx) (h : Header) (op : Op) :
    (s.command x h op).memoryOk = true := by
  simp [State.command, hs]

@[simp] theorem State.memoryOk_retireArrival {s : State} (hs : s.memoryOk = true) : s.retireArrival.memoryOk = true := by
  unfold State.retireArrival
  dsimp only
  split <;> simp [hs]

@[simp] theorem State.memoryOk_solstice {s : State} (hs : s.memoryOk = true) : s.solstice.memoryOk = true := by
  unfold State.solstice
  split
  · exact hs
  · split
    · exact hs
    · split
      · exact hs
      · split
        · simp [hs]
        · simp [hs]

@[simp] theorem State.memoryOk_swapCalendars (s : State) (bank : Bool) : (s.swapCalendars bank).memoryOk = s.memoryOk := by
  simp [State.swapCalendars]

@[simp] theorem State.memoryOk_failLoad {s : State} (hs : s.memoryOk = true) (l : CalLoading) (code : Code) (detail : W64) :
    (s.failLoad l code detail).memoryOk = true := by
  simp [State.failLoad, hs]

@[simp] theorem State.memoryOk_endLoad {s : State} (hs : s.memoryOk = true) : s.endLoad.memoryOk = true := by
  unfold State.endLoad
  split
  · exact hs
  · split
    · simp [hs]
    · simp [hs]

@[simp] theorem State.memoryOk_withHart (s : State) (h : Hart) : (s.withHart h).memoryOk = s.memoryOk :=
  State.memoryOk_withCc_same s rfl rfl

@[simp] theorem State.memoryOk_devicePut (s : State) (a : Nat) (v : W64) : (s.devicePut a v).memoryOk = s.memoryOk := by
  unfold State.devicePut
  split
  · simp
  · split
    · simp
    · split
      · simp
      · split <;> simp

theorem State.memoryOk_deviceStore {s t : State} {a n : Nat} {v : W64} (h : s.deviceStore a n v = some t) : t.memoryOk = s.memoryOk := by
  suffices ∀ t ∈ s.deviceStore a n v, t.memoryOk = s.memoryOk from this t h
  unfold State.deviceStore
  split
  · simp
  · split
    · simp
    · split <;> simp

/-- What an instruction of the hart leaves, where it leaves a state. -/
def RvResult.memoryOk (r : RvResult) : Prop := ∀ t, r = .ok t → t.memoryOk = true

@[simp] theorem RvResult.memoryOk_ok (t : State) : RvResult.memoryOk (.ok t) ↔ t.memoryOk = true :=
  ⟨fun h => h t rfl, fun h _ e => Except.ok.inj e ▸ h⟩

@[simp] theorem RvResult.memoryOk_error (e : RvStop) : RvResult.memoryOk (.error e) := fun _ h => nomatch h

@[simp] theorem RvResult.memoryOk_illegal (w : W64) : RvResult.memoryOk (illegal w) := RvResult.memoryOk_error _

theorem RvResult.memoryOk_map {α : Type} {f : α → State} (hf : ∀ a, (f a).memoryOk = true) (r : Except RvStop α) :
    RvResult.memoryOk (r.map f) := by
  cases r with
  | error e => exact RvResult.memoryOk_error e
  | ok a => exact (RvResult.memoryOk_ok _).mpr (hf a)

theorem wf_memPut {m : Store 8} (hm : m.wf = true) (o n : Nat) (v : W64) : (memPut m o n v).wf = true :=
  Store.wf_foldl _ (fun m _ hm => Store.wf_set m _ _ hm) _ m hm

theorem State.memoryOk_rvStore {s : State} (hs : s.memoryOk = true) (a n : Nat) (v : W64) (atomic : Bool) :
    RvResult.memoryOk (s.rvStore a n v atomic) := by
  unfold State.rvStore
  extract_lets other _ c
  split
  · simp
  · split
    · simp
    · exact (RvResult.memoryOk_ok _).mpr (State.memoryOk_withCc hs (wf_memPut (State.imem_wf hs) ..) (State.dmem_wf hs))
  · split
    · simp
    · exact (RvResult.memoryOk_ok _).mpr (State.memoryOk_withCc hs (State.imem_wf hs) (wf_memPut (State.dmem_wf hs) ..))
  · split
    next h => exact (RvResult.memoryOk_ok _).mpr ((State.memoryOk_deviceStore h).trans hs)
    · simp

@[simp] theorem State.memoryOk_fixSpan (s : State) (a n : Nat) : (s.fixSpan a n).memoryOk = s.memoryOk := by
  unfold State.fixSpan
  exact State.memoryOk_foldl_same (fun s a => by simp) _ s

@[simp] theorem State.memoryOk_fixData (s : State) (k : RvAccess) (a n : Nat) (atomic : Bool) :
    (s.fixData k a n atomic).memoryOk = s.memoryOk := by
  unfold State.fixData
  split
  · rfl
  · split <;> simp

theorem State.memoryOk_csrWrite {s t : State} {n : BitVec 12} {v : W64} (h : s.csrWrite n v = some t) : t.memoryOk = s.memoryOk := by
  suffices ∀ t ∈ s.csrWrite n v, t.memoryOk = s.memoryOk from this t h
  simp only [State.csrWrite]
  split_ifs <;> simp

@[simp] theorem State.memoryOk_rvPut (s : State) (r : RvReg) (v : W64) : (s.rvPut r v).memoryOk = s.memoryOk := by
  simp [State.rvPut]

@[simp] theorem State.memoryOk_rvJump (s : State) (rd : RvReg) (target : W64) : (s.rvJump rd target).memoryOk = s.memoryOk := by
  simp [State.rvJump]

@[simp] theorem State.memoryOk_rvFix (s : State) (i : Rv) : (s.rvFix i).memoryOk = s.memoryOk := by
  unfold State.rvFix
  dsimp only
  split
  case h_6 => split <;> simp
  all_goals simp

@[simp] theorem State.memoryOk_retire (s : State) (i : Rv) : (s.retire i).memoryOk = s.memoryOk := by
  simp [State.retire]

/-! #### Instructions of the hart -/

section
variable {s : State} (hs : s.memoryOk = true)
include hs

theorem State.memoryOk_rvLr (n : Nat) (rd rs1 : RvReg) : RvResult.memoryOk (s.rvLr n rd rs1) := by
  unfold State.rvLr
  dsimp only
  split <;> simp [hs]

theorem State.memoryOk_rvSc (n : Nat) (rd rs1 rs2 : RvReg) : RvResult.memoryOk (s.rvSc n rd rs1 rs2) := by
  unfold State.rvSc
  dsimp only
  split
  · simp
  · split
    · intro t h
      cases hstore : s.rvStore (s.rvGet rs1).toNat n (s.rvGet rs2) true with
      | error e => simp [hstore, Except.map] at h
      | ok u =>
        have hu := State.memoryOk_rvStore hs _ _ _ _ u hstore
        simp only [hstore, Except.map, Except.ok.injEq] at h
        simp [← h, hu]
    · simp [hs]

theorem State.memoryOk_rvAmo (op : RvAmo) (n : Nat) (rd rs1 rs2 : RvReg) : RvResult.memoryOk (s.rvAmo op n rd rs1 rs2) := by
  unfold State.rvAmo
  dsimp only
  split
  · simp
  · split
    · simp
    · simp
    · split
      · simp
      next hstore => simp [State.memoryOk_rvStore hs _ _ _ _ _ hstore]

theorem State.memoryOk_rvCsr (op : CsrOp) (imm : Bool) (rd rs1 : RvReg) (n : BitVec 12) (w : W64) :
    RvResult.memoryOk (s.rvCsr op imm rd rs1 n w) := by
  unfold State.rvCsr
  dsimp only
  split
  · simp
  · split
    · simp [hs]
    · split
      · simp
      next h => simp [State.memoryOk_csrWrite h, hs]

theorem State.memoryOk_rvFpOp (op : RvFp) (d : Bool) (rm : Nat) (rd rs1 rs2 rs3 : RvReg) (w : W64) :
    RvResult.memoryOk (s.rvFpOp op d rm rd rs1 rs2 rs3 w) := by
  unfold State.rvFpOp
  dsimp only
  split
  · simp
  · split <;> simp [hs]

theorem State.memoryOk_rvExec (i : Rv) (pc w : W64) : RvResult.memoryOk (s.rvExec i pc w) := by
  cases i with
  | load => exact RvResult.memoryOk_map (fun v => by simp [hs]) _
  | store => exact State.memoryOk_rvStore hs _ _ _ _
  | lr => exact State.memoryOk_rvLr hs _ _ _
  | sc => exact State.memoryOk_rvSc hs _ _ _ _
  | amo => exact State.memoryOk_rvAmo hs _ _ _ _ _
  | csr => exact State.memoryOk_rvCsr hs _ _ _ _ _ _
  | fload =>
    simp only [State.rvExec]
    split
    · simp
    · exact RvResult.memoryOk_map (fun v => by simp [hs]) _
  | fstore =>
    simp only [State.rvExec]
    split
    · simp
    · exact State.memoryOk_rvStore hs _ _ _ _
  | fp =>
    simp only [State.rvExec]
    split
    · simp
    · exact State.memoryOk_rvFpOp hs _ _ _ _ _ _ _ _
  | mret | wfi =>
    simp only [State.rvExec]
    split <;> simp [hs]
  | _ => simp [State.rvExec, hs]

end

@[simp] theorem State.memoryOk_rvStop {s : State} (hs : s.memoryOk = true) (e : RvStop) : (s.rvStop e).memoryOk = true := by
  cases e <;> simp [State.rvStop, hs]

@[simp] theorem State.memoryOk_rvRun {s : State} (hs : s.memoryOk = true) : s.rvRun.memoryOk = true := by
  unfold State.rvRun
  extract_lets h
  split
  · refine State.memoryOk_rvStop ?_ _
    split <;> simp [hs]
  next w n i _ =>
    extract_lets s1 s2
    have h2 : s2.memoryOk = true := by
      unfold s2
      split <;> simp [s1, hs]
    split
    · exact State.memoryOk_rvStop h2 _
    next i =>
      split
      next t ht =>
        rw [State.memoryOk_retire]
        exact State.memoryOk_rvExec (by simp [h2]) _ _ _ t ht
      · exact State.memoryOk_rvStop h2 _

@[simp] theorem State.memoryOk_hartStep {s : State} (hs : s.memoryOk = true) : s.hartStep.memoryOk = true := by
  unfold State.hartStep
  split
  · exact hs
  · split
    · simp [hs]
    · split <;> simp [hs]

@[simp] theorem State.memoryOk_ccStore {s : State} (hs : s.memoryOk = true) (a : Nat) (v : W64) : (s.ccStore a v).memoryOk = true := by
  unfold State.ccStore
  split
  next t ht => exact State.memoryOk_rvStore hs _ _ _ _ t ht
  · simp [hs]

@[simp] theorem State.memoryOk_illegalCsr {s : State} (hs : s.memoryOk = true) : s.illegalCsr.memoryOk = true := by
  simp [State.illegalCsr, hs]

end Sys2Proof.Machine
end

/-! #### Every step keeps the memories canonical (O5) -/

section
namespace Sys2Proof.Machine

/-- The memories of the state that a step leaves, where it leaves one, are canonical. -/
def leavesMemoryOk (o : Host.Outcome State Fault Refusal) : Prop := ∀ t, o = .next t → t.memoryOk = true

theorem leavesMemoryOk_next {t : State} (h : t.memoryOk = true) : leavesMemoryOk (.next t) := fun _ e => Host.Outcome.next.inj e ▸ h

/-- Any command: one of a program goes on, a write of the setup window is served, a store of the control core runs, and the rest act
on the state directly. -/
theorem memoryOk_exec {s : State} (hs : s.memoryOk = true) (i : Instr) : leavesMemoryOk (exec i s) := by
  cases i
  case loop | setEc | setPd | barrier | calLoad | regionSet | regionSwap | regionAttr | nop | fin | mmOs | mmSt | mmEw | mmDrain
      | maskSet | arrayMode | vxMap | vxReduce | vxAux | vxProg | vxTable | stream | transpose | cuMap | cuReduce | cuProg | cuTable =>
    exact leavesMemoryOk_next (State.memoryOk_command hs ..)
  case doorbell | preempt | ringCommit | eqCommit | bgCommit | fpCommit | routeCommit | routeEntHi | obsCommit | ccCtrl | ccMdataRead
      | ccMdataWrite | errlogPop | clrLost | clrPrbs | clrReplay | registerWrite =>
    exact leavesMemoryOk_next (State.memoryOk_served hs (by simp [commitWrite, hs]))
  case sfCsrWrite | evpendWrite | mtimecmpWrite | wdKick | wdLimitWrite | watchWrite | injCmdWrite | injGo | msgSend =>
    exact leavesMemoryOk_next (State.memoryOk_byCc hs (by simp [hs]))
  case preemptTimeout =>
    refine leavesMemoryOk_next ?_
    split
    · rw [State.memoryOk_follow]
      exact State.memoryOk_foldl (fun s t hs => by simp [hs]) _ (by simp [hs])
    · exact hs
  case controlSlotSend =>
    exact leavesMemoryOk_next (State.memoryOk_sendFrame (State.memoryOk_foldl (fun s o hs => by simp [hs]) _ (by simp [hs])) _)
  case readReq =>
    exact leavesMemoryOk_next (State.memoryOk_foldl (fun s a hs => by simp [hs]) _ (by simp [hs]))
  case ack | refuse =>
    refine leavesMemoryOk_next ?_
    split <;> simp [hs]
  case mcastWrite =>
    refine leavesMemoryOk_next ?_
    split <;> simp [hs]
  case powerRemoval => exact leavesMemoryOk_next State.reset_invariants.1
  all_goals exact leavesMemoryOk_next (by simp [hs])

theorem memoryOk_idleCycle {s : State} (hs : s.memoryOk = true) : (idleCycle s).memoryOk = true := by
  have h : ((s.advanceTo (s.cycle + 1)).hartStep).memoryOk = true := by simp [hs]
  simp [idleCycle, hs, h]

/-- Settles O5: each operation a command is made of keeps the memories canonical (`State.memoryOk_…`), so every command does, and so
does a control cycle that passes. -/
theorem memoryStaysCanonical : Obligations.MemoryStaysCanonical := by
  intro s t hs hstep
  cases hp : s.pending with
  | nil =>
    simp only [step, hp] at hstep
    exact leavesMemoryOk_next (memoryOk_idleCycle hs) t hstep
  | cons i rest =>
    simp only [step, hp] at hstep
    exact memoryOk_exec (s := s.withPending rest) hs i t hstep

end Sys2Proof.Machine
end

/-! ### The admission and the end of a transfer (O24, O29) -/

section
namespace Sys2Proof.Machine

/-! #### What a transfer sends (R298, R305, R306) -/

/-- Only the ports' queues and the messages that leave differ. -/
def onlySent (s t : State) : Prop := (t.withFp s.fp).withOut s.out = s

theorem onlySent_refl (s : State) : onlySent s s := rfl

theorem onlySent_trans (a b c : State) (hab : onlySent a b) (hbc : onlySent b c) : onlySent a c := by
  unfold onlySent at *
  rw [← hab, ← hbc]
  rfl

theorem State.emit_onlySent (s : State) (m : Msg) : onlySent s (s.emit m) := rfl

theorem State.sendPackets_onlySent (s : State) (q agent : Nat) (task : Fin 4) (dpi : W64) (ps : List (List FabUnit)) :
    onlySent s (s.sendPackets q agent task dpi ps) :=
  s.sendPackets_frame q agent task dpi ps

theorem State.sendRuns_onlySent (s : State) (e : Fin 8) (i : Issued) (b : StreamBody) (bs : Bytes) (route : Option Nat)
    (path : BitVec 2) (us : List (Nat × Nat)) : onlySent s (s.sendRuns e i b bs route path us) := by
  unfold State.sendRuns
  split
  · exact s.sendPackets_onlySent ..
  · split
    · exact onlySent_refl s
    · split
      · exact s.emit_onlySent _
      · exact foldl_only onlySent onlySent_refl onlySent_trans _ (fun s u => s.emit_onlySent _) us s

theorem State.sendMcast_onlySent (s : State) (e : Fin 8) (i : Issued) (b : StreamBody) (bs : Bytes) (seq : BitVec 16) :
    onlySent s (s.sendMcast e i b bs seq) := by
  have hcores : onlySent s (if (s.job.group b.group).rxCores == 0#8 then s
      else s.emit (mcastMsg b bs (s.job.group b.group).rxCores seq)) := by
    split
    · exact onlySent_refl s
    · exact s.emit_onlySent _
  unfold State.sendMcast
  dsimp only
  split
  · exact onlySent_trans _ _ _ hcores
      (foldl_only onlySent onlySent_refl onlySent_trans _ (fun t q => t.sendPackets_onlySent ..) _ _)
  · exact hcores

/-! #### The transfer that enters a slot (R81, R82, R311) -/

/-- The route entry of a transfer to one far side: none on the chip, and for one that moves nothing. -/
def State.streamRoute (s : State) (b : StreamBody) : Option Nat :=
  if b.total = 0 || chipOf b.far == s.id.chip then none else (s.routeFor (chipOf b.far)).map fun p => p.1

/-- The path of that route entry that ROUTE_SEL names. -/
def State.streamPath (s : State) (b : StreamBody) : BitVec 2 := match s.streamRoute b with | some r => s.routeSel r | none => 0

/-- The windows or runs that a transfer asks for or sends. -/
def State.sentUnits (s : State) (b : StreamBody) : List (Nat × Nat) := if b.total = 0 || s.isOwn b.far then [] else streamUnits s b

/-- The bytes that a transfer to one far side sends. -/
def State.sentBytes (s : State) (i : Issued) (b : StreamBody) : Bytes :=
  if b.dir && !(s.sentUnits b).isEmpty then farImage s i b else []

/-- The time at which a transfer of a BACKGROUND region entered. -/
def State.backSince (s : State) (b : StreamBody) : Option Nat := if (s.region b.region).background then some s.tick10 else none

/-- A transfer to one far side, as it enters its slot. -/
def State.unicast (s : State) (i : Issued) (b : StreamBody) : Transfer :=
  ⟨i, i.localHalf.2, false, (s.sentUnits b).length, 0, 0, 0, s.streamRoute b, s.streamPath b, false, false, s.backSince b, [], s.se.next,
    s.sentBytes i b, 0, []⟩

/-- A multicast transfer, as it enters its slot: every receiver owes a report. -/
def State.multicast (s : State) (i : Issued) (b : StreamBody) : Transfer :=
  ⟨i, i.localHalf.2, false, 0, if b.total = 0 then 0 else (s.job.group b.group).receivers, 0, 0, none, 0, false, false, s.backSince b, [],
    s.se.next, farImage s i b, (s.job.group b.group).sent, []⟩

/-- A transfer enters the slot it names, in front of what waits there. -/
def State.occupy (s : State) (e : Fin 8) (k : Fin 4) (tr : Transfer) : State :=
  (s.setSlot e k ⟨some tr, (s.slot e k).shadow⟩).countAdmitted

theorem State.slot_occupy (s : State) (e f : Fin 8) (k q : Fin 4) (tr : Transfer) :
    (s.occupy e k tr).slot f q = if f = e ∧ q = k then ⟨some tr, (s.slot e k).shadow⟩ else s.slot f q :=
  s.slot_setSlot e f k q _

theorem State.enterSlot_unicast {b : StreamBody} (hm : b.mcast = false) (s : State) (e : Fin 8) (k : Fin 4) (i : Issued) :
    s.enterSlot e k i b = (s.occupy e k (s.unicast i b)).sendRuns e i b (s.sentBytes i b) (s.streamRoute b) (s.streamPath b)
      (s.sentUnits b) := by
  unfold State.enterSlot
  dsimp only
  rw [if_neg (by simp [hm])]
  rfl

/-- The state in which a multicast transfer has entered its slot and is counted, before it is sent. -/
def State.occupyMulticast (s : State) (e : Fin 8) (k : Fin 4) (i : Issued) (b : StreamBody) : State :=
  (s.occupy e k (s.multicast i b)).countSent b.group (b.total != 0)

theorem State.enterSlot_multicast {b : StreamBody} (hm : b.mcast = true) (s : State) (e : Fin 8) (k : Fin 4) (i : Issued) :
    s.enterSlot e k i b = if b.total = 0 then s.occupyMulticast e k i b
      else (s.occupyMulticast e k i b).sendMcast e i b (farImage s i b) (s.job.group b.group).sent := by
  unfold State.enterSlot
  dsimp only
  rw [if_pos hm]
  rfl

/-- The transfer that enters a slot, to one far side or to a group. -/
def State.newTransfer (s : State) (i : Issued) (b : StreamBody) : Transfer := if b.mcast then s.multicast i b else s.unicast i b

@[simp] theorem State.newTransfer_i (s : State) (i : Issued) (b : StreamBody) : (s.newTransfer i b).i = i := by
  unfold State.newTransfer
  split <;> rfl

/-- Admission leaves the state with the transfer in its slot and, for a multicast, its group's count; what is sent comes on top. -/
theorem State.enterSlot_onlySent (s : State) (e : Fin 8) (k : Fin 4) (i : Issued) (b : StreamBody) :
    ∃ j, onlySent ((s.occupy e k (s.newTransfer i b)).withJob j) (s.enterSlot e k i b) := by
  unfold State.newTransfer
  by_cases hm : b.mcast = true
  · rw [if_pos hm, State.enterSlot_multicast hm]
    refine ⟨(s.occupyMulticast e k i b).job, ?_⟩
    split
    · exact onlySent_refl _
    · exact State.sendMcast_onlySent _ e i b _ _
  · rw [if_neg hm, State.enterSlot_unicast (Bool.eq_false_iff.mpr hm)]
    exact ⟨s.job, State.sendRuns_onlySent _ e i b _ _ _ _⟩

section
variable (s : State) (e : Fin 8) (k : Fin 4) (i : Issued) (b : StreamBody)

theorem State.enterSlot_slot (f : Fin 8) (q : Fin 4) :
    (s.enterSlot e k i b).slot f q = if f = e ∧ q = k then ⟨some (s.newTransfer i b), (s.slot e k).shadow⟩ else s.slot f q := by
  obtain ⟨j, h⟩ := s.enterSlot_onlySent e k i b
  rw [← State.slot_occupy]
  exact State.slot_of_se (congrArg State.se h :) f q

@[simp] theorem State.enterSlot_iu : (s.enterSlot e k i b).iu = s.iu := by
  obtain ⟨j, h⟩ := s.enterSlot_onlySent e k i b
  exact (congrArg State.iu h :)

@[simp] theorem State.enterSlot_spad : (s.enterSlot e k i b).spad = s.spad := by
  obtain ⟨j, h⟩ := s.enterSlot_onlySent e k i b
  exact (congrArg State.spad h :)

end

/-! #### SHADOW_PROMOTE (R82) -/

/-- Admission of a transfer whose store meets no uncorrectable word (R64). -/
theorem State.admitOrFault_admits {s : State} {i : Issued} {b : StreamBody} (h : storeBad s i b = []) (e : Fin 8) (k : Fin 4) :
    s.admitOrFault e k i b = s.enterSlot e k i b := by
  simp [State.admitOrFault, h]

theorem State.promote_admits {s : State} {e : Fin 8} {k : Fin 4} {i : Issued} {b : StreamBody} (hslot : s.slot e k = ⟨none, some i⟩)
    (hb : i.streamBody = some b) (hgrant : (b.total == 0 || streamGranted s e b) = true) (hdue : s.noticesDue b = false)
    (hbad : storeBad s i b = []) : s.promote e k = (s.setSlot e k Slot.idle).enterSlot e k i b := by
  have hbad' : storeBad (s.setSlot e k Slot.idle) i b = [] := hbad
  simp [State.promote, hslot, hb, hgrant, hdue, State.admitOrFault_admits hbad']

theorem shadowPromote_effect {s : State} {e : Fin 8} {k : Fin 4} {i : Issued} {b : StreamBody} (hslot : s.slot e k = ⟨none, some i⟩)
    (hb : i.streamBody = some b) (hgrant : (b.total == 0 || streamGranted s e b) = true) (hdue : s.noticesDue b = false)
    (hbad : storeBad s i b = []) :
    ∃ t tr, exec (.shadowPromote e k) s = .next t ∧ t.slot e k = ⟨some tr, none⟩ ∧ tr.i = i ∧
      (∀ f q, ¬ (f = e ∧ q = k) → t.slot f q = s.slot f q) ∧ (∀ j, t.ec j = s.ec j) ∧ t.spad = s.spad := by
  have hslots : ∀ f q, (s.follow (s.promote e k)).slot f q = ((s.setSlot e k Slot.idle).enterSlot e k i b).slot f q := fun f q => by
    rw [State.slot_of_se (State.follow_se _ _), State.promote_admits hslot hb hgrant hdue hbad]
  refine ⟨s.follow (s.promote e k), (s.setSlot e k Slot.idle).newTransfer i b, rfl, ?_, State.newTransfer_i .., fun f q h => ?_,
    fun j => ?_, ?_⟩
  · rw [hslots, State.enterSlot_slot, if_pos ⟨rfl, rfl⟩, State.slot_setSlot, if_pos ⟨rfl, rfl⟩]
    rfl
  · rw [hslots, State.enterSlot_slot, if_neg h, State.slot_setSlot, if_neg h]
  · rw [State.ec_follow, State.promote_admits hslot hb hgrant hdue hbad]
    exact State.ec_of_iu (congrArg Iu.ec (State.enterSlot_iu ..)) j
  · rw [State.follow_spad, State.promote_admits hslot hb hgrant hdue hbad, State.enterSlot_spad]
    rfl

/-! #### STREAM_COMPLETE (R14, R80, R82, R261) -/

/-- The words that stop a transfer at its end include those it would write in part over an uncorrectable error (R64). -/
theorem ownCopy_narrow (s : State) (tr : Transfer) (b : StreamBody) :
    ∃ ws, (ownCopy s tr b).2 = ws ++ s.spad.narrow (ownCopy s tr b).1 := by
  unfold ownCopy
  split
  · exact ⟨[], by simp [Spad.narrow]⟩
  · split
    · exact ⟨[], rfl⟩
    · dsimp only
      split <;> exact ⟨_, rfl⟩

theorem narrow_of_ownCopy {s : State} {tr : Transfer} {b : StreamBody} (h : (ownCopy s tr b).2 = []) :
    s.spad.narrow (ownCopy s tr b).1 = [] := by
  obtain ⟨ws, hws⟩ := ownCopy_narrow s tr b
  exact (List.append_eq_nil_iff.mp (hws ▸ h)).2

/-- The scratchpad, the slots, the messages, the scalar file and the commands that wait are the same. -/
def onlyCounted (s t : State) : Prop :=
  t.spad = s.spad ∧ t.se = s.se ∧ t.out = s.out ∧ samePdSf s t ∧ t.iu.queued = s.iu.queued

theorem onlyCounted_refl (s : State) : onlyCounted s s := ⟨rfl, rfl, rfl, ⟨rfl, rfl⟩, rfl⟩

theorem onlyCounted_trans {a b c : State} (hab : onlyCounted a b) (hbc : onlyCounted b c) : onlyCounted a c := by
  obtain ⟨hspad, hse, hout, hsf, hq⟩ := hab
  obtain ⟨hspad', hse', hout', hsf', hq'⟩ := hbc
  exact ⟨hspad'.trans hspad, hse'.trans hse, hout'.trans hout, samePdSf_trans hsf hsf', hq'.trans hq⟩

theorem State.signal_onlyCounted (s : State) (g : Signal) : onlyCounted s (s.signal g) := by
  obtain ⟨hrest, hpd, hsf, -, hq, -, -⟩ := s.signal_frame g
  exact ⟨(congrArg State.spad hrest :), (congrArg State.se hrest :), (congrArg State.out hrest :), ⟨hpd, hsf⟩, hq⟩

theorem State.signals_onlyCounted (s : State) (h : Header) : onlyCounted s (s.signals h) :=
  onlyCounted_trans (s.signal_onlyCounted h.sigA) ((s.signal h.sigA).signal_onlyCounted h.sigB)

theorem onlyCounted_of_onlyRg {s t : State} (h : onlyRg s t) : onlyCounted s t := by
  rw [h]
  exact onlyCounted_refl s

/-- The end of a transfer: its signals, unless its task has aborted, and the release of its half (R42, R82). -/
def State.endTransfer (s : State) (tr : Transfer) : State := if tr.orphan then s else (s.signals tr.i.e.cmd.h).closeRef tr.i.e

theorem State.endTransfer_onlyCounted (s : State) (tr : Transfer) : onlyCounted s (s.endTransfer tr) := by
  unfold State.endTransfer
  split
  · exact onlyCounted_refl s
  · exact onlyCounted_trans (s.signals_onlyCounted _) (onlyCounted_of_onlyRg (State.closeRef_only _ _))

@[simp] theorem State.ec_closeRef (s : State) (e : Entry) (j : BitVec 6) : (s.closeRef e).ec j = s.ec j := by
  unfold State.closeRef
  split <;> rfl

theorem State.ec_endTransfer (s : State) (tr : Transfer) (j : BitVec 6) :
    (s.endTransfer tr).ec j = s.ec j + (if tr.orphan then 0 else bump tr.i.e.cmd.h j) := by
  unfold State.endTransfer
  split
  · simp
  · rw [State.ec_closeRef, State.ec_signals]

/-- The notify of a transfer to one far side that lies in this core (R80). -/
def State.notifyOwn (s : State) (tr : Transfer) (b : StreamBody) (own : Bool) : State :=
  if b.notify && !b.mcast && b.total != 0 && own && !tr.faulted then s.signal ⟨b.notifyEc, b.notifyInc⟩ else s

theorem State.notifyOwn_onlyCounted (s : State) (tr : Transfer) (b : StreamBody) (own : Bool) : onlyCounted s (s.notifyOwn tr b own) := by
  unfold State.notifyOwn
  split
  · exact s.signal_onlyCounted _
  · exact onlyCounted_refl s

theorem State.ec_notifyOwn (s : State) (tr : Transfer) {b : StreamBody} (hm : b.mcast = false) (own : Bool) (j : BitVec 6) :
    (s.notifyOwn tr b own).ec j = s.ec j +
      (if b.notify && b.total != 0 && own && !tr.faulted && b.notifyEc == j then b.notifyInc.setWidth 16 else 0) := by
  unfold State.notifyOwn
  split
  · rw [State.ec_signal]
    congr 1
    simp_all
  · simp_all

/-- The slot is free, with its shadow, and the transpose unit that the transfer held. -/
def State.freeSlot (s : State) (e : Fin 8) (k : Fin 4) (tr : Transfer) : State :=
  ((s.setSlot e k { s.slot e k with run := none }).freeTu tr.i).touch

theorem State.freeTu_rest (s : State) (i : Issued) : (s.freeTu i).withTu s.tu = s := by
  unfold State.freeTu
  split
  · rfl
  · split <;> rfl
  · rfl

theorem State.freeSlot_rest (s : State) (e : Fin 8) (k : Fin 4) (tr : Transfer) :
    (s.freeSlot e k tr).withTu s.tu = (s.setSlot e k { s.slot e k with run := none }).touch :=
  congrArg State.touch (State.freeTu_rest (s.setSlot e k { s.slot e k with run := none }) tr.i)

theorem State.finishStream_lands {s : State} {e : Fin 8} {k : Fin 4} {tr : Transfer} {b : StreamBody} (hrun : (s.slot e k).run = some tr)
    (hb : tr.i.streamBody = some b) (hleft : tr.left = 0) (hrep : tr.reports = 0) (hm : b.mcast = false)
    (hfar : farNotify s b = true → tr.notified = true ∨ tr.faulted = true) (hbad : (ownCopy s tr b).2 = []) :
    s.finishStream e k =
      (((s.freeSlot e k tr).withSpad ((s.freeSlot e k tr).spad.write (ownCopy s tr b).1)).notifyOwn tr b (s.isOwn b.far)).endTransfer
        tr := by
  have hwait : (tr.left != 0 || tr.reports != 0 || (farNotify s b && !tr.notified && !tr.faulted)) = false := by
    cases hf : farNotify s b
    · simp [hleft, hrep]
    · obtain h | h := hfar hf <;> simp [hleft, hrep, h]
  unfold State.finishStream State.notifyOwn
  simp only [hrun, hb, hwait, hbad, hm]
  rfl

theorem streamComplete_effect {s : State} {e : Fin 8} {k : Fin 4} {tr : Transfer} {b : StreamBody} (hrun : (s.slot e k).run = some tr)
    (hb : tr.i.streamBody = some b) (hleft : tr.left = 0) (hrep : tr.reports = 0) (hm : b.mcast = false) (hmem : s.memoryOk = true)
    (hfar : farNotify s b = true → tr.notified = true ∨ tr.faulted = true) (hbad : (ownCopy s tr b).2 = []) :
    ∃ t, exec (.streamComplete e k) s = .next t ∧ (t.slot e k).run = none ∧ (t.slot e k).shadow = (s.slot e k).shadow ∧
      (∀ f q, ¬ (f = e ∧ q = k) → t.slot f q = s.slot f q) ∧
      (∀ a, t.byte a = lastByte (ownCopy s tr b).1 a (s.byte a)) ∧
      (∀ j, t.ec j = s.ec j +
        (if b.notify && b.total != 0 && s.isOwn b.far && !tr.faulted && b.notifyEc == j then b.notifyInc.setWidth 16 else 0) +
        (if tr.orphan then 0 else bump tr.i.e.cmd.h j)) ∧ samePdSf s t ∧ t.iu.queued = s.iu.queued ∧ onlyForecasts s t := by
  have hfinish := State.finishStream_lands hrun hb hleft hrep hm hfar hbad
  have hrest := s.freeSlot_rest e k tr
  have hspad : (s.freeSlot e k tr).spad = s.spad := (congrArg State.spad hrest :)
  have hiu : (s.freeSlot e k tr).iu = s.touch.iu := (congrArg State.iu hrest :)
  have hslot : ∀ f q, (s.freeSlot e k tr).slot f q = if f = e ∧ q = k then ⟨none, (s.slot e k).shadow⟩ else s.slot f q :=
    fun f q => (State.slot_of_se (congrArg State.se hrest :) f q).trans (s.slot_setSlot e f k q _)
  obtain ⟨hwritten, hse, hout, ⟨hpd, hsf⟩, hqueued⟩ := onlyCounted_trans
    (State.notifyOwn_onlyCounted ((s.freeSlot e k tr).withSpad ((s.freeSlot e k tr).spad.write (ownCopy s tr b).1)) tr b
      (s.isOwn b.far)) (State.endTransfer_onlyCounted _ tr)
  rw [← hfinish] at hwritten hse hout hpd hsf hqueued
  have hslots : ∀ f q, (s.follow (s.finishStream e k)).slot f q =
      if f = e ∧ q = k then ⟨none, (s.slot e k).shadow⟩ else s.slot f q :=
    fun f q => (State.slot_of_se ((State.follow_se _ _).trans hse) f q).trans (hslot f q)
  refine ⟨s.follow (s.finishStream e k), rfl, ?_, ?_, fun f q h => ?_, fun a => ?_, fun j => ?_, ?_, ?_, ?_⟩
  · rw [hslots, if_pos ⟨rfl, rfl⟩]
  · rw [hslots, if_pos ⟨rfl, rfl⟩]
  · rw [hslots, if_neg h]
  · refine State.byte_of_written (State.mem_wf_of_memoryOk hmem) (narrow_of_ownCopy hbad) ?_ a
    rw [State.follow_spad, hwritten, ← hspad]
    rfl
  · rw [State.ec_follow, hfinish, State.ec_endTransfer, State.ec_notifyOwn _ _ hm]
    congr 2
    exact State.ec_of_iu (congrArg Iu.ec hiu) j
  · rw [samePdSf, State.follow_iu, hpd, hsf]
    exact ⟨(congrArg Iu.pd hiu :), (congrArg Iu.sf hiu :)⟩
  · rw [State.follow_iu, hqueued]
    exact (congrArg Iu.queued hiu :)
  · have hfree : (s.freeSlot e k tr).out = s.out := (congrArg State.out hrest :)
    exact onlyForecasts_trans ⟨[], by simpa using hout.trans hfree⟩ (s.follow_forecasts _)

/-- Settles O29: SHADOW_PROMOTE is an admission into an emptied slot, and STREAM_COMPLETE frees the slot, lands the transfer's bytes and
counts its signals. -/
theorem transfersMove : Obligations.TransfersMove :=
  ⟨fun _ _ _ _ _ hslot hb hgrant hdue hbad => shadowPromote_effect hslot hb hgrant hdue hbad,
    fun _ _ _ _ _ hrun hb hleft hrep hm hmem hfar hbad => streamComplete_effect hrun hb hleft hrep hm hmem hfar hbad⟩

end Sys2Proof.Machine
end

/-! ### TRANSPOSE (O25) -/

section
namespace Sys2Proof.Machine

/-! #### A command that issues (R45, R46) -/

theorem State.heading_of_issues {s : State} {x : Ctx} {h : Header} {op : Op} (hi : s.issues x h op = true) :
    s.heading x h op = true ∧ (s.placed x h op).holds (s.entryOf x h op) = false ∧
      (s.placed x h op).verdict (s.entryOf x h op) true = .go := by
  simp only [State.issues, Bool.and_eq_true, Bool.not_eq_true', beq_iff_eq] at hi
  obtain ⟨⟨hh, hfree⟩, hgo⟩ := hi
  exact ⟨hh, hfree, hgo⟩

/-- The verdict lets a command go only when its issue checks pass and the conditions of R45 hold. -/
theorem State.checks_of_go {s : State} {e : Entry} {direct : Bool} (h : s.verdict e direct = .go) :
    s.issueFault e = none ∧ s.ready e direct = true := by
  unfold State.verdict at h
  split at h
  · simp at h
  split at h
  · simp at h
  split at h
  · simp at h
  split at h
  · simp at h
  · next hfault =>
    split at h
    · next hready => exact ⟨hfault, hready⟩
    · simp at h

/-- A command of a vector, stream or transpose queue issues as the issue rule's verdict says; ballast and forecast follow. -/
theorem exec_issues {c : Instr} {s : State} {x : Ctx} {h : Header} {op : Op} (hc : programOf c = some (x, h, op))
    (hi : s.issues x h op = true) (haux : ∀ b, op ≠ .vxAux b) (hmx : op.mx? = none) :
    exec c s = .next ((s.placed x h op).follow ((s.placed x h op).act (s.entryOf x h op) true (s.entersAtIssue x h op))) := by
  obtain ⟨hh, hfree, hgo⟩ := State.heading_of_issues hi
  obtain ⟨-, -, -, hhead, hfirst⟩ := State.placed_of_heading hh
  rw [exec_program hc, State.command_of_heading hh haux, State.goOn_acts hhead hfirst (by simp [hgo]) (fun _ => hfree),
    State.entryOf_x, State.placed_holds, hgo]
  simp only [beq_self_eq_true, if_true]
  rw [State.reballast_of_not_mx _ _ hmx]

/-- What an engine command finds when it has left its queue: the version reference is taken and its task is past it. -/
theorem State.issuedState_rest {s : State} {x : Ctx} {op : Op} (hf : s.fetches x op = true) (h : Header) :
    (((s.placed x h op).unqueue (s.entryOf x h op)).withRg s.rg).withIu s.iu = s := by
  rw [State.unqueue_placed_withRg hf]
  exact congrArg (fun v : State => v.withRg s.rg) (s.leftQueue_withIu x h op)

theorem State.issuedState_iu {s : State} {x : Ctx} {op : Op} (hf : s.fetches x op = true) (h : Header) :
    ((s.placed x h op).unqueue (s.entryOf x h op)).iu = (s.leftQueue x h op).iu := by
  rw [State.unqueue_placed_withRg hf]
  rfl

/-! #### Completion (R42, R89) -/

section
variable {s : State} {x : Ctx} {h : Header} {b : TransposeBody}

theorem State.transpose_queue (hh : s.heading x h (.transpose b) = true) : 18 ≤ h.q ∧ h.q ≤ 21 := by
  obtain ⟨-, -, hhead, -, -⟩ := State.placed_of_heading hh
  have hq := (queueOk_of_headerFault hhead).1
  simpa [Op.queueOk, Header.q] using hq

/-- A TRANSPOSE runs on no array: nothing but its queue entry changes before it computes. -/
theorem State.begun_transpose (hh : s.heading x h (.transpose b) = true) :
    s.begun x h (.transpose b) = (s.placed x h (.transpose b)).unqueue (s.entryOf x h (.transpose b)) := by
  obtain ⟨hlo, -⟩ := State.transpose_queue hh
  unfold State.begun State.unitOf
  rw [if_neg (by simp only; omega), if_neg (by simp only; omega)]
  rfl

/-- The bytes of a TRANSPOSE land, its transpose unit comes free, and it closes. -/
theorem State.finishCmd_transpose {s : State} {i : Issued} (hop : i.e.cmd.op = .transpose b) (u : UnitId) (hdata : s.dataFault i = none)
    (hn : s.spad.narrow (transposeRun s i).bytes = []) :
    s.finishCmd u i =
      ((s.withSpad (s.spad.write (transposeRun s i).bytes)).setTu (s.physTu (tuIndex i.e.cmd.h)) none).closeCmd i := by
  have hrun : s.runOf i = transposeRun s i := by simp [State.runOf, hop]
  have hwords : s.quietWords i = [] := by simp [State.quietWords, hop, Op.vx?]
  have hland : (transposeRun s i).land = s.withSpad (s.spad.write (transposeRun s i).bytes) := by
    unfold transposeRun
    split <;> rfl
  have hpeer : (transposeRun s i).peer = [] := by
    unfold transposeRun
    split <;> rfl
  have hseen : (transposeRun s i).seen = [] := by
    unfold transposeRun
    split <;> rfl
  unfold State.finishCmd
  simp only [hdata, hrun, hn, hwords, hland, hpeer, hseen, List.isEmpty_nil, if_true]
  simp only [State.noteWords, State.foldSeen, List.foldl_nil, State.freeTu, hop]
  rfl

theorem State.closeRef_iu (s : State) (e : Entry) : (s.closeRef e).iu = s.iu := onlyRg_iu (s.closeRef_only e)

theorem State.closeRef_withRg (s : State) (e : Entry) (r : RegionTable) : (s.closeRef e).withRg r = s.withRg r :=
  (congrArg (fun v : State => v.withRg r) (s.closeRef_only e) :)

theorem State.closeCmd_rest (s : State) (i : Issued) : ((s.closeCmd i).withRg s.rg).withIu s.iu = s :=
  calc ((s.closeCmd i).withRg s.rg).withIu s.iu
      = (((s.signals i.e.cmd.h).closeRef i.e).withRg s.rg).withIu s.iu := rfl
    _ = ((s.signals i.e.cmd.h).withIu s.iu).withRg s.rg := by rw [State.closeRef_withRg]; rfl
    _ = s := by rw [(State.signals_frame s i.e.cmd.h).1]; rfl

theorem State.closeCmd_iu (s : State) (i : Issued) : (s.closeCmd i).iu = { (s.signals i.e.cmd.h).iu with quiet := 0 } :=
  (congrArg (fun u : Iu => { u with quiet := 0 }) (State.closeRef_iu (s.signals i.e.cmd.h) i.e) :)

theorem State.closeCmd_sameQueues (s : State) (i : Issued) (t : Fin 4) : sameQueues s (s.closeCmd i) t := by
  obtain ⟨hq, hs, he, ht⟩ := State.signals_sameQueues s i.e.cmd.h t
  have hiu := State.closeCmd_iu s i
  exact ⟨(congrArg Iu.queued hiu).trans hq, (congrArg Iu.staged hiu).trans hs, (congrArg Iu.exec hiu).trans he,
    fun u hu => (State.task_of_iu (congrArg Iu.tasks hiu :) u).trans (ht u hu)⟩

theorem State.closeCmd_samePdSf (s : State) (i : Issued) : samePdSf s (s.closeCmd i) := by
  obtain ⟨hpd, hsf⟩ := State.signals_samePdSf s i.e.cmd.h
  have hiu := State.closeCmd_iu s i
  exact ⟨(congrArg Iu.pd hiu).trans hpd, (congrArg Iu.sf hiu).trans hsf⟩

theorem State.ec_closeCmd (s : State) (i : Issued) (j : BitVec 6) : (s.closeCmd i).ec j = s.ec j + bump i.e.cmd.h j :=
  (State.ec_of_iu (congrArg Iu.ec (State.closeCmd_iu s i) :) j).trans (State.ec_signals s i.e.cmd.h j)

end

/-! #### The bytes that TRANSPOSE writes (R87) -/

/-- Where every write to an address gives it one byte, that byte stands there. -/
theorem lastByte_of_mem {ws : Bytes} {a : Nat} {v : Byte} (hm : (a, v) ∈ ws) (hall : ∀ w, (a, w) ∈ ws → w = v) (d : Byte) :
    lastByte ws a d = v := by
  unfold lastByte
  cases hf : ws.reverse.find? (fun p => p.1 == a) with
  | none => exact absurd (beq_self_eq_true a) (List.find?_eq_none.mp hf (a, v) (List.mem_reverse.mpr hm))
  | some p =>
    obtain ⟨p1, p2⟩ := p
    have hmem := List.mem_reverse.mp (List.mem_of_find?_eq_some hf)
    have ha : p1 = a := by simpa using List.find?_some hf
    subst ha
    exact hall p2 hmem

theorem mem_extent {m n : Nat} {q : Nat × Nat} : q ∈ extent m n ↔ q.1 < m ∧ q.2 < n := by
  obtain ⟨r, c⟩ := q
  simp [extent]

theorem mem_placeBytes {a c : Nat} {bs : List Byte} {v : Byte} : (c, v) ∈ placeBytes a bs ↔ ∃ k, bs[k]? = some v ∧ c = a + k := by
  simp only [placeBytes, List.mem_map, Prod.mk.injEq, Prod.exists, List.mem_zipIdx_iff_getElem?]
  constructor
  · rintro ⟨w, k, hk, rfl, rfl⟩
    exact ⟨k, hk, rfl⟩
  · rintro ⟨k, hk, rfl⟩
    exact ⟨v, k, hk, rfl, rfl⟩

theorem State.mem_placeBytes_bytes {s : State} {a c f n : Nat} {v : Byte} :
    (c, v) ∈ placeBytes a (s.bytes f n) ↔ ∃ k < n, c = a + k ∧ v = s.byte (f + k) := by
  simp only [mem_placeBytes, State.bytes, List.getElem?_map, Option.map_eq_some_iff, List.getElem?_eq_some_iff, List.length_range,
    List.getElem_range]
  constructor
  · rintro ⟨k, ⟨j, ⟨hk, rfl⟩, rfl⟩, rfl⟩
    exact ⟨k, hk, rfl, rfl⟩
  · rintro ⟨k, hk, rfl, rfl⟩
    exact ⟨k, ⟨k, ⟨hk, rfl⟩, rfl⟩, rfl⟩

/-- A place below `n` in a row of `n` places tells the row and the place. -/
theorem row_unique {n c d x y : Nat} (hx : x < n) (hy : y < n) (he : c * n + x = d * n + y) : c = d ∧ x = y := by
  have hflip : ∀ a z, z + n * a = a * n + z := fun a z => by rw [Nat.mul_comm, Nat.add_comm]
  obtain ⟨hc, hm⟩ := (Nat.div_mod_unique (Nat.zero_lt_of_lt hx)).mpr ⟨hflip c x, hx⟩
  obtain ⟨hd, hm'⟩ := (Nat.div_mod_unique (Nat.zero_lt_of_lt hy)).mpr ⟨hflip d y, hy⟩
  exact ⟨by rw [← hc, ← hd, he], by rw [← hm, ← hm', he]⟩

section
variable {s : State} {i : Issued} {va vb : RView}

theorem mem_transposeRun (ha : viewAt i.views 0 = some va) (hb : viewAt i.views 1 = some vb) {addr : Nat} {v : Byte} :
    (addr, v) ∈ (transposeRun s i).bytes ↔ ∃ r < va.rows, ∃ c < va.cols, ∃ k < va.format.bits / 8,
      addr = vb.addr + c * vb.stride + va.format.bits / 8 * r + k ∧
      v = s.byte (va.addr + r * va.stride + va.format.bits / 8 * c + k) := by
  simp only [transposeRun, ha, hb, List.mem_flatMap, mem_extent, State.mem_placeBytes_bytes, Prod.exists, and_assoc]
  constructor
  · rintro ⟨r, c, hr, hc, k, hk, h⟩
    exact ⟨r, hr, c, hc, k, hk, h⟩
  · rintro ⟨r, hr, c, hc, k, hk, h⟩
    exact ⟨r, c, hr, hc, k, hk, h⟩

/-- Rows of view 1 that do not overlap hold the elements of view 0, transposed. -/
theorem lastByte_transposeRun (ha : viewAt i.views 0 = some va) (hb : viewAt i.views 1 = some vb)
    (hrow : va.format.bits / 8 * va.rows ≤ vb.stride) {r c k : Nat} (hr : r < va.rows) (hc : c < va.cols)
    (hk : k < va.format.bits / 8) (d : Byte) :
    lastByte (transposeRun s i).bytes (vb.addr + c * vb.stride + va.format.bits / 8 * r + k) d =
      s.byte (va.addr + r * va.stride + va.format.bits / 8 * c + k) := by
  have hin : ∀ q j, q < va.rows → j < va.format.bits / 8 → q * (va.format.bits / 8) + j < vb.stride := fun q j hq hj =>
    calc q * (va.format.bits / 8) + j < (q + 1) * (va.format.bits / 8) := by rw [Nat.succ_mul]; omega
      _ ≤ va.rows * (va.format.bits / 8) := Nat.mul_le_mul_right _ hq
      _ ≤ vb.stride := by rwa [Nat.mul_comm]
  refine lastByte_of_mem ((mem_transposeRun ha hb).mpr ⟨r, hr, c, hc, k, hk, rfl, rfl⟩) ?_ d
  intro w hw
  obtain ⟨r', hr', c', hc', k', hk', haddr, rfl⟩ := (mem_transposeRun ha hb).mp hw
  rw [Nat.mul_comm _ r, Nat.mul_comm _ r'] at haddr
  obtain ⟨rfl, helem⟩ := row_unique (hin r k hr hk) (hin r' k' hr' hk') (by omega : c * vb.stride + _ = c' * vb.stride + _)
  obtain ⟨rfl, rfl⟩ := row_unique hk hk' helem
  rfl

end

/-! #### The views of a TRANSPOSE that issues (R31, R87) -/

theorem Fmt.elemBytes_le_rowBytes (f : Fmt) (n : Nat) : f.bits / 8 * n ≤ f.rowBytes n := by
  cases f <;> simp only [Fmt.rowBytes, Fmt.bits] <;> omega

theorem viewFails_of_issueFault {s : State} {e : Entry} {b : TransposeBody} (hop : e.cmd.op = .transpose b) (h : s.issueFault e = none)
    {k : Nat} (hk : k < 8) {u : Use} (hu : u ∈ transposeUses e.cmd b) : s.viewFails e k u = false := by
  have hv : s.viewsFault e (transposeUses e.cmd b) = none := by
    have huses : usesOf e s.sfSnapshot = transposeUses e.cmd b := by simp [usesOf, hop]
    simp only [State.issueFault, hop, huses] at h
    cases hf : s.viewsFault e (transposeUses e.cmd b) with
    | none => rfl
    | some f => simp [hf] at h
  have hrow := List.findSome?_eq_none_iff.mp (List.findSome?_eq_none_iff.mp hv k (List.mem_range.mpr hk)) u hu
  simpa using hrow

theorem bodyFault_of_decodeFault {s : State} {e : Entry} (h : s.decodeFault e = none) : bodyFault e.cmd e.auxBody = none := by
  unfold State.decodeFault at h
  dsimp only at h
  split at h
  · simp at h
  · split at h
    · simp at h
    · simp at h
    · assumption

/-- The formats, the transposed shape and the element size pass the decode check (R87). -/
theorem TransposeBody.ok_of_decodes {s : State} {x : Ctx} {h : Header} {b : TransposeBody} (hd : s.decodes x h (.transpose b) = true) :
    b.ok = true := by
  simp only [State.decodes, Bool.and_eq_true, Option.isNone_iff_eq_none] at hd
  obtain ⟨⟨-, hfault⟩, -⟩ := hd
  have hbody := bodyFault_of_decodeFault hfault
  simp only [bodyFault, State.entryOf, firstFault, Option.map_eq_none_iff] at hbody
  split at hbody
  · simp at hbody
  · simpa using hbody

theorem State.decodes_of_heading {s : State} {x : Ctx} {h : Header} {op : Op} (hh : s.heading x h op = true) :
    s.decodes x h op = true := by
  simp only [State.heading, Bool.and_eq_true] at hh
  obtain ⟨⟨⟨⟨-, hdec⟩, -⟩, -⟩, -⟩ := hh
  exact hdec

/-- A view that the Almanac does not bind keeps the shape and the format of its body. -/
theorem State.resolve_unbound (s : State) (e : Entry) {u : Use} (h : u.binds = false) :
    (s.resolve e u).rows = u.rows ∧ (s.resolve e u).cols = u.view.cols.toNat ∧ (s.resolve e u).stride = 64 * u.view.stride.toNat ∧
      (s.resolve e u).fmt = u.view.format := by
  unfold State.resolve
  simp [h]

/-- The view that a TRANSPOSE reads, and the one it writes. -/
def transposeSource (h : Header) (b : TransposeBody) : Use := { Use.source 0 b.v0 with versioned := h.vtag, binds := false }
def transposeTarget (b : TransposeBody) : Use := { Use.output 1 b.v1 with binds := false }

/-- The resolved views of a TRANSPOSE that issues: a row of view 1 holds a column of view 0 and does not reach the next row. -/
theorem transpose_views {s : State} {x : Ctx} {h : Header} {b : TransposeBody} (hi : s.issues x h (.transpose b) = true) :
    ∃ va vb, viewAt (s.issuedOf x h (.transpose b)).views 0 = some va ∧ viewAt (s.issuedOf x h (.transpose b)).views 1 = some vb ∧
      va.format.bits / 8 * va.rows ≤ vb.stride := by
  obtain ⟨hh, -, hgo⟩ := State.heading_of_issues hi
  have hok := TransposeBody.ok_of_decodes (State.decodes_of_heading hh)
  simp only [TransposeBody.ok, Bool.and_eq_true, beq_iff_eq] at hok
  obtain ⟨⟨⟨⟨⟨hfmt, -⟩, hcols⟩, -⟩, -⟩, -⟩ := hok
  have hfits := viewFails_of_issueFault (b := b) rfl (State.checks_of_go hgo).1 (k := 4) (by omega) (u := transposeTarget b)
    (List.mem_cons_of_mem _ List.mem_cons_self)
  refine ⟨((s.placed x h (.transpose b)).unqueue (s.entryOf x h (.transpose b))).resolve _ (transposeSource h b),
    ((s.placed x h (.transpose b)).unqueue (s.entryOf x h (.transpose b))).resolve _ (transposeTarget b), rfl, rfl, ?_⟩
  obtain ⟨hrows, -, -, hfa⟩ := State.resolve_unbound ((s.placed x h (.transpose b)).unqueue (s.entryOf x h (.transpose b)))
    (s.entryOf x h (.transpose b)) (u := transposeSource h b) rfl
  obtain ⟨-, -, hst, -⟩ := State.resolve_unbound ((s.placed x h (.transpose b)).unqueue (s.entryOf x h (.transpose b)))
    (s.entryOf x h (.transpose b)) (u := transposeTarget b) rfl
  obtain ⟨-, hcb, hst', hfb⟩ := State.resolve_unbound (s.placed x h (.transpose b)) (s.entryOf x h (.transpose b))
    (u := transposeTarget b) rfl
  simp only [State.viewFails, RView.rowBytes, RView.format, hst', hcb, hfb] at hfits
  rw [RView.format, hfa, hrows, hst]
  have hlt : ¬ 64 * b.v1.stride.toNat < ((Fmt.ofCode b.v1.format).getD .f32).rowBytes b.v1.cols.toNat :=
    of_decide_eq_false hfits
  calc ((Fmt.ofCode b.v0.format).getD .f32).bits / 8 * b.v0.rows.toNat
      = ((Fmt.ofCode b.v1.format).getD .f32).bits / 8 * b.v1.cols.toNat := by rw [hfmt, hcols]
    _ ≤ ((Fmt.ofCode b.v1.format).getD .f32).rowBytes b.v1.cols.toNat := Fmt.elemBytes_le_rowBytes _ _
    _ ≤ 64 * b.v1.stride.toNat := Nat.not_lt.mp hlt

/-! #### The command as a whole -/

theorem State.tuFree_setTu (s : State) (n m : Fin 4) (o : Option (Fin 4 × W64)) :
    (s.setTu n o).tuFree m = if m = n then o.isNone else s.tuFree m := by
  by_cases h : m = n
  · subst h
    simp [State.setTu, State.tuFree]
  · have hne : n.1 ≠ m.1 := fun he => h (Fin.ext he.symm)
    simp [State.setTu, State.tuFree, h, Vector.getElem_set_ne, hne]

/-- The state in which the bytes of a TRANSPOSE have landed and its transpose unit is free. -/
def State.copied (s : State) (x : Ctx) (h : Header) (b : TransposeBody) : State :=
  ((s.begun x h (.transpose b)).withSpad ((s.begun x h (.transpose b)).spad.write (s.runNow x h (.transpose b)).bytes)).setTu
    (s.physTu (tuIndex h)) none

/-- The state in which a TRANSPOSE has closed. -/
def State.transposed (s : State) (x : Ctx) (h : Header) (b : TransposeBody) : State :=
  (s.copied x h b).closeCmd (s.issuedOf x h (.transpose b))

/-- A TRANSPOSE whose data are sound completes in the step that issues it. -/
theorem exec_transpose {s : State} {x : Ctx} {h : Header} {b : TransposeBody} (hx : s.finishes x h (.transpose b) = true) :
    exec (.transpose x h b) s = .next ((s.placed x h (.transpose b)).follow (s.transposed x h b)) := by
  simp only [State.finishes, Bool.and_eq_true, Option.isNone_iff_eq_none, List.isEmpty_iff] at hx
  obtain ⟨⟨⟨hi, -⟩, hdata⟩, hn⟩ := hx
  obtain ⟨hh, -, hgo⟩ := State.heading_of_issues hi
  have hstart : s.startedOf x h (.transpose b) = s.issuedOf x h (.transpose b) := rfl
  have hbegun := State.begun_transpose hh
  obtain ⟨-, hfetch, -, -, -⟩ := State.placed_of_heading hh
  have hrest := State.issuedState_rest (h := h) hfetch
  have hphys : (s.begun x h (.transpose b)).physTu (tuIndex h) = s.physTu (tuIndex h) := by
    rw [hbegun]
    exact (congrArg (fun v : State => v.physTu (tuIndex h)) hrest :)
  rw [exec_issues rfl hi nofun rfl, State.act, hgo]
  have hwhole : ((s.placed x h (.transpose b)).unqueue (s.entryOf x h (.transpose b))).runWhole (s.entryOf x h (.transpose b)) =
      (s.begun x h (.transpose b)).finishCmd ((s.placed x h (.transpose b)).unitOf ⟨h, .transpose b⟩)
        (s.issuedOf x h (.transpose b)) := rfl
  have hdone : (s.begun x h (.transpose b)).finishCmd ((s.placed x h (.transpose b)).unitOf ⟨h, .transpose b⟩)
      (s.issuedOf x h (.transpose b)) = s.transposed x h b := by
    rw [State.finishCmd_transpose (b := b) (i := s.issuedOf x h (.transpose b)) rfl _ hdata hn, State.transposed, State.copied, ← hphys]
    rfl
  simp only [State.atIssue, State.entryOf_cmd, hwhole, hdone, if_true]

/-- At most the scratchpad, the transpose units, the region table and the issue unit differ. -/
def onlyCopied (s t : State) : Prop := (((t.withSpad s.spad).withTu s.tu).withRg s.rg).withIu s.iu = s

theorem onlyCopied_trans {a b c : State} (hab : onlyCopied a b) (hbc : onlyCopied b c) : onlyCopied a c := by
  unfold onlyCopied at *
  rw [← hab, ← hbc]
  rfl

theorem onlyCopied_of_rest {s t : State} (h : (t.withRg s.rg).withIu s.iu = s) : onlyCopied s t :=
  (congrArg (fun v : State => (v.withSpad s.spad).withTu s.tu) h :)

theorem onlyCopied_withTu (s : State) (sp : Spad) (tu : Transposers) : onlyCopied s ((s.withSpad sp).withTu tu) := by
  have hback : (((s.withSpad sp).withTu tu).withSpad s.spad).withTu s.tu = s := rfl
  rw [onlyCopied, hback]
  rfl

/-- Such a change leaves the surround, the arrays, the vector units and the Almanac as they were. -/
theorem surround_of_onlyCopied {s u t : State} (hu : onlyCopied s u) (ht : upToPower u t) :
    sameSurround s t ∧ t.mx = s.mx ∧ t.vx = s.vx ∧ t.cu = s.cu ∧ t.alm = s.alm := by
  obtain ⟨-, heq, hpower⟩ := ht
  have hueq : u.eq = s.eq := (congrArg State.eq hu :)
  have huout : u.out = s.out := (congrArg State.out hu :)
  rw [hueq, huout] at hpower
  have hrest : ((((((t.withEq s.eq).withOut s.out).withSpad s.spad).withTu s.tu).withRg s.rg).withIu s.iu) = s := by
    rw [hpower]
    exact hu
  have heq' : sameEq s t := by
    unfold sameEq at heq ⊢
    rwa [hueq] at heq
  exact ⟨⟨(congrArg State.pending hrest :), (congrArg State.powered hrest :), (congrArg State.cycle hrest :),
    (congrArg State.freeCtr hrest :), (congrArg State.id hrest :), (congrArg State.bring hrest :), (congrArg State.cal hrest :),
    (congrArg State.sol hrest :), (congrArg State.fp hrest :), (congrArg State.fa hrest :), (congrArg State.cc hrest :),
    (congrArg State.ring hrest :), heq', (congrArg State.err hrest :), (congrArg State.rep hrest :), (congrArg State.bg hrest :),
    (congrArg State.su hrest :), (congrArg State.tap hrest :)⟩, (congrArg State.mx hrest :), (congrArg State.vx hrest :),
    (congrArg State.cu hrest :), (congrArg State.alm hrest :)⟩

section
variable {s : State} {x : Ctx} {h : Header} {b : TransposeBody} (hh : s.heading x h (.transpose b) = true)
include hh

theorem State.begun_transpose_rest : ((s.begun x h (.transpose b)).withRg s.rg).withIu s.iu = s := by
  obtain ⟨-, hfetch, -, -, -⟩ := State.placed_of_heading hh
  rw [State.begun_transpose hh]
  exact State.issuedState_rest hfetch h

theorem State.copied_iu : (s.copied x h b).iu = (s.leftQueue x h (.transpose b)).iu := by
  obtain ⟨-, hfetch, -, -, -⟩ := State.placed_of_heading hh
  have hiu := State.issuedState_iu hfetch h
  rw [← State.begun_transpose hh] at hiu
  exact hiu

theorem State.begun_transpose_spad : (s.begun x h (.transpose b)).spad = s.spad :=
  (congrArg State.spad (State.begun_transpose_rest hh) :)

theorem State.transposed_spad : (s.transposed x h b).spad = s.spad.write (s.runNow x h (.transpose b)).bytes := by
  rw [← State.begun_transpose_spad hh]
  exact (congrArg State.spad (State.closeCmd_rest (s.copied x h b) (s.issuedOf x h (.transpose b))) :)

theorem State.transposed_onlyCopied : onlyCopied s (s.transposed x h b) :=
  onlyCopied_trans (onlyCopied_trans (onlyCopied_of_rest (State.begun_transpose_rest hh)) (onlyCopied_withTu _ _ _))
    (onlyCopied_of_rest (State.closeCmd_rest (s.copied x h b) (s.issuedOf x h (.transpose b))))

theorem State.transposed_tuFree (n : Fin 4) :
    (s.transposed x h b).tuFree n = if n = s.physTu (tuIndex h) then true else s.tuFree n := by
  have htu : (s.transposed x h b).tu = (s.setTu (s.physTu (tuIndex h)) none).tu := by
    have hrest := State.begun_transpose_rest hh
    have hclose := State.closeCmd_rest (s.copied x h b) (s.issuedOf x h (.transpose b))
    calc (s.transposed x h b).tu = (s.copied x h b).tu := (congrArg State.tu hclose :)
      _ = ((((s.begun x h (.transpose b)).withRg s.rg).withIu s.iu).setTu (s.physTu (tuIndex h)) none).tu := rfl
      _ = (s.setTu (s.physTu (tuIndex h)) none).tu := by rw [hrest]
  calc (s.transposed x h b).tuFree n = (s.setTu (s.physTu (tuIndex h)) none).tuFree n := by simp only [State.tuFree, htu]
    _ = _ := State.tuFree_setTu s _ n none

theorem State.transposed_ec (i : BitVec 6) : (s.transposed x h b).ec i = s.ec i + bump h i :=
  (State.ec_closeCmd (s.copied x h b) (s.issuedOf x h (.transpose b)) i).trans
    (congrArg (· + bump h i) (State.ec_of_iu (congrArg Iu.ec (State.copied_iu hh) :) i))

theorem State.transposed_sameQueues : sameQueues s (s.transposed x h b) x.task :=
  sameQueues_trans (sameQueues_of_iu (State.copied_iu hh) (s.leftQueue_sameQueues x h (.transpose b)))
    (State.closeCmd_sameQueues (s.copied x h b) _ x.task)

theorem State.transposed_samePdSf : samePdSf s (s.transposed x h b) := by
  refine samePdSf_trans ?_ (State.closeCmd_samePdSf (s.copied x h b) _)
  rw [samePdSf, State.copied_iu hh]
  exact s.leftQueue_samePdSf x h (.transpose b)

end

/-- Settles O25: the views that issue are shaped so that the writes of different elements are apart, so each destination byte holds the
one element byte written to it; the command ends at once with its transpose unit free. -/
theorem transposeCopies : Obligations.TransposeCopies := by
  intro s x h b hx hmem
  simp only [State.completes, Bool.and_eq_true, List.isEmpty_iff] at hx
  obtain ⟨hfin, -⟩ := hx
  have hfin' := hfin
  simp only [State.finishes, Bool.and_eq_true, List.isEmpty_iff] at hfin'
  obtain ⟨⟨⟨hi, -⟩, -⟩, hn⟩ := hfin'
  obtain ⟨hh, -, -⟩ := State.heading_of_issues hi
  obtain ⟨va, vb, ha, hb, hrow⟩ := transpose_views hi
  rw [State.begun_transpose_spad hh] at hn
  have hbyte : ∀ a, ((s.placed x h (.transpose b)).follow (s.transposed x h b)).byte a =
      lastByte (s.runNow x h (.transpose b)).bytes a (s.byte a) :=
    State.byte_of_written (State.mem_wf_of_memoryOk hmem) hn ((State.follow_spad _ _).trans (State.transposed_spad hh))
  obtain ⟨hsur, hmx, hvx, hcu, halm⟩ := surround_of_onlyCopied (State.transposed_onlyCopied hh)
    (State.follow_upToPower (s.placed x h (.transpose b)) (s.transposed x h b))
  have htu : ∀ n, ((s.placed x h (.transpose b)).follow (s.transposed x h b)).tuFree n =
      if n = s.physTu (tuIndex h) then true else s.tuFree n := fun n => by
    rw [← State.transposed_tuFree hh n]
    exact (congrArg (fun v : State => v.tuFree n) (State.follow_rest (s.placed x h (.transpose b)) (s.transposed x h b)) :)
  refine ⟨_, va, vb, exec_transpose hfin, ⟨hbyte, fun i => ?_, sameQueues_follow (State.transposed_sameQueues hh) _⟩, ha, hb,
    fun r c k hr hc hk => ?_, ?_, fun n hne => ?_, samePdSf_follow (State.transposed_samePdSf hh) _, hmx, hvx, hcu, halm, hsur⟩
  · rw [State.ec_follow, State.transposed_ec hh]
  · rw [hbyte]
    refine (lastByte_transposeRun ha hb hrow hr hc hk _).trans ?_
    exact congrArg (fun sp : Spad => sp.mem.get _) (State.begun_transpose_spad hh)
  · rw [htu, if_pos rfl]
  · rw [htu, if_neg hne]

end Sys2Proof.Machine
end

/-! ### Inbound accesses (O47) -/

section
namespace Sys2Proof.Machine

/-! #### Events stay in the log (R395) -/

/-- Each code in the log of one state is in that of the other. -/
def keepsCodes (s t : State) : Prop := ∀ code, (∃ e ∈ s.err.log, e.code = code) → ∃ e ∈ t.err.log, e.code = code

theorem keepsCodes_of_err {s t : State} (h : t.err = s.err) : keepsCodes s t := fun code hc => by rwa [h]

theorem keepsCodes_refl (s : State) : keepsCodes s s := keepsCodes_of_err rfl

theorem keepsCodes_trans (a b c : State) (hab : keepsCodes a b) (hbc : keepsCodes b c) : keepsCodes a c :=
  fun code h => hbc code (hab code h)

theorem logged_of_keepsCodes {s t u : State} {code : Code} (h : logged s t code) (hk : keepsCodes t u) : logged s u code :=
  fun hroom => hk code (h hroom)

theorem mergeLog_codes (e : LogEntry) (l : List LogEntry) : (mergeLog e l).map LogEntry.code = l.map LogEntry.code := by
  induction l with
  | nil => rfl
  | cons x rest ih =>
    unfold mergeLog
    split
    · rfl
    · rw [List.map_cons, List.map_cons, ih]

/-- An event that is no fault displaces no entry. -/
theorem State.addLog_keepsCodes (s : State) {e : LogEntry} (he : e.cls = 0#2) : keepsCodes s (s.addLog e) := by
  intro code hc
  unfold State.addLog
  split
  · simp only [← List.mem_map] at hc ⊢
    exact (mergeLog_codes e s.err.log).symm ▸ hc
  · split
    · obtain ⟨x, hx, hcode⟩ := hc
      exact ⟨x, List.mem_append_left _ hx, hcode⟩
    · rw [if_pos (by simp [he])]
      exact hc

theorem State.logEntry_minor (s : State) (task : BitVec 2) (code : Code) (unit sub : BitVec 8) (loc : W32) (dpi detail : W64) :
    (s.logEntry code .minor task unit sub loc dpi detail).cls = 0#2 := rfl

/-- A notice logs its event, and may log the hint that its sixteenth repetition brings. -/
theorem State.noteFor_cases (s : State) {task : BitVec 2} {code : Code} {unit sub : BitVec 8} {loc : W32} {dpi detail : W64} :
    keepsCodes (s.addLog (s.logEntry code .minor task unit sub loc dpi detail)) (s.noteFor task code unit sub loc dpi detail) := by
  unfold State.noteFor
  dsimp only
  split
  · generalize s.addLog (s.logEntry code .minor task unit sub loc dpi detail) = u
    refine keepsCodes_trans u (u.withJob { u.job with hints := (unit, loc) :: u.job.hints }) _ (keepsCodes_of_err rfl) ?_
    exact keepsCodes_trans _ _ _ (State.addLog_keepsCodes _ (s.logEntry_minor 0 Code.repairHint unit sub loc noDpi 0))
      (keepsCodes_of_err rfl)
  · exact keepsCodes_refl _

theorem State.noteFor_keepsCodes (s : State) {task : BitVec 2} {code : Code} {unit sub : BitVec 8} {loc : W32} {dpi detail : W64} :
    keepsCodes s (s.noteFor task code unit sub loc dpi detail) :=
  keepsCodes_trans _ _ _ (s.addLog_keepsCodes (State.logEntry_minor ..)) s.noteFor_cases

theorem State.noteFor_logged (s : State) {task : BitVec 2} {code : Code} {unit sub : BitVec 8} {loc : W32} {dpi detail : W64} :
    logged s (s.noteFor task code unit sub loc dpi detail) code :=
  logged_of_keepsCodes (s.addLog_logged _) s.noteFor_cases

/-! #### Poisoned words stay poisoned and keep their place (R64, R72) -/

/-- Every byte lies in the half it lay in, and no half that was poisoned is sound. -/
def keepsPlaces (s t : State) : Prop :=
  (∀ a, t.locate a = s.locate a) ∧ ∀ r h, (s.region r).poisoned h = true → (t.region r).poisoned h = true

theorem keepsPlaces_refl (s : State) : keepsPlaces s s := ⟨fun _ => rfl, fun _ _ hp => hp⟩

theorem keepsPlaces_trans (a b c : State) (hab : keepsPlaces a b) (hbc : keepsPlaces b c) : keepsPlaces a c :=
  ⟨fun x => (hbc.1 x).trans (hab.1 x), fun r h hp => hbc.2 r h (hab.2 r h hp)⟩

theorem keepsPlaces_of_rg {s t : State} (h : t.rg = s.rg) : keepsPlaces s t :=
  ⟨fun a => congrArg (fun r : RegionTable => (s.withRg r).locate a) h, fun r x hp => by simpa only [State.region, h] using hp⟩

/-- Poison leaves the bounds of a region. -/
theorem Region.setPoison_place (g : Region) (h v : Bool) :
    (g.setPoison h v).valid = g.valid ∧ (g.setPoison h v).base = g.base ∧ (g.setPoison h v).size = g.size ∧
      (g.setPoison h v).split = g.split := by
  unfold Region.setPoison
  split
  · exact ⟨rfl, rfl, rfl, rfl⟩
  · split <;> exact ⟨rfl, rfl, rfl, rfl⟩

theorem State.poison_keepsPlaces (s : State) (r : Ref) : keepsPlaces s (s.poison r) := by
  refine ⟨fun a => ?_, (s.poison_keepsLogAndPoison r).2⟩
  have hregion : ∀ k, ((s.poison r).region k).valid = (s.region k).valid ∧ ((s.poison r).region k).base = (s.region k).base ∧
      ((s.poison r).region k).size = (s.region k).size ∧ ((s.poison r).region k).split = (s.region k).split := fun k => by
    rw [State.poison, State.region_setRegion]
    split
    · next hk =>
      subst hk
      exact Region.setPoison_place _ _ _
    · exact ⟨rfl, rfl, rfl, rfl⟩
  unfold State.locate
  congr 1
  funext k
  obtain ⟨hv, hb, hz, hs⟩ := hregion (BitVec.ofNat 6 k)
  simp only [Region.contains, Region.halfBase, Region.halfLen, hv, hb, hz, hs]

/-- A byte that lies in a half lies in a valid region, and in half B of a split one only. -/
theorem State.valid_of_locate {s : State} {a : Nat} {r : Ref} (h : s.locate a = some r) :
    (s.region r.1).valid = true ∧ (r.2 = true → (s.region r.1).split = true) := by
  obtain ⟨k, -, hk⟩ := List.exists_of_findSome?_eq_some h
  dsimp only at hk
  split at hk
  · next hc =>
    obtain rfl := Option.some.inj hk
    simp only [Region.contains, Bool.and_eq_true] at hc
    obtain ⟨⟨hvalid, -⟩, -⟩ := hc
    exact ⟨hvalid, fun hb => (Bool.and_eq_true _ _ ▸ hb).1⟩
  · cases hk

theorem State.poisonWords_poisons {s : State} {w : Nat} {r : Ref} (h : s.locate (8 * w) = some r) :
    ((s.poisonWords [w]).region r.1).poisoned r.2 = true := by
  obtain ⟨hv, hs⟩ := State.valid_of_locate h
  simp only [State.poisonWords, List.foldl_cons, List.foldl_nil, h, State.poison, State.region_setRegion, if_true]
  exact Region.poisoned_setPoison _ _ _ hv hs

theorem State.poisonWord_keepsPlaces (s : State) (w : Nat) : keepsPlaces s (s.poisonWords [w]) := by
  simp only [State.poisonWords, List.foldl_cons, List.foldl_nil]
  split
  · exact s.poison_keepsPlaces _
  · exact keepsPlaces_refl s

theorem onlyNote_rg {s t : State} (h : onlyNote s t) : t.rg = s.rg := (congrArg State.rg h.1).trans rfl

/-! #### Words that an access notes (R64) -/

section
variable (task : BitVec 2) (dpi : Nat → W64)

theorem State.noteWords_cons (s : State) (w : Nat) (ws : List Nat) :
    s.noteWords task dpi (w :: ws) = ((s.noteFor task Code.uncorrectable 0x47 0 (s.bankLoc (8 * w)) (dpi w)
      (wordDetail [w])).poisonWords [w]).noteWords task dpi ws := rfl

theorem State.noteWord_keepsPlaces (s : State) (w : Nat) :
    keepsPlaces s ((s.noteFor task Code.uncorrectable 0x47 0 (s.bankLoc (8 * w)) (dpi w) (wordDetail [w])).poisonWords [w]) :=
  keepsPlaces_trans _ _ _ (keepsPlaces_of_rg (onlyNote_rg (s.noteFor_only ..))) (State.poisonWord_keepsPlaces _ w)

theorem State.noteWord_keepsCodes (s : State) (w : Nat) :
    keepsCodes (s.noteFor task Code.uncorrectable 0x47 0 (s.bankLoc (8 * w)) (dpi w) (wordDetail [w]))
      ((s.noteFor task Code.uncorrectable 0x47 0 (s.bankLoc (8 * w)) (dpi w) (wordDetail [w])).poisonWords [w]) :=
  keepsCodes_of_err ((congrArg State.err (State.poisonWords_only _ [w])).trans rfl)

theorem State.noteWords_keepsCodes (s : State) (ws : List Nat) : keepsCodes s (s.noteWords task dpi ws) :=
  foldl_only keepsCodes keepsCodes_refl keepsCodes_trans _
    (fun s w => keepsCodes_trans _ _ _ s.noteFor_keepsCodes (s.noteWord_keepsCodes task dpi w)) ws s

theorem State.noteWords_keepsPlaces (s : State) (ws : List Nat) : keepsPlaces s (s.noteWords task dpi ws) :=
  foldl_only keepsPlaces keepsPlaces_refl keepsPlaces_trans _ (fun s w => s.noteWord_keepsPlaces task dpi w) ws s

theorem State.noteWords_logged (s : State) {ws : List Nat} (h : ws ≠ []) : logged s (s.noteWords task dpi ws) Code.uncorrectable := by
  obtain ⟨w, ws, rfl⟩ := List.exists_cons_of_ne_nil h
  rw [State.noteWords_cons]
  exact logged_of_keepsCodes s.noteFor_logged
    (keepsCodes_trans _ _ _ (s.noteWord_keepsCodes task dpi w) (State.noteWords_keepsCodes task dpi _ ws))

/-- Each word that an access notes poisons the half that holds it. -/
theorem State.noteWords_poisons {s : State} {ws : List Nat} {w : Nat} (hw : w ∈ ws) {r : Ref} (hr : s.locate (8 * w) = some r) :
    ((s.noteWords task dpi ws).region r.1).poisoned r.2 = true := by
  induction ws generalizing s with
  | nil => cases hw
  | cons x ws ih =>
    rw [State.noteWords_cons]
    have hplace := s.noteWord_keepsPlaces task dpi x
    obtain rfl | hw := List.mem_cons.mp hw
    · refine (State.noteWords_keepsPlaces task dpi _ ws).2 _ _ (State.poisonWords_poisons ?_)
      exact ((keepsPlaces_of_rg (onlyNote_rg (s.noteFor_only ..))).1 _).trans hr
    · exact ih hw ((hplace.1 _).trans hr)

end

/-! #### The refusal of an inbound access (R75, R308) -/

section
variable (s : State) (q : Requester) (addr len : Nat) (c : BitVec 8) (ws : List Nat)

theorem State.refuseWords_eq :
    s.refuseWords q addr len ws c = (s.mcastRefused q.chip q.core c ws).refuseRun q addr len c := rfl

theorem State.refuseInbound_eq : s.refuseInbound q addr len c = (s.mcastRefused q.chip q.core c []).refuseRun q addr len c := rfl

theorem State.refuseRun_onlySent : onlySent s (s.refuseRun q addr len c) := s.answer_rest _ _ _

theorem State.ackRun_onlySent : onlySent s (s.ackRun q addr len) := s.answer_rest _ _ _

theorem State.dataRun_onlySent : onlySent s (s.dataRun q addr len) := s.answer_rest _ _ _

theorem onlySent_spad {s t : State} (h : onlySent s t) : t.spad = s.spad := (congrArg State.spad h :)

theorem onlySent_iu {s t : State} (h : onlySent s t) : t.iu = s.iu := (congrArg State.iu h :)

theorem onlySent_err {s t : State} (h : onlySent s t) : t.err = s.err := (congrArg State.err h :)

theorem onlySent_rg {s t : State} (h : onlySent s t) : t.rg = s.rg := (congrArg State.rg h :)

theorem State.mcastRefused_logged (chip : BitVec 20) (core : BitVec 3) :
    logged s (s.mcastRefused chip core c []) Code.inboundRefused := State.noteFor_logged s

/-- A refusal that names words logs each, and poisons the half that holds it. -/
theorem State.mcastRefused_words (chip : BitVec 20) (core : BitVec 3) {ws : List Nat} (h : ws ≠ []) :
    logged s (s.mcastRefused chip core c ws) Code.uncorrectable ∧
      ∀ w ∈ ws, ∀ r, s.locate (8 * w) = some r → ((s.mcastRefused chip core c ws).region r.1).poisoned r.2 = true := by
  refine ⟨logged_of_keepsCodes (s.noteWords_logged 0 _ h) (State.noteFor_keepsCodes _), fun w hw r hr => ?_⟩
  exact (keepsPlaces_of_rg (onlyNote_rg (State.note_only _ ..))).2 _ _ (State.noteWords_poisons 0 (fun _ => noDpi) hw hr)

end

/-! #### One window (R75, R311) -/

/-- A run that lies in one window is one part. -/
theorem windowParts_single {addr n : Nat} (hn : 0 < n) (hw : addr / 256 = (addr + n - 1) / 256) : windowParts addr n = [(addr, n)] := by
  unfold windowParts
  rw [if_neg (by omega), ← hw]
  simp only [Nat.sub_self, Nat.zero_add, List.range_one, List.map_cons, List.map_nil, List.cons.injEq, Prod.mk.injEq, and_true]
  omega

theorem exec_inboundWrite {s : State} {q : Requester} {addr : Nat} {bs : List Byte} (hbs : bs ≠ [])
    (hw : addr / 256 = (addr + bs.length - 1) / 256) : exec (.inboundWrite q addr bs) s = .next (s.windowWrite q addr bs) := by
  show Host.Outcome.next (s.inboundWrite q addr bs) = _
  simp [State.inboundWrite, windowParts_single (List.length_pos_iff.mpr hbs) hw]

theorem allBytes_placeBytes (s : State) (addr : Nat) (bs : List Byte) (p : Region → Bool → Bool) :
    ((placeBytes addr bs).all fun w => s.allBytes w.1 1 p) = s.allBytes addr bs.length p := by
  rw [Bool.eq_iff_iff]
  simp only [List.all_eq_true, Prod.forall, mem_placeBytes, State.allBytes, List.mem_range]
  constructor
  · intro h i hi
    have hbyte := h (addr + i) bs[i] ⟨i, List.getElem?_eq_getElem hi, rfl⟩ 0 (by omega)
    simpa only [Nat.add_zero] using hbyte
  · rintro h c v ⟨k, hk, rfl⟩ i hi
    obtain rfl : i = 0 := by omega
    exact h k (List.getElem?_eq_some_iff.mp hk).1

/-- The cause of R75 for one window, and the words that it names. -/
theorem State.writeCause_placeBytes (s : State) (addr : Nat) (bs : List Byte) :
    s.writeCause (placeBytes addr bs) =
      if s.allBytes addr bs.length (fun _ _ => true) = false then some (1, [])
      else if s.allBytes addr bs.length (fun g _ => !g.frozen) = false then some (3, [])
      else if s.spad.narrow (placeBytes addr bs) = [] then none else some (8, s.spad.narrow (placeBytes addr bs)) := by
  unfold State.writeCause
  rw [allBytes_placeBytes, allBytes_placeBytes]
  simp only [Bool.not_eq_true']
  split
  · rfl
  · split
    · rfl
    · split
      · next hn => rw [if_pos hn]
      · next hn => rw [if_neg hn]

/-- The bytes of one run where they are placed, and no others. -/
theorem lastByte_placeBytes (addr : Nat) (bs : List Byte) (d : Byte) :
    (∀ k, k < bs.length → lastByte (placeBytes addr bs) (addr + k) d = bs.getD k 0) ∧
      ∀ a, ¬ (addr ≤ a ∧ a < addr + bs.length) → lastByte (placeBytes addr bs) a d = d := by
  refine ⟨fun k hk => ?_, fun a ha => ?_⟩
  · have hget : bs[k]? = some (bs.getD k 0) := by simp [hk]
    refine lastByte_of_mem (mem_placeBytes.mpr ⟨k, hget, rfl⟩) (fun w hw => ?_) d
    obtain ⟨j, hj, hjk⟩ := mem_placeBytes.mp hw
    obtain rfl : k = j := by omega
    exact Option.some.inj (hj.symm.trans hget)
  · unfold lastByte
    rw [List.find?_eq_none.mpr]
    rintro ⟨c, v⟩ hp hc
    obtain ⟨k, hk, hck⟩ := mem_placeBytes.mp (List.mem_reverse.mp hp)
    have hlt := (List.getElem?_eq_some_iff.mp hk).1
    have hca : c = a := by simpa using hc
    omega

/-! #### Inbound writes (R75, R284, R308) -/

/-- The state in which a window's write has been checked, and landed if it passes. -/
def State.checkedWrite (s : State) (q : Requester) (addr : Nat) (bs : List Byte) : State :=
  match s.writeCause (placeBytes addr bs) with
  | some (c, ws) => s.mcastRefused q.chip q.core c ws
  | none => s.withSpad (s.spad.write (placeBytes addr bs))

section
variable {s : State} (q : Requester) {addr : Nat} {bs : List Byte}

theorem State.checkedWrite_refused {c : BitVec 8} {ws : List Nat} (h : s.writeCause (placeBytes addr bs) = some (c, ws)) :
    s.checkedWrite q addr bs = s.mcastRefused q.chip q.core c ws := by
  rw [State.checkedWrite, h]

theorem State.checkedWrite_lands (h : s.writeCause (placeBytes addr bs) = none) :
    s.checkedWrite q addr bs = s.withSpad (s.spad.write (placeBytes addr bs)) := by
  rw [State.checkedWrite, h]

theorem State.checkedWrite_frame (s : State) (addr : Nat) (bs : List Byte) :
    sameSender s (s.checkedWrite q addr bs) ∧ (s.checkedWrite q addr bs).iu = s.iu := by
  unfold State.checkedWrite
  split
  · next c ws _ =>
    obtain ⟨hsender, -, hiu⟩ := s.mcastRefused_noticed q.chip q.core c ws
    exact ⟨hsender, hiu⟩
  · exact ⟨⟨rfl, rfl⟩, rfl⟩

theorem State.windowWrite_dead (h : s.live = false) : s.windowWrite q addr bs = s.refuseRun q addr bs.length 4 := by
  simp [State.windowWrite, h]

theorem State.windowWrite_refused (h : s.live = true) {c : BitVec 8} {ws : List Nat}
    (hc : s.writeCause (placeBytes addr bs) = some (c, ws)) :
    s.windowWrite q addr bs = (s.checkedWrite q addr bs).refuseRun q addr bs.length c := by
  rw [State.checkedWrite_refused q hc, ← State.refuseWords_eq]
  simp [State.windowWrite, h, hc]

theorem State.windowWrite_lands (h : s.live = true) (hc : s.writeCause (placeBytes addr bs) = none) :
    s.windowWrite q addr bs = (s.checkedWrite q addr bs).ackRun q addr bs.length := by
  rw [State.checkedWrite_lands q hc]
  simp [State.windowWrite, h, hc]

/-- Only a write that passes its checks changes the scratchpad; none changes a counter. -/
theorem State.windowWrite_iu (s : State) (addr : Nat) (bs : List Byte) : (s.windowWrite q addr bs).iu = s.iu := by
  have hiu := (State.checkedWrite_frame q s addr bs).2
  cases hl : s.live with
  | false => rw [State.windowWrite_dead q hl, onlySent_iu (State.refuseRun_onlySent ..)]
  | true =>
    cases hc : s.writeCause (placeBytes addr bs) with
    | some p => rw [State.windowWrite_refused q hl hc, onlySent_iu (State.refuseRun_onlySent ..), hiu]
    | none => rw [State.windowWrite_lands q hl hc, onlySent_iu (State.ackRun_onlySent ..), hiu]

/-- A refused window leaves the scratchpad, and logs the refusal. -/
theorem State.windowWrite_outside (h : s.live = true) {c : BitVec 8} (hc : s.writeCause (placeBytes addr bs) = some (c, [])) :
    s.windowWrite q addr bs = (s.checkedWrite q addr bs).refuseRun q addr bs.length c ∧ (s.windowWrite q addr bs).spad = s.spad ∧
      logged s (s.windowWrite q addr bs) Code.inboundRefused := by
  have heq := State.windowWrite_refused q h hc
  refine ⟨heq, ?_, ?_⟩
  · rw [heq, onlySent_spad (State.refuseRun_onlySent ..), State.checkedWrite_refused q hc]
    obtain ⟨-, hspad, -⟩ := s.mcastRefused_noticed q.chip q.core c []
    exact hspad
  · rw [heq, State.checkedWrite_refused q hc]
    exact logged_of_keepsCodes (s.mcastRefused_logged c q.chip q.core)
      (keepsCodes_of_err (onlySent_err (State.refuseRun_onlySent ..)))

end

/-- INBOUND_WRITE of one window (R64, R75, R284, R308). -/
theorem inboundWrite_effect (s : State) (q : Requester) (addr : Nat) (bs : List Byte) (hbs : bs ≠ [])
    (hw : addr / 256 = (addr + bs.length - 1) / 256) (hmem : s.memoryOk = true) :
    ∃ t u : State, exec (.inboundWrite q addr bs) s = .next t ∧ (∀ i, t.ec i = s.ec i) ∧
      (s.live = false → t = s.refuseRun q addr bs.length 4) ∧
      (s.live = true → s.allBytes addr bs.length (fun _ _ => true) = false →
        t = u.refuseRun q addr bs.length 1 ∧ t.spad = s.spad ∧ logged s t Code.inboundRefused) ∧
      (s.live = true → s.allBytes addr bs.length (fun _ _ => true) = true →
        s.allBytes addr bs.length (fun g _ => !g.frozen) = false →
        t = u.refuseRun q addr bs.length 3 ∧ t.spad = s.spad ∧ logged s t Code.inboundRefused) ∧
      (s.live = true → s.allBytes addr bs.length (fun _ _ => true) = true →
        s.allBytes addr bs.length (fun g _ => !g.frozen) = true → s.spad.narrow (placeBytes addr bs) ≠ [] →
        t = u.refuseRun q addr bs.length 8 ∧ t.spad.mem = s.spad.mem ∧ logged s t Code.uncorrectable ∧
        ∀ w ∈ s.spad.narrow (placeBytes addr bs), ∀ r, s.locate (8 * w) = some r → (t.region r.1).poisoned r.2 = true) ∧
      (s.live = true → s.allBytes addr bs.length (fun _ _ => true) = true →
        s.allBytes addr bs.length (fun g _ => !g.frozen) = true → s.spad.narrow (placeBytes addr bs) = [] →
        (∀ k, k < bs.length → t.byte (addr + k) = bs.getD k 0) ∧
        (∀ a, ¬ (addr ≤ a ∧ a < addr + bs.length) → t.byte a = s.byte a) ∧
        t = u.ackRun q addr bs.length ∧ u.withSpad s.spad = s) ∧ u.id = s.id ∧ u.fp = s.fp := by
  have hcause := s.writeCause_placeBytes addr bs
  obtain ⟨⟨hid, hfp⟩, -⟩ := State.checkedWrite_frame q s addr bs
  refine ⟨_, s.checkedWrite q addr bs, exec_inboundWrite hbs hw, fun i => State.ec_of_iu (congrArg Iu.ec (s.windowWrite_iu q addr bs)) i,
    State.windowWrite_dead q, fun hl hin => ?_, fun hl hin hfr => ?_, fun hl hin hfr hn => ?_, fun hl hin hfr hn => ?_, hid, hfp⟩
  · exact State.windowWrite_outside q hl (by simpa [hin] using hcause)
  · exact State.windowWrite_outside q hl (by simpa [hin, hfr] using hcause)
  · have hc : s.writeCause (placeBytes addr bs) = some (8, s.spad.narrow (placeBytes addr bs)) := by simpa [hin, hfr, hn] using hcause
    have hsent := State.refuseRun_onlySent (s.checkedWrite q addr bs) q addr bs.length 8
    have hwords := s.mcastRefused_words 8 q.chip q.core hn
    rw [← State.checkedWrite_refused q hc] at hwords
    rw [State.windowWrite_refused q hl hc]
    refine ⟨rfl, ?_, logged_of_keepsCodes hwords.1 (keepsCodes_of_err (onlySent_err hsent)), fun w hw r hr => ?_⟩
    · rw [onlySent_spad hsent, State.checkedWrite_refused q hc]
      obtain ⟨-, hspad, -⟩ := s.mcastRefused_noticed q.chip q.core 8 (s.spad.narrow (placeBytes addr bs))
      exact congrArg Spad.mem hspad
    · exact (keepsPlaces_of_rg (onlySent_rg hsent)).2 _ _ (hwords.2 w hw r hr)
  · have hc : s.writeCause (placeBytes addr bs) = none := by simpa [hin, hfr, hn] using hcause
    have hspad : (s.windowWrite q addr bs).spad = s.spad.write (placeBytes addr bs) := by
      rw [State.windowWrite_lands q hl hc, onlySent_spad (State.ackRun_onlySent ..), State.checkedWrite_lands q hc]
      rfl
    have hbyte := State.byte_of_written (State.mem_wf_of_memoryOk hmem) hn hspad
    refine ⟨fun k hk => ?_, fun a ha => ?_, State.windowWrite_lands q hl hc, ?_⟩
    · rw [hbyte, (lastByte_placeBytes addr bs _).1 k hk]
    · rw [hbyte, (lastByte_placeBytes addr bs _).2 a ha]
    · rw [State.checkedWrite_lands q hc]
      rfl

/-! #### Read requests (R64, R75, R284, R308) -/

theorem exec_readReq {s : State} {q : Requester} {addr len : Nat} (hn : 0 < len) (hw : addr / 256 = (addr + len - 1) / 256)
    (single : List Nat) :
    exec (.readReq q addr ⟨len, single⟩) s = .next ((single.filter fun a => s.live && addr ≤ a && a < addr + len &&
      s.allBytes a 1 (fun r h => !r.poisoned h)).foldl State.corrected (s.windowRead q addr len)) := by
  show Host.Outcome.next (List.foldl State.corrected (s.inboundRead q addr len) _) = _
  simp [State.inboundRead, windowParts_single hn hw]

/-- The state in which a window's read has been checked. -/
def State.checkedRead (s : State) (q : Requester) (addr len : Nat) : State :=
  if s.allBytes addr len (fun _ _ => true) = false then s.mcastRefused q.chip q.core 1 []
  else if s.allBytes addr len (fun r h => !r.poisoned h) = false then s.mcastRefused q.chip q.core 2 []
  else match s.spad.badIn addr len with
    | [] => s
    | ws => s.mcastRefused q.chip q.core 2 ws

section
variable {s : State} (q : Requester) {addr len : Nat}

theorem State.checkedRead_noticed (s : State) (addr len : Nat) : noticed s (s.checkedRead q addr len) := by
  unfold State.checkedRead
  split
  · exact s.mcastRefused_noticed ..
  · split
    · exact s.mcastRefused_noticed ..
    · split
      · exact noticed_refl s
      · exact s.mcastRefused_noticed ..

theorem State.windowRead_dead (h : s.live = false) : s.windowRead q addr len = s.refuseRun q addr len 4 := by
  simp [State.windowRead, h]

/-- A live core answers a window it has checked with its data or a refusal. -/
theorem State.windowRead_onlySent (h : s.live = true) : onlySent (s.checkedRead q addr len) (s.windowRead q addr len) := by
  unfold State.windowRead State.checkedRead
  simp only [h, Bool.not_true, Bool.false_eq_true, if_false, Bool.not_eq_true']
  split
  · exact State.refuseRun_onlySent ..
  · split
    · exact State.refuseRun_onlySent ..
    · cases s.spad.badIn addr len with
      | nil => exact State.dataRun_onlySent ..
      | cons w ws => exact State.refuseRun_onlySent ..

theorem State.windowRead_frame (s : State) (addr len : Nat) :
    (s.windowRead q addr len).spad = s.spad ∧ (s.windowRead q addr len).iu = s.iu := by
  cases hl : s.live with
  | false =>
    have hsent := s.refuseRun_onlySent q addr len 4
    rw [State.windowRead_dead q hl]
    exact ⟨onlySent_spad hsent, onlySent_iu hsent⟩
  | true =>
    have hsent := State.windowRead_onlySent q (addr := addr) (len := len) hl
    obtain ⟨-, hspad, hiu⟩ := State.checkedRead_noticed q s addr len
    exact ⟨(onlySent_spad hsent).trans hspad, (onlySent_iu hsent).trans hiu⟩

theorem State.windowRead_outside (hl : s.live = true) (hin : s.allBytes addr len (fun _ _ => true) = false) :
    s.windowRead q addr len = (s.checkedRead q addr len).refuseRun q addr len 1 ∧
      logged s (s.windowRead q addr len) Code.inboundRefused := by
  have hu : s.checkedRead q addr len = s.mcastRefused q.chip q.core 1 [] := by simp [State.checkedRead, hin]
  have heq : s.windowRead q addr len = (s.mcastRefused q.chip q.core 1 []).refuseRun q addr len 1 := by
    rw [← State.refuseInbound_eq]
    simp [State.windowRead, hl, hin]
  rw [heq, hu]
  exact ⟨rfl, logged_of_keepsCodes (s.mcastRefused_logged 1 q.chip q.core)
    (keepsCodes_of_err (onlySent_err (State.refuseRun_onlySent ..)))⟩

theorem State.windowRead_poisoned (hl : s.live = true) (hin : s.allBytes addr len (fun _ _ => true) = true)
    (hp : s.allBytes addr len (fun r h => !r.poisoned h) = false) :
    s.windowRead q addr len = (s.checkedRead q addr len).refuseRun q addr len 2 ∧
      logged s (s.windowRead q addr len) Code.inboundRefused := by
  have hu : s.checkedRead q addr len = s.mcastRefused q.chip q.core 2 [] := by simp [State.checkedRead, hin, hp]
  have heq : s.windowRead q addr len = (s.mcastRefused q.chip q.core 2 []).refuseRun q addr len 2 := by
    rw [← State.refuseInbound_eq]
    simp [State.windowRead, hl, hin, hp]
  rw [heq, hu]
  exact ⟨rfl, logged_of_keepsCodes (s.mcastRefused_logged 2 q.chip q.core)
    (keepsCodes_of_err (onlySent_err (State.refuseRun_onlySent ..)))⟩

theorem State.windowRead_sound (hl : s.live = true) (hin : s.allBytes addr len (fun _ _ => true) = true)
    (hp : s.allBytes addr len (fun r h => !r.poisoned h) = true) (hb : s.spad.badIn addr len = []) :
    s.windowRead q addr len = s.dataRun q addr len := by
  simp [State.windowRead, hl, hin, hp, hb]

end

/-- READ_REQ of one window without single errors. -/
theorem readReq_effect (s : State) (q : Requester) (addr len : Nat) (hn : 0 < len) (hw : addr / 256 = (addr + len - 1) / 256) :
    ∃ t u : State, exec (.readReq q addr ⟨len, []⟩) s = .next t ∧ t.spad = s.spad ∧ (∀ i, t.ec i = s.ec i) ∧ u.id = s.id ∧
      u.fp = s.fp ∧
      (s.live = false → t = s.refuseRun q addr len 4) ∧
      (s.live = true → s.allBytes addr len (fun _ _ => true) = false →
        t = u.refuseRun q addr len 1 ∧ logged s t Code.inboundRefused) ∧
      (s.live = true → s.allBytes addr len (fun _ _ => true) = true →
        s.allBytes addr len (fun r h => !r.poisoned h) = false →
        t = u.refuseRun q addr len 2 ∧ logged s t Code.inboundRefused) ∧
      (s.live = true → s.allBytes addr len (fun _ _ => true) = true →
        s.allBytes addr len (fun r h => !r.poisoned h) = true → s.spad.badIn addr len = [] → t = s.dataRun q addr len) := by
  obtain ⟨hspad, hiu⟩ := s.windowRead_frame q addr len
  obtain ⟨⟨hid, hfp⟩, -⟩ := s.checkedRead_noticed q addr len
  exact ⟨_, s.checkedRead q addr len, exec_readReq hn hw [], hspad, fun i => State.ec_of_iu (congrArg Iu.ec hiu) i, hid, hfp,
    State.windowRead_dead q, State.windowRead_outside q, State.windowRead_poisoned q, State.windowRead_sound q⟩

/-! #### Single errors that a read corrects (R64) -/

/-- The bank corrects and logs a single error of a word of the scratchpad that is not beyond correction. -/
def State.corrects (s : State) (a : Nat) : Prop := a < s.spadBytes ∧ s.spad.bad.contains (a / 8) = false

theorem onlyNote_refl (s : State) : onlyNote s s := ⟨rfl, id, rfl, rfl⟩

/-- A correction is a notice, or nothing. -/
def correctsOnly (s t : State) : Prop := onlyNote s t ∧ sendsOn s t ∧ keepsCodes s t

theorem correctsOnly_refl (s : State) : correctsOnly s s := ⟨onlyNote_refl s, sendsOn_refl s, keepsCodes_refl s⟩

theorem correctsOnly_trans (a b c : State) (hab : correctsOnly a b) (hbc : correctsOnly b c) : correctsOnly a c := by
  obtain ⟨hnote, hsends, hcodes⟩ := hab
  obtain ⟨hnote', hsends', hcodes'⟩ := hbc
  exact ⟨onlyNote_trans a b c hnote hnote', sendsOn_trans a b c hsends hsends', keepsCodes_trans a b c hcodes hcodes'⟩

theorem State.corrected_correctsOnly (s : State) (a : Nat) : correctsOnly s (s.corrected a) := by
  unfold State.corrected
  split
  · exact correctsOnly_refl s
  · exact ⟨State.note_only .., State.noteFor_sendsOn .., State.noteFor_keepsCodes _⟩

theorem State.foldl_corrected_correctsOnly (l : List Nat) (s : State) : correctsOnly s (l.foldl State.corrected s) :=
  foldl_only correctsOnly correctsOnly_refl correctsOnly_trans _ State.corrected_correctsOnly l s

theorem State.corrected_logged {s : State} {a : Nat} (h : s.corrects a) : logged s (s.corrected a) Code.eccCorrected := by
  unfold State.corrected
  have hbad : a / 8 ∉ s.spad.bad := by simpa using h.2
  rw [if_neg (by simp [h.1, hbad])]
  exact State.noteFor_logged s

theorem State.corrected_skips {s : State} {a : Nat} (h : ¬ s.corrects a) : s.corrected a = s := by
  unfold State.corrected
  rw [if_pos]
  by_contra hne
  simp only [Bool.or_eq_true, decide_eq_true_eq, not_or, Nat.not_le, Bool.not_eq_true] at hne
  exact h hne

/-- One word that is corrected leaves its event in the log, whatever else is corrected before and after it. -/
theorem State.foldl_corrected_logged {l : List Nat} {a : Nat} (ha : a ∈ l) {s : State} (h : s.corrects a) :
    logged s (l.foldl State.corrected s) Code.eccCorrected := by
  induction l generalizing s with
  | nil => cases ha
  | cons b l ih =>
    rw [List.foldl_cons]
    by_cases hb : s.corrects b
    · obtain ⟨-, -, hcodes⟩ := State.foldl_corrected_correctsOnly l (s.corrected b)
      exact logged_of_keepsCodes (State.corrected_logged hb) hcodes
    · rw [State.corrected_skips hb]
      obtain rfl | hl := List.mem_cons.mp ha
      · exact absurd h hb
      · exact ih hl h

theorem allBytes_sub {s : State} {addr len a : Nat} {p : Region → Bool → Bool} (h : s.allBytes addr len p = true) (hlo : addr ≤ a)
    (hhi : a < addr + len) : s.allBytes a 1 p = true := by
  simp only [State.allBytes, List.all_eq_true, List.mem_range] at h ⊢
  intro i hi
  have hbyte := h (a - addr) (by omega)
  rwa [show addr + (a - addr) = a + i by omega] at hbyte

theorem not_bad_of_badIn {sp : Spad} {addr len a : Nat} (h : sp.badIn addr len = []) (hlo : addr ≤ a) (hhi : a < addr + len) :
    sp.bad.contains (a / 8) = false := by
  rw [Spad.badIn, if_neg (by omega), List.filter_eq_nil_iff] at h
  rw [← Bool.not_eq_true, List.contains_iff_mem]
  intro hm
  refine h _ hm ?_
  simp only [Bool.and_eq_true, decide_eq_true_eq]
  omega

/-- READ_REQ of one window that is sound, over single errors. -/
theorem readReq_corrects (s : State) (q : Requester) (addr len a : Nat) (single : List Nat) (hn : 0 < len)
    (hw : addr / 256 = (addr + len - 1) / 256) (hl : s.live = true) (hin : s.allBytes addr len (fun _ _ => true) = true)
    (hp : s.allBytes addr len (fun r h => !r.poisoned h) = true) (hb : s.spad.badIn addr len = []) (ha : a ∈ single) (hlo : addr ≤ a)
    (hhi : a < addr + len) (hsize : a < s.spadBytes) :
    ∃ t more, exec (.readReq q addr ⟨len, single⟩) s = .next t ∧ t.spad = s.spad ∧ t.fp = (s.dataRun q addr len).fp ∧
      t.out = (s.dataRun q addr len).out ++ more ∧ logged s t Code.eccCorrected ∧ t.iu = s.iu ∧ t.rg = s.rg := by
  have hsent := s.dataRun_onlySent q addr len
  have hmem : a ∈ single.filter fun a => s.live && addr ≤ a && a < addr + len && s.allBytes a 1 (fun r h => !r.poisoned h) :=
    List.mem_filter.mpr ⟨ha, by simp [hl, hlo, hhi, allBytes_sub hp hlo hhi]⟩
  have hcorrects : (s.dataRun q addr len).corrects a := by
    have hid : (s.dataRun q addr len).id = s.id := (congrArg State.id hsent :)
    rw [State.corrects, onlySent_spad hsent, State.spadBytes, hid]
    exact ⟨hsize, not_bad_of_badIn hb hlo hhi⟩
  have hrun := exec_readReq (s := s) (q := q) hn hw single
  rw [State.windowRead_sound q hl hin hp hb] at hrun
  have hlog := State.foldl_corrected_logged hmem hcorrects
  obtain ⟨hnote, ⟨more, hmore⟩, -⟩ := State.foldl_corrected_correctsOnly (single.filter fun a =>
    s.live && addr ≤ a && a < addr + len && s.allBytes a 1 (fun r h => !r.poisoned h)) (s.dataRun q addr len)
  refine ⟨_, more, hrun, ?_, (onlyNote_sameSender hnote).2, hmore.symm, ?_, ?_, ?_⟩
  · exact (onlyNote_spad hnote).trans (onlySent_spad hsent)
  · rw [logged, ← onlySent_err hsent]
    exact hlog
  · exact (onlyNote_iu hnote).trans (onlySent_iu hsent)
  · exact (onlyNote_rg hnote).trans (onlySent_rg hsent)

end Sys2Proof.Machine
end

/-! ### The packets that answer an inbound access (O47) -/

section
namespace Sys2Proof.Machine

/-! #### Bytes of units (R5, R311) -/

theorem leNat_lt (bs : List Byte) : leNat bs < 256 ^ bs.length := by
  induction bs with
  | nil => exact Nat.one_pos
  | cons b rest ih =>
    have hb := b.isLt
    rw [leNat, List.length_cons, Nat.pow_succ]
    omega

theorem leBytes_leNat (bs : List Byte) : leBytes (leNat bs) bs.length = bs := by
  induction bs with
  | nil => rfl
  | cons b rest ih =>
    have hb := b.isLt
    have hdiv : (b.toNat + 256 * leNat rest) / 256 = leNat rest := by omega
    have hmod : BitVec.ofNat 8 (b.toNat + 256 * leNat rest) = b := BitVec.eq_of_toNat_eq (by rw [BitVec.toNat_ofNat]; omega)
    rw [leNat, List.length_cons, leBytes, hdiv, ih, hmod]

/-- The sixteen bytes of a unit. -/
theorem leBytes_unitOf {bs : List Byte} (h : bs.length = 16) : leBytes (unitOf bs).toNat 16 = bs := by
  have hlt := leNat_lt bs
  rw [h] at hlt
  have hmod : (unitOf bs).toNat = leNat bs := by
    rw [unitOf, BitVec.toNat_ofNat]
    exact Nat.mod_eq_of_lt (by omega)
  rw [hmod, ← h, leBytes_leNat]

/-- Rows of `n` places, one after another. -/
theorem flatMap_rows {α : Type} (n m : Nat) (f : Nat → α) :
    ((List.range m).flatMap fun k => (List.range n).map fun j => f (n * k + j)) = (List.range (n * m)).map f := by
  induction m with
  | zero => simp
  | succ m ih =>
    rw [List.range_succ, List.flatMap_append, ih, Nat.mul_succ, List.range_add, List.map_append]
    simp

/-- The byte that the data units of a run carry for an address: that of the run, and zero around it. -/
def runByte (rd : Nat → Byte) (start n a : Nat) : Byte := if start ≤ a && a < start + n then rd a else 0

theorem runUnits_eq (rd : Nat → Byte) (start n : Nat) :
    runUnits rd start n = (List.range ((start + n - 1) / 16 - start / 16 + 1)).map fun k =>
      unitOf ((List.range 16).map fun j => runByte rd start n (16 * (start / 16) + (16 * k + j))) := by
  simp only [← Nat.add_assoc, ← Nat.mul_add]
  rfl

theorem bytes_runUnits (rd : Nat → Byte) (start n : Nat) :
    ((runUnits rd start n).flatMap fun u => leBytes u.toNat 16) =
      (List.range (16 * ((start + n - 1) / 16 - start / 16 + 1))).map fun i => runByte rd start n (16 * (start / 16) + i) := by
  have hrow : ∀ k, leBytes (unitOf ((List.range 16).map fun j => runByte rd start n (16 * (start / 16) + (16 * k + j)))).toNat 16 =
      (List.range 16).map fun j => runByte rd start n (16 * (start / 16) + (16 * k + j)) := fun k =>
    leBytes_unitOf (by rw [List.length_map, List.length_range])
  rw [← flatMap_rows, runUnits_eq, List.flatMap_map]
  simp only [hrow]

/-- The bytes of a run, within those that its data units carry. -/
theorem run_of_bytes_runUnits (rd : Nat → Byte) (start n : Nat) :
    (((runUnits rd start n).flatMap fun u => leBytes u.toNat 16).drop (start % 16)).take n =
      (List.range n).map fun i => rd (start + i) := by
  rw [bytes_runUnits]
  apply List.ext_getElem
  · simp only [List.length_take, List.length_drop, List.length_map, List.length_range]
    omega
  · intro i hi _
    have hin : i < n := by
      simp only [List.length_take] at hi
      omega
    have haddr : 16 * (start / 16) + (start % 16 + i) = start + i := by omega
    simp only [List.getElem_take, List.getElem_drop, List.getElem_map, List.getElem_range, haddr, runByte]
    rw [if_pos (by simp [hin])]

/-! #### Headers (R310) -/

/-- The low byte of an address of the chip's space is that of its offset. -/
theorem fld_globalAt (a : W64) (off : Nat) : (fld (globalAt a off) 0 8 : BitVec 8) = BitVec.ofNat 8 off := by
  apply BitVec.eq_of_getLsbD_eq
  intro i hi
  have hmask : (~~~0xFFFFFFFFFF#64 : W64).getLsbD i = false := (by decide : ∀ i < 8, (~~~0xFFFFFFFFFF#64 : W64).getLsbD i = false) i hi
  have hoff : (off % 2 ^ 40).testBit i = off.testBit i := by
    rw [Nat.testBit_mod_two_pow, decide_eq_true (by omega : i < 40), Bool.true_and]
  simp only [fld, globalAt, BitVec.getLsbD_extractLsb', BitVec.getLsbD_or, BitVec.getLsbD_and, Nat.zero_add, hmask,
    BitVec.getLsbD_ofNat, hoff, hi, Bool.and_false, Bool.false_or, decide_true, Bool.true_and, decide_eq_true (by omega : i < 64)]

theorem first_of_run (a : W64) (addr : Nat) : (fld (globalAt a addr) 0 8 : BitVec 8).toNat = addr % 256 := by
  rw [fld_globalAt, BitVec.toNat_ofNat]

theorem last_of_run (a : W64) {addr len : Nat} (hn : 0 < len) :
    ((fld (globalAt a addr) 0 8 : BitVec 8) + BitVec.ofNat 8 (len - 1)).toNat = (addr + len - 1) % 256 := by
  rw [BitVec.toNat_add, first_of_run, BitVec.toNat_ofNat]
  omega

section
variable (s : State) (q : Requester) (addr len : Nat)

/-- A requester on another chip is answered by a packet of agent 13 at the port that leads back to it (R315). -/
theorem State.answer_remote {s : State} {q : Requester} (hchip : q.chip ≠ s.id.chip) (hback : q.back.1 / 8 = s.id.core.toNat)
    {p : Fin 8} (hp : p.1 = q.back.1 % 8) (m : Msg) (us : List FabUnit) :
    s.answer q m us = s.queueUnits p ⟨s.id.core, 13, 0, noDpi, false, us⟩ := by
  obtain rfl : p = ⟨q.back.1 % 8, Nat.mod_lt _ (by decide)⟩ := Fin.ext hp
  unfold State.answer
  rw [if_neg (by simpa using hchip)]
  simp only [State.sendPackets, List.foldl_cons, List.foldl_nil, if_pos hback]

/-- The data packet of a run. -/
def State.dataPacket : List FabUnit :=
  runPacket (s.sender 13) opReadData q.lastw (globalAt s.ownBase addr) len (runUnits s.byte addr len)

theorem headOf_dataPacket :
    headOf ((s.dataPacket q addr len).headD 0) = ⟨opReadData, BitVec.ofNat 5 (runUnits s.byte addr len).length, q.lastw,
      fld (globalAt s.ownBase addr) 8 56, fld (globalAt s.ownBase addr) 0 8,
      fld (globalAt s.ownBase addr) 0 8 + BitVec.ofNat 8 (len - 1), s.id.chip, s.id.core, 13⟩ :=
  headOf_toUnit _

theorem headOf_answer (op : BitVec 4) (first : BitVec 8) :
    headOf (answerHead (s.sender 13) op (s.runHead q.lastw addr len) first) = ⟨op, 0, q.lastw, fld (globalAt s.ownBase addr) 8 56, first,
      fld (globalAt s.ownBase addr) 0 8 + BitVec.ofNat 8 (len - 1), s.id.chip, s.id.core, 13⟩ :=
  headOf_toUnit _

/-- The data packet of a run in one window carries the bytes of the run (R311). -/
theorem packetRun_dataPacket (hn : 0 < len) (hw : addr / 256 = (addr + len - 1) / 256) :
    packetRun (s.dataPacket q addr len) = s.bytes addr len := by
  have hlen : (BitVec.ofNat 5 (runUnits s.byte addr len).length : BitVec 5) ≠ 0#5 := by
    intro h
    have hzero := congrArg BitVec.toNat h
    simp only [runUnits, List.length_map, List.length_range, BitVec.toNat_ofNat] at hzero
    omega
  have hspan : (addr + len - 1) % 256 + 1 - addr % 256 = len := by omega
  have hskip : addr % 256 % 16 = addr % 16 := by omega
  unfold packetRun
  rw [headOf_dataPacket]
  simp only [hlen, if_false, first_of_run, last_of_run _ hn, hspan, hskip]
  exact run_of_bytes_runUnits s.byte addr len

end

/-- How an inbound access is answered, on the chip and off it (R306, R308, R310, R311, R315). -/
theorem answers_effect (s : State) (q : Requester) (addr len : Nat) (cause : BitVec 8) :
    (q.chip = s.id.chip → s.ackRun q addr len = s.emit (.ack q) ∧ s.refuseRun q addr len cause = s.emit (.refuse q cause) ∧
      s.dataRun q addr len = s.emit (.readData q (s.bytes addr len))) ∧
    (q.chip ≠ s.id.chip → q.back.1 / 8 = s.id.core.toNat → 0 < len → addr / 256 = (addr + len - 1) / 256 → addr < 2 ^ 40 →
      ∀ p : Fin 8, p.1 = q.back.1 % 8 → ∃ a r d,
        (s.ackRun q addr len).fp = (s.queueUnits p ⟨s.id.core, 13, 0, noDpi, false, [a]⟩).fp ∧
        (s.refuseRun q addr len cause).fp = (s.queueUnits p ⟨s.id.core, 13, 0, noDpi, false, [r]⟩).fp ∧
        (s.dataRun q addr len).fp = (s.queueUnits p ⟨s.id.core, 13, 0, noDpi, false, d⟩).fp ∧
        (headOf a).op = opAck ∧ (headOf r).op = opRefuse ∧ (headOf r).first = cause ∧ (headOf (d.headD 0)).op = opReadData ∧
        (headOf (d.headD 0)).first.toNat = addr % 256 ∧ packetRun d = s.bytes addr len ∧
        ∀ h ∈ [headOf a, headOf r, headOf (d.headD 0)], h.chip = s.id.chip ∧ h.core = s.id.core ∧ h.agent = 13 ∧
          h.lastw = q.lastw ∧ h.last.toNat = (addr + len - 1) % 256) := by
  refine ⟨fun hc => ⟨State.answer_local hc _ _, State.answer_local hc _ _, State.answer_local hc _ _⟩,
    fun hc hback hn hw _ p hp => ⟨answerHead (s.sender 13) opAck (s.runHead q.lastw addr len) (s.runHead q.lastw addr len).first,
      answerHead (s.sender 13) opRefuse (s.runHead q.lastw addr len) cause, s.dataPacket q addr len,
      congrArg State.fp (State.answer_remote hc hback hp _ _), congrArg State.fp (State.answer_remote hc hback hp _ _),
      congrArg State.fp (State.answer_remote hc hback hp _ _), ?_⟩⟩
  have hlast := last_of_run s.ownBase (addr := addr) hn
  simp only [headOf_answer, headOf_dataPacket, first_of_run, packetRun_dataPacket s q addr len hn hw, List.mem_cons,
    List.not_mem_nil, or_false, forall_eq_or_imp, forall_eq, hlast, and_self]

/-- Settles O47: one window is one part, whose checks decide among the refusals, the data and the landing; the answer's packet is read back
through its header. -/
theorem inbound : Obligations.Inbound :=
  ⟨inboundWrite_effect, readReq_effect, readReq_corrects, answers_effect⟩

end Sys2Proof.Machine
end

/-! ### A STREAM that issues (O24) -/

section
namespace Sys2Proof.Machine

/-! #### What is sent depends on little of the state (R305, R315) -/

section
variable {s u : State} (h : sameOutside s u)
include h

theorem id_of_outside : u.id = s.id := by
  obtain ⟨-, hid, -, -, -⟩ := h
  exact hid

theorem fa_of_outside : u.fa = s.fa := by
  obtain ⟨-, -, -, hfa, -⟩ := h
  exact hfa

theorem State.emit_outside (m : Msg) : sameOutside (s.emit m) (u.emit m) := by
  obtain ⟨hcycle, hid, hfp, hfa, hout⟩ := h
  exact ⟨hcycle, hid, hfp, hfa, congrArg (· ++ [m]) hout⟩

theorem State.queueUnits_outside (p : Fin 8) (q : OutPacket) : sameOutside (s.queueUnits p q) (u.queueUnits p q) := by
  obtain ⟨hcycle, hid, hfp, hfa, hout⟩ := h
  refine ⟨hcycle, hid, ?_, hfa, hout⟩
  show u.fp.set p.1 { u.fp[p.1] with queue := u.fp[p.1].queue ++ [q] } p.2 = _
  rw [hfp]
  rfl

theorem State.foldl_outside {α : Type} {f : State → α → State} (hf : ∀ s u a, sameOutside s u → sameOutside (f s a) (f u a))
    (l : List α) : sameOutside (l.foldl f s) (l.foldl f u) := by
  induction l generalizing s u with
  | nil => exact h
  | cons a l ih => exact ih (hf s u a h)

theorem State.sendPackets_outside (q agent : Nat) (task : Fin 4) (dpi : W64) (ps : List (List FabUnit)) :
    sameOutside (s.sendPackets q agent task dpi ps) (u.sendPackets q agent task dpi ps) := by
  refine State.foldl_outside h (fun v w us hab => ?_) ps
  have hid := id_of_outside hab
  dsimp only
  rw [hid]
  split
  · exact State.queueUnits_outside hab _ _
  · exact State.emit_outside hab _

theorem State.sendRuns_outside (e : Fin 8) (i : Issued) (b : StreamBody) (bs : Bytes) (route : Option Nat) (path : BitVec 2)
    (us : List (Nat × Nat)) : sameOutside (s.sendRuns e i b bs route path us) (u.sendRuns e i b bs route path us) := by
  have hport : ∀ r, u.egressPort r path = s.egressPort r path := fun r =>
    congrArg (fun fa : Fa => routePort (fa.route.get r) path.toNat) (fa_of_outside h)
  have hsender : u.sender e.1 = s.sender e.1 := congrArg (fun id : Ident => Sender.mk id.chip id.core e.1) (id_of_outside h)
  unfold State.sendRuns
  cases route with
  | some r =>
    simp only [hport, hsender]
    exact State.sendPackets_outside h ..
  | none =>
    dsimp only
    split
    · exact h
    · split
      · exact State.emit_outside h _
      · exact State.foldl_outside h (fun _ _ a hab => State.emit_outside hab (.memRead (globalAt b.far a.1) a.2)) us

/-- A multicast goes to the receivers that its group's entry names. -/
theorem State.sendMcast_outside (e : Fin 8) (i : Issued) {b : StreamBody} (bs : Bytes) (seq : BitVec 16)
    (hg : (u.job.group b.group).entry = (s.job.group b.group).entry) :
    sameOutside (s.sendMcast e i b bs seq) (u.sendMcast e i b bs seq) := by
  have hcores : (u.job.group b.group).rxCores = (s.job.group b.group).rxCores := by rw [McastGroup.rxCores, hg]; rfl
  have hremote : (u.job.group b.group).remote = (s.job.group b.group).remote := by rw [McastGroup.remote, hg]; rfl
  have hports : u.mcastPorts (u.job.group b.group) = s.mcastPorts (s.job.group b.group) := by
    rw [State.mcastPorts, McastGroup.mroute, hg, fa_of_outside h]
    rfl
  have hpackets : mcastPackets u e b bs = mcastPackets s e b bs := by
    rw [mcastPackets, State.sender, id_of_outside h]
    rfl
  have hfirst : sameOutside
      (if (s.job.group b.group).rxCores == 0#8 then s else s.emit (mcastMsg b bs (s.job.group b.group).rxCores seq))
      (if (s.job.group b.group).rxCores == 0#8 then u else u.emit (mcastMsg b bs (s.job.group b.group).rxCores seq)) := by
    split
    · exact h
    · exact State.emit_outside h _
  unfold State.sendMcast
  simp only [hcores, hremote, hports, hpackets]
  split
  · exact State.foldl_outside hfirst (fun _ _ q hab =>
      State.sendPackets_outside hab q e.1 i.e.x.task i.e.x.dpi (mcastPackets s e b bs)) _
  · exact hfirst

end

/-- On the chip the runs leave as messages. -/
theorem State.sendRuns_on_chip (s : State) (e : Fin 8) (i : Issued) (b : StreamBody) (bs : Bytes) (path : BitVec 2)
    (us : List (Nat × Nat)) :
    (s.sendRuns e i b bs none path us).fp = s.fp ∧ (s.sendRuns e i b bs none path us).out = s.out ++ (if us = [] then []
      else if b.dir then [.memWrite (bs.filter fun p => us.any fun u => u.1 ≤ p.1 % 2 ^ 40 && p.1 % 2 ^ 40 < u.1 + u.2)]
      else us.map fun u => .memRead (globalAt b.far u.1) u.2) := by
  have hreads : ∀ (l : List (Nat × Nat)) (v : State),
      l.foldl (fun s u => s.emit (.memRead (globalAt b.far u.1) u.2)) v =
        v.withOut (v.out ++ l.map fun u => .memRead (globalAt b.far u.1) u.2) := fun l => by
    induction l with
    | nil => intro v; simp [State.withOut]
    | cons a l ih =>
      intro v
      rw [List.foldl_cons, ih]
      simp [State.emit, State.withOut]
  unfold State.sendRuns
  cases us with
  | nil => simp
  | cons a us =>
    simp only [List.isEmpty_cons, Bool.false_eq_true, if_false, reduceCtorEq]
    split
    · exact ⟨rfl, rfl⟩
    · rw [hreads]
      exact ⟨rfl, rfl⟩

/-- A multicast without receivers on other chips leaves as one message. -/
theorem State.sendMcast_on_chip {s : State} {b : StreamBody} (hr : (s.job.group b.group).remote = false)
    (hc : (s.job.group b.group).rxCores ≠ 0#8) (e : Fin 8) (i : Issued) (bs : Bytes) (seq : BitVec 16) :
    s.sendMcast e i b bs seq = s.emit (mcastMsg b bs (s.job.group b.group).rxCores seq) := by
  unfold State.sendMcast
  simp [hr, hc]

theorem onlyForecasts_of_out {s u t : State} (hu : u.out = s.out) (ht : onlyForecasts u t) : onlyForecasts s t := by
  obtain ⟨ls, hls⟩ := ht
  exact ⟨ls, hu ▸ hls⟩

theorem sentBefore_of_out {s u t : State} {l : List Msg} (hu : u.out = s.out ++ l) (ht : onlyForecasts u t) : sentBefore s t l := by
  obtain ⟨ls, hls⟩ := ht
  exact ⟨ls, by rw [hls, hu, List.append_nil]⟩

theorem State.occupy_outside (s : State) (e : Fin 8) (k : Fin 4) (tr : Transfer) : sameOutside s (s.occupy e k tr) :=
  ⟨rfl, rfl, rfl, rfl, rfl⟩

/-- The group of a multicast that has entered counts it, and loses the notices that it uses up (R297, R299). -/
theorem State.group_occupyMulticast (s : State) (e : Fin 8) (k : Fin 4) (i : Issued) (b : StreamBody) :
    (s.occupyMulticast e k i b).job.group b.group = { s.job.group b.group with
      sent := (s.job.group b.group).sent + 1
      notices := if b.total != 0 then (s.job.group b.group).notices.filter (s.dropsNext b.group)
        else (s.job.group b.group).notices } :=
  (Job.group_setGroup s.job b.group b.group _).trans (if_pos rfl)

theorem State.occupyMulticast_outside (s : State) (e : Fin 8) (k : Fin 4) (i : Issued) (b : StreamBody) :
    sameOutside s (s.occupyMulticast e k i b) := ⟨rfl, rfl, rfl, rfl, rfl⟩

/-! #### The command as it arms (R81, R89) -/

/-- The state in which a STREAM has left its queue. -/
def State.toArm (s : State) (x : Ctx) (h : Header) (b : StreamBody) : State :=
  (s.placed x h (.stream b)).unqueue (s.entryOf x h (.stream b))

/-- The STREAM with its local side resolved. -/
def State.armedAs (s : State) (x : Ctx) (h : Header) (b : StreamBody) : Issued :=
  { s.issuedOf x h (.stream b) with views := [some (streamView (s.toArm x h b) (s.entryOf x h (.stream b)) b)] }

/-- The state in which it has taken the transpose unit that it names. -/
def State.armed (s : State) (x : Ctx) (h : Header) (b : StreamBody) : State :=
  if b.trans then (s.toArm x h b).setTu ((s.toArm x h b).physTu (streamTu b)) (some (x.task, x.dpi)) else s.toArm x h b

/-- The state in which it waits as the shadow of its slot. -/
def State.shadowed (s : State) (x : Ctx) (h : Header) (b : StreamBody) : State :=
  (s.armed x h b).setSlot (s.physSe h) (streamSlot b) { s.slot (s.physSe h) (streamSlot b) with shadow := some (s.armedAs x h b) }

section
variable {s : State} {x : Ctx} {h : Header} {b : StreamBody}

theorem exec_stream (hi : s.issues x h (.stream b) = true) :
    exec (.stream x h b) s = .next ((s.placed x h (.stream b)).follow
      ((s.toArm x h b).armStream (s.entryOf x h (.stream b)) b)) := by
  obtain ⟨-, -, hgo⟩ := State.heading_of_issues hi
  rw [exec_issues rfl hi nofun rfl, State.act, hgo]
  rfl

theorem State.placed_slot (op : Op) (e : Fin 8) (k : Fin 4) : (s.placed x h op).slot e k = s.slot e k := by
  rw [State.placed_eq]
  rfl

theorem State.physSe_of_job {s t : State} (hj : t.job = s.job) (h : Header) : t.physSe h = s.physSe h := by
  simp only [State.physSe, State.phys, hj]

/-- An idle slot has no shadow, or the STREAM would not issue. -/
theorem State.shadow_of_issues (hi : s.issues x h (.stream b) = true) : (s.slot (s.physSe h) (streamSlot b)).shadow = none := by
  obtain ⟨-, -, hgo⟩ := State.heading_of_issues hi
  have hready := (State.checks_of_go hgo).2
  simp only [State.ready, State.entryOf_cmd, Bool.and_eq_true, Option.isNone_iff_eq_none] at hready
  obtain ⟨⟨⟨hshadow, -⟩, -⟩, -⟩ := hready
  rwa [State.placed_slot, State.physSe_of_job (State.placed_job s x h _)] at hshadow

theorem streamRouteFault_placed : streamRouteFault (s.placed x h (.stream b)) b = streamRouteFault s b := by
  rw [State.placed_eq]
  rfl

/-- The route of a STREAM that issues has passed its checks. -/
theorem streamRouteFault_of_issues (hi : s.issues x h (.stream b) = true) : streamRouteFault s b = none := by
  obtain ⟨-, -, hgo⟩ := State.heading_of_issues hi
  have hok := (State.checks_of_go hgo).1
  simp only [State.issueFault, State.entryOf_cmd] at hok
  split at hok
  · cases hok
  · rw [← streamRouteFault_placed (x := x) (h := h)]
    simpa [State.engineFault] using hok

/-- The group of a multicast that stays on the chip has a receiver there (R297). -/
theorem rxCores_of_issues (hi : s.issues x h (.stream b) = true) (hm : b.mcast = true)
    (hr : (s.job.group b.group).remote = false) : (s.job.group b.group).rxCores ≠ 0#8 := by
  have hroute := streamRouteFault_of_issues hi
  intro hzero
  simp [streamRouteFault, hm, hr, hzero, firstFault] at hroute

/-! #### The slot, the shadow or the fault (R64, R81, R299) -/

/-- A version reference leaves a region's bounds and its current half. -/
theorem Region.setRefs_place (g : Region) (a c : Bool) (n : Nat) :
    (g.setRefs a n).halfBase c = g.halfBase c ∧ (g.setRefs a n).physical c = g.physical c := by
  cases a <;> exact ⟨rfl, rfl⟩

theorem streamBase_takeRef (s : State) (r : Option Ref) (e : Entry) (b : StreamBody) :
    streamBase (s.takeRef r) e b = streamBase s e b := by
  cases r with
  | none => rfl
  | some r =>
    have hplace : ∀ c, ((s.takeRef (some r)).region b.region).halfBase c = (s.region b.region).halfBase c ∧
        ((s.takeRef (some r)).region b.region).physical c = (s.region b.region).physical c := fun c => by
      rw [State.takeRef, State.region_setRegion]
      split
      · next hr =>
        rw [hr]
        exact Region.setRefs_place ..
      · exact ⟨rfl, rfl⟩
    simp only [streamBase, streamHalf, (hplace _).1, (hplace _).2]

section
variable (hi : s.issues x h (.stream b) = true)
include hi

theorem State.toArm_rest : ((s.toArm x h b).withRg s.rg).withIu s.iu = s := by
  obtain ⟨hh, -, -⟩ := State.heading_of_issues hi
  obtain ⟨-, hfetch, -, -, -⟩ := State.placed_of_heading hh
  exact State.issuedState_rest hfetch h

theorem State.armed_iu : (s.armed x h b).iu = (s.leftQueue x h (.stream b)).iu := by
  obtain ⟨hh, -, -⟩ := State.heading_of_issues hi
  obtain ⟨-, hfetch, -, -, -⟩ := State.placed_of_heading hh
  have hiu : (s.toArm x h b).iu = (s.leftQueue x h (.stream b)).iu := State.issuedState_iu hfetch h
  unfold State.armed
  split <;> exact hiu

theorem State.armed_spad : (s.armed x h b).spad = s.spad := by
  have hspad : (s.toArm x h b).spad = s.spad := (congrArg State.spad (State.toArm_rest hi) :)
  unfold State.armed
  split <;> exact hspad

theorem State.armed_onlyCopied : onlyCopied s (s.armed x h b) := by
  have hcopied := onlyCopied_of_rest (State.toArm_rest hi)
  unfold State.armed
  split
  · exact onlyCopied_trans hcopied (onlyCopied_withTu _ (s.toArm x h b).spad _)
  · exact hcopied

theorem State.armed_outside : sameOutside s (s.armed x h b) := by
  have hcopied := State.armed_onlyCopied hi
  exact ⟨(congrArg State.cycle hcopied :), (congrArg State.id hcopied :), (congrArg State.fp hcopied :),
    (congrArg State.fa hcopied :), (congrArg State.out hcopied :)⟩

theorem State.armed_job : (s.armed x h b).job = s.job := (congrArg State.job (State.armed_onlyCopied hi) :)

theorem State.armed_slot (e : Fin 8) (k : Fin 4) : (s.armed x h b).slot e k = s.slot e k :=
  State.slot_of_se (congrArg State.se (State.armed_onlyCopied hi) :) e k

theorem noticesDue_armed : (s.armed x h b).noticesDue b = s.noticesDue b :=
  (congrArg (fun v : State => v.noticesDue b) (State.armed_onlyCopied hi) :)

/-- The uncorrectable words that a store meets as it is admitted are those that it covers in the state it was decoded in. -/
theorem storeBad_armed : storeBad (s.armed x h b) (s.armedAs x h b) b =
    storeBad (s.placed x h (.stream b)) { s.issuedOf x h (.stream b) with
      views := [some (streamView (s.placed x h (.stream b)) (s.entryOf x h (.stream b)) b)] } b := by
  have hid : (s.placed x h (.stream b)).id = s.id := by rw [State.placed_eq]; rfl
  have hspad : (s.placed x h (.stream b)).spad = s.spad := by rw [State.placed_eq]; rfl
  simp only [storeBad, State.isOwn, State.armed_spad hi, id_of_outside (State.armed_outside hi), hid, hspad]
  rfl

/-- What a STREAM does when it issues: it waits as a shadow, or it is admitted. -/
theorem State.armStream_eq : (s.toArm x h b).armStream (s.entryOf x h (.stream b)) b =
    if (s.slot (s.physSe h) (streamSlot b)).run.isSome = true ∨ s.noticesDue b = true then s.shadowed x h b
    else (s.armed x h b).admitOrFault (s.physSe h) (streamSlot b) (s.armedAs x h b) b := by
  have hrest := State.toArm_rest hi
  have heng : (s.toArm x h b).physSe h = s.physSe h := State.physSe_of_job (congrArg State.job hrest :) h
  have hslot : ∀ e k, (s.toArm x h b).slot e k = s.slot e k := State.slot_of_se (congrArg State.se hrest :)
  have hdue := noticesDue_armed hi
  unfold State.armed at hdue
  unfold State.armStream
  simp only [State.entryOf_cmd, State.entryOf_x, heng, hslot, hdue]
  cases hrun : (s.slot (s.physSe h) (streamSlot b)).run with
  | none =>
    simp only [Option.isSome_none, Bool.false_eq_true, false_or, State.shadowed, hrun]
    rfl
  | some tr =>
    simp only [Option.isSome_some, true_or, if_true, State.shadowed, hrun]
    rfl

/-! #### What every STREAM leaves as it was (R42, R81) -/

/-- A STREAM that aborts nothing changes its slot, its task and what is sent; no signal lands. -/
theorem stream_frame {t : State} (hiu : t.iu = (s.armed x h b).iu) (hspad : t.spad = (s.armed x h b).spad)
    (hslots : ∀ f q, ¬ (f = s.physSe h ∧ q = streamSlot b) → t.slot f q = s.slot f q) (p : State) :
    (p.follow t).spad = s.spad ∧ (∀ i, (p.follow t).ec i = s.ec i) ∧ samePdSf s (p.follow t) ∧ sameQueues s (p.follow t) x.task ∧
      ∀ f q, ¬ (f = s.physSe h ∧ q = streamSlot b) → (p.follow t).slot f q = s.slot f q := by
  rw [State.armed_iu hi] at hiu
  rw [State.armed_spad hi] at hspad
  refine ⟨(State.follow_spad p t).trans hspad, fun i => ?_, samePdSf_follow ?_ p,
    sameQueues_follow (sameQueues_of_iu hiu (s.leftQueue_sameQueues x h (.stream b))) p,
    fun f q hne => (State.slot_of_se (State.follow_se p t) f q).trans (hslots f q hne)⟩
  · rw [State.ec_follow]
    exact State.ec_of_iu (congrArg Iu.ec hiu :) i
  · rw [samePdSf, hiu]
    exact s.leftQueue_samePdSf x h (.stream b)

/-- A STREAM that waits stands in the shadow of its slot, and nothing leaves (R81, R299). -/
theorem shadowed_effect (p : State) :
    onlyForecasts s (p.follow (s.shadowed x h b)) ∧ (p.follow (s.shadowed x h b)).fp = s.fp ∧
      ((p.follow (s.shadowed x h b)).slot (s.physSe h) (streamSlot b)).run = (s.slot (s.physSe h) (streamSlot b)).run ∧
      ((p.follow (s.shadowed x h b)).slot (s.physSe h) (streamSlot b)).shadow.map (fun i => (i.e.x, i.e.cmd)) =
        some (x, ⟨h, .stream b⟩) := by
  obtain ⟨-, -, hfp, -, hout⟩ := State.armed_outside hi
  have hslot : (p.follow (s.shadowed x h b)).slot (s.physSe h) (streamSlot b) =
      { s.slot (s.physSe h) (streamSlot b) with shadow := some (s.armedAs x h b) } := by
    rw [State.slot_of_se (State.follow_se _ _), State.shadowed, State.slot_setSlot, if_pos ⟨rfl, rfl⟩]
  refine ⟨onlyForecasts_of_out ?_ (p.follow_forecasts _), (State.follow_fp p _).trans hfp, ?_, ?_⟩
  · exact hout
  · rw [hslot]
  · rw [hslot]
    rfl

theorem State.shadowed_frame : (s.shadowed x h b).iu = (s.armed x h b).iu ∧ (s.shadowed x h b).spad = (s.armed x h b).spad ∧
    ∀ f q, ¬ (f = s.physSe h ∧ q = streamSlot b) → (s.shadowed x h b).slot f q = s.slot f q :=
  ⟨rfl, rfl, fun f q hne => by rw [State.shadowed, State.slot_setSlot, if_neg hne, State.armed_slot hi]⟩

/-! #### A transfer that enters its slot (R77, R81, R298, R311) -/

/-- The state in which a STREAM has entered its slot. -/
theorem State.entered_slots (f : Fin 8) (q : Fin 4) :
    ((s.armed x h b).enterSlot (s.physSe h) (streamSlot b) (s.armedAs x h b) b).slot f q =
      if f = s.physSe h ∧ q = streamSlot b then ⟨some ((s.armed x h b).newTransfer (s.armedAs x h b) b), none⟩ else s.slot f q := by
  rw [State.enterSlot_slot, State.armed_slot hi, State.armed_slot hi, State.shadow_of_issues hi]

theorem State.entered_frame :
    let t := (s.armed x h b).enterSlot (s.physSe h) (streamSlot b) (s.armedAs x h b) b
    t.iu = (s.armed x h b).iu ∧ t.spad = (s.armed x h b).spad ∧
      ∀ f q, ¬ (f = s.physSe h ∧ q = streamSlot b) → t.slot f q = s.slot f q :=
  ⟨State.enterSlot_iu .., State.enterSlot_spad .., fun f q hne => by rw [State.entered_slots hi, if_neg hne]⟩

theorem farImage_armed (i : Issued) : farImage (s.armed x h b) i b = farImage s i b := by
  simp only [farImage, storeBytes, State.bytes, State.byte, State.armed_spad hi]

/-- The local side of a STREAM resolves in the state that its version reference was taken in (R68, R248). -/
theorem localBase_armedAs : (s.armedAs x h b).localBase = streamBase s.settleSwaps (s.entryOf x h (.stream b)) b := by
  obtain ⟨hh, -, -⟩ := State.heading_of_issues hi
  obtain ⟨-, hfetch, -, -, -⟩ := State.placed_of_heading hh
  calc (s.armedAs x h b).localBase = streamBase (s.toArm x h b) (s.entryOf x h (.stream b)) b := rfl
    _ = streamBase (s.settleSwaps.takeRef (s.entryOf x h (.stream b)).ref) (s.entryOf x h (.stream b)) b := by
      rw [State.toArm, State.unqueue_placed_withRg hfetch]
      rfl
    _ = _ := streamBase_takeRef ..

theorem State.sentUnits_armed : (s.armed x h b).sentUnits b = s.sentUnits b :=
  (congrArg (fun v : State => v.sentUnits b) (State.armed_onlyCopied hi) :)

theorem State.streamRoute_armed : (s.armed x h b).streamRoute b = s.streamRoute b :=
  (congrArg (fun v : State => v.streamRoute b) (State.armed_onlyCopied hi) :)

theorem State.streamPath_armed : (s.armed x h b).streamPath b = s.streamPath b :=
  (congrArg (fun v : State => v.streamPath b) (State.armed_onlyCopied hi) :)

/-- The transfer to one far side that a STREAM becomes. -/
theorem State.unicast_armed : let tr := (s.armed x h b).unicast (s.armedAs x h b) b
    tr.left = (s.sentUnits b).length ∧ tr.route = s.streamRoute b ∧ tr.path = s.streamPath b ∧
      tr.data = if b.dir && !(s.sentUnits b).isEmpty then farImage s (s.armedAs x h b) b else [] :=
  ⟨congrArg List.length (State.sentUnits_armed hi), State.streamRoute_armed hi, State.streamPath_armed hi, by
    rw [← farImage_armed hi, ← State.sentUnits_armed hi]
    rfl⟩

/-- What a STREAM to one far side has sent when it has entered its slot. -/
theorem unicast_sends (hm : b.mcast = false) :
    sameOutside (s.sendRuns (s.physSe h) (s.armedAs x h b) b ((s.armed x h b).unicast (s.armedAs x h b) b).data (s.streamRoute b)
      (s.streamPath b) (s.sentUnits b)) ((s.armed x h b).enterSlot (s.physSe h) (streamSlot b) (s.armedAs x h b) b) := by
  rw [State.enterSlot_unicast hm, State.sentUnits_armed hi, State.streamRoute_armed hi, State.streamPath_armed hi]
  exact State.sendRuns_outside (sameOutside_trans _ _ _ (State.armed_outside hi) (State.occupy_outside ..)) ..

omit hi in
theorem State.sentUnits_eq : s.sentUnits b = if b.total = 0 ∨ s.isOwn b.far = true then [] else streamUnits s b := by
  simp only [State.sentUnits, Bool.or_eq_true, decide_eq_true_eq]

omit hi in
/-- A transfer that stays on the chip has no route; one that leaves it has the entry that serves its chip (R317). -/
theorem State.streamRoute_eq : (chipOf b.far = s.id.chip → s.streamRoute b = none) ∧
    (b.total ≠ 0 → chipOf b.far ≠ s.id.chip → s.streamRoute b = (s.routeFor (chipOf b.far)).map Prod.fst ∧
      ∀ r, s.streamRoute b = some r → s.streamPath b = s.routeSel r) := by
  refine ⟨fun hc => ?_, fun ht hc => ⟨?_, fun r hr => ?_⟩⟩
  · simp [State.streamRoute, hc]
  · simp [State.streamRoute, ht, hc]
  · simp [State.streamPath, hr]

/-- A STREAM to one far side that enters its slot (R77, R81, R84, R311). -/
theorem unicast_effect (hm : b.mcast = false) (p : State) :
    let t := p.follow ((s.armed x h b).enterSlot (s.physSe h) (streamSlot b) (s.armedAs x h b) b)
    ∃ tr us, t.slot (s.physSe h) (streamSlot b) = ⟨some tr, none⟩ ∧ tr.i.e.x = x ∧ tr.i.e.cmd = ⟨h, .stream b⟩ ∧
      tr.i.localBase = streamBase s.settleSwaps (s.entryOf x h (.stream b)) b ∧
      us = (if b.total = 0 ∨ s.isOwn b.far then [] else streamUnits s b) ∧ tr.left = us.length ∧ tr.reports = 0 ∧
      (chipOf b.far = s.id.chip → tr.route = none) ∧
      (b.total ≠ 0 → chipOf b.far ≠ s.id.chip → tr.route = (s.routeFor (chipOf b.far)).map Prod.fst ∧
        ∀ r, tr.route = some r → tr.path = s.routeSel r) ∧
      tr.data = (if b.dir && !us.isEmpty then farImage s tr.i b else []) ∧
      onlyForecasts (s.sendRuns (s.physSe h) tr.i b tr.data tr.route tr.path us) t ∧
      t.fp = (s.sendRuns (s.physSe h) tr.i b tr.data tr.route tr.path us).fp ∧
      (tr.route = none → t.fp = s.fp ∧ sentBefore s t (if us = [] then []
        else if b.dir then [.memWrite ((farImage s tr.i b).filter fun p =>
          us.any fun u => u.1 ≤ p.1 % 2 ^ 40 && p.1 % 2 ^ 40 < u.1 + u.2)]
        else us.map fun u => .memRead (globalAt b.far u.1) u.2)) := by
  intro t
  obtain ⟨hleft, hroute, hpath, hdata⟩ := State.unicast_armed hi
  obtain ⟨hchip, hfar⟩ := s.streamRoute_eq (b := b)
  obtain ⟨-, -, hfp, -, hout⟩ := unicast_sends hi hm
  have hslot : t.slot (s.physSe h) (streamSlot b) = ⟨some ((s.armed x h b).unicast (s.armedAs x h b) b), none⟩ := by
    rw [State.slot_of_se (State.follow_se p _), State.entered_slots hi, if_pos ⟨rfl, rfl⟩]
    simp [State.newTransfer, hm]
  have hfollow := p.follow_forecasts ((s.armed x h b).enterSlot (s.physSe h) (streamSlot b) (s.armedAs x h b) b)
  rw [← hroute, ← hpath] at hfp hout
  refine ⟨(s.armed x h b).unicast (s.armedAs x h b) b, s.sentUnits b, hslot, rfl, rfl, localBase_armedAs hi, State.sentUnits_eq, hleft,
    rfl, fun hc => hroute.trans (hchip hc), fun ht hc => ?_, hdata, onlyForecasts_of_out hout hfollow,
    (State.follow_fp p _).trans hfp, fun hnone => ?_⟩
  · rw [hroute, hpath]
    exact hfar ht hc
  · rw [hnone] at hfp hout
    obtain ⟨hfp', hout'⟩ := s.sendRuns_on_chip (s.physSe h) (s.armedAs x h b) b ((s.armed x h b).unicast (s.armedAs x h b) b).data
      ((s.armed x h b).unicast (s.armedAs x h b) b).path (s.sentUnits b)
    refine ⟨(State.follow_fp p _).trans (hfp.trans hfp'), sentBefore_of_out ((hout.trans hout').trans ?_) hfollow⟩
    rw [hdata]
    congr 1
    split
    · rfl
    · next hne =>
      split
      · next hdir =>
        have hsends : (b.dir && !(s.sentUnits b).isEmpty) = true := by simp [hdir, hne]
        rw [if_pos hsends]
        rfl
      · rfl

/-- What a multicast has sent when it has entered its slot, and what its group counts. -/
theorem multicast_sends (hm : b.mcast = true) :
    let t := (s.armed x h b).enterSlot (s.physSe h) (streamSlot b) (s.armedAs x h b) b
    sameOutside (if b.total = 0 then s
      else s.sendMcast (s.physSe h) (s.armedAs x h b) b (farImage s (s.armedAs x h b) b) (s.job.group b.group).sent) t ∧
    t.job.group b.group = { s.job.group b.group with
      sent := (s.job.group b.group).sent + 1
      notices := if b.total != 0 then (s.job.group b.group).notices.filter (s.dropsNext b.group)
        else (s.job.group b.group).notices } := by
  intro t
  have hgroup := State.group_occupyMulticast (s.armed x h b) (s.physSe h) (streamSlot b) (s.armedAs x h b) b
  have hdrops : (s.armed x h b).dropsNext b.group = s.dropsNext b.group :=
    (congrArg (fun v : State => v.dropsNext b.group) (State.armed_onlyCopied hi) :)
  rw [State.armed_job hi, hdrops] at hgroup
  have hin := sameOutside_trans _ _ _ (State.armed_outside hi)
    (State.occupyMulticast_outside (s.armed x h b) (s.physSe h) (streamSlot b) (s.armedAs x h b) b)
  have henter : t = _ := State.enterSlot_multicast hm (s.armed x h b) (s.physSe h) (streamSlot b) (s.armedAs x h b)
  rw [farImage_armed hi, State.armed_job hi] at henter
  rw [henter]
  split
  · exact ⟨hin, hgroup⟩
  · exact ⟨State.sendMcast_outside hin _ _ _ _ (congrArg McastGroup.entry hgroup :),
      (congrArg (fun v : State => v.job.group b.group) (State.sendMcast_onlySent ..) :).trans hgroup⟩

/-- A multicast that enters its slot (R297, R298, R299, R306). -/
theorem multicast_effect (hm : b.mcast = true) (p : State) :
    let t := p.follow ((s.armed x h b).enterSlot (s.physSe h) (streamSlot b) (s.armedAs x h b) b)
    ∃ tr, t.slot (s.physSe h) (streamSlot b) = ⟨some tr, none⟩ ∧ tr.i.e.x = x ∧ tr.i.e.cmd = ⟨h, .stream b⟩ ∧
      tr.left = 0 ∧ tr.reports = (if b.total = 0 then 0 else (s.job.group b.group).receivers) ∧
      tr.data = farImage s tr.i b ∧ tr.mseq = (s.job.group b.group).sent ∧
      (t.job.group b.group).sent = (s.job.group b.group).sent + 1 ∧
      (t.job.group b.group).notices = (if b.total = 0 then (s.job.group b.group).notices
        else (s.job.group b.group).notices.filter (s.dropsNext b.group)) ∧
      (b.total = 0 → onlyForecasts s t ∧ t.fp = s.fp) ∧
      (b.total ≠ 0 → onlyForecasts (s.sendMcast (s.physSe h) tr.i b tr.data tr.mseq) t ∧
        t.fp = (s.sendMcast (s.physSe h) tr.i b tr.data tr.mseq).fp ∧
        ((s.job.group b.group).remote = false →
          t.fp = s.fp ∧ sentBefore s t [mcastMsg b tr.data (s.job.group b.group).rxCores tr.mseq])) := by
  intro t
  obtain ⟨⟨-, -, hfp, -, hout⟩, hgroup⟩ := multicast_sends hi hm
  have hslot : t.slot (s.physSe h) (streamSlot b) = ⟨some ((s.armed x h b).multicast (s.armedAs x h b) b), none⟩ := by
    rw [State.slot_of_se (State.follow_se p _), State.entered_slots hi, if_pos ⟨rfl, rfl⟩]
    simp [State.newTransfer, hm]
  have hfollow := p.follow_forecasts ((s.armed x h b).enterSlot (s.physSe h) (streamSlot b) (s.armedAs x h b) b)
  have hjob : t.job.group b.group = _ := (congrArg (fun j : Job => j.group b.group) (State.follow_job p _)).trans hgroup
  have hdata : ((s.armed x h b).multicast (s.armedAs x h b) b).data = farImage s (s.armedAs x h b) b := farImage_armed hi _
  have hseq : ((s.armed x h b).multicast (s.armedAs x h b) b).mseq = (s.job.group b.group).sent :=
    congrArg (fun j : Job => (j.group b.group).sent) (State.armed_job hi)
  refine ⟨(s.armed x h b).multicast (s.armedAs x h b) b, hslot, rfl, rfl, rfl, ?_, hdata, hseq, congrArg McastGroup.sent hjob,
    (congrArg McastGroup.notices hjob).trans ?_, fun hz => ?_, fun hz => ?_⟩
  · exact congrArg (fun j : Job => if b.total = 0 then 0 else (j.group b.group).receivers) (State.armed_job hi)
  · simp
  · rw [if_pos hz] at hfp hout
    exact ⟨onlyForecasts_of_out hout hfollow, (State.follow_fp p _).trans hfp⟩
  · rw [if_neg hz] at hfp hout
    rw [hdata, hseq]
    refine ⟨onlyForecasts_of_out hout hfollow, (State.follow_fp p _).trans hfp, fun hr => ?_⟩
    rw [State.sendMcast_on_chip hr (rxCores_of_issues hi hm hr)] at hfp hout
    exact ⟨(State.follow_fp p _).trans hfp, sentBefore_of_out hout hfollow⟩

/-! #### A store that meets an uncorrectable word (R64) -/

omit hi in
theorem State.armed_task (u : Fin 4) : (s.armed x h b).task u = (s.placed x h (.stream b)).task u := by
  unfold State.armed
  split <;> rfl

/-- The task of a STREAM that issues runs, and its DPI lies below STOP_COUNT. -/
theorem State.armed_abortable : (s.armed x h b).abortable x.task x.dpi = true := by
  obtain ⟨hh, -, -⟩ := State.heading_of_issues hi
  obtain ⟨hmay, -, -, -, -⟩ := State.placed_of_heading hh
  rw [State.abortable_of_task (State.armed_task x.task)]
  simp only [State.mayIssue, State.active, Bool.and_eq_true, Bool.or_eq_true, decide_eq_true_eq] at hmay
  obtain ⟨⟨⟨-, hrun⟩, -⟩, hstop⟩ := hmay
  simp only [State.abortable, Bool.and_eq_true, Bool.or_eq_true, decide_eq_true_eq]
  exact ⟨hrun, hstop.imp_left .inl⟩

omit hi in
/-- A store that meets uncorrectable words is not admitted: its task aborts (R64). -/
theorem State.admitOrFault_faults {s : State} {i : Issued} {b : StreamBody} (hbad : storeBad s i b ≠ []) (e : Fin 8) (k : Fin 4) :
    s.admitOrFault e k i b = (((s.poisonWords (storeBad s i b)).freeTu i).closeRef i.e).abortTaskAt i.e.x.task Code.uncorrectable
      i.e.x.dpi ((slotSite e k).of i.e.cmd.h) (wordDetail (storeBad s i b)) := by
  cases hb : storeBad s i b with
  | nil => exact absurd hb hbad
  | cons w ws => simp only [State.admitOrFault, hb]

/-- The state in which the words that a store met are poisoned, and what it held is released. -/
def State.droppedStore (s : State) (x : Ctx) (h : Header) (b : StreamBody) : State :=
  (((s.armed x h b).poisonWords (storeBad (s.armed x h b) (s.armedAs x h b) b)).freeTu (s.armedAs x h b)).closeRef
    (s.entryOf x h (.stream b))

omit hi in
theorem State.droppedStore_iu : (s.droppedStore x h b).iu = (s.armed x h b).iu ∧ (s.droppedStore x h b).err = (s.armed x h b).err := by
  have hpoison := State.poisonWords_only (s.armed x h b) (storeBad (s.armed x h b) (s.armedAs x h b) b)
  have hfree := State.freeTu_rest ((s.armed x h b).poisonWords (storeBad (s.armed x h b) (s.armedAs x h b) b)) (s.armedAs x h b)
  have hclose := State.closeRef_only (((s.armed x h b).poisonWords (storeBad (s.armed x h b) (s.armedAs x h b) b)).freeTu
    (s.armedAs x h b)) (s.entryOf x h (.stream b))
  exact ⟨(onlyRg_iu hclose).trans ((congrArg State.iu hfree :).trans (onlyRg_iu hpoison)),
    ((congrArg State.err hclose).trans rfl).trans ((congrArg State.err hfree :).trans ((congrArg State.err hpoison).trans rfl))⟩

/-- A store that meets an uncorrectable word as it enters aborts its task. -/
theorem streamBad_effect (hbad : storeBad (s.armed x h b) (s.armedAs x h b) b ≠ []) (p : State) :
    let t := p.follow ((s.armed x h b).admitOrFault (s.physSe h) (streamSlot b) (s.armedAs x h b) b)
    aborted t x.task Code.uncorrectable x.dpi ∧ logged s t Code.uncorrectable ∧ (∀ i, t.ec i = s.ec i) ∧ samePdSf s t := by
  intro t
  obtain ⟨hiu, herr⟩ := State.droppedStore_iu (s := s) (x := x) (h := h) (b := b)
  have habort : (s.droppedStore x h b).abortable x.task x.dpi = true :=
    (State.abortable_of_iu hiu x.task x.dpi).trans (State.armed_abortable hi)
  obtain ⟨hend, hlog, hec, hfiles, -⟩ := State.abortTaskAt_ends habort Code.uncorrectable
    ((slotSite (s.physSe h) (streamSlot b)).of h) (wordDetail (storeBad (s.armed x h b) (s.armedAs x h b) b))
  have ht : t = p.follow ((s.droppedStore x h b).abortTaskAt x.task Code.uncorrectable x.dpi
      ((slotSite (s.physSe h) (streamSlot b)).of h) (wordDetail (storeBad (s.armed x h b) (s.armedAs x h b) b))) :=
    congrArg p.follow (State.admitOrFault_faults hbad _ _)
  have herr' : (s.droppedStore x h b).err = s.err := herr.trans (congrArg State.err (State.armed_onlyCopied hi) :)
  have hiu' := hiu.trans (State.armed_iu hi)
  rw [ht]
  refine ⟨aborted_follow hend p, logged_follow (logged_of_err hlog herr') p, fun i => ?_, samePdSf_follow (samePdSf_trans ?_ hfiles) p⟩
  · rw [State.ec_follow, hec]
    exact State.ec_of_iu (congrArg Iu.ec hiu' :) i
  · rw [samePdSf, hiu']
    exact s.leftQueue_samePdSf x h (.stream b)

end

/-- Settles O24: a STREAM that issues waits as a shadow, enters its slot, or aborts its task, by the slot, the notices that are due and the
words that its store covers. -/
theorem streamArms : Obligations.StreamArms := by
  intro s x h b hi
  have harm := State.armStream_eq hi
  have hadmit := fun hb => State.admitOrFault_admits (s := s.armed x h b) (i := s.armedAs x h b) (b := b) hb (s.physSe h) (streamSlot b)
  refine ⟨_, exec_stream hi, ?_⟩
  dsimp only
  rw [← storeBad_armed hi, harm]
  refine ⟨fun hsound => ?_, fun hwait => ?_, fun hidle hbad hm => ?_, fun hidle hbad hm hdue => ?_, fun hidle hdue hbad => ?_⟩
  · by_cases hwait : (s.slot (s.physSe h) (streamSlot b)).run.isSome = true ∨ s.noticesDue b = true
    · rw [if_pos hwait]
      obtain ⟨hiu, hspad, hslots⟩ := State.shadowed_frame hi
      exact stream_frame hi hiu hspad hslots _
    · have hbad := (or_assoc.mpr hsound).resolve_left hwait
      rw [if_neg hwait, hadmit hbad]
      obtain ⟨hiu, hspad, hslots⟩ := State.entered_frame hi
      exact stream_frame hi hiu hspad hslots _
  · rw [if_pos hwait]
    exact shadowed_effect hi _
  · have hdue : s.noticesDue b = false := by simp [State.noticesDue, hm]
    rw [if_neg (by simp [hidle, hdue]), hadmit hbad]
    exact unicast_effect hi hm _
  · rw [if_neg (by simp [hidle, hdue]), hadmit hbad]
    exact multicast_effect hi hm _
  · rw [if_neg (by simp [hidle, hdue])]
    exact streamBad_effect hi hbad _

end

end Sys2Proof.Machine
end

/-! ### Matrix commands that run to their end (O20) -/

section
namespace Sys2Proof.Machine

/-! #### The issue of a matrix command (R32, R45, R144) -/

theorem Op.mx_cases {op : Op} {b : MxBody} (hmx : op.mx? = some b) :
    op = .mmOs b ∨ op = .mmSt b ∨ op = .mmEw b ∨ op = .mmDrain b := by
  cases op <;> simp_all [Op.mx?]

theorem mxQueue_of_heading {s : State} {x : Ctx} {h : Header} {op : Op} {b : MxBody} (hmx : op.mx? = some b)
    (hh : s.heading x h op = true) : h.q < 8 := by
  obtain ⟨-, -, hhead, -, -⟩ := State.placed_of_heading hh
  have hq : op.queueOk h = true := (queueOk_of_headerFault hhead).1
  obtain rfl | rfl | rfl | rfl := Op.mx_cases hmx <;> simpa [Op.queueOk, Header.q] using hq

theorem not_vxAux_of_mx {op : Op} {b : MxBody} (hmx : op.mx? = some b) (a : AuxBody) : op ≠ .vxAux a := by
  rintro rfl
  simp [Op.mx?] at hmx

/-- A matrix command runs on the partition that its queue and its header name. -/
theorem State.unitOf_of_mxQueue (s : State) {h : Header} (op : Op) (hq : h.q < 8) : s.unitOf ⟨h, op⟩ = .mx (mxArray h) (mxPart h) :=
  if_pos hq

theorem State.placed_unit {s : State} {x : Ctx} {h : Header} {op : Op} {b : MxBody} (hmx : op.mx? = some b)
    (hh : s.heading x h op = true) : (s.placed x h op).unitOf ⟨h, op⟩ = .mx (mxArray h) (mxPart h) :=
  State.unitOf_of_mxQueue _ op (mxQueue_of_heading hmx hh)

/-- A matrix command that issues is carried through as the issue rule's verdict says; ballast of its partition ends and starts again, and
ballast and forecast follow. -/
theorem exec_issues_mx {c : Instr} {s : State} {x : Ctx} {h : Header} {op : Op} {b : MxBody} (hc : programOf c = some (x, h, op))
    (hmx : op.mx? = some b) (hi : s.issues x h op = true) :
    exec c s = .next ((s.placed x h op).follow
      (((s.placed x h op).act (s.entryOf x h op) true (s.entersAtIssue x h op)).reballast ⟨h, op⟩ (.mx (mxArray h) (mxPart h)))) := by
  obtain ⟨hh, hfree, hgo⟩ := State.heading_of_issues hi
  obtain ⟨-, -, -, hhead, hfirst⟩ := State.placed_of_heading hh
  rw [exec_program hc, State.command_of_heading hh (not_vxAux_of_mx hmx), State.goOn_acts hhead hfirst (by simp [hgo]) (fun _ => hfree),
    State.entryOf_x, State.placed_holds, hgo, ← State.placed_unit hmx hh]
  rfl

/-- A matrix command that goes leaves its queue and runs whole. -/
theorem State.act_runs_mx {s : State} {e : Entry} {b : MxBody} (hmx : e.cmd.op.mx? = some b) (hgo : s.verdict e true = .go)
    (enters : Bool) : s.act e true enters = (s.unqueue e).runWhole e := by
  unfold State.act
  rw [hgo]
  obtain hop | hop | hop | hop := Op.mx_cases hmx <;> simp [State.atIssue, hop]

theorem Iu.onUnit_eq_busy (x : Iu) (u : UnitId) : x.onUnit u = x.busy.filter fun q => q.1 == u := by
  rw [Iu.busy, List.filter_filter]
  rfl

/-- The command that issues finds no other one on its unit (R45). -/
theorem State.unitIdle_of_ready {s : State} {e : Entry} {b : MxBody} (hmx : e.cmd.op.mx? = some b) (hr : s.ready e true = true) :
    s.iu.onUnit (s.unitOf e.cmd) = [] := by
  have hfree : s.stageFree (s.unitOf e.cmd) true = true := by
    obtain hop | hop | hop | hop := Op.mx_cases hmx
    all_goals
      simp only [State.ready, hop, Bool.and_eq_true] at hr
      obtain ⟨⟨⟨⟨⟨hfree, -⟩, -⟩, -⟩, -⟩, -⟩ := hr
      exact hfree
  simp only [State.stageFree, Bool.and_eq_true, Bool.not_eq_true', Bool.not_true, Bool.false_or, List.any_eq_false] at hfree
  rw [Iu.onUnit_eq_busy, List.filter_eq_nil_iff]
  exact hfree.2

/-! #### What a matrix command leaves unchanged -/

/-- The state with the scratchpad, the arrays, the Almanac, the job, the regions and the issue unit of another. -/
def State.withWorkOf (t s : State) : State :=
  { t with spad := s.spad, mx := s.mx, alm := s.alm, job := s.job, rg := s.rg, iu := s.iu }

/-- At most the scratchpad, the arrays, the Almanac, the job, the regions, the issue unit and what Equinox follows with differ. -/
def onlyWorked (s t : State) : Prop := upToPower s (t.withWorkOf s)

theorem upToPower_withWorkOf {a b : State} (h : upToPower a b) (s : State) : upToPower (a.withWorkOf s) (b.withWorkOf s) := by
  obtain ⟨hout, heq, hrest⟩ := h
  exact ⟨hout, heq, congrArg (State.withWorkOf · s) hrest⟩

theorem onlyWorked_trans {a b c : State} (hab : onlyWorked a b) (hbc : onlyWorked b c) : onlyWorked a c :=
  upToPower_trans _ _ _ hab (upToPower_withWorkOf hbc a)

theorem onlyWorked_of_work {s t : State} (h : t.withWorkOf s = s) : onlyWorked s t := by
  rw [onlyWorked, h]
  exact upToPower_refl s

theorem onlyWorked_of_power {s t : State} (h : upToPower s t) : onlyWorked s t := upToPower_withWorkOf h s

theorem onlyWorked_of_rest {s t : State} (h : (t.withRg s.rg).withIu s.iu = s) : onlyWorked s t :=
  onlyWorked_of_work (congrArg (State.withWorkOf · s) h :)

/-- Such a change leaves the surround and the vector units as they were. -/
theorem surround_of_onlyWorked {s t : State} (h : onlyWorked s t) : sameSurround s t ∧ t.vx = s.vx ∧ t.cu = s.cu := by
  obtain ⟨hsur, -, hvx, hcu, -⟩ := surround_of_onlyCopied (onlyCopied_of_rest (s := s) (t := s) rfl) h
  exact ⟨hsur, hvx, hcu⟩

/-- Noting the logical array changes the job, and the ballast of a folded array that changes hands (R54). -/
theorem State.noteArray_power (s : State) (u : UnitId) : upToPower s ((s.noteArray u).withJob s.job) := by
  unfold State.noteArray
  split
  · dsimp only
    split
    · exact upToPower_refl s
    · exact s.dropBallast_upToPower _
  · exact upToPower_refl s

theorem State.noteArray_fields (s : State) (u : UnitId) :
    (s.noteArray u).iu = s.iu ∧ (s.noteArray u).spad = s.spad ∧ (s.noteArray u).mx = s.mx ∧ (s.noteArray u).alm = s.alm := by
  obtain ⟨-, -, hrest⟩ := s.noteArray_power u
  exact ⟨(congrArg State.iu hrest :), (congrArg State.spad hrest :), (congrArg State.mx hrest :), (congrArg State.alm hrest :)⟩

theorem State.reballast_power (s : State) (c : Cmd) (u : UnitId) : upToPower s (s.reballast c u) := by
  unfold State.reballast
  split
  · exact upToPower_trans _ _ _ (s.dropBallast_upToPower _) (State.startBallast_upToPower _ u)
  · exact upToPower_refl s

/-! #### What Assay folds (R112, R117) -/

/-- Only the Almanac differs, and in it no entry. -/
def onlyAssayed (s t : State) : Prop := t = s.withAlm t.alm ∧ sameEntries s t

theorem onlyAssayed_refl (s : State) : onlyAssayed s s := ⟨rfl, rfl⟩

theorem onlyAssayed_trans (a b c : State) (hab : onlyAssayed a b) (hbc : onlyAssayed b c) : onlyAssayed a c := by
  obtain ⟨hb, heb⟩ := hab
  obtain ⟨hc, hec⟩ := hbc
  refine ⟨?_, hec.trans heb⟩
  rw [hc, hb]
  rfl

theorem State.updateRec_onlyAssayed (s : State) (tensor : W32) (f : TensorRec → TensorRec) :
    onlyAssayed s (s.withAlm (s.alm.updateRec tensor f)) := by
  refine ⟨rfl, ?_⟩
  unfold sameEntries Alm.updateRec
  simp only [State.withAlm_alm]
  split
  · rw [List.map_map]
    refine List.map_congr_left fun e _ => ?_
    simp only [Function.comp_apply]
    split <;> rfl
  · rfl

theorem State.queueTile_onlyAssayed (s : State) (r : BitVec 1536) : onlyAssayed s (s.queueTile r).1 := by
  unfold State.queueTile
  dsimp only
  split
  · exact ⟨rfl, rfl⟩
  · exact onlyAssayed_refl s

theorem State.assay_onlyAssayed (s : State) (dpi : W64) (h : Header) (source : BitVec 8) (v : RView) (pre : Int) (os : List Obs)
    (empty : List Nat) : onlyAssayed s (s.assay dpi h source v pre os empty) := by
  unfold State.assay
  extract_lets entry s1 bad _ s2
  have h2 : onlyAssayed s s2 := by
    refine onlyAssayed_trans _ s1 _ (s.updateRec_onlyAssayed _ _) ?_
    unfold s2 entry
    split
    · split
      · exact ⟨rfl, rfl⟩
      · exact onlyAssayed_refl s1
    · exact onlyAssayed_refl s1
  clear_value s2
  unfold entry
  split
  · split
    · refine onlyAssayed_trans _ s2 _ h2 (foldl_only onlyAssayed onlyAssayed_refl onlyAssayed_trans _ (fun s k => ?_) _ s2)
      dsimp only
      split
      · exact onlyAssayed_trans _ _ _ (s.queueTile_onlyAssayed _) (State.updateRec_onlyAssayed _ _ _)
      · exact s.queueTile_onlyAssayed _
    · exact h2
  · exact h2

theorem State.foldSeen_onlyAssayed (s : State) (i : Issued) (u : UnitId) (l : List Seen) : onlyAssayed s (s.foldSeen i u l) :=
  foldl_only onlyAssayed onlyAssayed_refl onlyAssayed_trans _ (fun s _ => s.assay_onlyAssayed _ _ _ _ _ _ _) l s

theorem onlyWorked_of_assayed {s t : State} (h : onlyAssayed s t) : onlyWorked s t := by
  refine onlyWorked_of_work ?_
  rw [h.1]
  rfl

/-! #### What a matrix command computes (R166 to R175) -/

/-- The array that a matrix command computes on changes, and nothing else before its bytes land. -/
theorem mxRun_onlyMx (s : State) (i : Issued) (b : MxBody) : onlyMx s (mxRun s i b).s := by
  unfold mxRun
  extract_lets h n p a close e v2 d s1
  split
  · exact onlyMx_refl s
  · split
    · rfl
    · unfold v2
      split <;> rfl

theorem State.runOf_mx {s : State} {i : Issued} {b : MxBody} (hmx : i.e.cmd.op.mx? = some b) : s.runOf i = mxRun s i b := by
  obtain hop | hop | hop | hop := Op.mx_cases hmx <;> simp [State.runOf, hop]

theorem mxRun_empty (s : State) (i : Issued) {b : MxBody} (h : mxNonEmpty b = false) : mxRun s i b = Run.none_ s := by
  unfold mxRun
  rw [h]
  rfl

theorem mxRun_array_ne (s : State) (i : Issued) (b : MxBody) {n : Fin 4} (hn : n ≠ mxArray i.e.cmd.h) :
    (mxRun s i b).s.array n = s.array n := by
  unfold mxRun
  extract_lets h n' p a close e v2 d s1
  have hset : ∀ a : Array_, (s.setArray n' a).array n = s.array n := fun a => by
    rw [State.array_setArray, if_neg hn]
  split
  · rfl
  · split
    · exact hset _
    · unfold v2
      split <;> exact hset _

/-! #### Completion (R42, R55, R64) -/

/-- The bytes of a matrix command land, Assay folds what it saw, and it closes. -/
theorem State.finishCmd_mx {s : State} {i : Issued} {b : MxBody} (hmx : i.e.cmd.op.mx? = some b) (u : UnitId)
    (hdata : s.dataFault i = none) (hn : s.spad.narrow (s.runOf i).bytes = []) (hpeer : (s.runOf i).peer = []) :
    s.finishCmd u i = ((s.runOf i).land.foldSeen i u (s.runOf i).seen).closeCmd i := by
  have hwords : s.quietWords i = [] := by
    obtain hop | hop | hop | hop := Op.mx_cases hmx <;> simp [State.quietWords, hop, Op.vx?]
  have hfree : ∀ t : State, t.freeTu i = t := fun t => by
    obtain hop | hop | hop | hop := Op.mx_cases hmx <;> simp [State.freeTu, hop]
  unfold State.finishCmd
  simp only [hdata, hn, hwords, hpeer, hfree, List.isEmpty_nil, if_true]
  rfl

/-- The state in which the bytes of a matrix command have landed and Assay has folded what it saw. -/
def State.computed (s : State) (x : Ctx) (h : Header) (op : Op) : State :=
  (s.runNow x h op).land.foldSeen (s.startedOf x h op) (.mx (mxArray h) (mxPart h)) (s.runNow x h op).seen

/-- The state in which a matrix command has closed. -/
def State.closed (s : State) (x : Ctx) (h : Header) (op : Op) : State := (s.computed x h op).closeCmd (s.startedOf x h op)

/-- Starting a command changes no field but whether its companion plane was EMPTY (R222). -/
theorem State.begin_shape (s : State) (i : Issued) : ∃ f, s.begin_ i = { i with fresh := f } := by
  unfold State.begin_
  split
  · exact ⟨_, rfl⟩
  · exact ⟨i.fresh, rfl⟩

theorem State.startedOf_e (s : State) (x : Ctx) (h : Header) (op : Op) : (s.startedOf x h op).e = s.entryOf x h op := by
  obtain ⟨f, hf⟩ := (s.begun x h op).begin_shape (s.issuedOf x h op)
  rw [State.startedOf, hf]
  rfl

section
variable {s : State} {x : Ctx} {h : Header} {op : Op} {b : MxBody} (hmx : op.mx? = some b)
include hmx

theorem State.runNow_mx : s.runNow x h op = mxRun (s.begun x h op) (s.startedOf x h op) b :=
  State.runOf_mx (by rw [State.startedOf_e]; exact hmx)

/-- A matrix command whose checks pass and whose data are sound completes in the step that issues it. -/
theorem exec_completes_mx {c : Instr} (hc : programOf c = some (x, h, op)) (hx : s.completes x h op = true) :
    exec c s = .next ((s.placed x h op).follow ((s.closed x h op).reballast ⟨h, op⟩ (.mx (mxArray h) (mxPart h)))) := by
  simp only [State.completes, State.finishes, Bool.and_eq_true, Option.isNone_iff_eq_none, List.isEmpty_iff] at hx
  obtain ⟨⟨⟨⟨hi, hstart⟩, hdata⟩, hn⟩, hpeer⟩ := hx
  obtain ⟨hh, -, hgo⟩ := State.heading_of_issues hi
  have hwhole : ((s.placed x h op).unqueue (s.entryOf x h op)).runWhole (s.entryOf x h op) =
      (s.begun x h op).finishCmd ((s.placed x h op).unitOf ⟨h, op⟩) (s.startedOf x h op) := by
    have hnone : (((s.placed x h op).unqueue (s.entryOf x h op)).noteArray
        (((s.placed x h op).unqueue (s.entryOf x h op)).unitOf (s.entryOf x h op).cmd)).startFault
        (((s.placed x h op).unqueue (s.entryOf x h op)).issued (s.entryOf x h op)) = none := hstart
    unfold State.runWhole
    simp only [hnone]
    rfl
  have hmx' : (s.startedOf x h op).e.cmd.op.mx? = some b := by rw [State.startedOf_e]; exact hmx
  rw [exec_issues_mx hc hmx hi, State.act_runs_mx (e := s.entryOf x h op) hmx hgo, hwhole, State.placed_unit hmx hh,
    State.finishCmd_mx hmx' _ hdata hn hpeer]
  rfl

end

/-! #### The frame of a matrix command that completes -/

section
variable {s : State} {x : Ctx} {h : Header} {op : Op} (hh : s.heading x h op = true)
include hh

/-- The command begins with the arrays, the scratchpad and the Almanac as they stand, out of its queue. -/
theorem State.begun_onlyWorked : onlyWorked s (s.begun x h op) := by
  obtain ⟨-, hfetch, -, -, -⟩ := State.placed_of_heading hh
  refine onlyWorked_trans (onlyWorked_of_rest (State.issuedState_rest hfetch h)) ?_
  have hpower := State.noteArray_power ((s.placed x h op).unqueue (s.entryOf x h op)) ((s.placed x h op).unitOf ⟨h, op⟩)
  exact upToPower_withWorkOf hpower ((s.placed x h op).unqueue (s.entryOf x h op))

theorem State.begun_fields : (s.begun x h op).iu = (s.leftQueue x h op).iu ∧ (s.begun x h op).spad = s.spad ∧
    (s.begun x h op).mx = s.mx ∧ (s.begun x h op).alm = s.alm := by
  obtain ⟨-, hfetch, -, -, -⟩ := State.placed_of_heading hh
  have hrest := State.issuedState_rest hfetch h
  obtain ⟨hiu, hspad, hmx, halm⟩ := State.noteArray_fields ((s.placed x h op).unqueue (s.entryOf x h op))
    ((s.placed x h op).unitOf ⟨h, op⟩)
  exact ⟨hiu.trans (State.issuedState_iu hfetch h), hspad.trans (congrArg State.spad hrest :), hmx.trans (congrArg State.mx hrest :),
    halm.trans (congrArg State.alm hrest :)⟩

end

section
variable {s : State} {x : Ctx} {h : Header} {op : Op} {b : MxBody} (hmx : op.mx? = some b)
include hmx

theorem State.runNow_onlyMx : onlyMx (s.begun x h op) (s.runNow x h op).s := by
  rw [State.runNow_mx hmx]
  exact mxRun_onlyMx _ _ _

/-- The parts of the state that a matrix command has computed. -/
theorem State.computed_fields (hh : s.heading x h op = true) : (s.computed x h op).iu = (s.leftQueue x h op).iu ∧
    (s.computed x h op).spad = s.spad.write (s.runNow x h op).bytes ∧ (s.computed x h op).mx = (s.runNow x h op).s.mx ∧
    sameEntries s (s.computed x h op) := by
  obtain ⟨hiu, hspad, -, halm⟩ := State.begun_fields hh
  have hrun : (s.runNow x h op).s = (s.begun x h op).withMx (s.runNow x h op).s.mx := State.runNow_onlyMx hmx
  obtain ⟨hfold, hentries⟩ := (s.runNow x h op).land.foldSeen_onlyAssayed (s.startedOf x h op) (.mx (mxArray h) (mxPart h))
    (s.runNow x h op).seen
  refine ⟨?_, ?_, (congrArg State.mx hfold :), ?_⟩
  · exact (congrArg State.iu hfold :).trans ((congrArg State.iu hrun :).trans hiu)
  · rw [← hspad]
    exact (congrArg State.spad hfold :).trans (congrArg (fun v : State => v.spad.write (s.runNow x h op).bytes) hrun :)
  · have hland : (s.runNow x h op).land.alm = s.alm := (congrArg State.alm hrun :).trans halm
    rw [sameEntries, ← hland]
    exact hentries

theorem State.computed_onlyWorked (hh : s.heading x h op = true) : onlyWorked s (s.computed x h op) := by
  have hrun : (s.runNow x h op).s = (s.begun x h op).withMx (s.runNow x h op).s.mx := State.runNow_onlyMx hmx
  have hland : onlyWorked (s.begun x h op) (s.runNow x h op).land := by
    refine onlyWorked_of_work ?_
    rw [Run.land, hrun]
    rfl
  exact onlyWorked_trans (State.begun_onlyWorked hh) (onlyWorked_trans hland (onlyWorked_of_assayed (State.foldSeen_onlyAssayed _ _ _ _)))

/-- A matrix command that completes writes its bytes and lands its signals; besides the array that it computed on, only Assay's records,
the job and Equinox follow it (R42, R112, R170). -/
theorem mx_effect {c : Instr} (hc : programOf c = some (x, h, op)) (hx : s.completes x h op = true) (hmem : s.memoryOk = true) :
    ∃ t, exec c s = .next t ∧ landed s t x h op ∧ samePdSf s t ∧ sameSurround s t ∧ t.vx = s.vx ∧ t.cu = s.cu ∧ sameEntries s t ∧
      t.mx = (s.runNow x h op).s.mx := by
  have hexec := exec_completes_mx hmx hc hx
  simp only [State.completes, State.finishes, Bool.and_eq_true, List.isEmpty_iff] at hx
  obtain ⟨⟨⟨⟨hi, -⟩, -⟩, hn⟩, -⟩ := hx
  obtain ⟨hh, -, -⟩ := State.heading_of_issues hi
  obtain ⟨hiu, hspad, hmxs, hentries⟩ := State.computed_fields hmx hh
  rw [(State.begun_fields hh).2.1] at hn
  have hclose := State.closeCmd_rest (s.computed x h op) (s.startedOf x h op)
  have hpower : upToPower (s.closed x h op)
      ((s.placed x h op).follow ((s.closed x h op).reballast ⟨h, op⟩ (.mx (mxArray h) (mxPart h)))) :=
    upToPower_trans _ _ _ (State.reballast_power _ _ _) (State.follow_upToPower _ _)
  generalize (s.placed x h op).follow ((s.closed x h op).reballast ⟨h, op⟩ (.mx (mxArray h) (mxPart h))) = t at hexec hpower
  obtain ⟨htiu, htspad, htmx⟩ := upToPower_frame hpower
  have htalm : t.alm = (s.closed x h op).alm := (congrArg State.alm hpower.2.2 :)
  obtain ⟨hsur, hvx, hcu⟩ := surround_of_onlyWorked (onlyWorked_trans (State.computed_onlyWorked hmx hh)
    (onlyWorked_trans (onlyWorked_of_rest hclose) (onlyWorked_of_power hpower)))
  refine ⟨t, hexec, ⟨?_, fun j => ?_, ?_⟩, ?_, hsur, hvx, hcu, ?_, ?_⟩
  · exact State.byte_of_written (State.mem_wf_of_memoryOk hmem) hn (htspad.trans ((congrArg State.spad hclose :).trans hspad))
  · have hentry := s.startedOf_e x h op
    rw [State.ec_of_iu (congrArg Iu.ec htiu), State.closed, State.ec_closeCmd, State.ec_of_iu (congrArg Iu.ec hiu :), hentry]
    rfl
  · exact sameQueues_of_iu htiu (sameQueues_trans (sameQueues_of_iu hiu (s.leftQueue_sameQueues x h op))
      (State.closeCmd_sameQueues _ _ x.task))
  · have hfiles : samePdSf s (s.computed x h op) := by
      rw [samePdSf, hiu]
      exact s.leftQueue_samePdSf x h op
    have hclosed := samePdSf_trans hfiles (State.closeCmd_samePdSf (s.computed x h op) (s.startedOf x h op))
    rw [samePdSf, htiu]
    exact hclosed
  · have halm : t.alm = (s.computed x h op).alm := htalm.trans (congrArg State.alm hclose :)
    rw [sameEntries, halm]
    exact hentries
  · exact htmx.trans ((congrArg State.mx hclose :).trans hmxs)

end

end Sys2Proof.Machine
end

/-! ### MM_DRAIN (O20) -/

section
namespace Sys2Proof.Machine

/-! #### Planes and partitions of an array (R131, R133, R148) -/

theorem Array_.plane_setPlane_other (a : Array_) (pl : Bool) (m : Store 40) : (a.setPlane (!pl) m).plane pl = a.plane pl := by
  cases pl <;> rfl

theorem Array_.plane_setSt (a : Array_) (r : Bool) (m : Store 32) (pl : Bool) : (a.setSt r m).plane pl = a.plane pl := by
  cases r <;> rfl

theorem Array_.part_setPart (a : Array_) (p : Fin 4) (k : Part) : (a.setPart p k).part p = k := by
  simp [Array_.setPart, Array_.part]

theorem Part.plane_setPlane (k : Part) (pl : Bool) (x : PlaneState) : (k.setPlane pl x).plane pl = x := by
  cases pl <;> rfl

/-- A command has ended on a plane and leaves it in a state (R133). -/
def Array_.endPlane (a : Array_) (p : Fin 4) (pl : Bool) (x : PlaneState) : Array_ := a.setPart p ((a.part p).setPlane pl x)

theorem Array_.endPlane_state (a : Array_) (p : Fin 4) (pl : Bool) (x : PlaneState) : ((a.endPlane p pl x).part p).plane pl = x := by
  rw [Array_.endPlane, Array_.part_setPart, Part.plane_setPlane]

theorem Drain.plane_writeReg (d : Drain) (a : Array_) (vals : List (Nat × List (Nat × Num))) (pl : Bool) :
    (d.writeReg a vals).plane pl = a.plane pl := Array_.plane_setSt a d.i.rreg _ pl

/-- Every drain leaves the words of the plane that it drains: ATTN_FWD writes its companion, it and the parts of ATTN_BWD a register
(R170, R221, R222, R225). -/
theorem plane_drainOf (fuse : Nat) (d : Drain) : (drainOf fuse d).a.plane d.p.plane = d.a.plane d.p.plane := by
  unfold drainOf
  split
  case h_5 => exact (d.plane_writeReg _ _ _).trans (Array_.plane_setPlane_other d.a d.p.plane _)
  case h_8 => exact d.plane_writeReg _ _ _
  case h_9 => exact d.plane_writeReg _ _ _
  all_goals rfl

/-! #### A matrix command that drains (R133, R170, R173) -/

/-- What the drain of a matrix command reads. -/
def mxDrain (s : State) (i : Issued) (b : MxBody) : Drain :=
  ⟨s, i, b.p, (mxExtent i.e.cmd.op).1, (mxExtent i.e.cmd.op).2, geom (mxStepped s i b).mode (mxPart i.e.cmd.h).1, mxPart i.e.cmd.h,
    mxStepped s i b, viewAt i.views 2⟩

/-- What the drain of a matrix command writes. -/
def mxDrained (s : State) (i : Issued) (b : MxBody) : Drained := drainOf i.e.cmd.h.fuse.toNat (mxDrain s i b)

section
variable {s : State} {i : Issued} {b : MxBody} (hne : mxNonEmpty b = true) (hhold : b.p.hold = false)
  (hwrites : mxNoWrite i.e.cmd b = false)
include hne hhold hwrites

/-- A command alone on its partition leaves the plane that it has drained EMPTY. -/
theorem mxRun_drains (hfree : s.planeTaken i b = false) : (mxRun s i b).s = s.setArray (mxArray i.e.cmd.h)
    ((mxDrained s i b).a.endPlane (mxPart i.e.cmd.h) b.p.plane .empty) := by
  unfold mxRun
  simp only [hne, hhold, hwrites, hfree, mxEnd, Bool.not_true, Bool.or_self, Bool.false_eq_true, if_false]
  split <;> rfl

theorem mxRun_drain_bytes {v : RView} (hv : viewAt i.views 2 = some v) :
    (mxRun s i b).bytes = (writeRows s v b.p.cvt (v.q + (mxDrained s i b).pre) (mxDrained s i b).rows).1 ++ (mxDrained s i b).bytes := by
  unfold mxRun
  simp only [hne, hhold, hwrites, hv, Bool.not_true, Bool.or_self, Bool.false_eq_true, if_false]
  rw [mxDrained, mxDrain, hv]

end

/-! #### Converted elements of an unblocked format (R98 to R100) -/

/-- The conversion of a value into element [r, c] of an output view. -/
def State.convAt (s : State) (v : RView) (cvt : BitVec 8) (pre : Int) (r c : Nat) (y : Num) : Conv :=
  v.format.convElem (cvtMode cvt) (cvtOvf cvt) (srDraw (s.srKey v) cvt r c) (y.scale pre)

theorem writeRows_bytes (s : State) (v : RView) (cvt : BitVec 8) (pre : Int) (rows : List (Nat × List (Nat × Num))) :
    (writeRows s v cvt pre rows).1 = rows.flatMap fun row => (writeRow s v cvt pre row.1 row.2).1 := by
  suffices h : ∀ acc : Bytes × List Obs, (rows.foldl (fun acc p =>
      let w := writeRow s v cvt pre p.1 p.2; (acc.1 ++ w.1, acc.2 ++ w.2)) acc).1 =
      acc.1 ++ rows.flatMap fun row => (writeRow s v cvt pre row.1 row.2).1 from h ([], [])
  induction rows with
  | nil => simp
  | cons row rows ih =>
    intro acc
    rw [List.foldl_cons, ih]
    simp

theorem length_leBytes (v n : Nat) : (leBytes v n).length = n := by
  induction n generalizing v with
  | zero => rfl
  | succ n ih => rw [leBytes, List.length_cons, ih]

section
variable {s : State} {v : RView} {cvt : BitVec 8} {pre : Int} {rows : List (Nat × List (Nat × Num))} (hb : v.format.blocked = false)
include hb

theorem mem_writeRows {addr : Nat} {w : Byte} : (addr, w) ∈ (writeRows s v cvt pre rows).1 ↔ ∃ row ∈ rows, ∃ q ∈ row.2, ∃ k,
    (leBytes (s.convAt v cvt pre row.1 q.1 q.2).bits (v.format.bits / 8))[k]? = some w ∧
    addr = v.addr + row.1 * v.stride + v.format.bits / 8 * q.1 + k := by
  simp only [writeRows_bytes, writeRow, hb, Bool.false_eq_true, if_false, List.mem_flatMap, List.mem_map, mem_placeBytes, State.convAt,
    exists_exists_and_eq_and]

/-- Rows of an output view that do not overlap hold the conversions of the values `f` that are written to them. -/
theorem lastByte_writeRows {n : Nat} {f : Nat → Nat → Num} (hfit : v.format.bits / 8 * n ≤ v.stride)
    (hrows : ∀ row ∈ rows, ∀ q ∈ row.2, q.1 < n ∧ q.2 = f row.1 q.1) {r c k : Nat} {xs : List (Nat × Num)} (hr : (r, xs) ∈ rows)
    (hc : (c, f r c) ∈ xs) (hk : k < v.format.bits / 8) (d : Byte) :
    lastByte (writeRows s v cvt pre rows).1 (v.addr + r * v.stride + v.format.bits / 8 * c + k) d =
      (leBytes (s.convAt v cvt pre r c (f r c)).bits (v.format.bits / 8)).getD k 0 := by
  have hin : ∀ q j, q < n → j < v.format.bits / 8 → q * (v.format.bits / 8) + j < v.stride := fun q j hq hj =>
    calc q * (v.format.bits / 8) + j < (q + 1) * (v.format.bits / 8) := by rw [Nat.succ_mul]; omega
      _ ≤ n * (v.format.bits / 8) := Nat.mul_le_mul_right _ hq
      _ ≤ v.stride := by rwa [Nat.mul_comm]
  have hlen (y : Num) (r c : Nat) := length_leBytes (s.convAt v cvt pre r c y).bits (v.format.bits / 8)
  have hget : (leBytes (s.convAt v cvt pre r c (f r c)).bits (v.format.bits / 8))[k]? =
      some ((leBytes (s.convAt v cvt pre r c (f r c)).bits (v.format.bits / 8)).getD k 0) := by
    rw [List.getD_eq_getElem _ _ (by rwa [hlen]), List.getElem?_eq_getElem (by rwa [hlen])]
  refine lastByte_of_mem ((mem_writeRows hb).mpr ⟨_, hr, _, hc, k, hget, rfl⟩) (fun w hw => ?_) d
  obtain ⟨⟨r', xs'⟩, hr', ⟨c', y⟩, hc', k', hget', haddr⟩ := (mem_writeRows hb).mp hw
  obtain ⟨hlt, (rfl : y = f r' c')⟩ := hrows _ hr' _ hc'
  obtain ⟨hlt₀, -⟩ := hrows _ hr _ hc
  have hk' : k' < v.format.bits / 8 := by
    obtain ⟨hk', -⟩ := List.getElem?_eq_some_iff.mp hget'
    rwa [hlen] at hk'
  simp only [Nat.mul_comm (v.format.bits / 8)] at haddr
  obtain ⟨rfl, helem⟩ := row_unique (hin c k hlt₀ hk) (hin c' k' hlt hk') (by omega : r * v.stride + _ = r' * v.stride + _)
  obtain ⟨rfl, rfl⟩ := row_unique hk hk' helem
  exact Option.some.inj (hget'.symm.trans hget)

end

theorem Num.scale_zero (x : Num) : x.scale 0 = x := by
  cases x <;> simp [Num.scale]

/-- FP32 with CVT = 0 and no scale rounds to nearest even (R98, R100). -/
theorem State.convAt_f32 {s : State} {v : RView} (hf : v.format = .f32) (r c : Nat) (y : Num) :
    s.convAt v 0#8 0 r c y = Fmt.convElem .f32 .rne (cvtOvf 0#8) 0 y := by
  rw [State.convAt, hf, Num.scale_zero]
  rfl

/-! #### A plain drain (R145, R173) -/

/-- The tile of a drain has the enabled elements of its extent. -/
theorem Drain.mem_tile {d : Drain} {f : Nat → Nat → Num} {row : Nat × List (Nat × Num)} : row ∈ d.tile f ↔
    row.1 < d.m ∧ row.2 = (d.cols row.1).map fun c => (c, f row.1 c) := by
  obtain ⟨r, xs⟩ := row
  simp only [Drain.tile, List.mem_map, List.mem_range, Prod.mk.injEq]
  constructor
  · rintro ⟨q, hq, rfl, rfl⟩
    exact ⟨hq, rfl⟩
  · rintro ⟨hr, rfl⟩
    exact ⟨r, hr, rfl, rfl⟩

theorem Drain.mem_cols {d : Drain} {r c : Nat} : c ∈ d.cols r ↔ c < d.n ∧ d.en r c = true := by
  simp [Drain.cols]

theorem Drain.mem_row {d : Drain} {f : Nat → Nat → Num} {r : Nat} {q : Nat × Num} :
    q ∈ (d.cols r).map (fun c => (c, f r c)) ↔ (q.1 < d.n ∧ d.en r q.1 = true) ∧ q.2 = f r q.1 := by
  obtain ⟨c, y⟩ := q
  simp only [List.mem_map, Prod.mk.injEq, Drain.mem_cols]
  constructor
  · rintro ⟨a, ha, rfl, rfl⟩
    exact ⟨ha, rfl⟩
  · rintro ⟨ha, rfl⟩
    exact ⟨c, ha, rfl, rfl⟩

theorem Drain.onto_plain {d : Drain} (h : d.p.outmode = false) (r c : Nat) (t : Num) : d.onto r c t = t := by
  unfold Drain.onto
  rw [h]

/-- Each enabled element of the extent holds the conversion of its value. -/
theorem lastByte_writeTile {s : State} {v : RView} {cvt : BitVec 8} {pre : Int} {d : Drain} {f : Nat → Nat → Num}
    (hb : v.format.blocked = false) (hfit : v.format.bits / 8 * d.n ≤ v.stride) {r c k : Nat} (hr : r < d.m) (hc : c < d.n)
    (hen : d.en r c = true) (hk : k < v.format.bits / 8) (z : Byte) :
    lastByte (writeRows s v cvt pre (d.tile f)).1 (v.addr + r * v.stride + v.format.bits / 8 * c + k) z =
      (leBytes (s.convAt v cvt pre r c (f r c)).bits (v.format.bits / 8)).getD k 0 := by
  refine lastByte_writeRows hb hfit (f := f) (fun row hrow q hq => ?_) (Drain.mem_tile.mpr ⟨hr, rfl⟩)
    (Drain.mem_row.mpr ⟨⟨hc, hen⟩, rfl⟩) hk z
  obtain ⟨-, hxs⟩ := Drain.mem_tile.mp hrow
  rw [hxs, Drain.mem_row] at hq
  obtain ⟨⟨hq, -⟩, hval⟩ := hq
  exact ⟨hq, hval⟩

/-! #### The output view of a matrix command that issues (R31, R162) -/

/-- No row of R31's table fails on a view of a command that is no STREAM and passes its issue checks. -/
theorem State.viewFails_of_checks {s : State} {e : Entry} (hop : ∀ b, e.cmd.op ≠ .stream b) (h : s.issueFault e = none)
    {k : Nat} (hk : k < 8) {u : Use} (hu : u ∈ usesOf e s.sfSnapshot) : s.viewFails e k u = false := by
  have hv : s.viewsFault e (usesOf e s.sfSnapshot) = none := by
    cases hf : s.viewsFault e (usesOf e s.sfSnapshot) with
    | none => rfl
    | some f =>
      unfold State.issueFault at h
      cases hc : e.cmd.op <;> simp [hc, hf] at h
      exact absurd hc (hop _)
  have hrow := List.findSome?_eq_none_iff.mp (List.findSome?_eq_none_iff.mp hv k (List.mem_range.mpr hk)) u hu
  simpa using hrow

theorem State.resolve_shape (s : State) (e : Entry) (u : Use) : (s.resolve e u).cols = u.view.cols.toNat := by
  unfold State.resolve
  dsimp only

theorem firstFault_eq_none {l : List (Bool × Code)} : firstFault l = none ↔ ∀ p ∈ l, p.1 = false := by
  induction l with
  | nil => simp [firstFault]
  | cons p l ih =>
    obtain ⟨bad, code⟩ := p
    cases bad <;> simp [firstFault, ih]

/-- A matrix command that decodes has its unused fields zero and its views shaped as its extent asks (R161, R162). -/
theorem mxOk_of_decodes {s : State} {x : Ctx} {h : Header} {op : Op} {b : MxBody} (hmx : op.mx? = some b)
    (hd : s.decodes x h op = true) : op.mxZeroOk h = true ∧ op.mxShapeOk h = true := by
  have hhead := firstFault_eq_none.mp (State.headerFault_of_decodes hd)
  simp only [State.decodes, Bool.and_eq_true, Option.isNone_iff_eq_none] at hd
  obtain ⟨⟨-, hfault⟩, -⟩ := hd
  have hbody : firstFault [(viewsFormatBad (op.views h).1, Code.badFormat), (!op.mxFormatOk h, Code.badFormat),
      (!op.mxShapeOk h, Code.illegalCommand)] = none := by
    have hbody := bodyFault_of_decodeFault hfault
    obtain rfl | rfl | rfl | rfl := Op.mx_cases hmx <;> simpa only [bodyFault, State.entryOf, Option.map_eq_none_iff] using hbody
  have hshape := firstFault_eq_none.mp hbody (!op.mxShapeOk h, Code.illegalCommand) (by simp)
  have hzero := hhead _ (List.mem_cons_of_mem _ List.mem_cons_self)
  simp only [Bool.or_eq_false_iff, Bool.not_eq_false'] at hzero hshape
  obtain ⟨⟨hzero, -⟩, -⟩ := hzero
  exact ⟨hzero, hshape⟩

/-- MM_DRAIN drains to its end, and its view 2 has the shape of the extent (R161, R162). -/
theorem mmDrain_body {s : State} {x : Ctx} {h : Header} {b : MxBody} (hd : s.decodes x h (.mmDrain b) = true) :
    b.p.hold = false ∧ b.v2.cols.toNat = b.p.n.toNat := by
  obtain ⟨hzero, hshape⟩ := mxOk_of_decodes (op := .mmDrain b) rfl hd
  simp only [Op.mxZeroOk, Op.mx?, Bool.and_eq_true] at hzero
  obtain ⟨⟨⟨⟨⟨⟨⟨hunused, -⟩, -⟩, -⟩, -⟩, -⟩, -⟩, -⟩ := hzero
  simp only [Op.mxUnusedZero, Bool.and_eq_true, Bool.not_eq_true'] at hunused
  simp only [Op.mxShapeOk, Op.mx?, Bool.and_eq_true, beq_iff_eq] at hshape
  obtain ⟨-, hhold⟩ := hunused
  obtain ⟨-, hcols⟩ := hshape
  exact ⟨hhold, hcols⟩

/-- How MM_DRAIN uses view 2 (R173). -/
def drainTarget (b : MxBody) : Use := { Use.output 2 b.v2 with src := b.p.outmode }

/-- Without a chain view 2 is the one view of MM_DRAIN. -/
theorem usesOf_mmDrain {e : Entry} {b : MxBody} (hop : e.cmd.op = .mmDrain b) (hhold : b.p.hold = false) (hfuse : e.cmd.h.fuse = 0#8)
    (sf : Vector W64 64) : usesOf e sf = [drainTarget b] := by
  simp [usesOf, hop, mxUses, mxOut, mxHasOut, hhold, hfuse, fuseNoTile, chainUses, drainTarget]

section
variable {s : State} {x : Ctx} {h : Header} {b : MxBody}

/-- View 2 of an MM_DRAIN that issues without a chain: as FP32 its rows do not overlap. -/
theorem mmDrain_view (hi : s.issues x h (.mmDrain b) = true) (hfuse : h.fuse = 0#8) :
    ∃ v, viewAt (s.issuedOf x h (.mmDrain b)).views 2 = some v ∧ (v.format = .f32 → 4 * b.p.n.toNat ≤ v.stride) := by
  obtain ⟨hh, -, hgo⟩ := State.heading_of_issues hi
  obtain ⟨hhold, hcols⟩ := mmDrain_body (State.decodes_of_heading hh)
  have huses := usesOf_mmDrain (e := s.entryOf x h (.mmDrain b)) rfl hhold hfuse
  have hfits := State.viewFails_of_checks (fun a => by simp) (State.checks_of_go hgo).1 (k := 4) (by omega) (u := drainTarget b)
    (by rw [huses]; exact List.mem_singleton_self _)
  refine ⟨(s.placed x h (.mmDrain b)).resolve (s.entryOf x h (.mmDrain b)) (drainTarget b), ?_, fun hf => ?_⟩
  · simp only [State.issuedOf, State.issued, State.resolveAll, huses]
    rfl
  · have hlt : ¬ ((s.placed x h (.mmDrain b)).resolve (s.entryOf x h (.mmDrain b)) (drainTarget b)).stride <
        ((s.placed x h (.mmDrain b)).resolve (s.entryOf x h (.mmDrain b)) (drainTarget b)).rowBytes := of_decide_eq_false hfits
    rw [RView.rowBytes, hf, State.resolve_shape] at hlt
    rw [← hcols]
    exact Nat.not_lt.mp hlt

/-! #### The command as a whole -/

theorem State.planeTaken_of_idle {s : State} {i : Issued} (hidle : s.iu.onUnit (.mx (mxArray i.e.cmd.h) (mxPart i.e.cmd.h)) = []) :
    s.planeTaken i b = false := by
  rw [State.planeTaken, hidle]
  rfl

/-- MM_DRAIN has no steps (R170). -/
theorem mxStepped_mmDrain {s : State} {i : Issued} (hop : i.e.cmd.op = .mmDrain b) :
    mxStepped s i b = s.array (mxArray i.e.cmd.h) := by
  unfold mxStepped
  rw [hop]
  exact ite_self _

/-- MM_DRAIN finds its partition free and its array as it stands. -/
theorem begun_mmDrain (hi : s.issues x h (.mmDrain b) = true) :
    (s.begun x h (.mmDrain b)).planeTaken (s.startedOf x h (.mmDrain b)) b = false ∧
    mxStepped (s.begun x h (.mmDrain b)) (s.startedOf x h (.mmDrain b)) b = s.array (mxArray h) := by
  obtain ⟨hh, -, hgo⟩ := State.heading_of_issues hi
  obtain ⟨hiu, -, hmx, -⟩ := State.begun_fields hh
  have hidle := State.unitIdle_of_ready (e := s.entryOf x h (.mmDrain b)) rfl (State.checks_of_go hgo).2
  have hexec : (s.begun x h (.mmDrain b)).iu.exec = (s.placed x h (.mmDrain b)).iu.exec := by
    rw [State.placed_eq]
    exact (congrArg Iu.exec hiu :)
  rw [State.entryOf_cmd, State.placed_unit rfl hh] at hidle
  constructor
  · have hnone : (s.begun x h (.mmDrain b)).iu.onUnit (.mx (mxArray h) (mxPart h)) = [] := by
      rw [Iu.onUnit, hexec]
      exact hidle
    exact State.planeTaken_of_idle hnone
  · have harray : (s.begun x h (.mmDrain b)).array (mxArray h) = s.array (mxArray h) := by simp only [State.array, hmx]
    rw [← harray]
    exact mxStepped_mmDrain rfl

/-- The drained array: whatever the chain does to it, the plane keeps its words and ends EMPTY. -/
theorem array_mmDrain (hi : s.issues x h (.mmDrain b) = true) (hne : mxNonEmpty b = true) :
    (s.runNow x h (.mmDrain b)).s.array (mxArray h) =
      (mxDrained (s.begun x h (.mmDrain b)) (s.startedOf x h (.mmDrain b)) b).a.endPlane (mxPart h) b.p.plane .empty := by
  obtain ⟨hh, -, -⟩ := State.heading_of_issues hi
  obtain ⟨hhold, -⟩ := mmDrain_body (State.decodes_of_heading hh)
  rw [State.runNow_mx (b := b) rfl, mxRun_drains hne hhold rfl (begun_mmDrain hi).1]
  exact (State.array_setArray _ _ _ _).trans (if_pos rfl)

theorem plane_mxDrained (hi : s.issues x h (.mmDrain b) = true) :
    (mxDrained (s.begun x h (.mmDrain b)) (s.startedOf x h (.mmDrain b)) b).a.plane b.p.plane = (s.array (mxArray h)).plane b.p.plane := by
  rw [← (begun_mmDrain hi).2]
  exact plane_drainOf _ (mxDrain _ _ _)

theorem mxDrained_plain {i : Issued} (hfuse : i.e.cmd.h.fuse = 0#8) : mxDrained s i b = drainPlain (mxDrain s i b) := by
  rw [mxDrained, hfuse]
  rfl

/-- The value that a plain drain of MM_DRAIN converts is the plane's word (R173). -/
theorem rows_mmDrain (hi : s.issues x h (.mmDrain b) = true) (hout : b.p.outmode = false) :
    (drainPlain (mxDrain (s.begun x h (.mmDrain b)) (s.startedOf x h (.mmDrain b)) b)).rows =
      (mxDrain (s.begun x h (.mmDrain b)) (s.startedOf x h (.mmDrain b)) b).tile
        (accAt ((s.array (mxArray h)).plane b.p.plane) (geom (s.array (mxArray h)).mode (mxPart h).1)) := by
  rw [← (begun_mmDrain hi).2]
  simp only [drainPlain, Drain.onto_plain (d := mxDrain _ _ b) hout]
  rfl

/-- A plain drain as FP32 writes each enabled word, rounded to nearest even, to its element of view 2 (R98, R101, R173). -/
theorem lastByte_mmDrain (hi : s.issues x h (.mmDrain b) = true) (hne : mxNonEmpty b = true) (hfuse : h.fuse = 0#8)
    (hout : b.p.outmode = false) (hcvt : b.p.cvt = 0#8) {v : RView} (hv : viewAt (s.startedOf x h (.mmDrain b)).views 2 = some v)
    (hf : v.format = .f32) (hq : v.q = 0) (hfit : 4 * b.p.n.toNat ≤ v.stride) {r c k : Nat} (hr : r < b.p.m.toNat)
    (hc : c < b.p.n.toNat) (hk : k < 4) (hen : enabled (s.issuedOf x h (.mmDrain b)).masks b.p r c = true) (z : Byte) :
    lastByte (s.runNow x h (.mmDrain b)).bytes (v.addr + r * v.stride + 4 * c + k) z =
      (leBytes (Fmt.convElem .f32 .rne (cvtOvf 0#8) 0 (accAt ((s.array (mxArray h)).plane b.p.plane)
        (geom (s.array (mxArray h)).mode (mxPart h).1) r c)).bits 4).getD k 0 := by
  obtain ⟨hh, -, -⟩ := State.heading_of_issues hi
  obtain ⟨hhold, -⟩ := mmDrain_body (State.decodes_of_heading hh)
  have hwidth : v.format.bits / 8 = 4 := by rw [hf]; rfl
  have hbytes : (s.runNow x h (.mmDrain b)).bytes = (writeRows (s.begun x h (.mmDrain b)) v 0#8 0
      ((mxDrain (s.begun x h (.mmDrain b)) (s.startedOf x h (.mmDrain b)) b).tile
        (accAt ((s.array (mxArray h)).plane b.p.plane) (geom (s.array (mxArray h)).mode (mxPart h).1)))).1 := by
    rw [State.runNow_mx (b := b) rfl, mxRun_drain_bytes hne hhold rfl hv, mxDrained_plain hfuse, rows_mmDrain hi hout, hcvt, hq]
    exact List.append_nil _
  have hword := lastByte_writeTile (s := s.begun x h (.mmDrain b)) (cvt := 0#8) (pre := 0)
    (d := mxDrain (s.begun x h (.mmDrain b)) (s.startedOf x h (.mmDrain b)) b) (by rw [hf]; rfl) (by rw [hwidth]; exact hfit)
    (f := accAt ((s.array (mxArray h)).plane b.p.plane) (geom (s.array (mxArray h)).mode (mxPart h).1)) hr hc hen
    (by rw [hwidth]; exact hk) z
  rw [hwidth, State.convAt_f32 hf] at hword
  rw [hbytes]
  exact hword

end

/-- Settles O20: no other command stands on the partition, so the drained plane ends EMPTY; a drain writes at most its companion plane and
a register; and the rows of view 2 do not overlap, so each enabled element holds the bytes of its own conversion. -/
theorem mmDrain : Obligations.MmDrain := by
  intro s x h b hx hmem
  obtain ⟨t, hexec, hland, hfiles, hsur, hvx, hcu, hentries, hmx⟩ := mx_effect (b := b) (c := .mmDrain x h b) rfl rfl hx hmem
  simp only [State.completes, State.finishes, Bool.and_eq_true] at hx
  obtain ⟨⟨⟨⟨hi, -⟩, -⟩, -⟩, -⟩ := hx
  obtain ⟨hh, -, -⟩ := State.heading_of_issues hi
  obtain ⟨-, -, hbegun, -⟩ := State.begun_fields hh
  have harray : ∀ n, t.array n = (s.runNow x h (.mmDrain b)).s.array n := fun n => by simp only [State.array, hmx]
  refine ⟨t, hexec, hland, hfiles, hsur, hvx, hcu, hentries, fun n hn => ?_, fun hempty => ?_, fun hne => ⟨?_, ?_⟩,
    fun hne hfuse => ?_, fun hne hfuse hout hcvt => ?_⟩
  · rw [harray, State.runNow_mx (b := b) rfl, mxRun_array_ne _ _ _ hn]
    simp only [State.array, hbegun]
  · rw [hmx, State.runNow_mx (b := b) rfl, mxRun_empty _ _ hempty]
    exact hbegun
  · rw [harray, array_mmDrain hi hne, Array_.endPlane_state]
  · rw [harray, array_mmDrain hi hne]
    exact plane_mxDrained hi
  · rw [harray, array_mmDrain hi hne, mxDrained_plain hfuse, ← (begun_mmDrain hi).2]
    rfl
  · obtain ⟨v, hv, hfit⟩ := mmDrain_view hi hfuse
    refine ⟨v, hv, fun hf hq r c k hr hc hk hen => ?_⟩
    rw [hland.1]
    exact lastByte_mmDrain hi hne hfuse hout hcvt hv hf hq (hfit hf) hr hc hk hen _

end Sys2Proof.Machine
end

/-! ### Words of an array that a matrix command writes (O17 to O19) -/

section
namespace Sys2Proof.Machine

/-! #### Positions of a partition (R148) -/

/-- The partition-local PE of an index. -/
def Geom.cell (g : Geom) (k : Nat) : Nat × Nat := (k / 256 - g.row0, k % 256 - g.col0)

theorem Geom.has_iff {g : Geom} {k : Nat} : g.has k = true ↔
    g.row0 ≤ k / 256 ∧ k / 256 < g.row0 + g.rows ∧ g.col0 ≤ k % 256 ∧ k % 256 < g.col0 + g.cols := by
  simp [Geom.has, and_assoc]

/-- A row of an array has 256 PEs, and every partition lies within it. -/
theorem geom_cols_le (mode : BitVec 2) (p : Nat) : (geom mode p).col0 + (geom mode p).cols ≤ 256 := by
  unfold geom
  split <;> simp only <;> omega

theorem Geom.idx_cell {g : Geom} {k : Nat} (hk : g.has k = true) : g.idx (g.cell k).1 (g.cell k).2 = k := by
  obtain ⟨hr, -, hc, -⟩ := Geom.has_iff.mp hk
  simp only [Geom.idx, Geom.cell]
  omega

section
variable {g : Geom} (hg : g.col0 + g.cols ≤ 256) {r c : Nat} (hc : c < g.cols)
include hg hc

theorem Geom.cell_idx : g.cell (g.idx r c) = (r, c) := by
  simp only [Geom.cell, Geom.idx, Prod.mk.injEq]
  omega

theorem Geom.has_idx (hr : r < g.rows) : g.has (g.idx r c) = true := by
  rw [Geom.has_iff]
  simp only [Geom.idx]
  omega

end

/-! #### A fold of writes over positions -/

/-- Each enabled position of a list, in order, takes a new word made from the one it holds. -/
def writeCells {w : Nat} (g : Geom) (en : Nat → Nat → Bool) (val : Nat → Nat → BitVec w → BitVec w) (l : List (Nat × Nat))
    (m : Store w) : Store w :=
  l.foldl (fun m q =>
    if en q.1 q.2 then Store.set m (g.idx q.1 q.2) (val q.1 q.2 (Store.get m (g.idx q.1 q.2))) else m) m

/-- Positions that are each written once: an enabled one holds the word made from its old one, and every other index its old word. -/
theorem get_writeCells {w : Nat} {g : Geom} (hg : g.col0 + g.cols ≤ 256) (en : Nat → Nat → Bool)
    (val : Nat → Nat → BitVec w → BitVec w) {l : List (Nat × Nat)} (hl : l.Nodup) (hin : ∀ q ∈ l, q.1 < g.rows ∧ q.2 < g.cols)
    {m : Store w} (hm : m.wf = true) (k : Nat) :
    Store.get (writeCells g en val l m) k =
      if g.has k = true ∧ g.cell k ∈ l ∧ en (g.cell k).1 (g.cell k).2 = true then val (g.cell k).1 (g.cell k).2 (Store.get m k)
      else Store.get m k := by
  induction l generalizing m with
  | nil => simp [writeCells]
  | cons q l ih =>
    obtain ⟨r, c⟩ := q
    obtain ⟨hnot, hl⟩ := List.nodup_cons.mp hl
    obtain ⟨hr, hc⟩ := hin (r, c) List.mem_cons_self
    have hstep := ih hl (fun q hq => hin q (List.mem_cons_of_mem _ hq))
      (Store.wf_ite_set hm (en r c) (g.idx r c) (val r c (Store.get m (g.idx r c))))
    have hget : Store.get (if en r c then Store.set m (g.idx r c) (val r c (Store.get m (g.idx r c))) else m) k =
        if en r c = true ∧ k = g.idx r c then val r c (Store.get m k) else Store.get m k := by
      by_cases hen : en r c = true
      · rw [if_pos hen, Store.get_set m _ _ _ hm]
        by_cases hk : k = g.idx r c
        · rw [if_pos hk, if_pos ⟨hen, hk⟩, hk]
        · rw [if_neg hk, if_neg fun h => hk h.2]
      · rw [if_neg hen, if_neg fun h => hen h.1]
    rw [hget] at hstep
    refine Eq.trans hstep ?_
    by_cases hk : k = g.idx r c
    · subst hk
      simp [Geom.cell_idx hg hc, Geom.has_idx hg hc hr, hnot]
    · have hother : g.has k = true → g.cell k ≠ (r, c) := fun hhas hcell => by
        have hidx := Geom.idx_cell hhas
        rw [hcell] at hidx
        exact hk hidx.symm
      by_cases hhas : g.has k = true
      · simp [hk, hhas, hother hhas]
      · simp [hk, hhas]

theorem nodup_extent (m n : Nat) : (extent m n).Nodup := by
  have hextent : extent m n = List.range m ×ˢ List.range n := rfl
  rw [hextent]
  exact List.nodup_range.product List.nodup_range

/-- A filter of the indices leaves the words of those it keeps. -/
theorem Store.get_filter {w : Nat} (m : Store w) (f : Nat → Bool) (k : Nat) :
    Store.get (m.filter fun q => f q.1) k = if f k then Store.get m k else 0 := by
  induction m with
  | nil => simp [Store.get]
  | cons q m ih =>
    obtain ⟨a, v⟩ := q
    by_cases ha : a = k
    · subst ha
      by_cases hf : f a = true <;> simp [hf, Store.get, ih]
    · by_cases hf : f a = true <;> simp [hf, Store.get, ih, ha]

/-- A command that starts from ZERO finds +0 in its partition (R135, R166). -/
theorem get_startPlane (m : Store 40) (g : Geom) (cont : Bool) (k : Nat) :
    Store.get (startPlane m g cont) k = if cont || !g.has k then Store.get m k else 0#40 := by
  cases cont
  · simpa [startPlane] using Store.get_filter m (fun a => !g.has a) k
  · simp [startPlane]

/-! #### The planes after MM_OS and MM_EW (R135, R146, R166, R169) -/

section
variable {s : State} {i : Issued} {p : MxParams} {g : Geom} {m : Store 40} (hg : g.col0 + g.cols ≤ 256) (hm : m.wf = true)
  (hrows : p.m.toNat ≤ g.rows) (hcols : p.n.toNat ≤ g.cols)
include hg hm hrows hcols

/-- An element-wise pass over the extent. -/
theorem get_writeExtent (val : Nat → Nat → BitVec 40 → BitVec 40) (k : Nat) :
    Store.get (writeCells g (enabled i.masks p) val (extent p.m.toNat p.n.toNat) m) k =
      if g.has k && (g.cell k).1 < p.m.toNat && (g.cell k).2 < p.n.toNat && enabled i.masks p (g.cell k).1 (g.cell k).2 then
        val (g.cell k).1 (g.cell k).2 (Store.get m k)
      else Store.get m k := by
  have hin : ∀ q ∈ extent p.m.toNat p.n.toNat, q.1 < g.rows ∧ q.2 < g.cols := fun q hq => by
    obtain ⟨hr, hc⟩ := mem_extent.mp hq
    omega
  rw [get_writeCells hg _ _ (nodup_extent _ _) hin hm]
  simp only [mem_extent, Bool.and_eq_true, decide_eq_true_eq, and_assoc]

/-- MM_OS: each enabled element of the extent is the chain of its steps. -/
theorem get_osPlane (va vb : RView) (k : Nat) :
    Store.get (osPlane s i p g m va vb) k =
      if g.has k && (g.cell k).1 < p.m.toNat && (g.cell k).2 < p.n.toNat && enabled i.masks p (g.cell k).1 (g.cell k).2 then
        toF40 (osChain va.format vb.format (fun j => s.elem va j (g.cell k).1) (fun j => s.elem vb j (g.cell k).2) p.k.toNat
          (ofF40 (Store.get (startPlane m g p.start) k)))
      else Store.get (startPlane m g p.start) k := by
  have hfold := get_writeExtent (i := i) (p := p) hg (wf_startPlane hm g p.start) hrows hcols (fun r c _ =>
    toF40 (osChain va.format vb.format (fun j => s.elem va j r) (fun j => s.elem vb j c) p.k.toNat
      (accAt (startPlane m g p.start) g r c))) k
  refine Eq.trans hfold ?_
  split
  · next hin =>
    have hhas : g.has k = true := by
      simp only [Bool.and_eq_true] at hin
      exact hin.1.1.1
    rw [accAt, Geom.idx_cell hhas]
  · rfl

theorem get_ewPlane (v : Option RView) (k : Nat) :
    Store.get (ewPlane s i p g m v) k =
      if g.has k && (g.cell k).1 < p.m.toNat && (g.cell k).2 < p.n.toNat && enabled i.masks p (g.cell k).1 (g.cell k).2 then
        toF40 (ewOp p.op (ofF40 (Store.get m k)) (ewOperand s i p v (g.cell k).1 (g.cell k).2))
      else Store.get m k :=
  get_writeExtent hg hm hrows hcols (fun r c w => toF40 (ewOp p.op (ofF40 w) (ewOperand s i p v r c))) k

end

/-! #### What a matrix command leaves of its array (R133, R166, R167) -/

theorem Array_.plane_setPlane (a : Array_) (pl : Bool) (m : Store 40) : (a.setPlane pl m).plane pl = m := by
  cases pl <;> rfl

theorem Array_.st_setPlane (a : Array_) (pl : Bool) (m : Store 40) (r : Bool) : (a.setPlane pl m).st r = a.st r := by
  cases pl <;> rfl

theorem Array_.part_setPlane (a : Array_) (pl : Bool) (m : Store 40) (p : Fin 4) : (a.setPlane pl m).part p = a.part p := by
  cases pl <;> rfl

theorem Part.reg_setPlane (k : Part) (pl : Bool) (x : PlaneState) (r : Bool) : (k.setPlane pl x).reg r = k.reg r := by
  cases pl <;> rfl

theorem Part.plane_setPlane_other (k : Part) (pl : Bool) (x : PlaneState) : (k.setPlane pl x).plane (!pl) = k.plane (!pl) := by
  cases pl <;> rfl

theorem Part.plane_setReg (k : Part) (r : Bool) (x : Option Loaded) (pl : Bool) : (k.setReg r x).plane pl = k.plane pl := by
  cases r <;> rfl

theorem Array_.part_setPart_other (a : Array_) {p q : Fin 4} (k : Part) (hq : q ≠ p) : (a.setPart p k).part q = a.part q := by
  have hne : p.1 ≠ q.1 := fun he => hq (Fin.ext he.symm)
  simp [Array_.setPart, Array_.part, Vector.getElem_set_ne, hne]

section
variable {a b : Array_} {p : Fin 4} {pl : Bool}

theorem onlyPlane_refl (a : Array_) (p : Fin 4) (pl : Bool) : onlyPlane a a p pl := ⟨rfl, rfl, rfl, fun _ _ => rfl, rfl⟩

theorem onlyPlane_setPlane (h : onlyPlane a b p pl) (m : Store 40) : onlyPlane a (b.setPlane pl m) p pl := by
  cases pl <;> exact h

theorem onlyPlane_setSt (h : onlyPlane a b p pl) (r : Bool) (m : Store 32) : onlyPlane a (b.setSt r m) p pl := by
  cases r <;> exact h

/-- A new state of the partition that keeps the state of the other plane. -/
theorem onlyPlane_setPart (h : onlyPlane a b p pl) {k : Part} (hk : k.plane (!pl) = (b.part p).plane (!pl)) :
    onlyPlane a (b.setPart p k) p pl := by
  obtain ⟨hmode, hmasks, hplane, hparts, hpart⟩ := h
  refine ⟨hmode, hmasks, hplane, fun q hq => (Array_.part_setPart_other b k hq).trans (hparts q hq), ?_⟩
  rw [Array_.part_setPart, hk, hpart]

theorem onlyPlane_endPlane (h : onlyPlane a b p pl) (x : PlaneState) : onlyPlane a (b.endPlane p pl x) p pl :=
  onlyPlane_setPart h (Part.plane_setPlane_other _ _ _)

theorem Array_.plane_endPlane (a : Array_) (p : Fin 4) (pl : Bool) (x : PlaneState) (pl' : Bool) :
    (a.endPlane p pl x).plane pl' = a.plane pl' := rfl

theorem Array_.st_endPlane (a : Array_) (p : Fin 4) (pl : Bool) (x : PlaneState) (r : Bool) : (a.endPlane p pl x).st r = a.st r := rfl

theorem Array_.reg_endPlane (a : Array_) (p : Fin 4) (pl : Bool) (x : PlaneState) (r : Bool) :
    ((a.endPlane p pl x).part p).reg r = (a.part p).reg r := by
  rw [Array_.endPlane, Array_.part_setPart, Part.reg_setPlane]

theorem sameRegs_endPlane (h : sameRegs a b p) (x : PlaneState) : sameRegs a (b.endPlane p pl x) p := fun r =>
  ⟨(h r).1, (Array_.reg_endPlane b p pl x r).trans (h r).2⟩

theorem sameRegs_setPlane (a : Array_) (p : Fin 4) (pl : Bool) (m : Store 40) : sameRegs a (a.setPlane pl m) p := fun r =>
  ⟨Array_.st_setPlane a pl m r, by rw [Array_.part_setPlane]⟩

/-- A command that writes a plane and leaves it in a state changes nothing else of the array. -/
theorem Array_.endPlane_setPlane (a : Array_) (p : Fin 4) (pl : Bool) (m : Store 40) (x : PlaneState) :
    onlyPlane a ((a.setPlane pl m).endPlane p pl x) p pl ∧ sameRegs a ((a.setPlane pl m).endPlane p pl x) p ∧
    (((a.setPlane pl m).endPlane p pl x).part p).plane pl = x ∧ ((a.setPlane pl m).endPlane p pl x).plane pl = m :=
  ⟨onlyPlane_endPlane (onlyPlane_setPlane (onlyPlane_refl a p pl) m) x, sameRegs_endPlane (sameRegs_setPlane a p pl m) x,
    Array_.endPlane_state _ _ _ _, Array_.plane_setPlane a pl m⟩

end

/-! #### What the steps of a matrix command read (R166, R167, R169) -/

section
variable {s t : State} (hspad : t.spad = s.spad)
include hspad

theorem State.rawAt_of_spad : t.rawAt = s.rawAt := by
  funext v r c
  simp only [State.rawAt, State.byte, hspad]

theorem State.elem_of_spad : t.elem = s.elem := by
  funext v r c
  simp only [State.elem, State.rawAt_of_spad hspad]

/-- The steps read the scratchpad and the arrays, and of the command neither its stage nor its companion plane. -/
theorem mxStepped_of_spad (hmx : t.mx = s.mx) (i : Issued) (fresh : Bool) (b : MxBody) :
    mxStepped t { i with fresh := fresh } b = mxStepped s i b := by
  have harray : t.array = s.array := funext fun n => by simp only [State.array, hmx]
  have hos : osPlane t { i with fresh := fresh } = osPlane s i := by
    funext p g m va vb
    simp only [osPlane, State.elem_of_spad hspad]
  have hdot : stDot t { i with fresh := fresh } = stDot s i := by
    funext p g vv l reg q r j
    simp only [stDot, State.elem_of_spad hspad]
  have hload : loadTile t = loadTile s := by
    funext p g v q m
    simp only [loadTile, State.rawAt_of_spad hspad]
  have hst : stRun t { i with fresh := fresh } = stRun s i := by
    funext p n pt vv v1
    simp only [stRun, stTile, loadRecord, harray, hdot, hload]
  have hew : ewPlane t { i with fresh := fresh } = ewPlane s i := by
    funext p g m v
    simp only [ewPlane, ewOperand, State.elem_of_spad hspad]
  simp only [mxStepped, harray, hos, hst, hew]

end

/-! #### A matrix command with END = HOLD (R133) -/

theorem mxRun_holds {s : State} {i : Issued} {b : MxBody} (hne : mxNonEmpty b = true) (hhold : b.p.hold = true)
    (hfree : s.planeTaken i b = false) : (mxRun s i b).s = s.setArray (mxArray i.e.cmd.h)
      ((mxStepped s i b).endPlane (mxPart i.e.cmd.h) b.p.plane (.held (isBack i.e.cmd.h))) := by
  unfold mxRun
  simp only [hne, hhold, hfree, mxEnd, Bool.not_true, Bool.true_or, Bool.false_eq_true, if_false, if_true]
  rfl

/-- A command that completes has issued, and its start raised no fault. -/
theorem State.issues_of_completes {s : State} {x : Ctx} {h : Header} {op : Op} (hx : s.completes x h op = true) :
    s.issues x h op = true ∧ (s.begun x h op).startFault (s.issuedOf x h op) = none := by
  simp only [State.completes, State.finishes, Bool.and_eq_true, Option.isNone_iff_eq_none] at hx
  obtain ⟨⟨⟨⟨hi, hstart⟩, -⟩, -⟩, -⟩ := hx
  exact ⟨hi, hstart⟩

section
variable {s : State} {x : Ctx} {h : Header} {op : Op} {b : MxBody} (hmx : op.mx? = some b)
include hmx

/-- The command that issues finds no other one on its partition when it starts. -/
theorem State.begun_idle (hi : s.issues x h op = true) : (s.begun x h op).iu.onUnit (.mx (mxArray h) (mxPart h)) = [] := by
  obtain ⟨hh, -, hgo⟩ := State.heading_of_issues hi
  obtain ⟨hiu, -⟩ := State.begun_fields hh
  have hidle := State.unitIdle_of_ready (e := s.entryOf x h op) hmx (State.checks_of_go hgo).2
  rw [State.entryOf_cmd, State.placed_unit hmx hh] at hidle
  have hexec : (s.begun x h op).iu.exec = (s.placed x h op).iu.exec := by
    rw [State.placed_eq]
    exact (congrArg Iu.exec hiu :)
  rw [Iu.onUnit, hexec]
  exact hidle

/-- The array as the steps leave it, its plane HELD by the command's queue. -/
theorem array_mxHold (hi : s.issues x h op = true) (hne : mxNonEmpty b = true) (hhold : b.p.hold = true) :
    (s.runNow x h op).s.array (mxArray h) =
      (mxStepped s (s.issuedOf x h op) b).endPlane (mxPart h) b.p.plane (.held (isBack h)) := by
  obtain ⟨hh, -, -⟩ := State.heading_of_issues hi
  obtain ⟨-, hspad, hmxs, -⟩ := State.begun_fields hh
  have hentry := s.startedOf_e x h op
  have hfree : (s.begun x h op).planeTaken (s.startedOf x h op) b = false :=
    State.planeTaken_of_idle (by rw [hentry]; exact State.begun_idle hmx hi)
  have hstepped : mxStepped (s.begun x h op) (s.startedOf x h op) b = mxStepped s (s.issuedOf x h op) b := by
    obtain ⟨f, hf⟩ := (s.begun x h op).begin_shape (s.issuedOf x h op)
    rw [State.startedOf, hf]
    exact mxStepped_of_spad hspad hmxs _ f b
  rw [State.runNow_mx hmx, mxRun_holds hne hhold hfree, hstepped, hentry]
  exact (State.array_setArray _ _ _ _).trans (if_pos rfl)

/-- What every matrix command that completes does and leaves, and the array of one with END = HOLD. -/
theorem mx_effect_hold {c : Instr} (hc : programOf c = some (x, h, op)) (hx : s.completes x h op = true) (hmem : s.memoryOk = true) :
    ∃ t, exec c s = .next t ∧ landed s t x h op ∧ samePdSf s t ∧ sameSurround s t ∧ t.vx = s.vx ∧ t.cu = s.cu ∧ sameEntries s t ∧
      (∀ n, n ≠ mxArray h → t.array n = s.array n) ∧ (mxNonEmpty b = false → t.mx = s.mx) ∧
      (mxNonEmpty b = true → b.p.hold = true → t.array (mxArray h) =
        (mxStepped s (s.issuedOf x h op) b).endPlane (mxPart h) b.p.plane (.held (isBack h))) := by
  obtain ⟨t, hexec, hland, hfiles, hsur, hvx, hcu, hentries, htmx⟩ := mx_effect hmx hc hx hmem
  obtain ⟨hi, -⟩ := State.issues_of_completes hx
  obtain ⟨hh, -, -⟩ := State.heading_of_issues hi
  obtain ⟨-, -, hbegun, -⟩ := State.begun_fields hh
  have harray : ∀ n, t.array n = (s.runNow x h op).s.array n := fun n => by simp only [State.array, htmx]
  refine ⟨t, hexec, hland, hfiles, hsur, hvx, hcu, hentries, fun n hn => ?_, fun hempty => ?_, fun hne hhold => ?_⟩
  · rw [harray, State.runNow_mx hmx, mxRun_array_ne _ _ _ (by rw [State.startedOf_e]; exact hn)]
    simp only [State.array, hbegun]
  · rw [htmx, State.runNow_mx hmx, mxRun_empty _ _ hempty]
    exact hbegun
  · rw [harray, array_mxHold hmx hi hne hhold]

end

/-! #### What the issue checks say of a matrix command (R31, R162) -/

theorem orFault_eq_none {a b : Option Code} : orFault a b = none ↔ a = none ∧ b = none := by
  cases a <;> simp [orFault]

/-- A matrix command whose issue checks pass lies within its partition. -/
theorem State.mxInside_of_checks {s : State} {e : Entry} {b : MxBody} (hmx : e.cmd.op.mx? = some b) (hf : s.issueFault e = none) :
    mxOutside e.cmd (geom (s.array (mxArray e.cmd.h)).mode (mxPart e.cmd.h).1) = false := by
  have hengine : s.engineFault e (s.resolveAll e (usesOf e s.sfSnapshot) 12) = none := by
    unfold State.issueFault at hf
    dsimp only at hf
    split at hf
    · simp at hf
    · exact Option.map_eq_none_iff.mp hf
  have hissue : mxIssueFault s e.cmd b s.sfSnapshot (s.resolveAll e (usesOf e s.sfSnapshot) 12) = none := by
    unfold State.engineFault at hengine
    obtain hop | hop | hop | hop := Op.mx_cases hmx <;>
      · simp only [hop] at hengine
        exact (orFault_eq_none.mp hengine).1
  exact firstFault_eq_none.mp (orFault_eq_none.mp hissue).1 (mxOutside e.cmd _, Code.illegalCommand) (by simp)

section
variable {s : State} {x : Ctx} {h : Header} {op : Op} {b : MxBody}

theorem State.mxInside_of_issues (hmx : op.mx? = some b) (hi : s.issues x h op = true) :
    mxOutside ⟨h, op⟩ (geom (s.array (mxArray h)).mode (mxPart h).1) = false := by
  obtain ⟨-, -, hgo⟩ := State.heading_of_issues hi
  have harray : (s.placed x h op).array = s.array := by
    rw [State.placed_eq]
    rfl
  have hin := State.mxInside_of_checks (e := s.entryOf x h op) hmx (State.checks_of_go hgo).1
  rwa [harray] at hin

/-- The extent of a matrix command that issues lies in its partition (R162). -/
theorem mxExtent_inside (hmx : op.mx? = some b) (hi : s.issues x h op = true) :
    (mxExtent op).1 ≤ (geom (s.array (mxArray h)).mode (mxPart h).1).rows ∧
    (mxExtent op).2 ≤ (geom (s.array (mxArray h)).mode (mxPart h).1).cols := by
  have hin := State.mxInside_of_issues hmx hi
  simp only [mxOutside, Bool.or_eq_false_iff, decide_eq_false_iff_not, not_lt] at hin
  exact hin.1

/-- An issued command has a view at each position that it uses (R31). -/
theorem State.viewAt_issuedOf (s : State) (x : Ctx) (h : Header) {k : Nat} (hk : k < 12)
    (hu : ∀ sf, ((usesOf (s.entryOf x h op) sf).find? fun u => u.pos == k).isSome = true) :
    ∃ v, viewAt (s.issuedOf x h op).views k = some v := by
  rw [← Option.isSome_iff_exists]
  simpa [viewAt, State.issuedOf, State.issued, State.resolveAll, hk] using hu _

/-- MM_OS reads views 0 and 1 (R160). -/
theorem mmOs_views (s : State) (x : Ctx) (h : Header) (b : MxBody) :
    ∃ va vb, viewAt (s.issuedOf x h (.mmOs b)).views 0 = some va ∧ viewAt (s.issuedOf x h (.mmOs b)).views 1 = some vb := by
  obtain ⟨va, ha⟩ := State.viewAt_issuedOf (op := .mmOs b) s x h (k := 0) (by omega) fun sf => rfl
  obtain ⟨vb, hb⟩ := State.viewAt_issuedOf (op := .mmOs b) s x h (k := 1) (by omega) fun sf => rfl
  exact ⟨va, vb, ha, hb⟩

/-- MM_ST reads view 0 (R160). -/
theorem mmSt_view (s : State) (x : Ctx) (h : Header) (b : MxBody) : ∃ vv, viewAt (s.issuedOf x h (.mmSt b)).views 0 = some vv :=
  State.viewAt_issuedOf s x h (by omega) fun _ => rfl

/-- MM_ST with SLOAD = 1 loads its registers from view 1 (R160, R167). -/
theorem mmSt_loadView (s : State) (x : Ctx) (h : Header) {b : MxBody} (hload : b.p.sload = true) :
    ∃ v, viewAt (s.issuedOf x h (.mmSt b)).views 1 = some v :=
  State.viewAt_issuedOf s x h (by omega) fun sf => by simp [usesOf, mxUses, hload, Use.source]

end

end Sys2Proof.Machine
end

/-! ### MM_OS (O17) -/

section
namespace Sys2Proof.Machine

theorem mxStepped_mmOs {s : State} {i : Issued} {h : Header} {b : MxBody} {va vb : RView} (hc : i.e.cmd = ⟨h, .mmOs b⟩)
    (hs : i.stepped = false) (ha : viewAt i.views 0 = some va) (hb : viewAt i.views 1 = some vb) :
    mxStepped s i b = (s.array (mxArray h)).setPlane b.p.plane
      (osPlane s i b.p (geom (s.array (mxArray h)).mode (mxPart h).1) ((s.array (mxArray h)).plane b.p.plane) va vb) := by
  simp only [mxStepped, hc, hs, ha, hb, Bool.false_eq_true, if_false]

/-- Settles O17: the steps write each enabled element of the extent once, as the chain from the word that START gives it, and no other
command stands on the partition, so the plane ends HELD by this queue. -/
theorem mmOs : Obligations.MmOs := by
  intro s x h b hx hmem
  obtain ⟨t, hexec, hland, hfiles, hsur, hvx, hcu, hentries, hother, hempty, harray⟩ :=
    mx_effect_hold (b := b) (c := .mmOs x h b) rfl rfl hx hmem
  obtain ⟨hrows, hcols⟩ := mxExtent_inside (b := b) rfl (State.issues_of_completes hx).1
  have hwf := Array_.wf_plane (State.wordsOk_array hmem (mxArray h)) b.p.plane
  obtain ⟨va, vb, hva, hvb⟩ := mmOs_views s x h b
  refine ⟨t, hexec, hland, hfiles, hsur, hvx, hcu, hentries, hother, hempty, fun hne hhold => ?_⟩
  rw [harray hne hhold, mxStepped_mmOs rfl rfl hva hvb]
  obtain ⟨honly, hregs, hstate, hplane⟩ := Array_.endPlane_setPlane (s.array (mxArray h)) (mxPart h) b.p.plane _ (.held (isBack h))
  refine ⟨honly, hregs, hstate, va, vb, hva, hvb, fun k => ?_⟩
  rw [hplane, get_osPlane (geom_cols_le _ _) hwf hrows hcols, get_startPlane]
  rfl

end Sys2Proof.Machine
end

/-! ### MM_EW (O18) -/

section
namespace Sys2Proof.Machine

theorem mxStepped_mmEw {s : State} {i : Issued} {h : Header} {b : MxBody} (hc : i.e.cmd = ⟨h, .mmEw b⟩) (hs : i.stepped = false) :
    mxStepped s i b = (s.array (mxArray h)).setPlane b.p.plane
      (ewPlane s i b.p (geom (s.array (mxArray h)).mode (mxPart h).1) ((s.array (mxArray h)).plane b.p.plane) (viewAt i.views 0)) := by
  simp only [mxStepped, hc, hs, Bool.false_eq_true, if_false]

/-- Settles O18: the element-wise pass writes each enabled element of the extent once, from the word that it holds. -/
theorem mmEw : Obligations.MmEw := by
  intro s x h b hx hmem
  obtain ⟨t, hexec, hland, hfiles, hsur, hvx, hcu, hentries, hother, hempty, harray⟩ :=
    mx_effect_hold (b := b) (c := .mmEw x h b) rfl rfl hx hmem
  obtain ⟨hrows, hcols⟩ := mxExtent_inside (b := b) rfl (State.issues_of_completes hx).1
  have hwf := Array_.wf_plane (State.wordsOk_array hmem (mxArray h)) b.p.plane
  refine ⟨t, hexec, hland, hfiles, hsur, hvx, hcu, hentries, hother, hempty, fun hne hhold => ?_⟩
  rw [harray hne hhold, mxStepped_mmEw rfl rfl]
  obtain ⟨honly, hregs, hstate, hplane⟩ := Array_.endPlane_setPlane (s.array (mxArray h)) (mxPart h) b.p.plane _ (.held (isBack h))
  refine ⟨honly, hregs, hstate, fun k => ?_⟩
  rw [hplane]
  exact get_ewPlane (geom_cols_le _ _) hwf hrows hcols _ k

end Sys2Proof.Machine
end

/-! ### MM_ST (O19) -/

section
namespace Sys2Proof.Machine

/-! #### The elements that a tile adds to (R137, R167) -/

/-- The streamed row of a position: an input-stationary command adds the transposed result (R161). -/
def stRowOf (p : MxParams) (q : Nat × Nat) : Nat := if stIs p then q.2 else q.1

/-- The column of the product at a position. -/
def stColOf (p : MxParams) (q : Nat × Nat) : Nat := if stIs p then q.1 else q.2

/-- The positions that a tile adds to, in order. -/
def stCells (p : MxParams) : List (Nat × Nat) :=
  if stIs p then (extent p.m.toNat p.n.toNat).map Prod.swap else extent p.m.toNat p.n.toNat

theorem mem_stCells {p : MxParams} {q : Nat × Nat} : q ∈ stCells p ↔ stRowOf p q < p.m.toNat ∧ stColOf p q < p.n.toNat := by
  obtain ⟨r, c⟩ := q
  unfold stCells stRowOf stColOf
  split
  · simp [mem_extent]
  · exact mem_extent

theorem nodup_stCells (p : MxParams) : (stCells p).Nodup := by
  unfold stCells
  split
  · exact (nodup_extent _ _).map Prod.swap_injective
  · exact nodup_extent _ _

/-- The extent and the stationary tiles of an MM_ST lie in its partition (R162). -/
structure StInside (p : MxParams) (g : Geom) : Prop where
  cols : g.col0 + g.cols ≤ 256
  cells : ∀ q ∈ stCells p, q.1 < g.rows ∧ q.2 < g.cols
  tile : p.n.toNat ≤ if stRow p then g.rows else g.cols

/-- An index of the partition is an enabled element of the extent. -/
def stTouched (i : Issued) (p : MxParams) (g : Geom) (k : Nat) : Bool :=
  g.has k && decide (stRowOf p (g.cell k) < p.m.toNat) && decide (stColOf p (g.cell k) < p.n.toNat) &&
  enabled i.masks p (g.cell k).1 (g.cell k).2

/-- What one tile adds to the element at an index. -/
def stSum (s : State) (i : Issued) (p : MxParams) (g : Geom) (vv : RView) (l : Loaded) (reg : Store 32) (t : Nat) (q : Nat × Nat)
    (w : BitVec 40) : BitVec 40 :=
  toF40 (add40 (ofF40 w) (stDot s i p g vv l reg t (stRowOf p q) (stColOf p q)))

theorem stTile_eq (s : State) (i : Issued) (p : MxParams) (g : Geom) (vv : RView) (l : Loaded) (reg : Store 32) (t : Nat)
    (m : Store 40) : stTile s i p g vv l reg t m =
      writeCells g (enabled i.masks p) (fun r c => stSum s i p g vv l reg t (r, c)) (stCells p) m := by
  unfold stTile writeCells stCells stSum stRowOf stColOf
  by_cases hst : stIs p = true
  · simp only [hst, if_true, List.foldl_map, Prod.fst_swap, Prod.snd_swap]
    rfl
  · simp only [hst, Bool.false_eq_true, if_false]
    rfl

section
variable {s : State} {i : Issued} {p : MxParams} {g : Geom} (hin : StInside p g)
include hin

theorem get_stTile (vv : RView) (l : Loaded) (reg : Store 32) (t : Nat) {m : Store 40} (hm : m.wf = true) (k : Nat) :
    Store.get (stTile s i p g vv l reg t m) k =
      if stTouched i p g k then stSum s i p g vv l reg t (g.cell k) (Store.get m k) else Store.get m k := by
  rw [stTile_eq, get_writeCells hin.cols _ _ (nodup_stCells p) hin.cells hm]
  simp only [mem_stCells, stTouched, Bool.and_eq_true, decide_eq_true_eq, and_assoc]

/-- A tile reads of its register no word outside the partition. -/
theorem stSum_congr (vv : RView) (l : Loaded) {reg reg' : Store 32}
    (hreg : ∀ k, g.has k = true → Store.get reg k = Store.get reg' k) (t : Nat) {q : Nat × Nat} (hq : stColOf p q < p.n.toNat) :
    stSum s i p g vv l reg t q = stSum s i p g vv l reg' t q := by
  have hdot : stDot s i p g vv l reg t (stRowOf p q) (stColOf p q) = stDot s i p g vv l reg' t (stRowOf p q) (stColOf p q) := by
    have htile := hin.tile
    unfold stDot
    refine congrArg (treeRed add40 8) (List.map_congr_left fun y hy => ?_)
    have hy : y < redLen g p := List.mem_range.mp hy
    unfold redLen at hy
    cases hrow : stRow p <;> simp only [hrow, Bool.false_eq_true, if_true, if_false] at hy htile ⊢
    · rw [hreg _ (Geom.has_idx hin.cols (by omega) hy)]
    · rw [hreg _ (Geom.has_idx hin.cols hy (by omega))]
  funext w
  rw [stSum, hdot, stSum]

end

/-! #### A register loaded with a tile (R132, R137, R167) -/

/-- The positions that a load of a tile writes, in order. -/
def loadCells (p : MxParams) (g : Geom) (t : Nat) : List (Nat × Nat) :=
  if stRow p then extent p.n.toNat (min (redLen g p) (p.k.toNat - t * redLen g p))
  else extent (min (redLen g p) (p.k.toNat - t * redLen g p)) p.n.toNat

/-- The stored element of view 1 that a tile brings to a position. -/
def loadWord (s : State) (p : MxParams) (g : Geom) (v : RView) (t : Nat) (q : Nat × Nat) : W32 :=
  let w := if stRow p then s.rawAt v q.1 (t * redLen g p + q.2) else s.rawAt v (t * redLen g p + q.1) q.2
  stWord v.format w.1 w.2

/-- The word of a position of the partition after a load: 0 beyond the tile (log entry 97). -/
def tileWord (s : State) (p : MxParams) (g : Geom) (v : RView) (t : Nat) (q : Nat × Nat) : W32 :=
  let red := if stRow p then q.2 else q.1
  let out := if stRow p then q.1 else q.2
  if out < p.n.toNat && red < redLen g p && t * redLen g p + red < p.k.toNat then loadWord s p g v t q else 0#32

theorem mem_loadCells {p : MxParams} {g : Geom} {t : Nat} {q : Nat × Nat} : q ∈ loadCells p g t ↔
    (if stRow p then q.1 else q.2) < p.n.toNat ∧ (if stRow p then q.2 else q.1) < redLen g p ∧
      t * redLen g p + (if stRow p then q.2 else q.1) < p.k.toNat := by
  unfold loadCells
  cases stRow p <;> simp only [Bool.false_eq_true, if_true, if_false, mem_extent] <;> omega

theorem nodup_loadCells (p : MxParams) (g : Geom) (t : Nat) : (loadCells p g t).Nodup := by
  unfold loadCells
  split <;> exact nodup_extent _ _

theorem loadTile_eq (s : State) (p : MxParams) (g : Geom) (v : RView) (t : Nat) (m : Store 32) : loadTile s p g v t m =
    writeCells g (fun _ _ => true) (fun r c _ => loadWord s p g v t (r, c)) (loadCells p g t) (m.filter fun q => !g.has q.1) := rfl

/-- A load replaces the words of the partition and leaves the others. -/
theorem get_loadTile {s : State} {p : MxParams} {g : Geom} (hin : StInside p g) (v : RView) (t : Nat) {m : Store 32} (hm : m.wf = true)
    (k : Nat) : Store.get (loadTile s p g v t m) k = if !g.has k then Store.get m k else tileWord s p g v t (g.cell k) := by
  have hcells : ∀ q ∈ loadCells p g t, q.1 < g.rows ∧ q.2 < g.cols := fun q hq => by
    have htile := hin.tile
    obtain ⟨hout, hred, -⟩ := mem_loadCells.mp hq
    unfold redLen at hred
    cases hrow : stRow p <;> simp only [hrow, Bool.false_eq_true, if_true, if_false] at hout hred htile <;> omega
  rw [loadTile_eq, get_writeCells hin.cols _ _ (nodup_loadCells p g t) hcells (Store.wf_filter m _ hm),
    Store.get_filter m (fun a => !g.has a)]
  cases hk : g.has k
  · simp
  · simp only [mem_loadCells, tileWord, true_and, and_true, Bool.not_true, Bool.false_eq_true, if_false, Bool.and_eq_true,
      decide_eq_true_eq, and_assoc]
    rfl

/-! #### Registers of an array (R131, R134) -/

theorem Array_.st_setSt (a : Array_) (r : Bool) (m : Store 32) : (a.setSt r m).st r = m := by cases r <;> rfl

theorem Array_.st_setSt_other (a : Array_) (r : Bool) (m : Store 32) : (a.setSt r m).st (!r) = a.st (!r) := by cases r <;> rfl

theorem Array_.part_setSt (a : Array_) (r : Bool) (m : Store 32) (p : Fin 4) : (a.setSt r m).part p = a.part p := by cases r <;> rfl

theorem Array_.st_setPart (a : Array_) (p : Fin 4) (k : Part) (r : Bool) : (a.setPart p k).st r = a.st r := rfl

theorem Array_.plane_setPart (a : Array_) (p : Fin 4) (k : Part) (pl : Bool) : (a.setPart p k).plane pl = a.plane pl := rfl

theorem Part.reg_setReg (k : Part) (r : Bool) (x : Option Loaded) : (k.setReg r x).reg r = x := by cases r <;> rfl

theorem Part.reg_setReg_other (k : Part) (r : Bool) (x : Option Loaded) : (k.setReg r x).reg (!r) = k.reg (!r) := by cases r <;> rfl

/-- Tiles take the two registers in turn (R167). -/
theorem tileReg_succ (p : MxParams) (t : Nat) : tileReg p (t + 1) = !tileReg p t := by
  obtain ht | ht := Nat.mod_two_eq_zero_or_one t <;> simp [tileReg, Nat.add_mod, ht]

theorem tileReg_zero (p : MxParams) : tileReg p 0 = p.sreg := by simp [tileReg]

/-! #### The steps of an MM_ST (R167, R175) -/

/-- The array in which an MM_ST starts. -/
def stStart (s : State) (p : MxParams) (n pt : Fin 4) : Array_ :=
  (s.array n).setPlane p.plane (startPlane ((s.array n).plane p.plane) (geom (s.array n).mode pt.1) p.start)

theorem get_plane_stStart (s : State) (p : MxParams) (n pt : Fin 4) (k : Nat) : Store.get ((stStart s p n pt).plane p.plane) k =
    if p.start || !(geom (s.array n).mode pt.1).has k then Store.get ((s.array n).plane p.plane) k else 0#40 := by
  rw [stStart, Array_.plane_setPlane, get_startPlane]

theorem wordsOk_stStart {s : State} (hmem : s.memoryOk = true) (p : MxParams) (n pt : Fin 4) : (stStart s p n pt).wordsOk = true :=
  Array_.wordsOk_setPlane (State.wordsOk_array hmem n) _ (wf_startPlane (Array_.wf_plane (State.wordsOk_array hmem n) _) _ _)

theorem onlyPlane_stStart (s : State) (p : MxParams) (n pt : Fin 4) : onlyPlane (s.array n) (stStart s p n pt) pt p.plane :=
  onlyPlane_setPlane (onlyPlane_refl _ _ _) _

theorem st_stStart (s : State) (p : MxParams) (n pt : Fin 4) (r : Bool) : (stStart s p n pt).st r = (s.array n).st r :=
  Array_.st_setPlane _ _ _ _

theorem part_stStart (s : State) (p : MxParams) (n pt : Fin 4) : (stStart s p n pt).part pt = (s.array n).part pt :=
  Array_.part_setPlane _ _ _ _

/-- Loads change only registers, and sums only the command's plane. -/
theorem onlyPlane_stRun (s : State) (i : Issued) (p : MxParams) (n pt : Fin 4) (vv : RView) (v1 : Option RView) :
    onlyPlane (s.array n) (stRun s i p n pt vv v1) pt p.plane := by
  have hstart := onlyPlane_stStart s p n pt
  unfold stRun
  extract_lets a g a0
  split
  · exact hstart
  · refine List.foldlRecOn (motive := fun b : Array_ => onlyPlane (s.array n) b pt p.plane) _ _ hstart fun b hb t _ => ?_
    extract_lets r a1
    have h1 : onlyPlane (s.array n) a1 pt p.plane := by
      unfold a1
      split
      · refine onlyPlane_setPart (onlyPlane_setSt hb _ _) ?_
        rw [Array_.part_setSt, Part.plane_setReg]
      · exact hb
    clear_value a1
    split
    · exact onlyPlane_setPlane h1 _
    · exact h1

/-- With K = 0 nothing loads and nothing is added. -/
theorem stRun_noSteps (s : State) (i : Issued) {p : MxParams} (n pt : Fin 4) (vv : RView) (v1 : Option RView) (hk : p.k = 0#17) :
    stRun s i p n pt vv v1 = stStart s p n pt := if_pos hk

/-- With SLOAD = 0 the one tile is added from the register as it stands. -/
theorem stRun_kept {s : State} {i : Issued} {p : MxParams} {n pt : Fin 4} (vv : RView) (v1 : Option RView) {l : Loaded}
    (hk : p.k ≠ 0#17) (hload : p.sload = false) (hone : tiles (geom (s.array n).mode pt.1) p = 1)
    (hreg : ((s.array n).part pt).reg p.sreg = some l) :
    stRun s i p n pt vv v1 = (stStart s p n pt).setPlane p.plane (stTile s i p (geom (s.array n).mode pt.1) vv l
      ((s.array n).st p.sreg) 0 ((stStart s p n pt).plane p.plane)) := by
  have hreg' : ((stStart s p n pt).part pt).reg p.sreg = some l := by rwa [part_stStart]
  rw [← st_stStart]
  unfold stRun
  simp only [hk, hone, hload, if_false, List.range_one, List.foldl_cons, List.foldl_nil, tileReg_zero]
  rw [← stStart, hreg']

section
variable (s : State) (i : Issued) (p : MxParams) (g : Geom) (pt : Fin 4) (vv v : RView)

/-- One tile of an MM_ST that loads its registers: the tile's register, then the sums. -/
def stLoadStep (a : Array_) (t : Nat) : Array_ :=
  let r := tileReg p t
  let reg := loadTile s p g v t (a.st r)
  ((a.setSt r reg).setPart pt ((a.part pt).setReg r (some (loadRecord i v)))).setPlane p.plane
    (stTile s i p g vv (loadRecord i v) reg t (a.plane p.plane))

/-- The first `T` tiles of such a command. -/
def stLoadSteps (a : Array_) (T : Nat) : Array_ := (List.range T).foldl (stLoadStep s i p g pt vv v) a

theorem stLoadSteps_succ (a : Array_) (T : Nat) : stLoadSteps s i p g pt vv v a (T + 1) =
    stLoadStep s i p g pt vv v (stLoadSteps s i p g pt vv v a T) T := by
  simp [stLoadSteps, List.range_succ]

theorem plane_stLoadStep (a : Array_) (t : Nat) : (stLoadStep s i p g pt vv v a t).plane p.plane =
    stTile s i p g vv (loadRecord i v) (loadTile s p g v t (a.st (tileReg p t))) t (a.plane p.plane) :=
  Array_.plane_setPlane _ _ _

theorem st_stLoadStep (a : Array_) (t : Nat) :
    (stLoadStep s i p g pt vv v a t).st (tileReg p t) = loadTile s p g v t (a.st (tileReg p t)) :=
  (Array_.st_setPlane _ _ _ _).trans (Array_.st_setSt _ _ _)

theorem st_stLoadStep_other (a : Array_) (t : Nat) : (stLoadStep s i p g pt vv v a t).st (!tileReg p t) = a.st (!tileReg p t) :=
  (Array_.st_setPlane _ _ _ _).trans (Array_.st_setSt_other _ _ _)

theorem part_stLoadStep (a : Array_) (t : Nat) :
    (stLoadStep s i p g pt vv v a t).part pt = (a.part pt).setReg (tileReg p t) (some (loadRecord i v)) :=
  (Array_.part_setPlane _ _ _ _).trans (Array_.part_setPart _ _ _)

theorem wordsOk_stLoadStep {a : Array_} (ha : a.wordsOk = true) (t : Nat) : (stLoadStep s i p g pt vv v a t).wordsOk = true := by
  have hreg := Array_.wordsOk_setSt ha (tileReg p t) (wf_loadTile s p g v t (Array_.wf_st ha (tileReg p t)))
  have hsum := fun reg => wf_stTile s i p g vv (loadRecord i v) reg t (Array_.wf_plane ha p.plane)
  exact Array_.wordsOk_setPlane ((Array_.wordsOk_setPart _ _ _).trans hreg) _ (hsum _)

theorem wordsOk_stLoadSteps {a : Array_} (ha : a.wordsOk = true) (T : Nat) : (stLoadSteps s i p g pt vv v a T).wordsOk = true := by
  induction T with
  | zero => exact ha
  | succ T ih => rw [stLoadSteps_succ]; exact wordsOk_stLoadStep s i p g pt vv v ih T

/-- One tile leaves the other register. -/
theorem otherReg_stLoadSteps_one (a : Array_) :
    (stLoadSteps s i p g pt vv v a 1).st (!p.sreg) = a.st (!p.sreg) ∧
    ((stLoadSteps s i p g pt vv v a 1).part pt).reg (!p.sreg) = (a.part pt).reg (!p.sreg) := by
  rw [stLoadSteps_succ, ← tileReg_zero p]
  refine ⟨st_stLoadStep_other s i p g pt vv v a 0, ?_⟩
  rw [part_stLoadStep, Part.reg_setReg_other]
  rfl

/-- In `b` the register of a tile is loaded with it, and its words outside the partition are those of `a`. -/
def holdsTile (a b : Array_) (q : Nat) : Prop :=
  (b.part pt).reg (tileReg p q) = some (loadRecord i v) ∧
  ∀ k, Store.get (b.st (tileReg p q)) k = if !g.has k then Store.get (a.st (tileReg p q)) k else tileWord s p g v q (g.cell k)

/-- The next tile takes the other register. -/
theorem holdsTile_stLoadStep {a b : Array_} {q : Nat} (h : holdsTile s i p g pt v a b q) :
    holdsTile s i p g pt v a (stLoadStep s i p g pt vv v b (q + 1)) q := by
  have hother : tileReg p q = !tileReg p (q + 1) := by rw [tileReg_succ, Bool.not_not]
  unfold holdsTile at h ⊢
  rwa [hother, part_stLoadStep, Part.reg_setReg_other, st_stLoadStep_other, ← hother]

variable {g} (hin : StInside p g) {a : Array_} (ha : a.wordsOk = true)
include hin ha

/-- The elements gain the sums of all tiles in turn (R138, R167). -/
theorem get_plane_stLoadSteps (T k : Nat) : Store.get ((stLoadSteps s i p g pt vv v a T).plane p.plane) k =
    if stTouched i p g k then
      (List.range T).foldl (fun w q => stSum s i p g vv (loadRecord i v) (loadTile s p g v q []) q (g.cell k) w)
        (Store.get (a.plane p.plane) k)
    else Store.get (a.plane p.plane) k := by
  induction T with
  | zero => exact (ite_self _).symm
  | succ T ih =>
    have hwords := wordsOk_stLoadSteps s i p g pt vv v ha T
    rw [stLoadSteps_succ, plane_stLoadStep, get_stTile hin _ _ _ _ (Array_.wf_plane hwords _), ih]
    by_cases htouch : stTouched i p g k = true
    · have hcol : stColOf p (g.cell k) < p.n.toNat := by
        simp only [stTouched, Bool.and_eq_true, decide_eq_true_eq] at htouch
        exact htouch.1.2
      rw [if_pos htouch, if_pos htouch, if_pos htouch, List.range_succ, List.foldl_concat]
      refine congrFun (stSum_congr hin vv _ (fun k hk => ?_) T hcol) _
      rw [get_loadTile hin v T (Array_.wf_st hwords _), get_loadTile hin v T (m := []) rfl]
      simp [hk]
    · rw [if_neg htouch, if_neg htouch, if_neg htouch]

/-- Words of the registers outside the partition stay. -/
theorem get_st_stLoadSteps_outside (T : Nat) (r : Bool) {k : Nat} (hk : g.has k = false) :
    Store.get ((stLoadSteps s i p g pt vv v a T).st r) k = Store.get (a.st r) k := by
  induction T with
  | zero => rfl
  | succ T ih =>
    have hwords := wordsOk_stLoadSteps s i p g pt vv v ha T
    rw [stLoadSteps_succ, ← ih]
    by_cases hr : r = tileReg p T
    · rw [hr, st_stLoadStep, get_loadTile hin v T (Array_.wf_st hwords _)]
      simp [hk]
    · rw [Bool.eq_not.mpr hr, st_stLoadStep_other]

/-- A tile that has just been loaded stands in its register. -/
theorem holdsTile_last (q : Nat) : holdsTile s i p g pt v a (stLoadSteps s i p g pt vv v a (q + 1)) q := by
  have hwords := wordsOk_stLoadSteps s i p g pt vv v ha q
  rw [stLoadSteps_succ]
  refine ⟨by rw [part_stLoadStep, Part.reg_setReg], fun k => ?_⟩
  rw [st_stLoadStep, get_loadTile hin v q (Array_.wf_st hwords _)]
  cases hk : g.has k
  · rw [get_st_stLoadSteps_outside s i p pt vv v hin ha q _ hk]
  · rfl

/-- The registers of the last two tiles hold them: the last tile does not use the register of the one before it. -/
theorem holdsTile_stLoadSteps {T q : Nat} (hq : q < T) (hT : T ≤ q + 2) :
    holdsTile s i p g pt v a (stLoadSteps s i p g pt vv v a T) q := by
  have hlast := holdsTile_last s i p pt vv v hin ha q
  obtain rfl | rfl : T = q + 1 ∨ T = q + 2 := by omega
  · exact hlast
  · rw [stLoadSteps_succ]
    exact holdsTile_stLoadStep s i p g pt vv v hlast

end

/-- With SLOAD = 1 every tile loads its register before it is added. -/
theorem stRun_loads {s : State} {i : Issued} {p : MxParams} {n pt : Fin 4} (vv v : RView) (hk : p.k ≠ 0#17) (hload : p.sload = true) :
    stRun s i p n pt vv (some v) = stLoadSteps s i p (geom (s.array n).mode pt.1) pt vv v (stStart s p n pt)
      (tiles (geom (s.array n).mode pt.1) p) := by
  unfold stRun stLoadSteps
  simp only [hk, hload, if_false]
  rw [← stStart]
  refine congrArg (fun f => List.foldl f _ _) (funext fun a => funext fun t => ?_)
  simp only [Array_.part_setPart, Part.reg_setReg, Array_.st_setPart, Array_.st_setSt, Array_.plane_setPart, Array_.plane_setSt]
  rfl

/-! #### An MM_ST that issues (R134, R161, R162, R167) -/

theorem stateDecodeFault_of_decodeFault {s : State} {e : Entry} (h : s.decodeFault e = none) : s.stateDecodeFault e = none := by
  unfold State.decodeFault at h
  dsimp only at h
  split at h
  · simp at h
  · split at h
    · simp at h
    · simp at h
    · exact Option.map_eq_none_iff.mp h

section
variable {s : State} {x : Ctx} {h : Header} {b : MxBody}

theorem mmSt_inside (hi : s.issues x h (.mmSt b) = true) : StInside b.p (geom (s.array (mxArray h)).mode (mxPart h).1) := by
  obtain ⟨hrows, hcols⟩ := mxExtent_inside (b := b) rfl hi
  have hout := State.mxInside_of_issues (b := b) rfl hi
  simp only [mxOutside, Bool.or_eq_false_iff] at hout
  obtain ⟨-, htile⟩ := hout
  refine ⟨geom_cols_le _ _, fun q hq => ?_, ?_⟩
  · obtain ⟨hr, hc⟩ := mem_stCells.mp hq
    unfold mxExtent at hrows hcols
    unfold stRowOf at hr
    unfold stColOf at hc
    cases hst : stIs b.p <;> simp only [hst, Bool.false_eq_true, if_true, if_false] at hrows hcols hr hc <;> omega
  · cases hrow : stRow b.p <;> simpa [hrow] using htile

/-- With SLOAD = 0 one tile holds all K positions (R161, R167). -/
theorem mmSt_oneTile (hd : s.decodes x h (.mmSt b) = true) (hload : b.p.sload = false) :
    tiles (geom (s.array (mxArray h)).mode (mxPart h).1) b.p = 1 := by
  simp only [State.decodes, Bool.and_eq_true, Option.isNone_iff_eq_none] at hd
  obtain ⟨⟨-, hfault⟩, -⟩ := hd
  have hstate := stateDecodeFault_of_decodeFault hfault
  have hbad : mmStDecodeBad s.settleSwaps h b = false := by
    cases hbad : mmStDecodeBad s.settleSwaps h b with
    | false => rfl
    | true => simp [State.stateDecodeFault, State.entryOf, hbad, orFault] at hstate
  simp only [mmStDecodeBad, hload, Bool.or_eq_false_iff, Bool.not_false, Bool.true_and, bne_eq_false_iff_eq] at hbad
  obtain ⟨⟨htiles, hzero⟩, -⟩ := hbad
  rw [hzero] at htiles
  exact htiles.symm

/-- With SLOAD = 0 the register is loaded (R134, R167). -/
theorem mmSt_register (hi : s.issues x h (.mmSt b) = true)
    (hstart : (s.begun x h (.mmSt b)).startFault (s.issuedOf x h (.mmSt b)) = none) (hload : b.p.sload = false) :
    ∃ l, ((s.array (mxArray h)).part (mxPart h)).reg b.p.sreg = some l := by
  obtain ⟨hh, -, -⟩ := State.heading_of_issues hi
  obtain ⟨-, -, hmx, -⟩ := State.begun_fields hh
  have hpart : (s.begun x h (.mmSt b)).partAhead (mxArray h) (mxPart h) = (s.array (mxArray h)).part (mxPart h) := by
    rw [State.partAhead, State.begun_idle (b := b) rfl hi, State.array, hmx]
    rfl
  have hok : regBad h b.p ((s.array (mxArray h)).part (mxPart h)) = false := by
    rw [← hpart]
    cases hbad : regBad h b.p ((s.begun x h (.mmSt b)).partAhead (mxArray h) (mxPart h)) with
    | false => rfl
    | true =>
      have hfault : (s.begun x h (.mmSt b)).startFault (s.issuedOf x h (.mmSt b)) = some Code.arrayState :=
        if_pos (by simp [arrayStateBad, State.issuedOf, State.issued, hbad])
      simp [hfault] at hstart
  cases hreg : ((s.array (mxArray h)).part (mxPart h)).reg b.p.sreg with
  | none => simp [regBad, hload, hreg] at hok
  | some l => exact ⟨l, rfl⟩

end

theorem mxStepped_mmSt {s : State} {i : Issued} {h : Header} {b : MxBody} {vv : RView} (hc : i.e.cmd = ⟨h, .mmSt b⟩)
    (hs : i.stepped = false) (hvv : viewAt i.views 0 = some vv) :
    mxStepped s i b = stRun s i b.p (mxArray h) (mxPart h) vv (viewAt i.views 1) := by
  simp only [mxStepped, hc, hs, hvv, Bool.false_eq_true, if_false]

/-- Settles O19: each tile writes each enabled element of the extent once, from the word that the tiles before it left; the two registers
take the tiles in turn, so that the last load of each stands. -/
theorem mmSt : Obligations.MmSt := by
  intro s x h b hx hmem
  obtain ⟨t, hexec, hland, hfiles, hsur, hvx, hcu, hentries, hother, hempty, harray⟩ :=
    mx_effect_hold (b := b) (c := .mmSt x h b) rfl rfl hx hmem
  obtain ⟨hi, hstart⟩ := State.issues_of_completes hx
  obtain ⟨hh, -, -⟩ := State.heading_of_issues hi
  have hin := mmSt_inside hi
  have hwords := wordsOk_stStart hmem b.p (mxArray h) (mxPart h)
  obtain ⟨vv, hvv⟩ := mmSt_view s x h b
  refine ⟨t, hexec, hland, hfiles, hsur, hvx, hcu, hentries, hother, hempty, fun hne hhold => ?_, fun hne hhold hload hk => ?_,
    fun hne hhold hload hk => ?_, fun hne hhold hk => ?_⟩ <;> rw [harray hne hhold, mxStepped_mmSt rfl rfl hvv]
  · exact ⟨onlyPlane_endPlane (onlyPlane_stRun s _ b.p _ _ vv _) _, Array_.endPlane_state _ _ _ _⟩
  · obtain ⟨l, hl⟩ := mmSt_register hi hstart hload
    rw [stRun_kept vv _ hk hload (mmSt_oneTile (State.decodes_of_heading hh) hload) hl]
    refine ⟨vv, l, hvv, hl, sameRegs_endPlane (fun r => ⟨?_, ?_⟩) _, fun k => ?_⟩
    · rw [Array_.st_setPlane, st_stStart]
    · rw [Array_.part_setPlane, part_stStart]
    · rw [Array_.plane_endPlane, Array_.plane_setPlane]
      refine (get_stTile hin vv l _ 0 (Array_.wf_plane hwords _) k).trans ?_
      rw [get_plane_stStart]
      rfl
  · obtain ⟨v, hv⟩ := mmSt_loadView s x h hload
    rw [hv, stRun_loads vv v hk hload]
    refine ⟨vv, v, hvv, rfl, fun k => ?_, fun q hq hlast => ?_, fun hone => ?_⟩
    · rw [Array_.plane_endPlane, get_plane_stLoadSteps s _ b.p _ vv v hin hwords, get_plane_stStart]
      rfl
    · obtain ⟨hreg, hst⟩ := holdsTile_stLoadSteps s (s.issuedOf x h (.mmSt b)) b.p (mxPart h) vv v hin hwords hq hlast
      refine ⟨(Array_.reg_endPlane _ _ _ _ _).trans hreg, fun k => ?_⟩
      rw [Array_.st_endPlane]
      refine (hst k).trans ?_
      rw [st_stStart]
      rfl
    · rw [hone]
      obtain ⟨hst, hreg⟩ := otherReg_stLoadSteps_one s (s.issuedOf x h (.mmSt b)) b.p (geom (s.array (mxArray h)).mode (mxPart h).1)
        (mxPart h) vv v (stStart s b.p (mxArray h) (mxPart h))
      rw [Array_.st_endPlane, Array_.reg_endPlane, hst, hreg, st_stStart, part_stStart]
      exact ⟨rfl, rfl⟩
  · rw [stRun_noSteps _ _ _ _ _ _ hk]
    refine ⟨sameRegs_endPlane (sameRegs_setPlane _ _ _ _) _, fun k => ?_⟩
    rw [Array_.plane_endPlane, get_plane_stStart]

end Sys2Proof.Machine
end

/-! ### Replays and faults of a command in execution (O31, O32) -/

section
namespace Sys2Proof.Machine

/-! #### What the fault of a command leaves as it was (R55, R56) -/

/-- The fences, the slots and tables of VX and Crucible, and the words in error are the same. -/
def sameStores (s t : State) : Prop := t.rep = s.rep ∧ t.vx = s.vx ∧ t.cu = s.cu ∧ t.spad.bad = s.spad.bad

theorem sameStores_refl (s : State) : sameStores s s := ⟨rfl, rfl, rfl, rfl⟩

theorem sameStores_trans (a b c : State) (hab : sameStores a b) (hbc : sameStores b c) : sameStores a c := by
  obtain ⟨hrep, hvx, hcu, hbad⟩ := hab
  obtain ⟨hrep', hvx', hcu', hbad'⟩ := hbc
  exact ⟨hrep'.trans hrep, hvx'.trans hvx, hcu'.trans hcu, hbad'.trans hbad⟩

theorem sameStores_foldl {α : Type} {f : State → α → State} (hf : ∀ s a, sameStores s (f s a)) (l : List α) (s : State) :
    sameStores s (l.foldl f s) :=
  foldl_only sameStores sameStores_refl sameStores_trans f hf l s

theorem sameStores_of_onlyRg {s t : State} (h : onlyRg s t) : sameStores s t := by
  rw [h]
  exact sameStores_refl s

theorem sameStores_of_onlyMx {s t : State} (h : onlyMx s t) : sameStores s t := by
  rw [h]
  exact sameStores_refl s

theorem sameStores_of_onlyNote {s t : State} (h : onlyNote s t) : sameStores s t := by
  obtain ⟨hrest, -⟩ := h
  rw [hrest]
  exact sameStores_refl s

theorem vecOf_of_sameStores {s t : State} (h : sameStores s t) (cu : Bool) : t.vecOf cu = s.vecOf cu := by
  obtain ⟨-, hvx, hcu, -⟩ := h
  simp only [State.vecOf, hvx, hcu]

theorem State.scramble_sameStores (s : State) (i : Issued) : sameStores s (s.scramble i) := by
  unfold State.scramble State.freeBytes
  refine sameStores_foldl (fun s q => sameStores_foldl (fun s k => ?_) _ s) _ s
  split
  · exact sameStores_refl s
  · exact ⟨rfl, rfl, rfl, rfl⟩

theorem State.abandonTask_sameStores (s : State) (t : Fin 4) : sameStores s (s.abandonTask t) := by
  have hrefs := sameStores_trans s (s.withRg ⟨mapVec (fun e => { e with swapPending := false }) s.rg.tab⟩) _ (sameStores_refl s)
    (sameStores_foldl (fun s r => sameStores_of_onlyRg (State.releaseRef_only s (some r))) (s.taskRefs t) _)
  have hran := sameStores_trans _ _ _ hrefs
    (sameStores_foldl (fun s u => State.scramble_sameStores s u.2) (s.iu.busy.filter fun u => u.2.e.x.task = t) _)
  have hmine := sameStores_trans _ _ _ hran
    (sameStores_foldl (fun s u => sameStores_of_onlyRg (State.poisonOutputs_only s u.2))
      ((s.iu.staged ++ s.iu.exec).filter fun u => u.2.e.x.task = t) _)
  obtain ⟨hrep, hvx, hcu, hbad⟩ := hmine
  unfold State.abandonTask
  refine sameStores_trans _ _ _ ?_ (sameStores_of_onlyMx (State.emptyParts_only _ _))
  exact ⟨hrep, hvx, hcu, hbad⟩

theorem State.abortTaskAt_sameStores (s : State) (t : Fin 4) (code : Code) (dpi : W64) (w : Site) (detail : W64) :
    sameStores s (s.abortTaskAt t code dpi w detail) := by
  have hlog : sameStores s (s.logFatal t code dpi w detail) := sameStores_of_onlyNote (s.addLog_only _)
  have hend := sameStores_trans _ _ _ hlog (State.abandonTask_sameStores _ t)
  unfold State.abortTaskAt
  dsimp only
  generalize (s.logFatal t code dpi w detail).abandonTask t = v at hend ⊢
  generalize s.logFatal t code dpi w detail = l at hlog ⊢
  obtain ⟨hrep, hvx, hcu, hbad⟩ := hlog
  obtain ⟨hrep', hvx', hcu', hbad'⟩ := hend
  split
  · exact sameStores_refl s
  · split
    · split <;> exact ⟨hrep, hvx, hcu, hbad⟩
    · split <;> exact ⟨hrep', hvx', hcu', hbad'⟩

/-- A task-fatal fault leaves the counters, the predicates and the scalar file, whether it can abort its task or not. -/
theorem State.abortTaskAt_sameFiles (s : State) (t : Fin 4) (code : Code) (dpi : W64) (w : Site) (detail : W64) :
    (s.abortTaskAt t code dpi w detail).iu.ec = s.iu.ec ∧ samePdSf s (s.abortTaskAt t code dpi w detail) := by
  by_cases h : s.abortable t dpi = true
  · exact State.abortTaskAt_files h code w detail
  · by_cases hr : s.running t = true
    · rw [State.abortTaskAt_discarded hr (Bool.eq_false_iff.mpr h)]
      exact ⟨rfl, rfl, rfl⟩
    · have hst : ((s.task t).st != TaskState.running) = true := by simpa [State.running] using hr
      have hiu := s.logFatal_iu t code dpi w detail
      unfold State.abortTaskAt
      dsimp only
      rw [if_pos hst]
      split
      · exact ⟨rfl, rfl, rfl⟩
      · split
        · exact ⟨(congrArg Iu.ec hiu :), (congrArg Iu.pd hiu :), (congrArg Iu.sf hiu :)⟩
        · exact ⟨congrArg Iu.ec hiu, congrArg Iu.pd hiu, congrArg Iu.sf hiu⟩

/-- The state that a fault spoils keeps the issue unit, the log, the poison and `sameStores`. -/
def spoils (s t : State) : Prop := t.iu = s.iu ∧ keepsLogAndPoison s t ∧ sameStores s t

theorem spoils_trans {a b c : State} (hab : spoils a b) (hbc : spoils b c) : spoils a c :=
  ⟨hbc.1.trans hab.1, keepsLogAndPoison_trans a b c hab.2.1 hbc.2.1, sameStores_trans a b c hab.2.2 hbc.2.2⟩

theorem State.scramble_spoils (s : State) (i : Issued) : spoils s (s.scramble i) :=
  ⟨onlySpad_iu (s.scramble_only i), s.scramble_keepsLogAndPoison i, s.scramble_sameStores i⟩

theorem State.poisonOutputs_spoils (s : State) (i : Issued) : spoils s (s.poisonOutputs i) :=
  ⟨onlyRg_iu (s.poisonOutputs_only i), s.poisonOutputs_keepsLogAndPoison i, sameStores_of_onlyRg (s.poisonOutputs_only i)⟩

theorem State.poisonWords_spoils (s : State) (ws : List Nat) : spoils s (s.poisonWords ws) := by
  have hpoison : keepsLogAndPoison s (s.poisonWords ws) := keepsLogAndPoison_foldl (fun s w => by
    split
    · exact s.poison_keepsLogAndPoison _
    · exact keepsLogAndPoison_refl s) ws s
  exact ⟨onlyRg_iu (s.poisonWords_only ws), hpoison, sameStores_of_onlyRg (s.poisonWords_only ws)⟩

theorem State.closeRef_spoils (s : State) (e : Entry) : spoils s (s.closeRef e) := by
  refine ⟨s.closeRef_iu e, ?_, sameStores_of_onlyRg (s.closeRef_only e)⟩
  rw [State.closeRef_eq_releaseRef]
  exact s.releaseRef_keepsLogAndPoison e.ref

theorem State.freeTu_spoils (s : State) (i : Issued) : spoils s (s.freeTu i) := by
  have hrest := s.freeTu_rest i
  exact ⟨(congrArg State.iu hrest :), keepsLogAndPoison_of_rg (congrArg State.err hrest :) (congrArg State.rg hrest :),
    (congrArg State.rep hrest :), (congrArg State.vx hrest :), (congrArg State.cu hrest :),
    (congrArg (fun v : State => v.spad.bad) hrest :)⟩

/-- How a fault ends the task of a command that it can abort: nothing of the task is left, the fault is logged, and no counter, predicate
or scalar-file entry changes (R42, R56). -/
def faults (s t : State) (u : Fin 4) (code : Code) (dpi : W64) : Prop :=
  aborted t u code dpi ∧ logged s t code ∧ (∀ j, t.ec j = s.ec j) ∧ samePdSf s t

theorem faults_follow {s t : State} {u : Fin 4} {code : Code} {dpi : W64} (h : faults s t u code dpi) (p : State) :
    faults s (p.follow t) u code dpi := by
  obtain ⟨habort, hlog, hec, hfiles⟩ := h
  exact ⟨aborted_follow habort p, logged_follow hlog p, fun j => (State.ec_follow p t j).trans (hec j), samePdSf_follow hfiles p⟩

/-- A command that has left execution aborts its task once what it held is spoiled. -/
theorem faults_of_spoils {s v : State} {i : Issued} (hs : spoils (s.dropExec i) v) {u : Fin 4} {dpi : W64} (ha : s.abortable u dpi = true)
    (code : Code) (w : Site) (detail : W64) : faults s (v.abortTaskAt u code dpi w detail) u code dpi := by
  obtain ⟨hiu, ⟨herr, -⟩, -⟩ := hs
  have hav : v.abortable u dpi = true := (State.abortable_of_iu hiu u dpi).trans ha
  obtain ⟨habort, hlog, hec, ⟨hpd, hsf⟩, -⟩ := State.abortTaskAt_ends hav code w detail
  exact ⟨habort, logged_of_err hlog herr, fun j => (hec j).trans (State.ec_of_iu (congrArg Iu.ec hiu :) j),
    hpd.trans (congrArg Iu.pd hiu :), hsf.trans (congrArg Iu.sf hiu :)⟩

/-- What an execution fault spoils of a command before its task aborts (R55, R56, R72). -/
def State.spoiled (s : State) (i : Issued) (ws : List Nat) : State :=
  ((((s.scramble i).poisonOutputs i).poisonWords ws).freeTu i).closeRef i.e

theorem State.spoiled_spoils (s : State) (i : Issued) (ws : List Nat) : spoils s (s.spoiled i ws) :=
  spoils_trans (spoils_trans (spoils_trans (spoils_trans (s.scramble_spoils i) (State.poisonOutputs_spoils _ i))
    (State.poisonWords_spoils _ ws)) (State.freeTu_spoils _ i)) (State.closeRef_spoils _ i.e)

theorem State.execFaultAt_eq (s : State) (w : Site) (i : Issued) (code : Code) (dpi : W64) (ws : List Nat) :
    s.execFaultAt w i code dpi ws true =
      (s.spoiled i ws).abortTaskAt i.e.x.task code dpi (w.of i.e.cmd.h) (wordDetail ws) := rfl

end Sys2Proof.Machine
end

/-! ### Parity errors (O31) -/

section
namespace Sys2Proof.Machine

theorem State.follow_rep (s t : State) : (s.follow t).rep = t.rep := (congrArg State.rep (s.follow_rest t) :)
theorem State.vecOf_follow (s t : State) (cu : Bool) : (s.follow t).vecOf cu = t.vecOf cu :=
  (congrArg (fun v : State => v.vecOf cu) (s.follow_rest t) :)

/-- Replacing a command by one of its task and DPI. -/
theorem State.replayCmd_effect (s : State) (u : UnitId) (i : Issued) (code : Code) (loc : PhysLoc) :
    let t := s.replayCmd u i code loc
    t.iu = (s.putExec { i with replayed := true }).iu ∧ logged s t code ∧ t.spad = s.spad ∧ t.mx = s.mx := by
  have hnote := (s.putExec { i with replayed := true }).noteFor_only (BitVec.ofNat 2 i.e.x.task.1) code (s.unitSite u loc).unit
    (s.unitSite u loc).sub (s.unitSite u loc).loc i.e.x.dpi 0
  exact ⟨onlyNote_iu hnote, State.noteFor_logged (s.putExec { i with replayed := true }), (onlyNote_spad hnote).trans rfl,
    (congrArg State.mx hnote.1).trans rfl⟩

/-- What a replay, which is logged, leaves: its command marked and in its place, and nothing else of the issue unit. -/
def replays (s t : State) (i : Issued) (code : Code) : Prop :=
  t.iu.exec = (s.iu.exec.map fun q => if sameCmd q.2 i then (q.1, { i with replayed := true }) else q) ∧ logged s t code ∧
  t.spad = s.spad ∧ t.mx = s.mx ∧ t.iu.tasks = s.iu.tasks ∧ (∀ j, t.ec j = s.ec j) ∧ samePdSf s t

theorem State.replayCmd_replays (s : State) (u : UnitId) (i : Issued) (code : Code) (loc : PhysLoc) (p : State) :
    replays s (p.follow (s.replayCmd u i code loc)) i code := by
  obtain ⟨hiu, hlog, hspad, hmx⟩ := s.replayCmd_effect u i code loc
  refine ⟨?_, logged_follow hlog p, (State.follow_spad _ _).trans hspad, (State.follow_mx _ _).trans hmx, ?_, fun j => ?_, ?_⟩
  · rw [State.follow_iu, hiu]
    rfl
  · rw [State.follow_iu, hiu]
    rfl
  · rw [State.ec_follow]
    exact State.ec_of_iu (congrArg Iu.ec hiu :) j
  · exact samePdSf_follow ⟨(congrArg Iu.pd hiu :), (congrArg Iu.sf hiu :)⟩ p

/-- A command that fails aborts its task, if it can; whether or not, its signals do not land. -/
theorem State.failCmd_effect (s : State) (u : UnitId) (i : Issued) (code : Code) (loc : PhysLoc) :
    let t := s.failCmd u i code loc
    (s.abortable i.e.x.task i.e.x.dpi = true → faults s t i.e.x.task code i.e.x.dpi) ∧ (∀ j, t.ec j = s.ec j) ∧ samePdSf s t ∧
      sameStores s t := by
  have hspoils := (s.dropExec i).spoiled_spoils i []
  obtain ⟨hec, hpd, hsf⟩ := ((s.dropExec i).spoiled i []).abortTaskAt_sameFiles i.e.x.task code i.e.x.dpi
    ((s.unitSite u loc).of i.e.cmd.h) (wordDetail [])
  refine ⟨fun ha => faults_of_spoils hspoils ha code _ _, fun j => State.ec_of_iu ?_ j, ⟨?_, ?_⟩, ?_⟩
  · exact hec.trans (congrArg Iu.ec hspoils.1 :)
  · exact hpd.trans (congrArg Iu.pd hspoils.1 :)
  · exact hsf.trans (congrArg Iu.sf hspoils.1 :)
  · exact sameStores_trans _ _ _ hspoils.2.2 (State.abortTaskAt_sameStores _ _ _ _ _ _)

/-- What a parity error does to the command that it strikes. -/
def State.struck (s : State) (u : UnitId) (i : Issued) (loc : PhysLoc) : ParityEnd → State
  | .none_ => s
  | .replay c => s.replayCmd u i c loc
  | .fail c => s.failCmd u i c loc

theorem State.parity_eq {s : State} {u : UnitId} {hit : ParityHit} {i : Issued} (hi : nthOn u s.iu.exec hit.nth = some i)
    (f : Issued → ParityEnd) : s.parity u hit f = s.struck u i hit.loc (f i) := by
  simp only [State.parity, hi]
  cases f i <;> rfl

/-- A parity error that may be replayed replays its command once; any other fails it (R155, R156, R205, R237, R410). -/
theorem State.parity_effect {s : State} {u : UnitId} {hit : ParityHit} {i : Issued} (hi : nthOn u s.iu.exec hit.nth = some i)
    {f : Issued → ParityEnd} {may : Bool} {replay code : Code} (hf : f i = if may then .replay replay else .fail code) (p : State) :
    let t := p.follow (s.parity u hit f)
    (may = true → replays s t i replay) ∧
      (may = false → s.abortable i.e.x.task i.e.x.dpi = true → faults s t i.e.x.task code i.e.x.dpi) ∧
      (∀ j, t.ec j = s.ec j) ∧ samePdSf s t := by
  rw [State.parity_eq hi, hf]
  cases may with
  | true =>
    have hrep := s.replayCmd_replays u i replay hit.loc p
    have hfiles := hrep
    obtain ⟨-, -, -, -, -, hec, hfiles⟩ := hfiles
    exact ⟨fun _ => hrep, nofun, hec, hfiles⟩
  | false =>
    obtain ⟨hfaults, hec, hfiles, -⟩ := s.failCmd_effect u i code hit.loc
    exact ⟨nofun, fun _ ha => faults_follow (hfaults ha) p, fun j => (State.ec_follow _ _ j).trans (hec j), samePdSf_follow hfiles p⟩

/-- What an error of the steps or of a counter-generator block before the drain does to a command of an array (R155, R237). -/
theorem arrayEnd_replayable {at_ : ParityAt} {code : Code}
    (h : (at_ = .steps ∧ code = Code.arrayParity) ∨ (at_ = .cgMismatch false ∧ code = Code.cgMismatch)) (i : Issued) :
    arrayEnd i at_ = if !i.replayed then .replay Code.arrayReplay else .fail code := by
  obtain ⟨rfl, rfl⟩ | ⟨rfl, rfl⟩ := h <;> cases hr : i.replayed <;> simp [arrayEnd, hr]

/-- Errors of a held plane or register, and of the drain, fail the command at once (R156, R237). -/
theorem arrayEnd_fatal {at_ : ParityAt} {code : Code} (h : ((at_ = .heldPlane ∨ at_ = .heldRegister ∨ at_ = .drain) ∧
    code = Code.arrayParity) ∨ (at_ = .cgMismatch true ∧ code = Code.cgMismatch)) (i : Issued) :
    arrayEnd i at_ = if false then .replay Code.arrayReplay else .fail code := by
  obtain ⟨rfl | rfl | rfl, rfl⟩ | ⟨rfl, rfl⟩ := h <;> rfl

/-- A command of VX or Crucible may be replayed: it has not been, and no byte that it reads is written (R205). -/
def Issued.mayReplay (i : Issued) : Bool := !i.replayed && !i.aliases && !scatAdd i.e.auxBody

theorem vecEnd_replayable {at_ : ParityAt} {parity code : Code}
    (h : (at_ = .steps ∧ code = parity) ∨ (∃ d, at_ = .cgMismatch d ∧ code = Code.cgMismatch)) (i : Issued) (replay : Code) :
    vecEnd i at_ replay parity = if i.mayReplay then .replay replay else .fail code := by
  obtain ⟨rfl, rfl⟩ | ⟨d, rfl, rfl⟩ := h <;> rfl

/-- The replay command of a vector unit, with the unit and its two codes (R205, R410). -/
def vecReplayOf (loc : PhysLoc) (nth : Nat) (c : ParityAt → Instr) (u : UnitId) (replay parity : Code) : Prop :=
  (c = (fun a => .vxReplay ⟨a, loc, nth⟩) ∧ u = .vx ∧ replay = Code.vxReplay ∧ parity = Code.vxParity) ∨
  (c = (fun a => .cuReplay ⟨a, loc, nth⟩) ∧ u = .cu ∧ replay = Code.cuReplay ∧ parity = Code.cuParity)

/-- The state in which the slot or table that an error strikes is EMPTY. -/
def State.slotDropped (s : State) (cu : Bool) (at_ : ParityAt) : State := s.setVec cu ((s.vecOf cu).drop at_)

theorem exec_vecReplay {loc : PhysLoc} {nth : Nat} {c : ParityAt → Instr} {u : UnitId} {replay parity : Code}
    (hc : vecReplayOf loc nth c u replay parity) {s : State} {i : Issued} (hi : nthOn u s.iu.exec nth = some i) (at_ : ParityAt) :
    exec (c at_) s = .next (s.follow ((s.slotDropped (u == .cu) at_).parity u ⟨at_, loc, nth⟩ fun i => vecEnd i at_ replay parity)) := by
  obtain ⟨rfl, rfl, rfl, rfl⟩ | ⟨rfl, rfl, rfl, rfl⟩ := hc
  · simp only [exec, execVxReplay, hi, Option.isSome_some, if_true]
    rfl
  · simp only [exec, execCuReplay, hi, Option.isSome_some, if_true]
    rfl

/-- Emptying a slot or table changes nothing else. -/
theorem State.slotDropped_rest (s : State) (cu : Bool) (at_ : ParityAt) : ((s.slotDropped cu at_).withVx s.vx).withCu s.cu = s := by
  cases cu <;> rfl

theorem State.vecOf_slotDropped (s : State) (cu : Bool) (at_ : ParityAt) : (s.slotDropped cu at_).vecOf cu = (s.vecOf cu).drop at_ := by
  cases cu <;> rfl

theorem VecState.drop_progSlot (v : VecState) (k : Fin 32) : (v.drop (.progSlot k)).progs[k] = none := by
  simp [VecState.drop]

theorem VecState.drop_table (v : VecState) (k : Fin 8) : (v.drop (.table k)).tables[k] = none := by
  simp [VecState.drop]

/-- An error of a slot or table fails the command that runs and empties the slot or table (R205). -/
theorem exec_vecReplay_slot {loc : PhysLoc} {nth : Nat} {c : ParityAt → Instr} {u : UnitId} {replay parity : Code}
    (hc : vecReplayOf loc nth c u replay parity) {s : State} {i : Issued} (hi : nthOn u s.iu.exec nth = some i)
    (ha : s.abortable i.e.x.task i.e.x.dpi = true) {at_ : ParityAt} (hat : ∀ j, vecEnd j at_ replay parity = .fail parity) :
    ∃ t, exec (c at_) s = .next t ∧ aborted t i.e.x.task parity i.e.x.dpi ∧ t.vecOf (u == .cu) = (s.vecOf (u == .cu)).drop at_ := by
  have hrest := s.slotDropped_rest (u == .cu) at_
  have hiu : (s.slotDropped (u == .cu) at_).iu = s.iu := (congrArg State.iu hrest :)
  have hi' : nthOn u (s.slotDropped (u == .cu) at_).iu.exec nth = some i := by rw [hiu]; exact hi
  obtain ⟨hfaults, -, -, hstores⟩ := (s.slotDropped (u == .cu) at_).failCmd_effect u i parity loc
  obtain ⟨habort, -⟩ := hfaults ((State.abortable_of_iu hiu _ _).trans ha)
  refine ⟨_, exec_vecReplay hc hi at_, ?_⟩
  rw [State.parity_eq (hit := ⟨at_, loc, nth⟩) hi', hat]
  refine ⟨aborted_follow habort s, ?_⟩
  rw [State.vecOf_follow, ← State.vecOf_slotDropped]
  exact vecOf_of_sameStores hstores _

/-- Settles O31: an error that may be replayed marks the command in its place; any other is an execution fault, which ends its task. -/
theorem parityReplays : Obligations.ParityReplays := by
  refine ⟨fun s n p hit i code hi hkind => ?_, fun s n p hit i code hi hkind ha => ?_,
    fun c u loc nth replay parity hc s i hi => ⟨fun at_ code hat => ?_, fun ha => ⟨fun k => ?_, fun k => ?_⟩⟩⟩
  · obtain ⟨hrep, hfail, hec, hfiles⟩ := State.parity_effect (f := fun i => arrayEnd i hit.kind) hi (arrayEnd_replayable hkind i) s
    refine ⟨_, rfl, fun hr => ?_, fun hr ha => (hfail (by simp [hr]) ha).1, hec, hfiles⟩
    obtain ⟨hexec, hlog, hspad, hmx, htasks, -, -⟩ := hrep (by simp [hr])
    exact ⟨hexec, hlog, hspad, hmx, htasks⟩
  · obtain ⟨-, hfail, hec, hfiles⟩ := State.parity_effect (f := fun i => arrayEnd i hit.kind) hi (arrayEnd_fatal hkind i) s
    obtain ⟨habort, hlog, -, -⟩ := hfail rfl ha
    exact ⟨_, rfl, habort, hlog, hec, hfiles⟩
  · have hsame : s.slotDropped (u == .cu) at_ = s := by
      have hdrop : ∀ v : VecState, v.drop at_ = v := by obtain ⟨rfl, -⟩ | ⟨d, rfl, -⟩ := hat <;> exact fun _ => rfl
      rw [State.slotDropped, hdrop]
      cases (u == UnitId.cu) <;> rfl
    have hexec := exec_vecReplay hc hi at_
    rw [hsame] at hexec
    obtain ⟨hrep, hfail, hec, hfiles⟩ := State.parity_effect (s := s) (hit := ⟨at_, loc, nth⟩) (f := fun i => vecEnd i at_ replay parity)
      hi (vecEnd_replayable hat i replay) s
    refine ⟨_, hexec, hec, hfiles, fun hmay => ?_, fun hmay ha => (hfail hmay ha).1⟩
    obtain ⟨hput, hlog, hspad, -, htasks, -, -⟩ := hrep hmay
    exact ⟨hput, hlog, hspad, htasks⟩
  · obtain ⟨t, hexec, habort, hvec⟩ := exec_vecReplay_slot hc hi ha (at_ := .progSlot k) fun _ => rfl
    exact ⟨t, hexec, habort, by rw [hvec, VecState.drop_progSlot]⟩
  · obtain ⟨t, hexec, habort, hvec⟩ := exec_vecReplay_slot hc hi ha (at_ := .table k) fun _ => rfl
    exact ⟨t, hexec, habort, by rw [hvec, VecState.drop_table]⟩

end Sys2Proof.Machine
end

/-! ### Faults that engines find (O32) -/

section
namespace Sys2Proof.Machine

/-! #### What an execution fault poisons (R56, R72, R231) -/

theorem State.outHalves_eq {s t : State} (hrg : t.rg = s.rg) (hid : t.id = s.id) (i : Issued) : t.outHalves i = s.outHalves i := by
  have hhalves : t.halvesIn = s.halvesIn := congrArg (fun r : RegionTable => (s.withRg r).halvesIn) hrg
  have hown : t.ownPeerSpans i = s.ownPeerSpans i := congrArg (fun x : Ident => (s.withId x).ownPeerSpans i) hid
  rw [State.outHalves, State.outHalves, hhalves, hown]

/-- Poison leaves which regions are valid and split. -/
theorem State.region_poison_place (s : State) (h : Ref) (k : BitVec 6) :
    ((s.poison h).region k).valid = (s.region k).valid ∧ ((s.poison h).region k).split = (s.region k).split := by
  rw [State.poison, State.region_setRegion]
  split
  · next hk =>
    subst hk
    obtain ⟨hvalid, -, -, hsplit⟩ := Region.setPoison_place (s.region h.1) h.2 true
    exact ⟨hvalid, hsplit⟩
  · exact ⟨rfl, rfl⟩

/-- Each half of a split region that is poisoned along a list ends poisoned. -/
theorem State.foldl_poison_poisons {l : List Ref} {r : Ref} (hr : r ∈ l) {s : State} (hv : (s.region r.1).valid = true)
    (hs : (s.region r.1).split = true) : ((l.foldl State.poison s).region r.1).poisoned r.2 = true := by
  induction l generalizing s with
  | nil => cases hr
  | cons h l ih =>
    rw [List.foldl_cons]
    obtain rfl | hl := List.mem_cons.mp hr
    · refine (keepsLogAndPoison_foldl State.poison_keepsLogAndPoison l _).2 _ _ ?_
      rw [State.poison, State.region_setRegion, if_pos rfl]
      exact Region.poisoned_setPoison _ _ _ hv fun _ => hs
    · obtain ⟨hvalid, hsplit⟩ := s.region_poison_place h r.1
      exact ih hl (hvalid.trans hv) (hsplit.trans hs)

/-- The halves that a command writes are poisoned among what its fault spoils. -/
theorem State.spoiled_poisons {s : State} {i : Issued} {r : Ref} (hr : r ∈ s.outHalves i) (hv : (s.region r.1).valid = true)
    (hs : (s.region r.1).split = true) (ws : List Nat) : ((s.spoiled i ws).region r.1).poisoned r.2 = true := by
  obtain ⟨hscramble, -⟩ := s.scramble_only i
  have hrg : (s.scramble i).rg = s.rg := (congrArg State.rg hscramble).trans rfl
  have hid : (s.scramble i).id = s.id := (congrArg State.id hscramble).trans rfl
  have hregion : (s.scramble i).region r.1 = s.region r.1 := by simp only [State.region, hrg]
  have houts : (((s.scramble i).poisonOutputs i).region r.1).poisoned r.2 = true := by
    refine State.foldl_poison_poisons (State.outHalves_eq hrg hid i ▸ hr) ?_ ?_ <;> rwa [hregion]
  obtain ⟨-, ⟨-, hkeep⟩, -⟩ := spoils_trans (spoils_trans (State.poisonWords_spoils ((s.scramble i).poisonOutputs i) ws)
    (State.freeTu_spoils _ i)) (State.closeRef_spoils _ i.e)
  exact hkeep _ _ houts

/-- An execution fault of a command that it takes out of execution: its task aborts, and the halves that it writes are poisoned. -/
theorem State.execFault_effect {s : State} {i : Issued} {dpi : W64} (ha : s.abortable i.e.x.task dpi = true) (u : UnitId) (code : Code)
    (ws : List Nat) (p : State) :
    let t := p.follow ((s.dropExec i).execFault u i code dpi ws true)
    faults s t i.e.x.task code dpi ∧ t.spad.bad = s.spad.bad ∧
      ∀ r ∈ s.outHalves i, (s.region r.1).valid = true → (s.region r.1).split = true → (t.region r.1).poisoned r.2 = true := by
  have hspoils := (s.dropExec i).spoiled_spoils i ws
  have hfaults := faults_of_spoils hspoils ha code (((s.dropExec i).unitSite u noLoc).of i.e.cmd.h) (wordDetail ws)
  rw [State.execFault, State.execFaultAt_eq]
  refine ⟨faults_follow hfaults p, ?_, fun r hr hv hs => ?_⟩
  · obtain ⟨-, -, -, hbad⟩ := sameStores_trans _ _ _ hspoils.2.2 (State.abortTaskAt_sameStores _ i.e.x.task code dpi
      (((s.dropExec i).unitSite u noLoc).of i.e.cmd.h) (wordDetail ws))
    rw [State.follow_spad, hbad]
    rfl
  · have hp := State.spoiled_poisons (s := s.dropExec i) hr hv hs ws
    simp only [State.region, State.follow_rg]
    exact State.abortTaskAt_poisoned ((State.abortable_of_iu hspoils.1 _ _).trans ha) _ _ _ hp

/-! #### Uncorrectable words (R64, R193, R198) -/

/-- The state in which a word holds an uncorrectable error. -/
def State.markBad (s : State) (w : Nat) : State :=
  if s.spad.bad.contains w then s else s.withSpad { s.spad with bad := s.spad.bad ++ [w] }

theorem State.markBad_rest (s : State) (w : Nat) : (s.markBad w).withSpad s.spad = s := by
  unfold State.markBad
  split <;> rfl

theorem State.markBad_spad (s : State) (w : Nat) : w ∈ (s.markBad w).spad.bad ∧ (s.markBad w).spad.mem = s.spad.mem := by
  unfold State.markBad
  split
  · next h => exact ⟨by simpa using h, rfl⟩
  · exact ⟨List.mem_append_right _ List.mem_cons_self, rfl⟩

theorem State.foundWord_eq {s : State} {u : UnitId} {w nth : Nat} {i : Issued} (hi : nthOn u s.iu.exec nth = some i)
    (hnew : i.noted.contains w = false) : s.foundWord u w nth =
      if ((s.markBad w).quietWords i).contains w then
        ((s.markBad w).noteWords (BitVec.ofNat 2 i.e.x.task.1) i.wordDpi [w]).putExec { i with noted := i.noted ++ [w] }
      else ((s.markBad w).dropExec i).execFault u i Code.uncorrectable (i.wordDpi w) [w] true := by
  simp only [State.foundWord, hi, hnew, Bool.false_eq_true, if_false]
  rfl

theorem faults_of_same {s v t : State} {u : Fin 4} {code : Code} {dpi : W64} (hiu : v.iu = s.iu) (herr : v.err = s.err)
    (h : faults v t u code dpi) : faults s t u code dpi := by
  simpa only [faults, logged, samePdSf, State.ec, hiu, herr] using h

/-- A word that a command uses aborts its task and poisons the halves that it writes (R55, R56, R64, R193). -/
theorem State.usedWord_effect {s : State} {i : Issued} {w : Nat} (ha : s.abortable i.e.x.task (i.wordDpi w) = true) (u : UnitId)
    (p : State) :
    let t := p.follow (((s.markBad w).dropExec i).execFault u i Code.uncorrectable (i.wordDpi w) [w] true)
    faults s t i.e.x.task Code.uncorrectable (i.wordDpi w) ∧ w ∈ t.spad.bad ∧
      ∀ r ∈ s.outHalves i, (s.region r.1).valid = true → (s.region r.1).split = true → (t.region r.1).poisoned r.2 = true := by
  have hrest := s.markBad_rest w
  have hiu : (s.markBad w).iu = s.iu := (congrArg State.iu hrest :)
  have hrg : (s.markBad w).rg = s.rg := (congrArg State.rg hrest :)
  have hregion : ∀ k, (s.markBad w).region k = s.region k := fun k => by simp only [State.region, hrg]
  obtain ⟨hfaults, hbad, hpoison⟩ := State.execFault_effect ((State.abortable_of_iu hiu _ _).trans ha) u Code.uncorrectable [w] p
  refine ⟨faults_of_same hiu (congrArg State.err hrest :) hfaults, hbad ▸ (s.markBad_spad w).1, fun r hr hv hs => ?_⟩
  rw [← State.outHalves_eq hrg (congrArg State.id hrest :)] at hr
  rw [← hregion] at hv hs
  exact hpoison r hr hv hs

/-- A word of which a command reads masked elements only is logged and its half poisoned; the command goes on (R64, R198). -/
theorem State.quietWord_effect (s : State) (i : Issued) (w : Nat) (p : State) :
    let t := p.follow (((s.markBad w).noteWords (BitVec.ofNat 2 i.e.x.task.1) i.wordDpi [w]).putExec { i with noted := i.noted ++ [w] })
    logged s t Code.uncorrectable ∧ w ∈ t.spad.bad ∧ t.spad.mem = s.spad.mem ∧
      (∀ r, s.locate (8 * w) = some r → (t.region r.1).poisoned r.2 = true) ∧
      t.iu = (s.putExec { i with noted := i.noted ++ [w] }).iu := by
  have hrest := s.markBad_rest w
  have hnoted := (s.markBad w).noteWords_noticed (BitVec.ofNat 2 i.e.x.task.1) i.wordDpi [w]
  have hlocate : (s.markBad w).locate (8 * w) = s.locate (8 * w) := (congrArg (fun v : State => v.locate (8 * w)) hrest :)
  obtain ⟨hbad, hmem⟩ := s.markBad_spad w
  have hlog := (s.markBad w).noteWords_logged (BitVec.ofNat 2 i.e.x.task.1) i.wordDpi (List.cons_ne_nil w [])
  obtain ⟨-, hspad, hiu⟩ := hnoted
  have hiu' : ((s.markBad w).noteWords (BitVec.ofNat 2 i.e.x.task.1) i.wordDpi [w]).iu = s.iu := hiu.trans (congrArg State.iu hrest :)
  refine ⟨logged_follow ?_ p, ?_, ?_, fun r hr => ?_, ?_⟩
  · exact logged_of_err hlog (congrArg State.err hrest :)
  · rw [State.follow_spad]
    exact (congrArg Spad.bad hspad).symm ▸ hbad
  · rw [State.follow_spad]
    exact (congrArg Spad.mem hspad).trans hmem
  · simp only [State.region, State.follow_rg]
    exact State.noteWords_poisons (BitVec.ofNat 2 i.e.x.task.1) i.wordDpi List.mem_cons_self (hlocate.trans hr)
  · rw [State.follow_iu, State.putExec_iu, hiu']
    rfl

/-! #### A peer that refuses (R231) -/

/-- The peer of the command that drains refuses its tile: the command fails (R231). -/
theorem State.peerRefuses_eq {s : State} {u : UnitId} {i : Issued} {rest : List (UnitId × Issued)}
    (ht : takeUnit u s.iu.exec = some (i, rest)) (hx : i.exports = true) (cause : BitVec 8) : s.peerRefuses u cause =
      ((((s.dropExec i).scramble i).poisonOutputs i).closeRef i.e).abortTaskAt i.e.x.task Code.remoteRefused i.e.x.dpi
        ((s.unitSite u noLoc).of i.e.cmd.h) (refusedBy i.peerAddr cause) := by
  simp only [State.peerRefuses, ht, hx, if_true]

theorem State.peerRefuses_faults {s : State} {u : UnitId} {i : Issued} {rest : List (UnitId × Issued)}
    (ht : takeUnit u s.iu.exec = some (i, rest)) (hx : i.exports = true) (ha : s.abortable i.e.x.task i.e.x.dpi = true)
    (cause : BitVec 8) : faults s (s.peerRefuses u cause) i.e.x.task Code.remoteRefused i.e.x.dpi := by
  rw [State.peerRefuses_eq ht hx]
  exact faults_of_spoils (spoils_trans (spoils_trans ((s.dropExec i).scramble_spoils i) (State.poisonOutputs_spoils _ i))
    (State.closeRef_spoils _ i.e)) ha _ _ _

/-! #### Structures that partitions share (R3, R151) -/

/-- The abort of one of the tasks that own a partition of an array, with the DPI of its command there. -/
def State.shareAbort (s : State) (n : Fin 4) (loc : PhysLoc) (x : State) (t : Fin 4) : State :=
  x.abortTaskAt t Code.arrayShared (s.arrayDpi t n) ⟨unitCode (.mx n 0), 0, locBits loc, none⟩ 0

/-- The running tasks that own a partition of an array. -/
def State.sharers (s : State) (n : Fin 4) : List (Fin 4) := (List.finRange 4).filter fun t => s.running t && s.ownsArray t n

/-- The state in which the FENCE bit of an array is set. -/
def State.fenceArray (s : State) (n : Fin 4) : State := s.withRep { s.rep with fence := s.rep.fence ||| (1#32 <<< n.1) }

theorem State.shareFault_eq {s : State} {n : Fin 4} (hn : s.id.hasArray n.1 = true) (loc : PhysLoc) : s.shareFault n loc =
    if (s.sharers n).isEmpty then (s.fenceArray n).addLog ((s.fenceArray n).logEntry Code.arrayShared .taskFatal 0
      (unitCode (.mx n 0)) 0 (locBits loc) noDpi 0)
    else (s.sharers n).foldl (s.shareAbort n loc) (s.fenceArray n) := by
  simp only [State.shareFault, hn, Bool.not_true, Bool.false_eq_true, if_false]
  rfl

section
variable (s : State) (n : Fin 4) (loc : PhysLoc)

theorem State.task_foldl_shareAbort {l : List (Fin 4)} {u : Fin 4} (hu : u ∉ l) (x : State) :
    (l.foldl (s.shareAbort n loc) x).task u = x.task u := by
  induction l generalizing x with
  | nil => rfl
  | cons t l ih =>
    simp only [List.mem_cons, not_or] at hu
    obtain ⟨hne, hl⟩ := hu
    rw [List.foldl_cons, ih hl]
    exact x.task_abortTaskAt_other hne _ _ _ _

/-- Each task of the list that runs without a STOP_COUNT ends by the fault: those before it and after it leave it as it was. -/
theorem State.ends_foldl_shareAbort {l : List (Fin 4)} (hl : l.Nodup) {u : Fin 4} (hu : u ∈ l) {x : State}
    (hr : x.running u = true) (hstop : (x.task u).stopCount = 0#64) :
    ((l.foldl (s.shareAbort n loc) x).task u).st = .ended 1 ∧
      ((l.foldl (s.shareAbort n loc) x).task u).fault.map (fun f => f.1) = some Code.arrayShared := by
  induction l generalizing x with
  | nil => cases hu
  | cons t l ih =>
    obtain ⟨hnot, hl⟩ := List.nodup_cons.mp hl
    rw [List.foldl_cons]
    by_cases htu : u = t
    · subst htu
      obtain ⟨hst, hfault, -⟩ := x.abortTaskAt_aborted u Code.arrayShared (s.arrayDpi u n) ⟨unitCode (.mx n 0), 0, locBits loc, none⟩ 0
        (by simp [State.abortable, hr, hstop])
      rw [s.task_foldl_shareAbort n loc hnot, State.shareAbort, hst, hfault]
      exact ⟨rfl, rfl⟩
    · have htask : (s.shareAbort n loc x t).task u = x.task u := x.task_abortTaskAt_other htu _ _ _ _
      exact ih hl ((List.mem_cons.mp hu).resolve_left htu) (by rwa [State.running, htask]) (by rwa [htask])

/-- The counters, the predicates, the scalar file and `sameStores`. -/
def sameFilesAndStores (s t : State) : Prop := t.iu.ec = s.iu.ec ∧ samePdSf s t ∧ sameStores s t

theorem State.foldl_shareAbort_same (l : List (Fin 4)) (x : State) : sameFilesAndStores x (l.foldl (s.shareAbort n loc) x) := by
  refine foldl_only sameFilesAndStores (fun a => ⟨rfl, ⟨rfl, rfl⟩, sameStores_refl a⟩) ?_ _ (fun a t => ?_) l x
  · rintro a b c ⟨hec, hfiles, hstores⟩ ⟨hec', hfiles', hstores'⟩
    exact ⟨hec'.trans hec, samePdSf_trans hfiles hfiles', sameStores_trans a b c hstores hstores'⟩
  · obtain ⟨hec, hfiles⟩ := a.abortTaskAt_sameFiles t Code.arrayShared (s.arrayDpi t n) ⟨unitCode (.mx n 0), 0, locBits loc, none⟩ 0
    exact ⟨hec, hfiles, a.abortTaskAt_sameStores _ _ _ _ _⟩

/-- A fault of a structure that the partitions of an array share (R151). -/
theorem State.shareFault_effect (hn : s.id.hasArray n.1 = true) :
    let t := s.shareFault n loc
    sameFilesAndStores (s.fenceArray n) t ∧
      (∀ u, s.running u = true → (s.task u).stopCount = 0#64 → s.ownsArray u n = true →
        (t.task u).st = .ended 1 ∧ (t.task u).fault.map (fun f => f.1) = some Code.arrayShared) ∧
      ∀ u, s.ownsArray u n = false → t.task u = s.task u := by
  have hmem : ∀ u, u ∈ s.sharers n ↔ s.running u = true ∧ s.ownsArray u n = true := fun u => by simp [State.sharers]
  rw [State.shareFault_eq hn]
  split
  · next hempty =>
    have hnote := (s.fenceArray n).addLog_only
      ((s.fenceArray n).logEntry Code.arrayShared .taskFatal 0 (unitCode (.mx n 0)) 0 (locBits loc) noDpi 0)
    have hiu := onlyNote_iu hnote
    refine ⟨⟨congrArg Iu.ec hiu, ⟨congrArg Iu.pd hiu, congrArg Iu.sf hiu⟩, sameStores_of_onlyNote hnote⟩, fun u hr _ ho => ?_,
      fun u _ => State.task_of_iu (congrArg Iu.tasks hiu) u⟩
    have hu := (hmem u).mpr ⟨hr, ho⟩
    rw [List.isEmpty_iff.mp hempty] at hu
    cases hu
  · refine ⟨s.foldl_shareAbort_same n loc _ _, fun u hr hstop ho => ?_, fun u ho => ?_⟩
    · exact s.ends_foldl_shareAbort n loc ((List.nodup_finRange 4).filter _) ((hmem u).mpr ⟨hr, ho⟩) hr hstop
    · refine s.task_foldl_shareAbort n loc (fun hu => ?_) (s.fenceArray n)
      rw [((hmem u).mp hu).2] at ho
      cases ho

end

/-! #### Upsets of the control core's memories (R336) -/

theorem State.ccUpset_effect {s : State} {w : Nat} (hw : (ccWord (8 * w)).isSome = true) (double : Bool) (p : State) :
    let t := p.follow (s.ccUpset w double)
    t.cc.imem = s.cc.imem ∧ t.cc.dmem = s.cc.dmem ∧ t.iu = s.iu ∧ t.spad = s.spad ∧
      (double = true → w ∈ t.cc.badWords ∧ w ∉ t.cc.flips) ∧
      (double = false → w ∈ t.cc.flips ∧ t.cc.badWords = s.cc.badWords) := by
  have hcc : (p.follow (s.ccUpset w double)).cc = (s.ccUpset w double).cc := (congrArg State.cc (State.follow_rest _ _) :)
  have hsome : ¬ (ccWord (8 * w)).isNone = true := by simpa [← Option.isSome_iff_ne_none] using hw
  dsimp only
  rw [hcc, State.follow_iu, State.follow_spad, State.ccUpset, if_neg hsome]
  cases double <;> simp

/-! #### The command EXECUTION_FAULT -/

theorem exec_executionFault (s : State) (u : UnitId) (f : FoundFault) :
    exec (.executionFault u f) s = .next (s.follow (s.foundFault u f)) := rfl

theorem exec_executionFault_of {s v : State} {u : UnitId} {f : FoundFault} (h : s.foundFault u f = v) :
    exec (.executionFault u f) s = .next (s.follow v) := by
  rw [exec_executionFault, h]

theorem exec_uncorrectable_used {s : State} {u : UnitId} {addr nth : Nat} {i : Issued} (hi : nthOn u s.iu.exec nth = some i)
    (hnew : i.noted.contains (addr / 8) = false) (hused : ((s.markBad (addr / 8)).quietWords i).contains (addr / 8) = false) :
    exec (.executionFault u (.uncorrectable addr nth)) s = .next (s.follow (((s.markBad (addr / 8)).dropExec i).execFault u i
      Code.uncorrectable (i.wordDpi (addr / 8)) [addr / 8] true)) := by
  have hrun := State.foundWord_eq hi hnew
  rw [hused, if_neg Bool.false_ne_true] at hrun
  exact exec_executionFault_of hrun

theorem exec_uncorrectable_quiet {s : State} {u : UnitId} {addr nth : Nat} {i : Issued} (hi : nthOn u s.iu.exec nth = some i)
    (hnew : i.noted.contains (addr / 8) = false) (hquiet : ((s.markBad (addr / 8)).quietWords i).contains (addr / 8) = true) :
    exec (.executionFault u (.uncorrectable addr nth)) s = .next (s.follow (((s.markBad (addr / 8)).noteWords
      (BitVec.ofNat 2 i.e.x.task.1) i.wordDpi [addr / 8]).putExec { i with noted := i.noted ++ [addr / 8] })) := by
  have hrun := State.foundWord_eq hi hnew
  rw [hquiet, if_pos rfl] at hrun
  exact exec_executionFault_of hrun

theorem State.shareFault_skipped {s : State} {n : Fin 4} (hn : s.id.hasArray n.1 = false) (loc : PhysLoc) : s.shareFault n loc = s := by
  simp [State.shareFault, hn]

theorem exec_shareFault (s : State) (n p : Fin 4) (loc : PhysLoc) :
    exec (.executionFault (.mx n p) (.shared loc)) s = .next (s.follow (s.shareFault (s.physMx n) loc)) := rfl

theorem exec_ccUpset (s : State) (u : UnitId) (w : Nat) (double : Bool) :
    exec (.executionFault u (.upset w double)) s = .next (s.follow (s.ccUpset w double)) := rfl

theorem exec_peerRefused (s : State) (u : UnitId) (cause : BitVec 8) :
    exec (.executionFault u (.peerRefused cause)) s = .next (s.follow (s.peerRefuses u cause)) := rfl

theorem exec_corrected (s : State) (u : UnitId) (addr : Nat) :
    exec (.executionFault u (.corrected addr)) s = .next (s.follow (s.corrected addr)) := rfl

theorem onlyNote_mx {s t : State} (h : onlyNote s t) : t.mx = s.mx := (congrArg State.mx h.1).trans rfl

/-- Settles O32: a fault of a command's own takes it out of execution and aborts its task; the others abort the tasks that own the array,
or log or mark what they found. -/
theorem executionFaults : Obligations.ExecutionFaults := by
  refine ⟨fun s u addr nth i hi hnew => ⟨fun hused ha => ?_, fun hquiet => ?_⟩, fun s u addr hin hbad => ?_,
    fun s u cause i rest ht hx ha => ?_, fun s u w double hw => ?_, fun s n p loc hn => ?_, fun s n p loc hn => ?_⟩
  case refine_1 =>
    obtain ⟨⟨habort, hlog, hec, hfiles⟩, hbad, hpoison⟩ := State.usedWord_effect ha u s
    exact ⟨_, exec_uncorrectable_used hi hnew hused, habort, hlog, hbad, hpoison, hec, hfiles⟩
  case refine_2 =>
    obtain ⟨hlog, hbad, hmem, hpoison, hiu⟩ := s.quietWord_effect i (addr / 8) s
    exact ⟨_, exec_uncorrectable_quiet hi hnew hquiet, hlog, hbad, hmem, hpoison, (congrArg Iu.tasks hiu :), (congrArg Iu.queued hiu :),
      (congrArg Iu.staged hiu :), (congrArg Iu.exec hiu :), State.ec_of_iu (congrArg Iu.ec hiu :), (congrArg Iu.pd hiu :),
      (congrArg Iu.sf hiu :)⟩
  case refine_3 =>
    obtain ⟨hnote, -, -⟩ := s.corrected_correctsOnly addr
    exact ⟨_, exec_corrected s u addr, logged_follow (State.corrected_logged ⟨hin, hbad⟩) s,
      (State.follow_spad _ _).trans (onlyNote_spad hnote), (State.follow_rg _ _).trans (onlyNote_rg hnote),
      (State.follow_iu _ _).trans (onlyNote_iu hnote), (State.follow_mx _ _).trans (onlyNote_mx hnote)⟩
  case refine_4 =>
    obtain ⟨habort, hlog, hec, hfiles⟩ := faults_follow (State.peerRefuses_faults ht hx ha cause) s
    exact ⟨_, exec_peerRefused s u cause, habort, hlog, hec, hfiles⟩
  case refine_5 => exact ⟨_, exec_ccUpset s u w double, State.ccUpset_effect hw double s⟩
  case refine_6 =>
    have hrun := exec_shareFault s n p loc
    rw [State.shareFault_skipped hn] at hrun
    exact ⟨_, hrun, State.follow_rep s s, State.follow_err s s, State.follow_iu s s, State.follow_mx s s⟩
  case refine_7 =>
    obtain ⟨⟨hec, hfiles, hrep, -⟩, hends, hkeeps⟩ := s.shareFault_effect (s.physMx n) loc hn
    refine ⟨_, exec_shareFault s n p loc, ?_, fun u hr hstop ho => ?_, fun u ho => ?_, fun j => ?_, samePdSf_follow hfiles s⟩
    · rw [State.follow_rep, hrep]
      rfl
    · rw [State.task_follow]
      exact hends u hr hstop ho
    · rw [State.task_follow, hkeeps u ho]
    · rw [State.ec_follow]
      exact State.ec_of_iu hec j

end Sys2Proof.Machine
end

/-! ### Vector commands that run to their end (O21 to O23) -/

section
namespace Sys2Proof.Machine

/-! #### The commands of VX and Crucible -/

/-- The commands that VX and Crucible run (R189, R406). -/
def runsOnVector : Op → Bool
  | .vxMap _ | .vxReduce _ | .vxProg _ | .vxTable _ | .cuMap _ | .cuReduce _ | .cuProg _ | .cuTable _ => true
  | _ => false

section
variable {op : Op} (hv : runsOnVector op = true)
include hv

theorem runsOnVector_cases : (∃ b, op = .vxMap b ∨ op = .cuMap b) ∨ (∃ b, op = .vxReduce b ∨ op = .cuReduce b) ∨
    (∃ b, op = .vxProg b ∨ op = .cuProg b) ∨ ∃ b, op = .vxTable b ∨ op = .cuTable b := by
  cases op <;> simp [runsOnVector] at hv ⊢

theorem mx_of_runsOnVector : op.mx? = none := by
  cases op <;> simp [runsOnVector] at hv ⊢ <;> rfl

theorem not_vxAux_of_runsOnVector (b : AuxBody) : op ≠ .vxAux b := by
  rintro rfl
  cases hv

/-- Such a command waits in queue 8 or 9. -/
theorem vectorQueue_of_heading {s : State} {x : Ctx} {h : Header} (hh : s.heading x h op = true) : h.q = 8 ∨ h.q = 9 := by
  obtain ⟨-, -, hhead, -, -⟩ := State.placed_of_heading hh
  have hq : op.queueOk h = true := (queueOk_of_headerFault hhead).1
  obtain ⟨b, rfl | rfl⟩ | ⟨b, rfl | rfl⟩ | ⟨b, rfl | rfl⟩ | ⟨b, rfl | rfl⟩ := runsOnVector_cases hv <;>
    simp_all [Op.queueOk, Header.q]

/-- It frees no transpose unit. -/
theorem State.freeTu_vector (s : State) {i : Issued} (hop : i.e.cmd.op = op) : s.freeTu i = s := by
  obtain ⟨b, rfl | rfl⟩ | ⟨b, rfl | rfl⟩ | ⟨b, rfl | rfl⟩ | ⟨b, rfl | rfl⟩ := runsOnVector_cases hv <;>
    simp only [State.freeTu, hop]

/-- One that goes leaves its queue and runs whole. -/
theorem State.act_runs_vector {s : State} {e : Entry} (hop : e.cmd.op = op) (hgo : s.verdict e true = .go) (enters : Bool) :
    s.act e true enters = (s.unqueue e).runWhole e := by
  unfold State.act
  rw [hgo]
  obtain ⟨b, rfl | rfl⟩ | ⟨b, rfl | rfl⟩ | ⟨b, rfl | rfl⟩ | ⟨b, rfl | rfl⟩ := runsOnVector_cases hv <;>
    simp [State.atIssue, hop]

end

/-! #### Completion (R42, R64) -/

section
variable {s : State} {x : Ctx} {h : Header} {op : Op} (hv : runsOnVector op = true)
include hv

/-- A vector command has no companion plane: it starts as it issued. -/
theorem State.startedOf_vector : s.startedOf x h op = s.issuedOf x h op := by
  have hmx : (s.issuedOf x h op).e.cmd.op.mx? = none := mx_of_runsOnVector hv
  unfold State.startedOf State.begin_
  rw [hmx]

/-- A vector command runs on no array: nothing but its queue entry changes before it computes. -/
theorem State.begun_vector (hh : s.heading x h op = true) :
    s.begun x h op = (s.placed x h op).unqueue (s.entryOf x h op) := by
  have hunit : (s.placed x h op).unitOf ⟨h, op⟩ = (s.placed x h op).vxUnit ⟨h, op⟩ := by
    unfold State.unitOf
    obtain hq | hq := vectorQueue_of_heading hv hh <;> simp [hq]
  rw [State.begun, hunit, State.vxUnit]
  split <;> rfl

theorem State.begun_vector_rest (hh : s.heading x h op = true) : ((s.begun x h op).withRg s.rg).withIu s.iu = s := by
  obtain ⟨-, hfetch, -, -, -⟩ := State.placed_of_heading hh
  rw [State.begun_vector hv hh]
  exact State.issuedState_rest hfetch h

theorem State.begun_vecOf (hh : s.heading x h op = true) (cu : Bool) : (s.begun x h op).vecOf cu = s.vecOf cu :=
  (congrArg (fun v : State => v.vecOf cu) (State.begun_vector_rest hv hh) :)

theorem State.begun_onCu (hh : s.heading x h op = true) (c : Cmd) : (s.begun x h op).onCu c = s.onCu c :=
  (congrArg (fun v : State => v.onCu c) (State.begun_vector_rest hv hh) :)

end

/-- The state in which the bytes of a vector command have landed and the words that it does not use are noted (R64, R198). -/
def State.vecNoted (s : State) (x : Ctx) (h : Header) (op : Op) : State :=
  (s.runNow x h op).land.noteWords (BitVec.ofNat 2 x.task.1) (s.issuedOf x h op).wordDpi ((s.begun x h op).quietWords (s.issuedOf x h op))

/-- The state in which Assay has folded what it saw of a vector command, too. -/
def State.vecComputed (s : State) (x : Ctx) (h : Header) (op : Op) : State :=
  (s.vecNoted x h op).foldSeen (s.issuedOf x h op) ((s.placed x h op).unitOf ⟨h, op⟩) (s.runNow x h op).seen

/-- The state in which a vector command has closed. -/
def State.vecClosed (s : State) (x : Ctx) (h : Header) (op : Op) : State := (s.vecComputed x h op).closeCmd (s.issuedOf x h op)

/-- A vector command whose checks pass and whose data are sound completes in the step that issues it. -/
theorem exec_completes_vector {c : Instr} {s : State} {x : Ctx} {h : Header} {op : Op} (hv : runsOnVector op = true)
    (hc : programOf c = some (x, h, op)) (hx : s.completes x h op = true) :
    exec c s = .next ((s.placed x h op).follow (s.vecClosed x h op)) := by
  simp only [State.completes, State.finishes, Bool.and_eq_true, Option.isNone_iff_eq_none, List.isEmpty_iff] at hx
  obtain ⟨⟨⟨⟨hi, hstart⟩, hdata⟩, hn⟩, hpeer⟩ := hx
  obtain ⟨hh, -, hgo⟩ := State.heading_of_issues hi
  have hwhole : ((s.placed x h op).unqueue (s.entryOf x h op)).runWhole (s.entryOf x h op) =
      (s.begun x h op).finishCmd ((s.placed x h op).unitOf ⟨h, op⟩) (s.startedOf x h op) := by
    have hnone : (((s.placed x h op).unqueue (s.entryOf x h op)).noteArray
        (((s.placed x h op).unqueue (s.entryOf x h op)).unitOf (s.entryOf x h op).cmd)).startFault
        (((s.placed x h op).unqueue (s.entryOf x h op)).issued (s.entryOf x h op)) = none := hstart
    unfold State.runWhole
    simp only [hnone]
    rfl
  have hdone : (s.begun x h op).finishCmd ((s.placed x h op).unitOf ⟨h, op⟩) (s.startedOf x h op) = s.vecClosed x h op := by
    have hfree : ∀ t : State, t.freeTu (s.issuedOf x h op) = t := fun t => t.freeTu_vector hv rfl
    have hrun : (s.begun x h op).runOf (s.issuedOf x h op) = s.runNow x h op := by rw [State.runNow, State.startedOf_vector hv]
    rw [State.startedOf_vector hv] at hdata ⊢
    unfold State.finishCmd
    simp only [hdata, hrun, hn, hpeer, List.isEmpty_nil, if_true, hfree]
    rfl
  rw [exec_issues hc hi (not_vxAux_of_runsOnVector hv) (mx_of_runsOnVector hv),
    State.act_runs_vector hv (e := s.entryOf x h op) rfl hgo, hwhole, hdone]

/-! #### What a vector command leaves unchanged -/

/-- The slots and tables, the arrays and the Almanac are the same. -/
def sameEngines (s t : State) : Prop := t.vx = s.vx ∧ t.cu = s.cu ∧ t.mx = s.mx ∧ t.alm = s.alm

theorem sameEngines_trans (a b c : State) (hab : sameEngines a b) (hbc : sameEngines b c) : sameEngines a c := by
  obtain ⟨hvx, hcu, hmx, halm⟩ := hab
  obtain ⟨hvx', hcu', hmx', halm'⟩ := hbc
  exact ⟨hvx'.trans hvx, hcu'.trans hcu, hmx'.trans hmx, halm'.trans halm⟩

theorem sameEngines_of_onlyNote {s t : State} (h : onlyNote s t) : sameEngines s t := by
  obtain ⟨hrest, -⟩ := h
  rw [hrest]
  exact ⟨rfl, rfl, rfl, rfl⟩

theorem sameEngines_of_onlyRg {s t : State} (h : onlyRg s t) : sameEngines s t := by
  rw [h]
  exact ⟨rfl, rfl, rfl, rfl⟩

theorem State.noteWords_sameEngines (s : State) (task : BitVec 2) (dpi : Nat → W64) (ws : List Nat) :
    sameEngines s (s.noteWords task dpi ws) :=
  foldl_only sameEngines (fun _ => ⟨rfl, rfl, rfl, rfl⟩) sameEngines_trans _
    (fun s w => sameEngines_trans _ _ _ (sameEngines_of_onlyNote (s.noteFor_only task Code.uncorrectable 0x47 0 (s.bankLoc (8 * w)) (dpi w)
      (wordDetail [w]))) (sameEngines_of_onlyRg (State.poisonWords_only _ [w]))) ws s

/-- The state with the slots and tables of another. -/
def State.withVectorOf (t s : State) : State := (t.withVx s.vx).withCu s.cu

theorem upToPower_withVectorOf {a b : State} (h : upToPower a b) (s : State) : upToPower (a.withVectorOf s) (b.withVectorOf s) := by
  obtain ⟨hout, heq, hrest⟩ := h
  exact ⟨hout, heq, congrArg (State.withVectorOf · s) hrest⟩

/-- The slots and tables may differ, too. -/
def onlyComputed (s t : State) : Prop := onlyWorked s (t.withVectorOf s)

theorem onlyComputed_of_worked {s t : State} (h : onlyWorked s t) : onlyComputed s t := upToPower_withVectorOf h s

theorem onlyComputed_trans {a b c : State} (hab : onlyComputed a b) (hbc : onlyComputed b c) : onlyComputed a c := by
  have hbc' : onlyWorked (b.withVectorOf a) (c.withVectorOf a) := upToPower_withVectorOf hbc a
  exact onlyWorked_trans hab hbc'

theorem sameSurround_of_onlyComputed {s t : State} (h : onlyComputed s t) : sameSurround s t := (surround_of_onlyWorked h).1

/-! #### What a vector command computes -/

/-- At most the predicates, the scalar file, the slots and the tables differ. -/
def onlyResults (s t : State) : Prop :=
  t = ((s.withIu { s.iu with pd := t.iu.pd, sf := t.iu.sf, sfOld := t.iu.sfOld }).withVx t.vx).withCu t.cu

theorem onlyResults_refl (s : State) : onlyResults s s := rfl

theorem onlyResults_withVec (s : State) (v w : VecState) : onlyResults s ((s.withVx v).withCu w) := rfl

theorem State.withVectorOf_results (s : State) (u : Iu) (v w : VecState) (sp : Spad) :
    ((((s.withIu u).withVx v).withCu w).withSpad sp).withVectorOf s = (s.withIu u).withSpad sp := rfl

theorem onlyComputed_of_results {s t : State} (h : onlyResults s t) (sp : Spad) : onlyComputed s (t.withSpad sp) := by
  rw [onlyComputed, h, State.withVectorOf_results]
  exact onlyWorked_of_work rfl

section
variable {s : State} {x : Ctx} {h : Header} {op : Op} (hh : s.heading x h op = true)
  (hres : onlyResults (s.begun x h op) (s.runNow x h op).s)
include hh hres

theorem State.land_fields : (s.runNow x h op).land.iu =
      { (s.leftQueue x h op).iu with
        pd := (s.runNow x h op).s.iu.pd, sf := (s.runNow x h op).s.iu.sf, sfOld := (s.runNow x h op).s.iu.sfOld } ∧
    (s.runNow x h op).land.spad = s.spad.write (s.runNow x h op).bytes ∧ (s.runNow x h op).land.mx = s.mx ∧
    (s.runNow x h op).land.alm = s.alm := by
  obtain ⟨hiu, hspad, hmx, halm⟩ := State.begun_fields hh
  refine ⟨?_, ?_, (congrArg State.mx hres :).trans hmx, (congrArg State.alm hres :).trans halm⟩
  · rw [← hiu]
    exact (congrArg State.iu hres :)
  · rw [← hspad]
    exact (congrArg (fun v : State => v.spad.write (s.runNow x h op).bytes) hres :)

theorem State.land_onlyComputed : onlyComputed s (s.runNow x h op).land :=
  onlyComputed_trans (onlyComputed_of_worked (State.begun_onlyWorked hh)) (onlyComputed_of_results hres _)

/-- The parts of the state that a vector command has computed. -/
theorem State.vecComputed_fields : (s.vecComputed x h op).iu = (s.runNow x h op).land.iu ∧
    (s.vecComputed x h op).spad = s.spad.write (s.runNow x h op).bytes ∧ (s.vecComputed x h op).vx = (s.runNow x h op).s.vx ∧
    (s.vecComputed x h op).cu = (s.runNow x h op).s.cu ∧ (s.vecComputed x h op).mx = s.mx ∧ sameEntries s (s.vecComputed x h op) := by
  obtain ⟨-, hspad, hmx, halm⟩ := State.land_fields hh hres
  have hnoted : noticed (s.runNow x h op).land (s.vecNoted x h op) := State.noteWords_noticed _ _ _ _
  obtain ⟨-, hnspad, hniu⟩ := hnoted
  have hengines : sameEngines (s.runNow x h op).land (s.vecNoted x h op) := State.noteWords_sameEngines _ _ _ _
  obtain ⟨hnvx, hncu, hnmx, hnalm⟩ := hengines
  have hseen : onlyAssayed (s.vecNoted x h op) (s.vecComputed x h op) := State.foldSeen_onlyAssayed _ _ _ _
  obtain ⟨hfold, hentries⟩ := hseen
  refine ⟨(congrArg State.iu hfold :).trans hniu, (congrArg State.spad hfold :).trans (hnspad.trans hspad),
    (congrArg State.vx hfold :).trans hnvx, (congrArg State.cu hfold :).trans hncu, (congrArg State.mx hfold :).trans (hnmx.trans hmx), ?_⟩
  rw [sameEntries, ← halm, ← hnalm]
  exact hentries

/-- Where no word is noted, the surround stays. -/
theorem State.vecComputed_onlyComputed (hquiet : (s.begun x h op).quietWords (s.issuedOf x h op) = []) :
    onlyComputed s (s.vecComputed x h op) := by
  have hseen : onlyAssayed (s.vecNoted x h op) (s.vecComputed x h op) := State.foldSeen_onlyAssayed _ _ _ _
  have hnoted : s.vecNoted x h op = (s.runNow x h op).land := by
    rw [State.vecNoted, hquiet]
    rfl
  rw [hnoted] at hseen
  exact onlyComputed_trans (State.land_onlyComputed hh hres) (onlyComputed_of_worked (onlyWorked_of_assayed hseen))

end

/-- What the end of a vector command leaves: its bytes, its signals and its results. -/
structure VectorEffect (s t : State) (x : Ctx) (h : Header) (op : Op) : Prop where
  spad : t.spad = s.spad.write (s.runNow x h op).bytes
  ec : ∀ i, t.ec i = s.ec i + bump h i
  queues : sameQueues s t x.task
  pd : t.iu.pd = (s.runNow x h op).s.iu.pd
  sf : t.iu.sf = (s.runNow x h op).s.iu.sf
  vx : t.vx = (s.runNow x h op).s.vx
  cu : t.cu = (s.runNow x h op).s.cu
  mx : t.mx = s.mx
  entries : sameEntries s t
  surround : (s.begun x h op).quietWords (s.issuedOf x h op) = [] → sameSurround s t

theorem vector_effect {c : Instr} {s : State} {x : Ctx} {h : Header} {op : Op} (hv : runsOnVector op = true)
    (hc : programOf c = some (x, h, op)) (hx : s.completes x h op = true)
    (hres : onlyResults (s.begun x h op) (s.runNow x h op).s) : ∃ t, exec c s = .next t ∧ VectorEffect s t x h op := by
  have hexec := exec_completes_vector hv hc hx
  simp only [State.completes, State.finishes, Bool.and_eq_true] at hx
  obtain ⟨⟨⟨⟨hi, -⟩, -⟩, -⟩, -⟩ := hx
  obtain ⟨hh, -, -⟩ := State.heading_of_issues hi
  obtain ⟨hliu, -, -, -⟩ := State.land_fields hh hres
  obtain ⟨hiu, hspad, hvx, hcu, hmx, hentries⟩ := State.vecComputed_fields hh hres
  have hclose : ((s.vecClosed x h op).withRg (s.vecComputed x h op).rg).withIu (s.vecComputed x h op).iu = s.vecComputed x h op :=
    State.closeCmd_rest _ _
  obtain ⟨hpd, hsf⟩ : samePdSf (s.vecComputed x h op) (s.vecClosed x h op) := State.closeCmd_samePdSf _ _
  have hpower := State.follow_upToPower (s.placed x h op) (s.vecClosed x h op)
  generalize (s.placed x h op).follow (s.vecClosed x h op) = t at hexec hpower
  obtain ⟨htiu, htspad, htmx⟩ := upToPower_frame hpower
  have hrest := hpower.2.2
  refine ⟨t, hexec, ?_, fun j => ?_, ?_, ?_, ?_, ?_, ?_, ?_, ?_, fun hquiet => ?_⟩
  · exact htspad.trans ((congrArg State.spad hclose :).trans hspad)
  · rw [State.ec_of_iu (congrArg Iu.ec htiu), State.vecClosed, State.ec_closeCmd]
    exact congrArg (· + bump h j) (State.ec_of_iu ((congrArg Iu.ec (hiu.trans hliu)).trans rfl) j)
  · have hqueues : sameQueues s (s.vecComputed x h op) x.task := by
      obtain ⟨hq, hs, he, ht⟩ := s.leftQueue_sameQueues x h op
      have hall := hiu.trans hliu
      exact ⟨(congrArg Iu.queued hall).trans hq, (congrArg Iu.staged hall).trans hs, (congrArg Iu.exec hall).trans he,
        fun u hu => (State.task_of_iu ((congrArg Iu.tasks hall).trans rfl) u).trans (ht u hu)⟩
    exact sameQueues_of_iu htiu (sameQueues_trans hqueues (State.closeCmd_sameQueues _ _ x.task))
  · rw [htiu, hpd, hiu, hliu]
  · rw [htiu, hsf, hiu, hliu]
  · exact (congrArg State.vx hrest :).trans ((congrArg State.vx hclose :).trans hvx)
  · exact (congrArg State.cu hrest :).trans ((congrArg State.cu hclose :).trans hcu)
  · exact htmx.trans ((congrArg State.mx hclose :).trans hmx)
  · have halm : t.alm = (s.vecComputed x h op).alm := (congrArg State.alm hrest :).trans (congrArg State.alm hclose :)
    rw [sameEntries, halm]
    exact hentries
  · exact sameSurround_of_onlyComputed (onlyComputed_trans (State.vecComputed_onlyComputed hh hres hquiet)
      (onlyComputed_trans (onlyComputed_of_worked (onlyWorked_of_rest hclose)) (onlyComputed_of_worked (onlyWorked_of_power hpower))))

end Sys2Proof.Machine
end

/-! ### VX_MAP and CU_MAP (O21) -/

section
namespace Sys2Proof.Machine

/-! #### A map changes nothing but the bytes of its result (R191) -/

theorem vxMapRun_s (s : State) (i : Issued) (b : VxBody) (m n : Nat) (f : Nat → Nat → Num) (empty : List Nat) (chain : Bytes) :
    (vxMapRun s i b m n f empty chain).s = s := by
  unfold vxMapRun
  split <;> rfl

theorem softmaxRun_s (s : State) (i : Issued) (b : VxBody) (m n : Nat) : (softmaxRun s i b m n).s = s := by
  unfold softmaxRun
  split
  · rfl
  · split
    · rfl
    · exact vxMapRun_s ..

theorem softmaxBwdRun_s (s : State) (i : Issued) (b : VxBody) (m n : Nat) : (softmaxBwdRun s i b m n).s = s := by
  unfold softmaxBwdRun
  split
  · rfl
  · exact vxMapRun_s ..

theorem vxRun_map_s (s : State) (i : Issued) (b : VxBody) : (vxRun s i b false).s = s := by
  unfold vxRun
  dsimp only
  split
  · exact softmaxRun_s ..
  · exact softmaxBwdRun_s ..
  · split
    · rfl
    · rw [if_neg Bool.false_ne_true]
      split
      · rfl
      · exact vxMapRun_s ..

/-! #### The program and the elements of a computing command (R177, R196) -/

/-- A computing vector command: its body, and whether it reduces. -/
theorem runsOnVector_of_vx {op : Op} {b : VxBody} {red : Bool} (hop : op.vx? = some (b, red)) : runsOnVector op = true := by
  cases op <;> simp_all [Op.vx?, runsOnVector]

theorem State.runNow_vx {s : State} {x : Ctx} {h : Header} {op : Op} {b : VxBody} {red : Bool} (hop : op.vx? = some (b, red)) :
    s.runNow x h op = vxRun (s.begun x h op) (s.issuedOf x h op) b red := by
  have hcmd : (s.issuedOf x h op).e.cmd.op = op := rfl
  rw [State.runNow, State.startedOf_vector (runsOnVector_of_vx hop), State.runOf, hcmd]
  cases op <;> simp_all [Op.vx?]

section
variable {s : State} {x : Ctx} {h : Header} {op : Op} {b : VxBody} {red : Bool} (hop : op.vx? = some (b, red))
  (hh : s.heading x h op = true)
include hop hh

/-- A command without a chain that starts has a program (R196). -/
theorem prog_of_startFault (hstart : (s.begun x h op).startFault (s.issuedOf x h op) = none) (hfuse : h.fuse = 0#8) :
    ∃ p, (s.vecOf (s.onCu ⟨h, op⟩)).prog b.p.prog = some p := by
  have hcmd : (s.issuedOf x h op).e.cmd = ⟨h, op⟩ := rfl
  have hvx : vxStartFault (s.begun x h op) (s.issuedOf x h op) = none := by
    rw [← hstart, State.startFault, hcmd]
    cases op <;> simp_all [Op.vx?]
  simp only [vxStartFault, hcmd, hop, hfuse, ne_eq, not_true_eq_false, if_false,
    State.begun_vecOf (runsOnVector_of_vx hop) hh, State.begun_onCu (runsOnVector_of_vx hop) hh] at hvx
  cases hp : (s.vecOf (s.onCu ⟨h, op⟩)).prog b.p.prog with
  | none => simp [hp] at hvx
  | some p => exact ⟨p, rfl⟩

theorem vxElem_begun (i : Issued) (p : BitVec 1024) : vxElem (s.begun x h op) i b p = vxElem s i b p :=
  (congrArg (fun v : State => vxElem v i b p) (State.begun_vector_rest (runsOnVector_of_vx hop) hh) :)

end

/-! #### The rows of a plain map (R191, R197) -/

/-- Without a VX_AUX no element is masked. -/
theorem vxRow_plain {s : State} {i : Issued} (haux : i.e.aux = none) (b : VxBody) (n : Nat) (f : Nat → Nat → Num) (r : Nat) :
    vxRow s i b n f r = (List.range n).map fun j => (j, f r j) := by
  have hactive : ∀ j, vxActive s i r j = true := fun j => by simp [vxActive, Entry.auxBody, haux]
  simp [vxRow, hactive, List.filterMap_eq_map']

/-- The rows of `f` over a domain, as (column, value). -/
def plainRows (m n : Nat) (f : Nat → Nat → Num) : List (Nat × List (Nat × Num)) :=
  (List.range m).map fun r => (r, (List.range n).map fun j => (j, f r j))

theorem mem_plainRows {m n r : Nat} (hr : r < m) (f : Nat → Nat → Num) :
    (r, (List.range n).map fun j => (j, f r j)) ∈ plainRows m n f := List.mem_map.mpr ⟨r, List.mem_range.mpr hr, rfl⟩

theorem plainRows_fits {m n : Nat} {f : Nat → Nat → Num} {row : Nat × List (Nat × Num)} (hrow : row ∈ plainRows m n f) {q : Nat × Num}
    (hq : q ∈ row.2) : q.1 < n ∧ q.2 = f row.1 q.1 := by
  obtain ⟨r, -, rfl⟩ := List.mem_map.mp hrow
  obtain ⟨j, hj, rfl⟩ := List.mem_map.mp hq
  exact ⟨List.mem_range.mp hj, rfl⟩

theorem vxRows_plain {s : State} {i : Issued} (haux : i.e.aux = none) (b : VxBody) (v : RView) (m n : Nat) (f : Nat → Nat → Num) :
    vxRows s i b v m n f = plainRows m n f := by
  have hidx : ¬ 3 ≤ idxMode i.e.auxBody := by simp [idxMode, Entry.auxBody, haux]
  simp only [vxRows, if_neg hidx, vxRow_plain haux, plainRows]

/-- The bytes of a map without a chain and without a VX_AUX are those of its rows. -/
theorem vxRun_plain {s : State} {i : Issued} {b : VxBody} {p : BitVec 1024} {v : RView} (hfuse : i.e.cmd.h.fuse = 0#8)
    (haux : i.e.aux = none) (hp : (s.vecOf (s.onCu i.e.cmd)).prog b.p.prog = some p) (hv : viewAt i.views 2 = some v)
    (hm : b.v2.rows.toNat ≠ 0) (hn : b.v2.cols.toNat ≠ 0) : (vxRun s i b false).bytes =
      (writeRows s v b.p.cvt v.q (plainRows b.v2.rows.toNat b.v2.cols.toNat (vxElem s i b p))).1 := by
  have hdomain : i.domain b false = (b.v2.rows.toNat, b.v2.cols.toNat) := by
    simp [Issued.domain, vxDomain, Entry.auxBody, haux]
  have hscat : scatAdd i.e.auxBody = false := by simp [scatAdd, Entry.auxBody, haux]
  simp only [vxRun, hdomain, hfuse, hp, Bool.false_eq_true, if_false, hm, hn, or_self, vxMapRun, hv, hscat, vxRows_plain haux,
    List.append_nil]
  rfl

/-! #### View 2 of a map that issues (R31) -/

/-- The view that a map writes. -/
def mapTarget (e : Entry) (b : VxBody) : Use := { Use.output 2 b.v2 with src := scatAdd e.auxBody }

section
variable {e : Entry} {b : VxBody} (hop : e.cmd.op = .vxMap b ∨ e.cmd.op = .cuMap b) (sf : Vector W64 64)
include hop

theorem mapTarget_mem : mapTarget e b ∈ usesOf e sf := by
  obtain hop | hop := hop <;> simp [usesOf, vxUses, hop, mapTarget]

theorem find_mapTarget : (usesOf e sf).find? (fun u => u.pos == 2) = some (mapTarget e b) := by
  have hfirst : ∀ us : List Use, (((if b.v0.isZero then [] else [{ Use.source 0 b.v0 with versioned := e.cmd.h.vtag }]) ++
      (if b.v1.isZero then [] else [Use.source 1 b.v1]) ++ [mapTarget e b] ++ us).find? fun u => u.pos == 2) =
        some (mapTarget e b) := fun us => by
    cases b.v0.isZero <;> cases b.v1.isZero <;> rfl
  have hsplit : usesOf e sf = (if b.v0.isZero then [] else [{ Use.source 0 b.v0 with versioned := e.cmd.h.vtag }]) ++
      (if b.v1.isZero then [] else [Use.source 1 b.v1]) ++ [mapTarget e b] ++ (auxUses e.auxBody ++ chainUses e.cmd.h.fuse sf) := by
    obtain hop | hop := hop <;> simp [usesOf, vxUses, hop, mapTarget]
  rw [hsplit]
  exact hfirst _

end

/-- View 2 of a map that issues: as FP32 its rows do not overlap. -/
theorem map_view {s : State} {x : Ctx} {h : Header} {op : Op} {b : VxBody} (hop : op = .vxMap b ∨ op = .cuMap b)
    (hi : s.issues x h op = true) :
    ∃ v, viewAt (s.issuedOf x h op).views 2 = some v ∧ (v.format = .f32 → 4 * b.v2.cols.toNat ≤ v.stride) := by
  obtain ⟨hh, -, hgo⟩ := State.heading_of_issues hi
  have hfits := State.viewFails_of_checks (e := s.entryOf x h op) (by obtain rfl | rfl := hop <;> simp) (State.checks_of_go hgo).1
    (k := 4) (by omega) (mapTarget_mem hop _)
  refine ⟨(s.placed x h op).resolve (s.entryOf x h op) (mapTarget (s.entryOf x h op) b), ?_, fun hf => ?_⟩
  · have hfind := find_mapTarget (e := s.entryOf x h op) hop (s.placed x h op).sfSnapshot
    simp only [State.issuedOf, State.issued, State.resolveAll]
    exact (congrArg (Option.map ((s.placed x h op).resolve (s.entryOf x h op))) hfind :)
  · have hlt : ¬ ((s.placed x h op).resolve (s.entryOf x h op) (mapTarget (s.entryOf x h op) b)).stride <
        ((s.placed x h op).resolve (s.entryOf x h op) (mapTarget (s.entryOf x h op) b)).rowBytes := of_decide_eq_false hfits
    rw [RView.rowBytes, hf, State.resolve_shape] at hlt
    exact Nat.not_lt.mp hlt

/-! #### The elements that a plain map writes (R98, R191) -/

section
variable {s : State} {x : Ctx} {h : Header} {op : Op} {b : VxBody} (hop : op = .vxMap b ∨ op = .cuMap b)
include hop

theorem vx_of_map : op.vx? = some (b, false) := by obtain rfl | rfl := hop <;> rfl

theorem lastByte_map (hh : s.heading x h op = true) (hfuse : h.fuse = 0#8) (hcvt : b.p.cvt = 0#8)
    (haux : (s.issuedOf x h op).e.aux = none) {p : BitVec 1024} (hp : (s.vecOf (s.onCu ⟨h, op⟩)).prog b.p.prog = some p) {v : RView}
    (hv : viewAt (s.issuedOf x h op).views 2 = some v) (hf : v.format = .f32) (hq : v.q = 0)
    (hfit : 4 * b.v2.cols.toNat ≤ v.stride) {r j k : Nat} (hr : r < b.v2.rows.toNat) (hj : j < b.v2.cols.toNat) (hk : k < 4) (d : Byte) :
    lastByte (s.runNow x h op).bytes (v.addr + r * v.stride + 4 * j + k) d =
      (leBytes (Fmt.convElem .f32 .rne (cvtOvf 0#8) 0 (vxElem s (s.issuedOf x h op) b p r j)).bits 4).getD k 0 := by
  have hvx := vx_of_map hop
  have hwidth : v.format.bits / 8 = 4 := by rw [hf]; rfl
  have hbytes : (s.runNow x h op).bytes = (writeRows (s.begun x h op) v 0#8 0
      (plainRows b.v2.rows.toNat b.v2.cols.toNat (vxElem s (s.issuedOf x h op) b p))).1 := by
    have hp' : ((s.begun x h op).vecOf ((s.begun x h op).onCu (s.issuedOf x h op).e.cmd)).prog b.p.prog = some p := by
      rw [State.begun_vecOf (runsOnVector_of_vx hvx) hh, State.begun_onCu (runsOnVector_of_vx hvx) hh]
      exact hp
    rw [State.runNow_vx hvx, vxRun_plain hfuse haux hp' hv (by omega) (by omega), hcvt, hq]
    rw [vxElem_begun hvx hh]
  have hword := lastByte_writeRows (s := s.begun x h op) (cvt := 0#8) (pre := 0) (by rw [hf]; rfl) (by rw [hwidth]; exact hfit)
    (fun row hrow q hq => plainRows_fits hrow hq) (mem_plainRows hr (vxElem s (s.issuedOf x h op) b p))
    (List.mem_map.mpr ⟨j, List.mem_range.mpr hj, rfl⟩) (by rw [hwidth]; exact hk) d
  rw [hwidth, State.convAt_f32 hf, ← hbytes] at hword
  exact hword

end

/-- The program of a map. -/
theorem op_of_map {c : Instr} {x : Ctx} {h : Header} {b : VxBody} {op : Op} (hc : c = .vxMap x h b ∨ c = .cuMap x h b)
    (hprog : programOf c = some (x, h, op)) : op = .vxMap b ∨ op = .cuMap b := by
  obtain rfl | rfl := hc
  · exact .inl (by simpa [programOf] using hprog.symm)
  · exact .inr (by simpa [programOf] using hprog.symm)

/-- Settles O21: a map computes without changing the state, so its bytes and its signals are all that its end leaves; view 2 as FP32 has
rows that lie apart, so each element holds the value written to it. -/
theorem vectorMaps : Obligations.VectorMaps := by
  intro c s x h b hc op hprog hx hmem
  have hop := op_of_map hc hprog
  have hvx := vx_of_map hop
  have hrun : (s.runNow x h op).s = s.begun x h op := by rw [State.runNow_vx hvx, vxRun_map_s]
  obtain ⟨t, hexec, heffect⟩ := vector_effect (runsOnVector_of_vx hvx) hprog hx (by rw [hrun]; exact onlyResults_refl _)
  simp only [State.completes, State.finishes, Bool.and_eq_true, Option.isNone_iff_eq_none, List.isEmpty_iff] at hx
  obtain ⟨⟨⟨⟨hi, hstart⟩, -⟩, hn⟩, -⟩ := hx
  obtain ⟨hh, -, -⟩ := State.heading_of_issues hi
  have hback := State.begun_vector_rest (runsOnVector_of_vx hvx) hh
  have hspad : (s.begun x h op).spad = s.spad := (congrArg State.spad hback :)
  have hfiles : samePdSf s (s.begun x h op) := by
    rw [samePdSf, (State.begun_fields hh).1]
    exact s.leftQueue_samePdSf x h op
  obtain ⟨hpd, hsf⟩ := hfiles
  rw [hspad] at hn
  have hbyte := State.byte_of_written (State.mem_wf_of_memoryOk hmem) hn heffect.spad
  refine ⟨t, hexec, ⟨hbyte, heffect.ec, heffect.queues⟩, ⟨heffect.pd.trans ?_, heffect.sf.trans ?_⟩, heffect.vx.trans ?_,
    heffect.cu.trans ?_, heffect.mx, heffect.entries, heffect.surround, fun hfuse hcvt haux _ _ => ?_⟩
  · rw [hrun, hpd]
  · rw [hrun, hsf]
  · rw [hrun]
    exact (congrArg State.vx hback :)
  · rw [hrun]
    exact (congrArg State.cu hback :)
  · obtain ⟨v, hv, hfit⟩ := map_view hop hi
    obtain ⟨p, hp⟩ := prog_of_startFault hvx hh hstart hfuse
    refine ⟨v, p, hv, hp, fun hf hq r j k hr hj hk => ?_⟩
    rw [hbyte]
    exact lastByte_map hop hh hfuse hcvt haux hp hv hf hq (hfit hf) hr hj hk _

end Sys2Proof.Machine
end

/-! ### VX_REDUCE and CU_REDUCE (O22) -/

section
namespace Sys2Proof.Machine

/-! #### The results of a reduction beside its bytes (R201, R202) -/

/-- The state in which a reduction has written its predicate. -/
def State.withTruth (s : State) (b : VxBody) (m n : Nat) (all : Num) : State :=
  if b.p.pdEn then s.setPd b.p.pdIdx (!(decide (m = 0 ∨ n = 0)) && all.truth) else s

/-- The state in which a reduction has written its predicate and its scalar. -/
def State.withResults (s : State) (b : VxBody) (m n : Nat) (all : Num) (w : W64) : State :=
  if b.p.sfwEn then (s.withTruth b m n all).setSf b.p.sfw w else s.withTruth b m n all

theorem vxReduceRun_s (s : State) (i : Issued) (b : VxBody) (m n : Nat) (y : Nat → Nat → Num) :
    (vxReduceRun s i b m n y).s = s.withResults b m n (vxReduced s i b m n y).2 (sfwWord s i b (vxReduced s i b m n y).2) := by
  unfold vxReduceRun
  dsimp only
  split <;> rfl

section
variable (s : State) (b : VxBody) (m n : Nat) (all : Num) (w : W64)

theorem State.withResults_onlyResults : onlyResults s (s.withResults b m n all w) := by
  unfold State.withResults State.withTruth
  cases b.p.pdEn <;> cases b.p.sfwEn <;> rfl

theorem State.withResults_vx : (s.withResults b m n all w).vx = s.vx := by
  unfold State.withResults State.withTruth
  cases b.p.pdEn <;> cases b.p.sfwEn <;> rfl

theorem State.withResults_cu : (s.withResults b m n all w).cu = s.cu := by
  unfold State.withResults State.withTruth
  cases b.p.pdEn <;> cases b.p.sfwEn <;> rfl

theorem State.setSf_pd (i : BitVec 6) (k : BitVec 4) : (s.setSf i w).pd k = s.pd k := rfl

/-- What an engine's write leaves in the scalar file: bit 63 of SF47 is not stored (R337). -/
theorem State.getElem_setSf (i k : BitVec 6) : (s.setSf i w).iu.sf[k.toNat]'(k.isLt) =
    if k = i then (if i = 47#6 then (fld w 0 63 : BitVec 63).setWidth 64 else w) else s.iu.sf[k.toNat]'(k.isLt) := by
  by_cases hk : k = i
  · subst hk
    simp [State.setSf, State.putSf, fld]
  · have hne : i.toNat ≠ k.toNat := fun e => hk (BitVec.eq_of_toNat_eq e.symm)
    simp [State.setSf, State.putSf, hk, Vector.getElem_set_ne _ _ hne]

theorem State.pd_withTruth (k : BitVec 4) : (s.withTruth b m n all).pd k =
    if b.p.pdEn = true ∧ k = b.p.pdIdx then !(decide (m = 0 ∨ n = 0)) && all.truth else s.pd k := by
  unfold State.withTruth
  cases b.p.pdEn with
  | true => simp [State.pd_setPd]
  | false => simp

theorem State.pd_withResults (k : BitVec 4) : (s.withResults b m n all w).pd k =
    if b.p.pdEn = true ∧ k = b.p.pdIdx then !(decide (m = 0 ∨ n = 0)) && all.truth else s.pd k := by
  rw [← State.pd_withTruth]
  unfold State.withResults
  split
  · exact State.setSf_pd _ _ _ k
  · rfl

theorem State.withTruth_sf : (s.withTruth b m n all).iu.sf = s.iu.sf := by
  unfold State.withTruth
  split <;> rfl

theorem State.getElem_withResults (k : BitVec 6) : (s.withResults b m n all w).iu.sf[k.toNat]'(k.isLt) =
    if b.p.sfwEn = true ∧ k = b.p.sfw then (if b.p.sfw = 47#6 then (fld w 0 63 : BitVec 63).setWidth 64 else w)
    else s.iu.sf[k.toNat]'(k.isLt) := by
  unfold State.withResults
  cases b.p.sfwEn with
  | true => simp [State.getElem_setSf, State.withTruth_sf]
  | false => simp [State.withTruth_sf]

end

/-! #### A reduction that issues (R200, R208) -/

section
variable {s : State} {x : Ctx} {h : Header} {op : Op} {b : VxBody} (hop : op = .vxReduce b ∨ op = .cuReduce b)
include hop

theorem vx_of_reduce : op.vx? = some (b, true) := by obtain rfl | rfl := hop <;> rfl

/-- No chain is a reduction. -/
theorem fuse_of_reduce (hh : s.heading x h op = true) : h.fuse = 0#8 := by
  have hhead := firstFault_eq_none.mp (State.headerFault_of_decodes (State.decodes_of_heading hh))
  have hfuse : op.fuseOk h.fuse = true := by
    have hfirst := hhead _ List.mem_cons_self
    simp only [Bool.or_eq_false_iff, Bool.not_eq_false'] at hfirst
    obtain ⟨⟨-, hfuse⟩, -⟩ := hfirst
    exact hfuse
  refine BitVec.eq_of_toNat_eq ?_
  unfold Op.fuseOk at hfuse
  obtain rfl | rfl := hop <;> split at hfuse <;> simp_all

end

theorem vxRun_reduce {s : State} {i : Issued} {b : VxBody} {p : BitVec 1024} (hfuse : i.e.cmd.h.fuse = 0#8)
    (hp : (s.vecOf (s.onCu i.e.cmd)).prog b.p.prog = some p) :
    vxRun s i b true = vxReduceRun s i b b.v0.rows.toNat b.v0.cols.toNat (vxElem s i b p) := by
  have hdomain : i.domain b true = (b.v0.rows.toNat, b.v0.cols.toNat) := rfl
  simp only [vxRun, hdomain, hfuse, hp]
  rfl

section
variable {s : State} {x : Ctx} {h : Header} {op : Op} {b : VxBody} (hop : op = .vxReduce b ∨ op = .cuReduce b)
  (hh : s.heading x h op = true)
include hop hh

theorem vxReduced_begun (i : Issued) : vxReduced (s.begun x h op) i b = vxReduced s i b :=
  (congrArg (fun v : State => vxReduced v i b) (State.begun_vector_rest (runsOnVector_of_vx (vx_of_reduce hop)) hh) :)

theorem sfwWord_begun (i : Issued) : sfwWord (s.begun x h op) i b = sfwWord s i b :=
  (congrArg (fun v : State => sfwWord v i b) (State.begun_vector_rest (runsOnVector_of_vx (vx_of_reduce hop)) hh) :)

/-- The state that a reduction leaves before its bytes land. -/
theorem State.runNow_reduce_s {p : BitVec 1024} (hp : (s.vecOf (s.onCu ⟨h, op⟩)).prog b.p.prog = some p) :
    let all := (vxReduced s (s.issuedOf x h op) b b.v0.rows.toNat b.v0.cols.toNat (vxElem s (s.issuedOf x h op) b p)).2
    (s.runNow x h op).s =
      (s.begun x h op).withResults b b.v0.rows.toNat b.v0.cols.toNat all (sfwWord s (s.issuedOf x h op) b all) := by
  have hvx := vx_of_reduce hop
  have hp' : ((s.begun x h op).vecOf ((s.begun x h op).onCu (s.issuedOf x h op).e.cmd)).prog b.p.prog = some p := by
    rw [State.begun_vecOf (runsOnVector_of_vx hvx) hh, State.begun_onCu (runsOnVector_of_vx hvx) hh]
    exact hp
  rw [State.runNow_vx hvx, vxRun_reduce (i := s.issuedOf x h op) (fuse_of_reduce hop hh) hp', vxReduceRun_s,
    vxElem_begun hvx hh, vxReduced_begun hop hh, sfwWord_begun hop hh]

end

/-- The program of a reduction. -/
theorem op_of_reduce {c : Instr} {x : Ctx} {h : Header} {b : VxBody} {op : Op} (hc : c = .vxReduce x h b ∨ c = .cuReduce x h b)
    (hprog : programOf c = some (x, h, op)) : op = .vxReduce b ∨ op = .cuReduce b := by
  obtain rfl | rfl := hc
  · exact .inl (by simpa [programOf] using hprog.symm)
  · exact .inr (by simpa [programOf] using hprog.symm)

theorem empty_domain (m n : BitVec 16) : decide (m.toNat = 0 ∨ n.toNat = 0) = (m == 0#16 || n == 0#16) := by
  rw [Bool.eq_iff_iff]
  simp [← BitVec.toNat_inj]

/-- Settles O22: before its bytes land a reduction has written its predicate and its scalar, and nothing else of the state. -/
theorem vectorReductions : Obligations.VectorReductions := by
  intro c s x h b hc op hprog hx hmem
  have hop := op_of_reduce hc hprog
  have hvx := vx_of_reduce hop
  have hchecks := hx
  simp only [State.completes, State.finishes, Bool.and_eq_true, Option.isNone_iff_eq_none, List.isEmpty_iff] at hchecks
  obtain ⟨⟨⟨⟨hi, hstart⟩, -⟩, hn⟩, -⟩ := hchecks
  obtain ⟨hh, -, -⟩ := State.heading_of_issues hi
  obtain ⟨p, hp⟩ := prog_of_startFault hvx hh hstart (fuse_of_reduce hop hh)
  have hrun := State.runNow_reduce_s hop hh hp
  dsimp only at hrun
  obtain ⟨t, hexec, heffect⟩ := vector_effect (runsOnVector_of_vx hvx) hprog hx
    (by rw [hrun]; exact State.withResults_onlyResults _ _ _ _ _ _)
  have hback := State.begun_vector_rest (runsOnVector_of_vx hvx) hh
  obtain ⟨hiu, hspad, -, -⟩ := State.begun_fields hh
  have hfiles : samePdSf s (s.begun x h op) := by
    rw [samePdSf, hiu]
    exact s.leftQueue_samePdSf x h op
  obtain ⟨hpd, hsf⟩ := hfiles
  rw [hspad] at hn
  have hbyte := State.byte_of_written (State.mem_wf_of_memoryOk hmem) hn heffect.spad
  have htpd : ∀ k, t.pd k = _ := fun k => (State.pd_of_iu heffect.pd k).trans (hrun ▸ State.pd_withResults _ _ _ _ _ _ k)
  have htsf : ∀ k : BitVec 6, t.iu.sf[k.toNat]'(k.isLt) = _ := fun k => by
    simp only [heffect.sf, hrun]
    exact State.getElem_withResults _ _ _ _ _ _ k
  refine ⟨t, p, hexec, hp, ⟨hbyte, heffect.ec, heffect.queues⟩, ⟨fun hen => ?_, fun k hk => ?_, fun hen => ?_, fun k hk => ?_⟩,
    heffect.vx.trans ?_, heffect.cu.trans ?_, heffect.mx, heffect.entries, heffect.surround⟩
  · rw [htpd, if_pos ⟨hen, rfl⟩, empty_domain]
  · rw [htpd, if_neg hk]
    exact State.pd_of_iu hpd k
  · rw [htsf, if_pos ⟨hen, rfl⟩]
  · rw [htsf, if_neg hk]
    simp only [hsf]
  · rw [hrun, State.withResults_vx]
    exact (congrArg State.vx hback :)
  · rw [hrun, State.withResults_cu]
    exact (congrArg State.cu hback :)

end Sys2Proof.Machine
end

/-! ### VX_PROG, VX_TABLE, CU_PROG, CU_TABLE and VX_AUX (O23) -/

section
namespace Sys2Proof.Machine

/-! #### Slots and tables (R195) -/

theorem State.vecOf_setVec (s : State) (cu c : Bool) (v : VecState) : (s.setVec cu v).vecOf c = if c = cu then v else s.vecOf c := by
  cases cu <;> cases c <;> rfl

theorem State.setVec_onlyResults (s : State) (cu : Bool) (v : VecState) : onlyResults s (s.setVec cu v) := by
  cases cu <;> rfl

/-- The write of one image of a program load into its slot. -/
def loadSlot (first : Nat) (t : Vector (Option (BitVec 1024)) 32) (q : BitVec 1024 × Nat) : Vector (Option (BitVec 1024)) 32 :=
  if h : first + q.2 < 32 then t.set (first + q.2) (some q.1) h else t

theorem VecState.load_progs (v : VecState) (first : Nat) (ps : List (BitVec 1024)) :
    (v.load first ps).progs = ps.zipIdx.foldl (loadSlot first) v.progs := rfl

theorem getElem_loadSlot (first : Nat) (t : Vector (Option (BitVec 1024)) 32) (p : BitVec 1024) (j : Nat) (k : Fin 32) :
    (loadSlot first t (p, j))[k] = if k.1 = first + j then some p else t[k] := by
  unfold loadSlot
  by_cases hj : first + j < 32
  · simp only [hj, dif_pos, Fin.getElem_fin, Vector.getElem_set, eq_comm]
  · have hne : k.1 ≠ first + j := by omega
    simp [hj, hne]

/-- Images load into consecutive slots. -/
theorem getElem_foldl_loadSlot (first : Nat) (ps : List (BitVec 1024)) (j : Nat) (t : Vector (Option (BitVec 1024)) 32) (k : Fin 32) :
    ((ps.zipIdx j).foldl (loadSlot first) t)[k] =
      if first + j ≤ k.1 ∧ k.1 < first + j + ps.length then ps[k.1 - (first + j)]? else t[k] := by
  induction ps generalizing j t with
  | nil => simp
  | cons p ps ih =>
    rw [List.zipIdx_cons, List.foldl_cons, ih, getElem_loadSlot, List.length_cons]
    by_cases hk : k.1 = first + j
    · simp [hk]
    · by_cases hin : first + (j + 1) ≤ k.1 ∧ k.1 < first + (j + 1) + ps.length
      · rw [if_pos hin, if_pos (by omega), show k.1 - (first + j) = k.1 - (first + (j + 1)) + 1 by omega, List.getElem?_cons_succ]
      · rw [if_neg hin, if_neg hk, if_neg (by omega)]

theorem getElem_load (v : VecState) (first : Nat) (ps : List (BitVec 1024)) (k : Fin 32) :
    (v.load first ps).progs[k] = if first ≤ k.1 ∧ k.1 < first + ps.length then ps[k.1 - first]? else v.progs[k] := by
  rw [VecState.load_progs]
  exact getElem_foldl_loadSlot first ps 0 v.progs k

theorem getElem_load_progImages (v : VecState) (first : Nat) (s : State) (w : RView) (k : Fin 32) :
    (v.load first (progImages s w)).progs[k] = if first ≤ k.1 ∧ k.1 < first + w.rows then
      some (BitVec.ofNat 1024 (leNat (s.bytes (w.addr + (k.1 - first) * w.stride) 128))) else v.progs[k] := by
  have hlen : (progImages s w).length = w.rows := by simp [progImages]
  rw [getElem_load, hlen]
  split
  · next hin =>
    have hlt : k.1 - first < w.rows := by omega
    simp [progImages, hlt]
  · rfl

theorem getElem_loadTable (v : VecState) (n : Nat) (t : FnTable) (k : Fin 8) :
    (v.loadTable n t).tables[k] = if k.1 = n then some t else v.tables[k] := by
  unfold VecState.loadTable
  by_cases hn : n < 8
  · simp only [hn, dif_pos, Fin.getElem_fin, Vector.getElem_set, eq_comm]
  · have hne : k.1 ≠ n := by omega
    simp [hn, hne]

theorem Spad.write_nil (sp : Spad) : sp.write [] = sp := by
  have hcover : ∀ w, coversWord [] w = false := fun w => by
    simp only [coversWord, List.any_nil]
    rfl
  simp [Spad.write, hcover]

/-! #### A load that completes (R195, R406) -/

/-- The body of a load, and whether it loads a table. -/
def loadOf : Op → Option (VxLoadBody × Bool)
  | .vxProg b | .cuProg b => some (b, false)
  | .vxTable b | .cuTable b => some (b, true)
  | _ => none

/-- The slots and tables of a unit after a load from a view. -/
def State.loaded (s : State) (cu : Bool) (b : VxLoadBody) (table : Bool) (v : RView) : VecState :=
  if table then (s.vecOf cu).loadTable b.first.toNat (tableImage s v) else (s.vecOf cu).load b.first.toNat (progImages s v)

/-- What a load leaves beside its slots or its table. -/
def loadedOnly (s t : State) (x : Ctx) (h : Header) (op : Op) : Prop :=
  t.vecOf (!s.onCu ⟨h, op⟩) = s.vecOf (!s.onCu ⟨h, op⟩) ∧ t.spad = s.spad ∧ t.mx = s.mx ∧ samePdSf s t ∧
  (∀ i, t.ec i = s.ec i + bump h i) ∧ sameQueues s t x.task ∧ sameSurround s t

section
variable {op : Op} {b : VxLoadBody} {table : Bool} (hload : loadOf op = some (b, table))
include hload

theorem runsOnVector_of_load : runsOnVector op = true := by
  cases op <;> simp_all [loadOf, runsOnVector]

theorem vx_of_load : op.vx? = none := by
  cases op <;> simp_all [loadOf, Op.vx?]

theorem load_view (s : State) (x : Ctx) (h : Header) : ∃ v, viewAt (s.issuedOf x h op).views 0 = some v := by
  refine State.viewAt_issuedOf s x h (by omega) fun sf => ?_
  cases op <;> simp_all [loadOf, usesOf, vxUses, Use.source]

variable {s : State} {x : Ctx} {h : Header}

theorem State.runNow_load (hh : s.heading x h op = true) {v : RView} (hv : viewAt (s.issuedOf x h op).views 0 = some v) :
    s.runNow x h op =
      Run.none_ ((s.begun x h op).setVec (s.onCu ⟨h, op⟩) ((s.begun x h op).loaded (s.onCu ⟨h, op⟩) b table v)) := by
  have hcmd : (s.issuedOf x h op).e.cmd = ⟨h, op⟩ := rfl
  have hrun : s.runNow x h op = vxLoadRun (s.begun x h op) (s.issuedOf x h op) b table := by
    rw [State.runNow, State.startedOf_vector (runsOnVector_of_load hload), State.runOf, hcmd]
    cases op <;> simp_all [loadOf]
  rw [hrun]
  simp only [vxLoadRun, hv, hcmd, State.begun_onCu (runsOnVector_of_load hload) hh]
  rfl

theorem State.loaded_begun (hh : s.heading x h op = true) (cu : Bool) (v : RView) :
    (s.begun x h op).loaded cu b table v = s.loaded cu b table v :=
  (congrArg (fun t : State => t.loaded cu b table v) (State.begun_vector_rest (runsOnVector_of_load hload) hh) :)

/-- A load that completes. -/
theorem load_effect {c : Instr} (hprog : programOf c = some (x, h, op)) (hx : s.completes x h op = true) :
    ∃ t v, exec c s = .next t ∧ viewAt (s.issuedOf x h op).views 0 = some v ∧
      t.vecOf (s.onCu ⟨h, op⟩) = s.loaded (s.onCu ⟨h, op⟩) b table v ∧ loadedOnly s t x h op := by
  have hchecks := hx
  simp only [State.completes, State.finishes, Bool.and_eq_true] at hchecks
  obtain ⟨⟨⟨⟨hi, -⟩, -⟩, -⟩, -⟩ := hchecks
  obtain ⟨hh, -, -⟩ := State.heading_of_issues hi
  have hvec := runsOnVector_of_load hload
  obtain ⟨v, hv⟩ := load_view hload s x h
  have hrun := State.runNow_load hload hh hv
  rw [State.loaded_begun hload hh] at hrun
  obtain ⟨t, hexec, heffect⟩ := vector_effect hvec hprog hx (by rw [hrun]; exact State.setVec_onlyResults _ _ _)
  have hquiet : (s.begun x h op).quietWords (s.issuedOf x h op) = [] := by
    have hnone : (s.issuedOf x h op).e.cmd.op.vx? = none := vx_of_load hload
    rw [State.quietWords, hnone]
  have hstores : ∀ cu, t.vecOf cu = (s.runNow x h op).s.vecOf cu := fun cu => by simp only [State.vecOf, heffect.vx, heffect.cu]
  have hset : ∀ cu, t.vecOf cu = if cu = s.onCu ⟨h, op⟩ then s.loaded (s.onCu ⟨h, op⟩) b table v else s.vecOf cu := fun cu => by
    rw [hstores, hrun, ← State.begun_vecOf hvec hh cu]
    exact State.vecOf_setVec _ _ _ _
  have hiu : (s.runNow x h op).s.iu = (s.begun x h op).iu := by
    rw [hrun, Run.none_, State.setVec]
    split <;> rfl
  have hfiles : samePdSf s (s.begun x h op) := by
    rw [samePdSf, (State.begun_fields hh).1]
    exact s.leftQueue_samePdSf x h op
  obtain ⟨hpd, hsf⟩ := hfiles
  refine ⟨t, v, hexec, hv, ?_, ?_, ?_, heffect.mx, ⟨?_, ?_⟩, heffect.ec, heffect.queues, heffect.surround hquiet⟩
  · rw [hset, if_pos rfl]
  · rw [hset, if_neg (by simp)]
  · rw [heffect.spad, hrun]
    exact Spad.write_nil _
  · rw [heffect.pd, hiu, hpd]
  · rw [heffect.sf, hiu, hsf]

end

/-- The program of a load. -/
theorem loadOf_of_prog {c : Instr} {x : Ctx} {h : Header} {b : VxLoadBody} {op : Op} (hc : c = .vxProg x h b ∨ c = .cuProg x h b)
    (hprog : programOf c = some (x, h, op)) : loadOf op = some (b, false) := by
  obtain rfl | rfl := hc
  · obtain rfl : Op.vxProg b = op := by simpa [programOf] using hprog
    rfl
  · obtain rfl : Op.cuProg b = op := by simpa [programOf] using hprog
    rfl

theorem loadOf_of_table {c : Instr} {x : Ctx} {h : Header} {b : VxLoadBody} {op : Op} (hc : c = .vxTable x h b ∨ c = .cuTable x h b)
    (hprog : programOf c = some (x, h, op)) : loadOf op = some (b, true) := by
  obtain rfl | rfl := hc
  · obtain rfl : Op.vxTable b = op := by simpa [programOf] using hprog
    rfl
  · obtain rfl : Op.cuTable b = op := by simpa [programOf] using hprog
    rfl

/-! #### VX_AUX (R193) -/

/-- A VX_AUX that decodes waits in its task for the next command. -/
theorem State.command_vxAux {s : State} {x : Ctx} {h : Header} {b : AuxBody} (hd : s.decodes x h (.vxAux b) = true) :
    s.command x h (.vxAux b) = s.settleSwaps.passDpi x ⟨h, .vxAux b⟩ := by
  simp only [State.decodes, State.fetches, Bool.and_eq_true, Option.isNone_iff_eq_none, Bool.not_eq_true', beq_iff_eq] at hd
  obtain ⟨⟨⟨⟨⟨hact, hdec⟩, hq⟩, hpair⟩, hfault⟩, hplace⟩ := hd
  have hnone : s.iu.queued.find? (fun e => e.x.task == x.task && e.x.dpi == x.dpi) = none := by
    rw [List.find?_eq_none]
    simpa [List.any_eq_false] using hq
  have haux : s.auxFor x (.vxAux b) = none := by
    unfold State.auxFor
    split <;> simp_all
  have hact0 : s.settleSwaps.active x.task = true := hact
  have hdec0 : s.settleSwaps.mayDecode x = true := hdec
  have hpair0 : s.settleSwaps.auxFor x (.vxAux b) = none := haux
  have hk : (s.settleSwaps.task x.task).aux = none := hpair.symm.trans haux
  have hplace0 : placeFault (s.settleSwaps.task x.task) (.vxAux b) = none := hplace
  have hfault0 : s.settleSwaps.decodeFault ⟨x, ⟨h, .vxAux b⟩, none, none, false,
    (s.settleSwaps.task x.task).pos, (s.settleSwaps.task x.task).loops, s.cycle⟩ = none := haux ▸ hfault
  unfold State.command
  rw [State.lateFetch_of_active hact]
  simp only [State.takeCommand, hact0, hdec0, hpair0, hplace0, hk, hfault0, State.settleSwaps_iu, hnone,
    Bool.not_true, Bool.false_eq_true, if_false]

theorem Task.passed_vxAux (k : Task) (d : W64) (h : Header) (b : AuxBody) :
    (k.passed d ⟨h, .vxAux b⟩).aux = some (d, b) ∧ (k.dpi = d → (k.passed d ⟨h, .vxAux b⟩).dpi = d + 1) := by
  refine ⟨rfl, fun hd => ?_⟩
  subst hd
  exact if_pos (BitVec.le_refl _)

theorem vxAux_waits {s : State} {x : Ctx} {h : Header} {b : AuxBody} (hd : s.decodes x h (.vxAux b) = true) :
    ∃ t, exec (.vxAux x h b) s = .next t ∧ (t.task x.task).aux = some (x.dpi, b) ∧
      ((s.task x.task).dpi = x.dpi → (t.task x.task).dpi = x.dpi + 1) ∧ (∀ i, t.ec i = s.ec i) ∧ samePdSf s t ∧
      sameQueues s t x.task ∧ t.withIu s.iu = s.settleSwaps := by
  have htask : (s.settleSwaps.passDpi x ⟨h, .vxAux b⟩).task x.task = (s.task x.task).passed x.dpi ⟨h, .vxAux b⟩ :=
    (State.task_setTask _ _ _ _).trans (if_pos rfl)
  obtain ⟨haux, hdpi⟩ := (s.task x.task).passed_vxAux x.dpi h b
  refine ⟨s.settleSwaps.passDpi x ⟨h, .vxAux b⟩, ?_, ?_, ?_, fun _ => rfl, ⟨rfl, rfl⟩, s.setTask_sameQueues x.task _, rfl⟩
  · rw [exec_program (op := .vxAux b) rfl, State.command_vxAux hd]
  · rw [htask, haux]
  · rw [htask]
    exact hdpi

/-- Settles O23: a load changes the slots or the table that it names and nothing else of its unit; a VX_AUX changes its task alone. -/
theorem vectorLoads : Obligations.VectorLoads := by
  refine ⟨fun c s x h b hc op hprog hx => ?_, fun c s x h b hc op hprog hx => ?_, fun s x h b hd => vxAux_waits hd⟩
  · obtain ⟨t, v, hexec, hv, hvec, hrest⟩ := load_effect (loadOf_of_prog hc hprog) hprog hx
    refine ⟨t, v, hexec, hv, fun k => ?_, ?_, hrest⟩
    · rw [hvec]
      exact getElem_load_progImages _ _ s v k
    · rw [hvec]
      rfl
  · obtain ⟨t, v, hexec, hv, hvec, hrest⟩ := load_effect (loadOf_of_table hc hprog) hprog hx
    refine ⟨t, v, hexec, hv, fun k => ?_, ?_, hrest⟩
    · rw [hvec]
      exact getElem_loadTable _ _ _ k
    · rw [hvec]
      rfl

end Sys2Proof.Machine
end

/-! ### A tile that the core's own scratchpad refuses (O28) -/

section
namespace Sys2Proof.Machine

/-! #### The fault of a refused tile (R231) -/

theorem State.ownRefusal_isOwn {s : State} {i : Issued} {bs : Bytes} {x : BitVec 8 × List Nat} (h : s.ownRefusal i bs = some x) :
    s.isOwn i.peerAddr = true := by
  unfold State.ownRefusal at h
  split at h
  · assumption
  · cases h

/-- A command whose tile its own core refuses aborts its task (R231). -/
theorem State.sendPeer_refused {s : State} {i : Issued} {bs : Bytes} {c : BitVec 8} {ws : List Nat} (h : s.ownRefusal i bs = some (c, ws))
    (ha : s.abortable i.e.x.task i.e.x.dpi = true) (u : UnitId) (seen : List Seen) :
    aborted (s.sendPeer u i bs seen) i.e.x.task Code.remoteRefused i.e.x.dpi := by
  have hiu : (((s.poisonWords ws).poisonOutputs i).closeRef i.e).iu = s.iu :=
    ((State.closeRef_iu _ _).trans (onlyRg_iu (State.poisonOutputs_only _ i))).trans (onlyRg_iu (s.poisonWords_only ws))
  simp only [State.sendPeer, State.ownRefusal_isOwn h, h, if_true]
  exact State.abortTaskAt_aborted _ _ _ _ _ _ ((State.abortable_of_iu hiu _ _).trans ha)

theorem State.finishCmd_refused {s : State} {i : Issued} {c : BitVec 8} {ws : List Nat} (hdata : s.dataFault i = none)
    (hnarrow : s.spad.narrow (s.runOf i).bytes = []) (hquiet : s.quietWords i = [])
    (h : (s.runOf i).land.ownRefusal i (s.runOf i).peer = some (c, ws)) (hpeer : (s.runOf i).peer.isEmpty = false)
    (ha : (s.runOf i).land.abortable i.e.x.task i.e.x.dpi = true) (u : UnitId) :
    aborted (s.finishCmd u i) i.e.x.task Code.remoteRefused i.e.x.dpi := by
  have hfinish : s.finishCmd u i = (s.runOf i).land.sendPeer u i (s.runOf i).peer (s.runOf i).seen := by
    simp only [State.finishCmd, hdata, hnarrow, hquiet, hpeer, Bool.false_eq_true, if_false]
    rfl
  rw [hfinish]
  exact State.sendPeer_refused h ha u _

theorem exec_commandComplete (s : State) (u : UnitId) (n : Nat) :
    exec (.commandComplete ⟨u, n⟩) s = .next (s.follow (s.completeUnit u n)) := rfl

/-- A command that stands alone on its unit completes (R42). -/
theorem State.completeUnit_alone {s : State} {u : UnitId} {i : Issued} (h : s.iu.onUnit u = [(u, i)]) :
    s.completeUnit u 0 = (s.dropExec i).finishCmd u i := by
  have hk : completing [(u, i)] 0 = 0 := by simp [completing]
  have hsame : sameCmd i i = true := by simp [sameCmd]
  simp [State.completeUnit, h, hk, State.endAhead, hsame]

/-! #### The counterexample -/

/-- A SOFTMAX of one FP32 element that exports its tile to byte 0 of this core's scratchpad (R209, R229, R231). -/
def selfSender : Issued where
  e := { x := ⟨0, 0, []⟩, cmd := ⟨{ Header.plain 8 with fuse := 0x20 },
           .vxMap ⟨{ View.zero with rows := 1, cols := 1, stride := 1 }, View.zero,
             { View.zero with rows := 1, cols := 1, offset := 1, stride := 1 }, ⟨0, 0, 0, 0, 0, false, 0, false, 0⟩⟩⟩,
         aux := none, ref := none, injected := false, pos := 0, loops := [], since := 0 }
  views := [some ⟨0, false, 0, 0, 1, 1, 64, 0, 0, false, 0⟩, none, some ⟨0, false, 64, 1, 1, 1, 64, 0, 0, false, 0⟩]
  sf := ((Vector.replicate 64 (0 : W64)).set 50 (1#64 <<< 62)).set 51 0x10000000000
  masks := Masks.ones
  replayed := false
  exporting := none
  stepped := false
  fresh := false
  noted := []

/-- The NOP of the same task that waits in a queue behind `selfSender`. -/
def waitingNop : Entry :=
  { x := ⟨0, 1, []⟩, cmd := ⟨Header.plain 22, .nop⟩, aux := none, ref := none, injected := false, pos := 0, loops := [], since := 0 }

/-- Task 0 runs, `selfSender` executes on VX, and no region is valid, so that the core refuses every write into its scratchpad. -/
def refusingCore : State := State.reset.withIu { State.reset.iu with
  tasks := State.reset.iu.tasks.set 0 { Task.none_ with st := .running }
  queued := [waitingNop]
  exec := [(.vx, selfSender)] }

theorem refusingCore_onUnit : refusingCore.iu.onUnit .vx = [(.vx, selfSender)] := by decide +kernel
theorem refusingCore_memoryOk : refusingCore.memoryOk = true := by decide +kernel
theorem refusingCore_dataFault : (refusingCore.dropExec selfSender).dataFault selfSender = none := by decide +kernel
theorem refusingCore_narrow :
    refusingCore.spad.narrow ((refusingCore.dropExec selfSender).runOf selfSender).bytes = [] := by decide +kernel
theorem refusingCore_quietWords : (refusingCore.dropExec selfSender).quietWords selfSender = [] := by decide +kernel
theorem refusingCore_peer : ((refusingCore.dropExec selfSender).runOf selfSender).peer.isEmpty = false := by decide +kernel
theorem refusingCore_abortable :
    ((refusingCore.dropExec selfSender).runOf selfSender).land.abortable 0 0 = true := by decide +kernel

/-- The core refuses the tile: it meets no valid region. -/
theorem refusingCore_refuses : ((refusingCore.dropExec selfSender).runOf selfSender).land.ownRefusal selfSender
    ((refusingCore.dropExec selfSender).runOf selfSender).peer = some (1, []) := by decide +kernel

/-- The completion of `selfSender` ends its task with REMOTE_REFUSED. -/
theorem refusingCore_aborts :
    aborted (refusingCore.follow (refusingCore.completeUnit .vx 0)) 0 Code.remoteRefused 0 := by
  rw [State.completeUnit_alone refusingCore_onUnit]
  exact aborted_follow (State.finishCmd_refused refusingCore_dataFault refusingCore_narrow refusingCore_quietWords refusingCore_refuses
    refusingCore_peer refusingCore_abortable .vx) refusingCore

/-- Refutes O28: the statement keeps the queues at every completion, but a command whose tile its own core refuses faults (R231), and its
task's commands leave the queues (R42). In `refusingCore` the waiting NOP goes. -/
theorem not_startAndComplete : ¬ Obligations.StartAndComplete := by
  intro h
  obtain ⟨-, hcomplete, -⟩ := h
  have hk : completing (refusingCore.iu.onUnit .vx) 0 = 0 := by rw [refusingCore_onUnit]; rfl
  have hat : (refusingCore.iu.onUnit .vx)[0]? = some (.vx, selfSender) := by rw [refusingCore_onUnit]; rfl
  have hrun : (refusingCore.iu.onUnit .vx).any (fun x => sameCmd x.2 selfSender) = true := by decide +kernel
  have hclaim := hcomplete refusingCore .vx 0 selfSender
  rw [hk] at hclaim
  obtain ⟨t, hexec, -, hqueued, -⟩ := hclaim hat hrun refusingCore_memoryOk refusingCore_dataFault refusingCore_narrow
  rw [exec_commandComplete] at hexec
  obtain rfl := Host.Outcome.next.inj hexec
  obtain ⟨-, -, hgone, -⟩ := refusingCore_aborts
  rw [hqueued] at hgone
  exact hgone waitingNop List.mem_cons_self rfl

end Sys2Proof.Machine
end

/-! ### A detour switch that two commands of one task await (O50) -/

section
namespace Sys2Proof.Machine

/-- `selfSender` as it waits for core 0 to acknowledge the byte that it has sent. -/
def waitingSender : Issued :=
  { selfSender with exporting := some ⟨[(0x10000000000, 0)], [(0x10000000000, 1)], false, none, 0, []⟩ }

/-- A STREAM that loads eight bytes of core 0. -/
def dieLoad : StreamBody :=
  { region := 0, half := false, dir := false, esize := 3, trans := false, tu := 0, slot := 0, notify := false, mcast := false, notifyEc := 0,
    notifyInc := 0, offset := 0, far := 0x10000000000, count0 := 1, count1 := 1, count2 := 1, count3 := 1, count4 := 1,
    stride0 := 0, stride1 := 0, stride2 := 0, stride3 := 0, stride4 := 0, group := 0 }

/-- That STREAM as its slot runs it, at DPI 1, with one window still to come. -/
def dieTransfer : Transfer where
  i := { waitingSender with
    e := { x := ⟨0, 1, []⟩, cmd := ⟨Header.plain 10, .stream dieLoad⟩, aux := none, ref := none, injected := false, pos := 0, loops := [],
           since := 0 }
    views := [some ⟨0, false, 0, 0, 0, 0, 0, 0, 0, false, 0⟩]
    exporting := none }
  halfB := false
  orphan := false
  left := 1
  reports := 0
  drops := 0
  lateMask := 0
  route := none
  path := 0
  faulted := false
  notified := false
  back := none
  got := []
  seq := 0
  data := []
  mseq := 0
  told := []

/-- A router part that is loaded. -/
def plainRouter : RouterPart := { RouterPart.empty with period := 1 }

/-- Core 1 has the detour for core 0 on order. Task 0 runs a VX command that waits for core 0 at DPI 0, and a STREAM that loads from core 0
at DPI 1. -/
def bothAwaitCore0 : State :=
  (((State.reset.withId { State.reset.id with core := 1 }).withCal { State.reset.cal with
    router := plainRouter, detours := State.reset.cal.detours.set 0 (some plainRouter), order := some 0 }).withIu { State.reset.iu with
      tasks := State.reset.iu.tasks.set 0 { Task.none_ with st := .running }
      exec := [(.vx, waitingSender)] }).setSlot 0 0 ⟨some dieTransfer, none⟩

theorem bothAwaitCore0_others (f : Fin 8) (q : Fin 4) (h : ¬ (f = 0 ∧ q = 0)) : (bothAwaitCore0.slot f q).run = none := by
  have hreset : (State.reset.slot f q).run = none := by revert f q; decide +kernel
  rw [bothAwaitCore0, State.slot_setSlot, if_neg h]
  exact hreset

/-- The command that exports fails last, and its task reports the fault with the lower DPI. -/
theorem bothAwaitCore0_reports : (bothAwaitCore0.switchDetour.task 0).fault = some (Code.remoteRefused, 0) := by decide +kernel

/-- Refutes O50: a transfer to the failed core does not report its own DPI where a command of the same task with a lower DPI exports to that
core. Both fail at the switch, and a task reports the lowest of the faults of one control cycle (R56, R392). In `bothAwaitCore0` the
transfer has DPI 1 and the command that exports DPI 0. -/
theorem not_router : ¬ Obligations.Router := by
  intro h
  obtain ⟨-, -, -, -, -, hlost⟩ := h
  have hclaim := hlost bothAwaitCore0 0 plainRouter 0 0 dieTransfer dieLoad (by decide +kernel) (by decide +kernel) (by decide +kernel)
    (by decide +kernel) (by decide +kernel) rfl (by decide +kernel) (by decide +kernel) (by decide +kernel) rfl
    bothAwaitCore0_others (by decide +kernel)
  obtain ⟨t, hexec, -, hfault, -⟩ := hclaim
  obtain rfl := Host.Outcome.next.inj hexec
  rw [State.task_follow] at hfault
  exact absurd (bothAwaitCore0_reports.symm.trans hfault) (by decide)

end Sys2Proof.Machine
end

/-! ### BARRIER and CAL_LOAD (O12) -/

section
namespace Sys2Proof.Machine

/-! #### A control command that leaves the issue unit and the regions alone -/

@[simp] theorem State.follow_cal (s t : State) : (s.follow t).cal = t.cal := (congrArg State.cal (s.follow_rest t) :)
@[simp] theorem State.follow_sol (s t : State) : (s.follow t).sol = t.sol := (congrArg State.sol (s.follow_rest t) :)

@[simp] theorem State.signals_cal (s : State) (h : Header) : (s.signals h).cal = s.cal :=
  (congrArg State.cal (State.signals_withIu s h s.iu) :)
@[simp] theorem State.signals_sol (s : State) (h : Header) : (s.signals h).sol = s.sol :=
  (congrArg State.sol (State.signals_withIu s h s.iu) :)
theorem State.signals_out (s : State) (h : Header) : (s.signals h).out = s.out :=
  (congrArg State.out (State.signals_withIu s h s.iu) :)

/-- What a command of the control queue leaves that writes neither counters nor files: its signals, the files, the queues and the
scratchpad. -/
theorem signalsOnly_of_iu {s v : State} {x : Ctx} {h : Header} {op : Op} (hiu : v.iu = (s.leftQueue x h op).iu)
    (hspad : v.spad = s.spad) (p : State) :
    (∀ i, (p.follow (v.signals h)).ec i = s.ec i + bump h i) ∧ samePdSf s (p.follow (v.signals h)) ∧
      sameQueues s (p.follow (v.signals h)) x.task ∧ (p.follow (v.signals h)).spad = s.spad := by
  have hqueues : sameQueues s v x.task := sameQueues_of_iu hiu (s.leftQueue_sameQueues x h op)
  have hfiles : samePdSf s v := ⟨(congrArg Iu.pd hiu :), (congrArg Iu.sf hiu :)⟩
  refine ⟨fun i => ?_, samePdSf_follow (samePdSf_trans hfiles (State.signals_samePdSf v h)) p,
    sameQueues_follow (sameQueues_trans hqueues (State.signals_sameQueues v h _)) p, ?_⟩
  · rw [State.ec_follow, State.ec_signals, State.ec_of_iu (s := s) (t := v) (congrArg Iu.ec hiu :)]
  · rw [State.follow_spad, State.signals_spad, hspad]

/-! #### BARRIER (R300, R301, R303) -/

/-- The arrival that a BARRIER adds. -/
def State.arrivalOf (s : State) (x : Ctx) (b : BarrierBody) : Arrived :=
  ⟨x.task, x.dpi, b.members, b.relEc, b.relInc, b.calSwap, s.sol.sent % 2 == 1, s.cal.standbySched.setWidth 16⟩

/-- The arrival stands behind those that wait, and is presented when there are none. -/
theorem barrierRun_eq (s : State) (x : Ctx) (b : BarrierBody) :
    barrierRun s x b = (s.withSol { s.sol with out := s.sol.out ++ [s.arrivalOf x b], sent := s.sol.sent + 1 }).withOut
      (s.out ++ if s.sol.out.isEmpty then
        [.arrival b.members b.calSwap (s.arrivalOf x b).parity (s.arrivalOf x b).sched] else []) := by
  unfold barrierRun
  dsimp only
  split
  · rfl
  · rw [List.append_nil]
    rfl

/-- What BARRIER and its checks read is no part of the queue that the command enters. -/
theorem barrierReady_placed (s : State) (x : Ctx) (h : Header) (op : Op) (b : BarrierBody) :
    barrierReady (s.placed x h op) b = barrierReady s b := by
  rw [State.placed_eq]
  rfl

theorem barrierFault_placed (s : State) (x : Ctx) (h : Header) (op : Op) (b : BarrierBody) :
    barrierFault (s.placed x h op) b = barrierFault s b := by
  rw [State.placed_eq]
  rfl

theorem exec_barrier {s : State} {x : Ctx} {h : Header} {b : BarrierBody} (hx : s.executes x h (.barrier b) = true)
    (hok : barrierFault s b = none) (hready : barrierReady s b = true) :
    exec (.barrier x h b) s =
      .next ((s.placed x h (.barrier b)).follow ((barrierRun (s.leftQueue x h (.barrier b)) x b).signals h)) :=
  exec_atIssue_unversioned rfl hx nofun rfl rfl
    (State.issueFault_of_no_views (by simp) rfl ((barrierFault_placed s x h _ b).trans hok))
    ((barrierReady_placed s x h _ b).trans hready) rfl

theorem sol_length_of_barrierReady {s : State} {b : BarrierBody} (h : barrierReady s b = true) : s.sol.out.length < 2 := by
  simp only [barrierReady, Bool.and_eq_true, decide_eq_true_eq] at h
  exact h.1

/-! #### CAL_LOAD (R291) -/

theorem exec_calLoad {s : State} {x : Ctx} {h : Header} {b : CalLoadBody} (hx : s.executes x h (.calLoad b) = true)
    (hok : calLoadFault s.settleSwaps b = none) (hready : calLoadReady s = true) :
    exec (.calLoad x h b) s =
      .next ((s.placed x h (.calLoad b)).follow ((calLoadRun (s.leftQueue x h (.calLoad b)) x b).signals h)) := by
  have hplaced := State.placed_onlyFetch (op := .calLoad b) rfl s x h
  have hfault : calLoadFault (s.placed x h (.calLoad b)) b = none := by
    rw [hplaced]
    exact hok
  have hissues : calLoadReady (s.placed x h (.calLoad b)) = true := by
    rw [hplaced]
    exact hready
  exact exec_atIssue_unversioned rfl hx nofun rfl rfl (State.issueFault_of_no_views (by simp) rfl hfault) hissues rfl

/-! #### What each leaves -/

theorem barrierRun_iu (s : State) (x : Ctx) (b : BarrierBody) : (barrierRun s x b).iu = s.iu := by rw [barrierRun_eq]; rfl
theorem barrierRun_spad (s : State) (x : Ctx) (b : BarrierBody) : (barrierRun s x b).spad = s.spad := by rw [barrierRun_eq]; rfl
theorem barrierRun_cal (s : State) (x : Ctx) (b : BarrierBody) : (barrierRun s x b).cal = s.cal := by rw [barrierRun_eq]; rfl
theorem barrierRun_solOut (s : State) (x : Ctx) (b : BarrierBody) : (barrierRun s x b).sol.out = s.sol.out ++ [s.arrivalOf x b] := by
  rw [barrierRun_eq]; rfl
theorem barrierRun_sent (s : State) (x : Ctx) (b : BarrierBody) : (barrierRun s x b).sol.sent = s.sol.sent + 1 := by
  rw [barrierRun_eq]; rfl
theorem barrierRun_out (s : State) (x : Ctx) (b : BarrierBody) :
    (barrierRun s x b).out = s.out ++ if s.sol.out.isEmpty then
      [.arrival b.members b.calSwap (s.arrivalOf x b).parity (s.arrivalOf x b).sched] else [] := by
  rw [barrierRun_eq]; rfl

/-- What a BARRIER leaves, with the arrival that it adds. -/
theorem exec_barrier_effect {s : State} {x : Ctx} {h : Header} {b : BarrierBody} (hx : s.executes x h (.barrier b) = true)
    (hok : barrierFault s b = none) (hready : barrierReady s b = true) :
    ∃ t, exec (.barrier x h b) s = .next t ∧ t.sol.out = s.sol.out ++ [s.arrivalOf x b] ∧ t.sol.sent = s.sol.sent + 1 ∧
      t.cal = s.cal ∧ sentBefore s t (if s.sol.out.isEmpty then
        [.arrival b.members b.calSwap (s.arrivalOf x b).parity (s.arrivalOf x b).sched] else []) ∧
      (∀ i, t.ec i = s.ec i + bump h i) ∧ samePdSf s t ∧ sameQueues s t x.task ∧ t.spad = s.spad := by
  refine ⟨_, exec_barrier hx hok hready, ?_, ?_, ?_, sentBefore_of_out ?_ (State.follow_forecasts _ _),
    signalsOnly_of_iu (barrierRun_iu _ x b) (barrierRun_spad _ x b) _⟩
  · rw [State.follow_sol, State.signals_sol, barrierRun_solOut]
    rfl
  · rw [State.follow_sol, State.signals_sol, barrierRun_sent]
    rfl
  · rw [State.follow_cal, State.signals_cal, barrierRun_cal]
    rfl
  · rw [State.signals_out, barrierRun_out]
    rfl

/-- An arrival with CAL_SWAP on SY_OUT stops new admissions. -/
theorem State.swapPends_of_arrival {s : State} {a : Arrived} (ha : a ∈ s.sol.out) (hswap : a.calSwap = true) :
    s.swapPends = true := by
  unfold State.swapPends
  rw [List.any_eq_true.mpr ⟨a, ha, hswap⟩, Bool.or_true]

theorem calLoadRun_iu (s : State) (x : Ctx) (b : CalLoadBody) : (calLoadRun s x b).iu = s.iu := rfl
theorem calLoadRun_spad (s : State) (x : Ctx) (b : CalLoadBody) : (calLoadRun s x b).spad = s.spad := rfl

/-- Settles O12: each command is one update of SY_OUT or of STANDBY; its signals, ballast and the forecast follow. -/
theorem barrierAndLoad : Obligations.BarrierAndLoad := by
  refine ⟨fun s x h b hx hok hready => ?_, fun s x h b hx hok hready => ?_⟩
  · obtain ⟨t, hexec, hout, hsent, hcal, hrest⟩ := exec_barrier_effect hx hok hready
    have hroom := sol_length_of_barrierReady hready
    refine ⟨t, s.arrivalOf x b, hexec, hout, rfl, rfl, rfl, rfl, rfl, rfl, rfl, hsent, ?_, hcal,
      fun hswap => State.swapPends_of_arrival (a := s.arrivalOf x b) ?_ hswap, hrest⟩
    · rw [hout, List.length_append, List.length_singleton]
      omega
    · rw [hout]
      exact List.mem_append_right _ List.mem_cons_self
  · refine ⟨_, exec_calLoad hx hok hready, ?_, ?_, ?_, ?_, ?_,
      signalsOnly_of_iu (calLoadRun_iu _ x b) (calLoadRun_spad _ x b) _⟩ <;>
      rw [State.follow_cal, State.signals_cal] <;> rfl

end Sys2Proof.Machine
end

/-! ### Solstice releases (O53) -/

section
namespace Sys2Proof.Machine

/-! #### A task's abort and the engines (R56) -/

/-- What an abandoned task may touch: the issue unit and the engines with their storage. -/
def onlyEngines (s t : State) : Prop :=
  t = { s with iu := t.iu, spad := t.spad, rg := t.rg, mx := t.mx, se := t.se, tu := t.tu, freeCtr := t.freeCtr }

theorem onlyEngines_refl (s : State) : onlyEngines s s := rfl

theorem onlyEngines_trans (a b c : State) (hab : onlyEngines a b) (hbc : onlyEngines b c) : onlyEngines a c := by
  unfold onlyEngines at *
  rw [hbc, hab]

theorem onlyEngines_foldl {α : Type} {f : State → α → State} (hf : ∀ s a, onlyEngines s (f s a)) (l : List α) (s : State) :
    onlyEngines s (l.foldl f s) :=
  foldl_only onlyEngines onlyEngines_refl onlyEngines_trans f hf l s

theorem onlyEngines_of_onlyRg {s t : State} (h : onlyRg s t) : onlyEngines s t := by
  rw [h]
  rfl

theorem onlyEngines_of_onlyMx {s t : State} (h : onlyMx s t) : onlyEngines s t := by
  rw [h]
  rfl

theorem onlyEngines_of_onlySpad {s t : State} (h : onlySpad s t) : onlyEngines s t := by
  rw [h.1]
  rfl

theorem State.abandonTask_onlyEngines (s : State) (t : Fin 4) : onlyEngines s (s.abandonTask t) := by
  have hrefs := onlyEngines_trans s (s.withRg ⟨mapVec (fun e => { e with swapPending := false }) s.rg.tab⟩) _ rfl
    (onlyEngines_foldl (fun s r => onlyEngines_of_onlyRg (State.releaseRef_only s (some r))) (s.taskRefs t) _)
  have hran := onlyEngines_trans _ _ _ hrefs
    (onlyEngines_foldl (fun s u => onlyEngines_of_onlySpad (State.scramble_only s u.2)) (s.iu.busy.filter fun u => u.2.e.x.task = t) _)
  have hmine := onlyEngines_trans _ _ _ hran
    (onlyEngines_foldl (fun s u => onlyEngines_of_onlyRg (State.poisonOutputs_only s u.2))
      ((s.iu.staged ++ s.iu.exec).filter fun u => u.2.e.x.task = t) _)
  unfold State.abandonTask
  dsimp only
  refine onlyEngines_trans _ _ _ ?_ (onlyEngines_of_onlyMx (State.emptyParts_only _ _))
  refine onlyEngines_trans _ _ _ hmine ?_
  rfl

theorem State.abandonTask_sol (s : State) (t : Fin 4) : (s.abandonTask t).sol = s.sol :=
  (congrArg State.sol (s.abandonTask_onlyEngines t)).trans rfl

theorem State.logFatal_sol (s : State) (t : Fin 4) (code : Code) (dpi : W64) (w : Site) (detail : W64) :
    (s.logFatal t code dpi w detail).sol = s.sol := (congrArg State.sol (State.addLog_frame s _).1 :)

/-- A fault that aborts its task leaves Solstice: an arrival of the task that waits on SY_OUT stays there. -/
theorem State.abortTaskAt_sol {s : State} {t : Fin 4} {dpi : W64} (h : s.abortable t dpi = true) (code : Code) (w : Site)
    (detail : W64) : (s.abortTaskAt t code dpi w detail).sol = s.sol := by
  obtain ⟨tasks, late, job, hshape⟩ := State.abortTaskAt_shape h code w detail
  rw [hshape]
  exact ((s.logFatal t code dpi w detail).abandonTask_sol t).trans (s.logFatal_sol t code dpi w detail)

/-! #### The oldest arrival leaves SY_OUT (R301) -/

/-- The message that presents the next arrival, if one waits. -/
def presented : List Arrived → List Msg
  | b :: _ => [.arrival b.members b.calSwap b.parity b.sched]
  | [] => []

theorem State.retireArrival_eq (s : State) :
    s.retireArrival = (s.withSol { s.sol with out := s.sol.out.drop 1 }).withOut (s.out ++ presented (s.sol.out.drop 1)) := by
  unfold State.retireArrival
  dsimp only
  split
  · rename_i hrest
    rw [hrest]
    rfl
  · rename_i hrest
    rw [hrest, presented, List.append_nil]
    rfl

/-! #### The three ways of a release (R301) -/

section
variable {s : State} {a : Arrived} {rest : List Arrived}

theorem State.solstice_of_missing (hout : s.sol.out = a :: rest) (hpeers : s.peersIn a = none) : s.solstice = s := by
  unfold State.solstice
  rw [hout]
  simp only [hpeers, ite_self]

theorem State.solstice_of_agreed (hout : s.sol.out = a :: rest) (hmember : s.sol.memb.getLsbD s.id.core.toNat = true)
    {ps : List Arrival} (hpeers : s.peersIn a = some ps) (hagree : ∀ p ∈ ps, arrivalsAgree a.shown p = true) :
    s.solstice = ((s.retireArrival.addEc a.relEc (a.relInc.setWidth 16)).withEq { s.eq with solstice := true, hot := 0 }).withCal
      { s.cal with
        routerSwaps := s.cal.routerSwaps + (if a.calSwap then 1 else 0), bankSwaps := s.cal.bankSwaps + (if a.calSwap then 1 else 0) } := by
  unfold State.solstice
  rw [State.retireArrival_eq, hout]
  simp only [hmember, hpeers, Bool.not_true, Bool.false_eq_true, if_false, List.all_eq_true.mpr hagree, if_true]
  split <;> rfl

theorem State.solstice_of_disagreed (hout : s.sol.out = a :: rest) (hmember : s.sol.memb.getLsbD s.id.core.toNat = true)
    {ps : List Arrival} (hpeers : s.peersIn a = some ps) (hdiffer : ¬ ∀ p ∈ ps, arrivalsAgree a.shown p = true) :
    s.solstice = s.retireArrival.abortTask a.task Code.barrierMismatch a.dpi := by
  have hall : ¬ (ps.all fun p => arrivalsAgree a.shown p) = true := fun h => hdiffer (List.all_eq_true.mp h)
  unfold State.solstice
  rw [hout]
  simp only [hmember, hpeers, Bool.not_true, Bool.false_eq_true, if_false, if_neg hall]

end

/-! #### The vote and the membership before a release (R302, R446) -/

/-- What a vote or a change of membership leaves as it is: everything but the members, their arrivals, the log and its event. -/
def sameCore (s u : State) : Prop :=
  u.iu = s.iu ∧ u.eq = s.eq ∧ u.cal = s.cal ∧ u.out = s.out ∧ u.id = s.id ∧ u.sol.out = s.sol.out

theorem State.sameCore_withSol {s v : State} {x : Sol} (hv : v.iu = s.iu ∧ v.eq = s.eq ∧ v.cal = s.cal ∧ v.out = s.out ∧ v.id = s.id)
    (hx : x.out = s.sol.out) : sameCore s (v.withSol x) := by
  obtain ⟨hiu, heq, hcal, hout, hid⟩ := hv
  exact ⟨hiu, heq, hcal, hout, hid, hx⟩

/-- An outvoted wire is only logged: it brings no hint. -/
theorem State.noteVote_frame (s : State) : (s.note Code.syncVote 0x44 0 0 noDpi 0).iu = s.iu ∧
    (s.note Code.syncVote 0x44 0 0 noDpi 0).eq = s.eq ∧ (s.note Code.syncVote 0x44 0 0 noDpi 0).cal = s.cal ∧
    (s.note Code.syncVote 0x44 0 0 noDpi 0).out = s.out ∧ (s.note Code.syncVote 0x44 0 0 noDpi 0).id = s.id ∧
    (s.note Code.syncVote 0x44 0 0 noDpi 0).sol = s.sol := by
  rw [State.note_of_not_hintable (by decide)]
  obtain ⟨hrest, hiu, -, -, -, hout, -⟩ := State.addLog_frame s (s.logEntry Code.syncVote .minor 0 0x44 0 0 noDpi 0)
  exact ⟨hiu, (congrArg State.eq hrest :), (congrArg State.cal hrest :), hout, (congrArg State.id hrest :), (congrArg State.sol hrest :)⟩

/-- SOLSTICE_RELEASE and MEMBERSHIP_CHANGE attempt a release in the state that the vote or the new membership leaves. -/
theorem exec_solstice {c : Instr} {s u : State} {peers : List (Fin 8 × Arrival)}
    (h : (c = .solsticeRelease ⟨peers, false⟩ ∧ u = s.withSol { s.sol with peers := peers }) ∨
      (c = .solsticeRelease ⟨peers, true⟩ ∧
        u = (s.note Code.syncVote 0x44 0 0 noDpi 0).withSol { s.sol with peers := peers } ∧ logged s u Code.syncVote) ∨
      (∃ mask, c = .membershipChange mask peers ∧ u = s.withSol { s.sol with memb := mask, peers := peers })) :
    exec c s = .next (s.follow u.solstice) ∧ sameCore s u := by
  rcases h with ⟨rfl, rfl⟩ | ⟨rfl, rfl, -⟩ | ⟨mask, rfl, rfl⟩
  · exact ⟨rfl, State.sameCore_withSol ⟨rfl, rfl, rfl, rfl, rfl⟩ rfl⟩
  · obtain ⟨hiu, heq, hcal, hout, hid, hsol⟩ := s.noteVote_frame
    refine ⟨?_, State.sameCore_withSol ⟨hiu, heq, hcal, hout, hid⟩ rfl⟩
    rw [← hsol]
    rfl
  · exact ⟨rfl, State.sameCore_withSol ⟨rfl, rfl, rfl, rfl, rfl⟩ rfl⟩

/-! #### A release as the statement sees it -/

section
variable {s u : State} {a : Arrived} {rest : List Arrived}

theorem solstice_effect_of_missing (hcore : sameCore s u) (hout : u.sol.out = a :: rest) (hpeers : u.peersIn a = none) :
    ((s.follow u.solstice).withEq s.eq).withOut s.out = u ∧ onlyForecasts s (s.follow u.solstice) := by
  obtain ⟨-, heq, -, hsent, -, -⟩ := hcore
  rw [State.solstice_of_missing hout hpeers, ← heq, ← hsent]
  exact ⟨s.follow_rest u, onlyForecasts_of_out hsent (s.follow_forecasts u)⟩

theorem State.follow_eqPoint (s t : State) : (s.follow t).eq.solstice = t.eq.solstice ∧ (s.follow t).eq.hot = t.eq.hot := by
  obtain ⟨-, hsame, -⟩ := s.follow_upToPower t
  exact ⟨(congrArg Eqx.solstice hsame).trans rfl, (congrArg Eqx.hot hsame).trans rfl⟩

theorem solstice_effect_of_agreed (hcore : sameCore s u) (hout : u.sol.out = a :: rest)
    (hmember : u.sol.memb.getLsbD u.id.core.toNat = true) {ps : List Arrival} (hpeers : u.peersIn a = some ps)
    (hagree : ∀ p ∈ ps, arrivalsAgree a.shown p = true) {t : State} (ht : t = s.follow u.solstice) :
    t.sol.out = rest ∧ t.ec a.relEc = s.ec a.relEc + a.relInc.setWidth 16 ∧ (∀ i, i ≠ a.relEc → t.ec i = s.ec i) ∧
      t.eq.solstice = true ∧ t.eq.hot = 0 ∧ t.cal = { s.cal with
        routerSwaps := s.cal.routerSwaps + (if a.calSwap then 1 else 0), bankSwaps := s.cal.bankSwaps + (if a.calSwap then 1 else 0) } ∧
      t.err = u.err ∧ sentBefore s t (presented rest) := by
  obtain ⟨hiu, -, hcal, hsent, -, -⟩ := hcore
  have hec : ∀ i, t.ec i = if i = a.relEc then s.ec a.relEc + a.relInc.setWidth 16 else s.ec i := by
    intro i
    rw [ht, State.ec_follow, State.solstice_of_agreed hout hmember hpeers hagree, State.retireArrival_eq,
      ← State.ec_of_iu (t := u) (congrArg Iu.ec hiu), ← State.ec_of_iu (t := u) (congrArg Iu.ec hiu)]
    exact State.ec_addEc (u.withSol { u.sol with out := u.sol.out.drop 1 }) _ _ _
  obtain ⟨hpoint, hhot⟩ := State.follow_eqPoint s u.solstice
  have hforecasts := s.follow_forecasts u.solstice
  rw [← ht] at hpoint hhot hforecasts
  refine ⟨?_, by rw [hec, if_pos rfl], fun i hi => by rw [hec, if_neg hi], hpoint.trans ?_, hhot.trans ?_, ?_, ?_,
    sentBefore_of_out ?_ hforecasts⟩
  · rw [ht, State.follow_sol, State.solstice_of_agreed hout hmember hpeers hagree, State.retireArrival_eq, hout]
    rfl
  · rw [State.solstice_of_agreed hout hmember hpeers hagree]
    rfl
  · rw [State.solstice_of_agreed hout hmember hpeers hagree]
    rfl
  · rw [ht, State.follow_cal, State.solstice_of_agreed hout hmember hpeers hagree, hcal]
    rfl
  · rw [ht, State.follow_err, State.solstice_of_agreed hout hmember hpeers hagree, State.retireArrival_eq]
    rfl
  · rw [State.solstice_of_agreed hout hmember hpeers hagree, State.retireArrival_eq, hout, ← hsent]
    rfl

theorem solstice_effect_of_disagreed (hcore : sameCore s u) (hout : u.sol.out = a :: rest)
    (hmember : u.sol.memb.getLsbD u.id.core.toNat = true) {ps : List Arrival} (hpeers : u.peersIn a = some ps)
    (hdiffer : ¬ ∀ p ∈ ps, arrivalsAgree a.shown p = true) (habort : s.abortable a.task a.dpi = true) :
    aborted (s.follow u.solstice) a.task Code.barrierMismatch a.dpi ∧ (s.follow u.solstice).sol.out = rest ∧
      ∀ i, (s.follow u.solstice).ec i = s.ec i := by
  obtain ⟨hiu, -⟩ := hcore
  have hretired : u.retireArrival.iu = s.iu ∧ u.retireArrival.sol.out = rest := by
    rw [State.retireArrival_eq, hout]
    exact ⟨hiu, rfl⟩
  obtain ⟨hretiredIu, hretiredOut⟩ := hretired
  have hends : u.retireArrival.abortable a.task a.dpi = true := (State.abortable_of_iu hretiredIu _ _).trans habort
  rw [State.solstice_of_disagreed hout hmember hpeers hdiffer]
  refine ⟨aborted_follow (State.abortTaskAt_aborted _ _ _ _ _ _ hends) _, ?_, fun i => ?_⟩
  · rw [State.follow_sol]
    exact (congrArg Sol.out (State.abortTaskAt_sol hends _ _ _)).trans hretiredOut
  · rw [State.ec_follow]
    obtain ⟨hec, -⟩ := State.abortTaskAt_files hends Code.barrierMismatch Site.iu 0
    exact State.ec_of_iu (hec.trans (congrArg Iu.ec hretiredIu)) i

end

/-- Settles O53, by whether the peers of the oldest arrival are missing, agree or disagree. -/
theorem solstice : Obligations.Solstice := by
  intro c s u a rest peers hc hout hmember
  obtain ⟨hexec, hcore⟩ := exec_solstice hc
  have hcore' := hcore
  obtain ⟨-, -, -, -, hid, hwaits⟩ := hcore'
  have hout' := hwaits.trans hout
  rw [← hid] at hmember
  refine ⟨_, hexec, fun hpeers => solstice_effect_of_missing hcore hout' hpeers, fun ps hpeers hagree => ?_,
    fun ps hpeers hdiffer habort => solstice_effect_of_disagreed hcore hout' hmember hpeers hdiffer habort⟩
  obtain ⟨hrest, hec, hecs, hpoint, hhot, hcal, herr, hsent⟩ :=
    solstice_effect_of_agreed hcore hout' hmember hpeers hagree rfl
  refine ⟨hrest, hec, hecs, hpoint, hhot, hcal, herr, ?_⟩
  cases rest with
  | nil => exact hsent
  | cons b bs => exact hsent

end Sys2Proof.Machine
end

/-! ### A fence lasts (O7) -/

section
namespace Sys2Proof.Machine

/-! #### What a fence concerns

`State.work` is what O7 speaks of. The lemmas `State.work_f` say that the operation `f` leaves it alone. An operation `f` that takes work
away, or adds some while no fence holds, satisfies `State.calm_f` (`Work.Calm`); one that may raise a fence satisfies
`State.keptOrFenced_f` (`Work.KeptOrFenced`). Both relations are `Work.Safe`, which is what a command and a control cycle satisfy. -/

/-- The fence, the state of the job and the work of the issue unit and the stream engines. -/
structure Work where
  fenced : Bool
  job : JobState
  queued : List Entry
  staged : List (UnitId × Issued)
  exec : List (UnitId × Issued)
  se : Streams

def State.work (s : State) : Work := ⟨s.rep.coreFenced, s.job.st, s.iu.queued, s.iu.staged, s.iu.exec, s.se⟩

@[simp] theorem State.work_ite {p : Prop} [Decidable p] (a b : State) : (if p then a else b).work = if p then a.work else b.work :=
  apply_ite State.work p a b

/-- A fold of operations that leave the work alone. -/
theorem State.work_foldl {α : Type} {f : State → α → State} (hf : ∀ s a, (f s a).work = s.work) (l : List α) (s : State) :
    (l.foldl f s).work = s.work :=
  List.foldlRecOn (motive := fun t => t.work = s.work) l f rfl fun t ht a _ => (hf t a).trans ht

/-! #### Fields that hold no work -/

section
variable (s : State)

@[simp] theorem State.work_withPending (x : List Instr) : (s.withPending x).work = s.work := rfl
@[simp] theorem State.work_withOut (x : List Msg) : (s.withOut x).work = s.work := rfl
@[simp] theorem State.work_withFreeCtr (x : Nat) : (s.withFreeCtr x).work = s.work := rfl
@[simp] theorem State.work_withCycle (x : Nat) : (s.withCycle x).work = s.work := rfl
@[simp] theorem State.work_withId (x : Ident) : (s.withId x).work = s.work := rfl
@[simp] theorem State.work_withBring (x : Bring) : (s.withBring x).work = s.work := rfl
@[simp] theorem State.work_withSpad (x : Spad) : (s.withSpad x).work = s.work := rfl
@[simp] theorem State.work_withRg (x : RegionTable) : (s.withRg x).work = s.work := rfl
@[simp] theorem State.work_withMx (x : Vector Array_ 4) : (s.withMx x).work = s.work := rfl
@[simp] theorem State.work_withVx (x : VecState) : (s.withVx x).work = s.work := rfl
@[simp] theorem State.work_withCu (x : VecState) : (s.withCu x).work = s.work := rfl
@[simp] theorem State.work_withTu (x : Transposers) : (s.withTu x).work = s.work := rfl
@[simp] theorem State.work_withAlm (x : Alm) : (s.withAlm x).work = s.work := rfl
@[simp] theorem State.work_withCal (x : Cal) : (s.withCal x).work = s.work := rfl
@[simp] theorem State.work_withSol (x : Sol) : (s.withSol x).work = s.work := rfl
@[simp] theorem State.work_withFp (x : Vector Port 8) : (s.withFp x).work = s.work := rfl
@[simp] theorem State.work_withFa (x : Fa) : (s.withFa x).work = s.work := rfl
@[simp] theorem State.work_withCc (x : Cc) : (s.withCc x).work = s.work := rfl
@[simp] theorem State.work_withRing (x : Vector Ring 8) : (s.withRing x).work = s.work := rfl
@[simp] theorem State.work_withEq (x : Eqx) : (s.withEq x).work = s.work := rfl
@[simp] theorem State.work_withErr (x : Err) : (s.withErr x).work = s.work := rfl
@[simp] theorem State.work_withBg (x : Background) : (s.withBg x).work = s.work := rfl
@[simp] theorem State.work_withSu (x : Setup) : (s.withSu x).work = s.work := rfl
@[simp] theorem State.work_withTap (x : Tap) : (s.withTap x).work = s.work := rfl

/-- The other fields of the issue unit, the job and the repair state hold no work either. -/
@[simp] theorem State.work_withIu {x : Iu} (hq : x.queued = s.iu.queued) (hs : x.staged = s.iu.staged) (he : x.exec = s.iu.exec) :
    (s.withIu x).work = s.work := by simp [State.work, hq, hs, he]
@[simp] theorem State.work_withJob {x : Job} (h : x.st = s.job.st) : (s.withJob x).work = s.work := by simp [State.work, h]
@[simp] theorem State.work_withRep {x : Repair} (h : x.coreFenced = s.rep.coreFenced) : (s.withRep x).work = s.work := by
  simp [State.work, h]

end

end Sys2Proof.Machine
end

section
namespace Sys2Proof.Machine

/-! #### Operations of the state, the setup window and the control core that leave the work alone -/

@[simp] theorem State.work_emit (s : State) (m : Msg) : (s.emit m).work = s.work := by simp [State.emit]
@[simp] theorem State.work_draw (s : State) : s.draw.2.work = s.work := rfl
@[simp] theorem State.work_setEc (s : State) (i : BitVec 6) (v : BitVec 16) : (s.setEc i v).work = s.work := by simp [State.setEc]
@[simp] theorem State.work_addEc (s : State) (i : BitVec 6) (v : BitVec 16) : (s.addEc i v).work = s.work := by simp [State.addEc]
@[simp] theorem State.work_signal (s : State) (g : Signal) : (s.signal g).work = s.work := by simp [State.signal]
@[simp] theorem State.work_signals (s : State) (h : Header) : (s.signals h).work = s.work := by simp [State.signals]
@[simp] theorem State.work_setPd (s : State) (i : BitVec 4) (b : Bool) : (s.setPd i b).work = s.work := by simp [State.setPd]
@[simp] theorem State.work_putSf (s : State) (i : BitVec 6) (v : W64) : (s.putSf i v).work = s.work := by simp [State.putSf]
@[simp] theorem State.work_setSf (s : State) (i : BitVec 6) (v : W64) : (s.setSf i v).work = s.work := by simp [State.setSf]
@[simp] theorem State.work_queueSf (s : State) (i : BitVec 6) (v : W64) : (s.queueSf i v).work = s.work := by simp [State.queueSf]

@[simp] theorem State.work_landSf (s : State) : s.landSf.work = s.work := by
  unfold State.landSf
  exact State.work_foldl (fun s a => by simp) _ s

@[simp] theorem State.work_setTask (s : State) (t : Fin 4) (k : Task) : (s.setTask t k).work = s.work := by simp [State.setTask]
@[simp] theorem State.work_touch (s : State) : s.touch.work = s.work := by simp [State.touch]

@[simp] theorem State.work_setRegion (s : State) (r : BitVec 6) (e : Region) : (s.setRegion r e).work = s.work := by
  simp [State.setRegion]

@[simp] theorem State.work_poison (s : State) (h : Ref) : (s.poison h).work = s.work := by simp [State.poison]

@[simp] theorem State.work_poisonWords (s : State) (ws : List Nat) : (s.poisonWords ws).work = s.work := by
  unfold State.poisonWords
  exact State.work_foldl (fun s a => by split <;> simp) _ s

@[simp] theorem State.work_releaseRef (s : State) (r : Option Ref) : (s.releaseRef r).work = s.work := by
  cases r <;> rfl

@[simp] theorem State.work_takeRef (s : State) (r : Option Ref) : (s.takeRef r).work = s.work := by
  cases r <;> rfl

@[simp] theorem State.work_latchEvent (s : State) (b : Nat) : (s.latchEvent b).work = s.work := by simp [State.latchEvent]
@[simp] theorem State.work_addLog (s : State) (e : LogEntry) : (s.addLog e).work = s.work := by simp [State.addLog]

@[simp] theorem State.work_noteFor (s : State) (task : BitVec 2) (code : Code) (unit sub : BitVec 8) (loc : W32) (dpi detail : W64) :
    (s.noteFor task code unit sub loc dpi detail).work = s.work := by simp [State.noteFor]

@[simp] theorem State.work_note (s : State) (code : Code) (unit sub : BitVec 8) (loc : W32) (dpi detail : W64) :
    (s.note code unit sub loc dpi detail).work = s.work := by simp [State.note]

@[simp] theorem State.work_poisonOutputs (s : State) (i : Issued) : (s.poisonOutputs i).work = s.work := by
  unfold State.poisonOutputs
  exact State.work_foldl (fun s a => by simp) _ s

@[simp] theorem State.work_freeBytes (s : State) (a n : Nat) : (s.freeBytes a n).work = s.work := by
  unfold State.freeBytes
  refine State.work_foldl (fun s a => ?_) _ s
  split <;> rfl

@[simp] theorem State.work_scramble (s : State) (i : Issued) : (s.scramble i).work = s.work := by
  unfold State.scramble
  exact State.work_foldl (fun s a => by simp) _ s

@[simp] theorem State.work_dropBallast (s : State) (p : BitVec 8 → Bool) : (s.dropBallast p).work = s.work := by simp [State.dropBallast]

@[simp] theorem State.work_emptyParts (s : State) (own : Nat → Nat → Bool) : (s.emptyParts own).work = s.work :=
  (congrArg State.work (s.emptyParts_only own)).trans rfl

@[simp] theorem State.work_freeHeld (s : State) (p : Fin 4 × W64 → Bool) : (s.freeHeld p).work = s.work := by simp [State.freeHeld]
@[simp] theorem State.work_corrected (s : State) (addr : Nat) : (s.corrected addr).work = s.work := by simp [State.corrected]

@[simp] theorem State.work_logFatal (s : State) (t : Fin 4) (code : Code) (dpi : W64) (w : Site) (detail : W64) :
    (s.logFatal t code dpi w detail).work = s.work := by simp [State.logFatal]

@[simp] theorem State.work_respond (s : State) (code : BitVec 3) (data : W64) : (s.respond code data).work = s.work := by
  simp [State.respond]

@[simp] theorem State.work_ok (s : State) : s.ok.work = s.work := by simp [State.ok]
@[simp] theorem State.work_refuseImm (s : State) (reason : BitVec 3) : (s.refuseImm reason).work = s.work := by simp [State.refuseImm]
@[simp] theorem State.work_setPort (s : State) (p : Fin 8) (x : Port) : (s.setPort p x).work = s.work := by simp [State.setPort]
@[simp] theorem State.work_setRing (s : State) (n : Fin 8) (r : Ring) : (s.setRing n r).work = s.work := by simp [State.setRing]

@[simp] theorem State.work_refuseRing (s : State) (n : Fin 8) (reason : BitVec 3) : (s.refuseRing n reason).work = s.work := by
  simp [State.refuseRing]

@[simp] theorem State.work_requestPreempt (s : State) : s.requestPreempt.work = s.work := by simp [State.requestPreempt]
@[simp] theorem State.work_updateRing (s : State) (n : Fin 8) (r : Ring) : (s.updateRing n r).work = s.work := by simp [State.updateRing]

@[simp] theorem State.work_queueUnits (s : State) (p : Fin 8) (q : OutPacket) : (s.queueUnits p q).work = s.work := by
  simp [State.queueUnits]

@[simp] theorem State.work_sendPackets (s : State) (q agent : Nat) (task : Fin 4) (dpi : W64) (ps : List (List FabUnit)) :
    (s.sendPackets q agent task dpi ps).work = s.work := by
  unfold State.sendPackets
  exact State.work_foldl (fun s a => by simp) _ s

@[simp] theorem State.work_unsend (s : State) (task : Fin 4) (dpi : W64) : (s.unsend task dpi).work = s.work := by simp [State.unsend]

@[simp] theorem State.work_queueTile (s : State) (r : BitVec 1536) : (s.queueTile r).1.work = s.work := by
  unfold State.queueTile
  dsimp only
  split <;> simp

@[simp] theorem State.work_assay (s : State) (dpi : W64) (h : Header) (source : BitVec 8) (v : RView) (pre : Int) (os : List Obs)
    (empty : List Nat) :
    (s.assay dpi h source v pre os empty).work = s.work := by
  unfold State.assay
  extract_lets entry s1 bad _ s2
  have h2 : s2.work = s.work := by
    unfold s2 entry
    split <;> simp [s1]
  unfold entry
  split
  · split
    · refine (State.work_foldl (fun s k => ?_) _ s2).trans h2
      dsimp only
      split <;> simp
    · exact h2
  · exact h2

@[simp] theorem State.work_foldSeen (s : State) (i : Issued) (u : UnitId) (l : List Seen) : (s.foldSeen i u l).work = s.work := by
  unfold State.foldSeen
  exact State.work_foldl (fun s a => by simp) _ s

@[simp] theorem State.work_almanacStep (s : State) : s.almanacStep.work = s.work := by simp [State.almanacStep]

@[simp] theorem State.work_sendRuns (s : State) (e : Fin 8) (i : Issued) (b : StreamBody) (bs : Bytes) (route : Option Nat)
    (path : BitVec 2) (us : List (Nat × Nat)) :
    (s.sendRuns e i b bs route path us).work = s.work := by
  unfold State.sendRuns
  split
  · simp
  · split
    · rfl
    · split
      · rfl
      · exact State.work_foldl (fun s a => by simp) _ s

@[simp] theorem State.work_sendNotify (s : State) (agent : Nat) (x : Ctx) (route : Option Nat) (path : BitVec 2) (far : W64)
    (ec : BitVec 6) (inc : BitVec 8) :
    (s.sendNotify agent x route path far ec inc).work = s.work := by
  unfold State.sendNotify
  split <;> simp

@[simp] theorem State.work_sendMcast (s : State) (e : Fin 8) (i : Issued) (b : StreamBody) (bs : Bytes) (seq : BitVec 16) :
    (s.sendMcast e i b bs seq).work = s.work := by
  unfold State.sendMcast
  extract_lets m s1
  have h1 : s1.work = s.work := by simp [s1]
  split
  · exact (State.work_foldl (fun s a => by simp) _ s1).trans h1
  · exact h1

@[simp] theorem State.work_countSent (s : State) (g : BitVec 12) (reaches : Bool) : (s.countSent g reaches).work = s.work := rfl
@[simp] theorem State.work_setTu (s : State) (n : Fin 4) (h : Option (Fin 4 × W64)) : (s.setTu n h).work = s.work := by simp [State.setTu]

@[simp] theorem State.work_ringCommit (s : State) (n : Fin 8) : (s.ringCommit n).work = s.work := by
  unfold State.ringCommit
  split <;> simp

@[simp] theorem State.work_ringWrite (s : State) (n : Fin 8) (o : Nat) (v : W64) : (s.ringWrite n o v).work = s.work := by
  unfold State.ringWrite
  dsimp only
  split <;> simp [commitWrite, statusWrite]

@[simp] theorem State.work_refuseEq (s : State) (k : BitVec 3) : (s.refuseEq k).work = s.work := by simp [State.refuseEq]
@[simp] theorem State.work_eqCommit (s : State) : s.eqCommit.work = s.work := by simp [State.eqCommit]

@[simp] theorem State.work_eqWrite (s : State) (o : Nat) (v : W64) : (s.eqWrite o v).work = s.work := by
  unfold State.eqWrite
  dsimp only
  split <;> simp [commitWrite, statusWrite]

@[simp] theorem State.work_refuseBg (s : State) (k : BitVec 3) : (s.refuseBg k).work = s.work := by simp [State.refuseBg]
@[simp] theorem State.work_bgCommit (s : State) : s.bgCommit.work = s.work := by simp [State.bgCommit]

@[simp] theorem State.work_bgWrite (s : State) (o : Nat) (v : W64) : (s.bgWrite o v).work = s.work := by
  unfold State.bgWrite
  split <;> simp [commitWrite, statusWrite]

@[simp] theorem State.work_errlogPop (s : State) (v : W64) : (s.errlogPop v).work = s.work := by simp [State.errlogPop]

@[simp] theorem State.work_refusePort (s : State) (p : Fin 8) (k : BitVec 3) : (s.refusePort p k).work = s.work := by
  simp [State.refusePort]

@[simp] theorem State.work_portCommit (s : State) (p : Fin 8) : (s.portCommit p).work = s.work := by
  unfold State.portCommit
  split
  · simp
  · split <;> simp

@[simp] theorem State.work_portCommitWrite (s : State) (p : Fin 8) (v : W64) : (s.portCommitWrite p v).work = s.work := by
  simp [State.portCommitWrite, commitWrite]

@[simp] theorem State.work_portClear (s : State) (p : Fin 8) (v : W64) : (s.portClear p v).work = s.work := by simp [State.portClear]

@[simp] theorem State.work_portWrite (s : State) (p : Fin 8) (o : Nat) (v : W64) : (s.portWrite p o v).work = s.work := by
  unfold State.portWrite
  dsimp only
  split <;> simp [statusWrite]

@[simp] theorem State.work_refuseRoute (s : State) (k : BitVec 3) : (s.refuseRoute k).work = s.work := by simp [State.refuseRoute]
@[simp] theorem State.work_routeCommit (s : State) : s.routeCommit.work = s.work := by simp [State.routeCommit]
@[simp] theorem State.work_stageRoute (s : State) (hi : Bool) (v : W64) : (s.stageRoute hi v).work = s.work := rfl

@[simp] theorem State.work_routeWrite (s : State) (o : Nat) (v : W64) : (s.routeWrite o v).work = s.work := by
  unfold State.routeWrite
  split <;> simp [commitWrite, statusWrite]

@[simp] theorem State.work_refuseObs (s : State) (k : BitVec 3) : (s.refuseObs k).work = s.work := by simp [State.refuseObs]
@[simp] theorem State.work_obsCommit (s : State) : s.obsCommit.work = s.work := by simp [State.obsCommit]

@[simp] theorem State.work_obsWrite (s : State) (o : Nat) (v : W64) : (s.obsWrite o v).work = s.work := by
  unfold State.obsWrite
  split
  · simp
  · split <;> simp [commitWrite, statusWrite]
    split <;> simp

@[simp] theorem State.work_ccBoot (s : State) : s.ccBoot.work = s.work := by simp [State.ccBoot]
@[simp] theorem State.work_ccCtrl (s : State) (v : W64) : (s.ccCtrl v).work = s.work := by simp [State.ccCtrl]
@[simp] theorem State.work_ccHalt (s : State) : s.ccHalt.work = s.work := by simp [State.ccHalt]
@[simp] theorem State.work_ccStep (s : State) : s.ccStep.work = s.work := by simp [State.ccStep]
@[simp] theorem State.work_ccFix (s : State) (w : Nat) : (s.ccFix w).work = s.work := by simp [State.ccFix]
@[simp] theorem State.work_ccUpset (s : State) (w : Nat) (double : Bool) : (s.ccUpset w double).work = s.work := by simp [State.ccUpset]

@[simp] theorem State.work_ccRead (s : State) : s.ccRead.work = s.work := by
  unfold State.ccRead
  split <;> simp

@[simp] theorem State.work_ccWrite (s : State) (v : W64) : (s.ccWrite v).work = s.work := by
  unfold State.ccWrite
  split <;> simp

@[simp] theorem State.work_ctrlWrite (s : State) (o : Nat) (v : W64) : (s.ctrlWrite o v).work = s.work := by
  unfold State.ctrlWrite
  split <;> simp

@[simp] theorem State.work_doorbell (s : State) (n : Fin 8) (v : W64) : (s.doorbell n v).work = s.work := by simp [State.doorbell]

@[simp] theorem State.work_writeRegister (s : State) (off : Nat) (v : W64) : (s.writeRegister off v).work = s.work := by
  simp [State.writeRegister]

@[simp] theorem State.work_discardMsg (s : State) : s.discardMsg.work = s.work := by simp [State.discardMsg]

@[simp] theorem State.work_deliverMsg (s : State) (m : FabMsg) : (s.deliverMsg m).work = s.work := by
  unfold State.deliverMsg
  split <;> simp

@[simp] theorem State.work_routeMsg (s : State) (m : FabMsg) : (s.routeMsg m).work = s.work := by
  unfold State.routeMsg
  split
  · simp
  · split <;> simp

@[simp] theorem State.work_passMessage (s : State) : s.passMessage.work = s.work := by
  unfold State.passMessage
  split <;> simp

@[simp] theorem State.work_passMessages (s : State) : s.passMessages.work = s.work := by
  unfold State.passMessages
  exact State.work_foldl (fun s a => by simp) _ s

@[simp] theorem State.work_queueMessage (s : State) : s.queueMessage.work = s.work := by simp [State.queueMessage]

@[simp] theorem State.work_messageStore (s : State) (o : Nat) (v : W64) : (s.messageStore o v).work = s.work := by
  unfold State.messageStore
  split <;> simp

@[simp] theorem State.work_advanceTo (s : State) (c : Nat) : (s.advanceTo c).work = s.work := by
  unfold State.advanceTo
  split
  · exact (State.work_withIu (s.landSf.withCycle c) rfl rfl rfl).trans (State.work_landSf s)
  · rfl

@[simp] theorem work_setEcRun (s : State) (b : SetEcBody) : (setEcRun s b).work = s.work := by simp [setEcRun]

@[simp] theorem Job.st_append (j : Job) (kind task aux : Nat) (key : W64) (payload : List Byte) :
    (j.append kind task aux key payload).1.st = j.st := by
  unfold Job.append
  split
  · rfl
  · split <;> rfl

theorem Job.st_of_lookup {j : Job} {p : LogRec → Bool} {q : LogRec × Job} (h : j.lookup p = some q) : q.2.st = j.st := by
  obtain ⟨_, -, rfl⟩ := Option.map_eq_some_iff.mp h
  rfl

theorem Job.st_of_loggedSample {j : Job} {t : Fin 4} {dpi : W64} {q : Bool × Job} (h : j.loggedSample t dpi = some q) :
    q.2.st = j.st := by
  obtain ⟨_, hr, rfl⟩ := Option.map_eq_some_iff.mp h
  exact Job.st_of_lookup hr

theorem State.st_of_loggedDrop {s : State} {key : W64} {j : Job} (h : s.loggedDrop key = some j) : j.st = s.job.st := by
  obtain ⟨_, hr, rfl⟩ := Option.map_eq_some_iff.mp h
  exact Job.st_of_lookup hr

@[simp] theorem work_setPdRun (s : State) (x : Ctx) (b : SetPdBody) : (setPdRun s x b).work = s.work := by
  unfold setPdRun
  split
  · simp
  · split
    · split
      next hlogged => simpa using State.work_withJob s (Job.st_of_loggedSample hlogged)
      · rfl
    · simp

@[simp] theorem State.work_present (s : State) (a : Arrived) : (s.present a).work = s.work := by simp [State.present]
@[simp] theorem work_barrierRun (s : State) (x : Ctx) (b : BarrierBody) : (barrierRun s x b).work = s.work := by simp [barrierRun]
@[simp] theorem work_calLoadRun (s : State) (x : Ctx) (b : CalLoadBody) : (calLoadRun s x b).work = s.work := by simp [calLoadRun]
@[simp] theorem work_regionSetRun (s : State) (b : RegionSetBody) : (regionSetRun s b).work = s.work := by simp [regionSetRun]
@[simp] theorem work_regionSwapRun (s : State) (r : BitVec 6) : (regionSwapRun s r).work = s.work := by simp [regionSwapRun]
@[simp] theorem work_regionAttrRun (s : State) (b : RegionAttrBody) : (regionAttrRun s b).work = s.work := by simp [regionAttrRun]
@[simp] theorem work_endRun (s : State) (x : Ctx) : (endRun s x).work = s.work := by simp [endRun]

end Sys2Proof.Machine
end

section
namespace Sys2Proof.Machine

/-! #### A core that stands still -/

/-- What a fence leaves: no job runs, and nothing waits in a queue, a staging slot or a shadow, or executes (R398). -/
structure Work.Stopped (w : Work) : Prop where
  fenced : w.fenced = true
  job : w.job = .idle
  queued : w.queued = []
  staged : w.staged = []
  exec : w.exec = []
  shadows : ∀ k ∈ w.se.slots.toList, k.shadow = none

/-- No slot runs a transfer that was idle. -/
def Streams.NoneStarts (a b : Streams) : Prop := ∀ n : Fin 32, (b.slots[n.1]).run.isSome = true → (a.slots[n.1]).run.isSome = true

/-- No slot holds a command in its shadow that had none. -/
def Streams.NoneWaits (a b : Streams) : Prop := ∀ n : Fin 32, (a.slots[n.1]).shadow = none → (b.slots[n.1]).shadow = none

/-- An operation that neither raises nor lifts a fence: a core that stands still goes on to do so. -/
structure Work.Calm (w v : Work) : Prop where
  fenced : v.fenced = w.fenced
  stopped : w.Stopped → v.Stopped ∧ w.se.NoneStarts v.se

theorem Work.Calm.refl (w : Work) : w.Calm w := ⟨rfl, fun h => ⟨h, fun _ h => h⟩⟩

theorem Work.Calm.trans {w v u : Work} (hwv : w.Calm v) (hvu : v.Calm u) : w.Calm u := by
  refine ⟨hvu.fenced.trans hwv.fenced, fun h => ?_⟩
  obtain ⟨hv, hruns⟩ := hwv.stopped h
  obtain ⟨hu, hruns'⟩ := hvu.stopped hv
  exact ⟨hu, fun n hn => hruns n (hruns' n hn)⟩

theorem Work.shadow_of_stopped {w : Work} (h : w.Stopped) (n : Fin 32) : (w.se.slots[n.1]).shadow = none :=
  h.shadows _ (Vector.mem_toList_iff.mpr (Vector.getElem_mem n.2))

theorem Work.stopped_shadows {se : Streams} (h : ∀ n : Fin 32, (se.slots[n.1]).shadow = none) :
    ∀ k ∈ se.slots.toList, k.shadow = none := by
  intro k hk
  obtain ⟨n, hn, rfl⟩ := Vector.mem_iff_getElem.mp (Vector.mem_toList_iff.mp hk)
  exact h ⟨n, hn⟩

/-- An operation that only takes work away. -/
theorem Work.Calm.of_less {w v : Work} (hfenced : v.fenced = w.fenced) (hjob : w.job = .idle → v.job = .idle)
    (hqueued : w.queued = [] → v.queued = []) (hstaged : w.staged = [] → v.staged = []) (hexec : w.exec = [] → v.exec = [])
    (hshadows : w.se.NoneWaits v.se) (hruns : w.se.NoneStarts v.se) : w.Calm v :=
  ⟨hfenced, fun h => ⟨⟨hfenced.trans h.fenced, hjob h.job, hqueued h.queued, hstaged h.staged, hexec h.exec,
    Work.stopped_shadows fun n => hshadows n (Work.shadow_of_stopped h n)⟩, hruns⟩⟩

/-- A core that does not stand still may do anything but raise or lift a fence. -/
theorem Work.Calm.of_moving {w v : Work} (hw : ¬ w.Stopped) (hfenced : v.fenced = w.fenced) : w.Calm v :=
  ⟨hfenced, fun h => absurd h hw⟩

theorem State.calm_foldl {α : Type} {w : Work} {f : State → α → State} (hf : ∀ s a, w.Calm s.work → w.Calm (f s a).work)
    (l : List α) {s : State} (h : w.Calm s.work) : w.Calm (l.foldl f s).work :=
  List.foldlRecOn l f h fun s hs a _ => hf s a hs

/-! #### Operations that take work away -/

section
variable {w : Work} {s : State} (h : w.Calm s.work)
include h

theorem State.calm_withIu_less {x : Iu} (hqueued : s.iu.queued = [] → x.queued = []) (hstaged : s.iu.staged = [] → x.staged = [])
    (hexec : s.iu.exec = [] → x.exec = []) : w.Calm (s.withIu x).work :=
  h.trans (.of_less rfl (fun h => h) hqueued hstaged hexec (fun _ h => h) fun _ h => h)

theorem State.calm_withSe_less {x : Streams} (hwaits : s.se.NoneWaits x) (hstarts : s.se.NoneStarts x) : w.Calm (s.withSe x).work :=
  h.trans (.of_less rfl (fun h => h) (fun h => h) (fun h => h) (fun h => h) hwaits hstarts)

theorem State.calm_withJob_idle {x : Job} (hx : s.job.st = .idle → x.st = .idle) : w.Calm (s.withJob x).work :=
  h.trans (.of_less rfl hx (fun h => h) (fun h => h) (fun h => h) (fun _ h => h) fun _ h => h)

/-! #### Operations of a core that does not stand still -/

@[simp] theorem State.calm_withIu (hw : ¬ w.Stopped) (x : Iu) : w.Calm (s.withIu x).work := .of_moving hw h.fenced
@[simp] theorem State.calm_withSe (hw : ¬ w.Stopped) (x : Streams) : w.Calm (s.withSe x).work := .of_moving hw h.fenced
@[simp] theorem State.calm_withJob (hw : ¬ w.Stopped) (x : Job) : w.Calm (s.withJob x).work := .of_moving hw h.fenced

end

theorem State.not_stopped_of_unfenced {s : State} (h : s.rep.coreFenced = false) : ¬ s.work.Stopped := fun hs =>
  absurd (h.symm.trans hs.fenced) (by decide)

theorem State.not_stopped_of_staged {s : State} {q : UnitId × Issued} (h : q ∈ s.iu.staged) : ¬ s.work.Stopped := fun hs =>
  List.ne_nil_of_mem h hs.staged

theorem State.not_stopped_of_exec {s : State} {q : UnitId × Issued} (h : q ∈ s.iu.exec) : ¬ s.work.Stopped := fun hs =>
  List.ne_nil_of_mem h hs.exec

theorem State.not_stopped_of_job {s : State} (h : s.job.st ≠ .idle) : ¬ s.work.Stopped := fun hs => h hs.job

theorem State.not_stopped_of_active {s : State} {t : Fin 4} (h : s.active t = true) : ¬ s.work.Stopped := by
  simp only [State.active, Bool.and_eq_true, Bool.not_eq_true'] at h
  exact State.not_stopped_of_unfenced h.1.1

theorem State.not_stopped_of_calm {w : Work} {s : State} (h : w.Calm s.work) (hs : ¬ s.work.Stopped) : ¬ w.Stopped := fun hw =>
  hs (h.stopped hw).1

/-! #### A task's abort (R56) -/

/-- An abandoned task takes its commands out of the queues and the shadows; its transfers run on as orphans. -/
theorem State.work_abandonTask (s : State) (t : Fin 4) : (s.abandonTask t).work = { s.work with
    queued := s.iu.queued.filter fun e => !(e.x.task == t), staged := s.iu.staged.filter fun u => !(u.2.e.x.task == t),
    exec := s.iu.exec.filter fun u => !(u.2.e.x.task == t), se := { s.se with slots := mapVec (Slot.abort t) s.se.slots } } := by
  unfold State.abandonTask
  extract_lets s1 s2 mine ran s3 keep iu3 s4 se4 s5 s6 w0 se0
  have h3 : s3.work = s.work := by
    rw [State.work_foldl (fun s u => by simp), State.work_foldl (fun s u => by simp), State.work_foldl (fun s u => by simp)]
    rfl
  rw [State.work_emptyParts, State.work_freeHeld]
  simp only [State.work, Work.mk.injEq] at h3 ⊢
  obtain ⟨hfenced, hjob, hqueued, hstaged, hexec, hse⟩ := h3
  refine ⟨hfenced, hjob, ?_, ?_, ?_, ?_⟩
  · exact congrArg (List.filter _) hqueued
  · exact congrArg (List.filter _) hstaged
  · exact congrArg (List.filter _) hexec
  · exact congrArg (fun x : Streams => { x with slots := mapVec (Slot.abort t) x.slots }) hse

theorem Slot.run_abort (t : Fin 4) (k : Slot) : (k.abort t).run.isSome = k.run.isSome := Option.isSome_map ..

theorem Slot.shadow_abort {t : Fin 4} {k : Slot} (h : k.shadow = none) : (k.abort t).shadow = none := by simp [Slot.abort, h]

@[simp] theorem State.calm_abandonTask {w : Work} {s : State} (h : w.Calm s.work) (t : Fin 4) : w.Calm (s.abandonTask t).work := by
  refine h.trans ?_
  rw [State.work_abandonTask]
  refine .of_less rfl (fun h => h) ?_ ?_ ?_ (fun n hn => ?_) fun n hn => ?_
  · rintro (hq : s.iu.queued = [])
    simp [hq]
  · rintro (hq : s.iu.staged = [])
    simp [hq]
  · rintro (hq : s.iu.exec = [])
    simp [hq]
  · rw [getElem_mapVec]
    exact Slot.shadow_abort hn
  · rw [getElem_mapVec, Slot.run_abort] at hn
    exact hn

@[simp] theorem State.calm_abortTaskAt {w : Work} {s : State} (h : w.Calm s.work) (t : Fin 4) (code : Code) (dpi : W64) (w' : Site)
    (detail : W64) : w.Calm (s.abortTaskAt t code dpi w' detail).work := by
  unfold State.abortTaskAt
  dsimp only
  split
  · exact h
  · split
    · split <;> simp [h]
    · split <;> simp [h]

@[simp] theorem State.calm_abortTask {w : Work} {s : State} (h : w.Calm s.work) (t : Fin 4) (code : Code) (dpi : W64) :
    w.Calm (s.abortTask t code dpi).work := State.calm_abortTaskAt h ..

end Sys2Proof.Machine
end

section
namespace Sys2Proof.Machine

/-! #### What a computing command does when it completes -/

@[simp] theorem State.work_setArray (s : State) (n : Fin 4) (a : Array_) : (s.setArray n a).work = s.work := rfl

theorem work_mxRun (s : State) (i : Issued) (b : MxBody) : (mxRun s i b).s.work = s.work := by
  unfold mxRun
  dsimp only
  split
  · rfl
  · split
    · rfl
    · split <;> rfl

theorem work_vxMapRun (s : State) (i : Issued) (b : VxBody) (m n : Nat) (f : Nat → Nat → Num) (empty : List Nat) (chain : Bytes) :
    (vxMapRun s i b m n f empty chain).s.work = s.work := by
  unfold vxMapRun
  split <;> rfl

theorem work_softmaxRun (s : State) (i : Issued) (b : VxBody) (m n : Nat) : (softmaxRun s i b m n).s.work = s.work := by
  unfold softmaxRun
  split
  · rfl
  · split
    · rfl
    · exact work_vxMapRun ..

theorem work_softmaxBwdRun (s : State) (i : Issued) (b : VxBody) (m n : Nat) : (softmaxBwdRun s i b m n).s.work = s.work := by
  unfold softmaxBwdRun
  split
  · rfl
  · exact work_vxMapRun ..

theorem work_vxReduceRun (s : State) (i : Issued) (b : VxBody) (m n : Nat) (y : Nat → Nat → Num) :
    (vxReduceRun s i b m n y).s.work = s.work := by
  unfold vxReduceRun
  dsimp only
  split <;> simp

theorem work_vxRun (s : State) (i : Issued) (b : VxBody) (red : Bool) : (vxRun s i b red).s.work = s.work := by
  unfold vxRun
  dsimp only
  split
  · exact work_softmaxRun ..
  · exact work_softmaxBwdRun ..
  · split
    · rfl
    · split
      · exact work_vxReduceRun ..
      · split
        · rfl
        · exact work_vxMapRun ..

@[simp] theorem State.work_setVec (s : State) (cu : Bool) (v : VecState) : (s.setVec cu v).work = s.work := by simp [State.setVec]

theorem work_vxLoadRun (s : State) (i : Issued) (b : VxLoadBody) (table : Bool) : (vxLoadRun s i b table).s.work = s.work := by
  unfold vxLoadRun
  dsimp only
  split
  · rfl
  · exact State.work_setVec ..

theorem State.work_runOf (s : State) (i : Issued) : (s.runOf i).s.work = s.work := by
  unfold State.runOf
  split
  case h_1 | h_2 | h_3 | h_4 => exact work_mxRun s i _
  case h_5 | h_6 => exact work_vxRun s i _ false
  case h_7 | h_8 => exact work_vxRun s i _ true
  case h_9 | h_10 => exact work_vxLoadRun s i _ false
  case h_11 | h_12 => exact work_vxLoadRun s i _ true
  case h_13 => exact congrArg State.work (memoryOk_transposeRun s i)
  case h_14 => rfl

@[simp] theorem State.work_land (s : State) (i : Issued) : (s.runOf i).land.work = s.work := State.work_runOf s i

/-! #### Issue and fetch -/

@[simp] theorem State.work_sendExport (s : State) (u : UnitId) (i : Issued) (p : Exporting) : (s.sendExport u i p).work = s.work := by
  unfold State.sendExport
  split <;> simp

@[simp] theorem State.work_settleSwaps (s : State) : s.settleSwaps.work = s.work := by simp [State.settleSwaps]
@[simp] theorem State.work_unhold (s : State) (e : Entry) (n : Option Nat) : (s.unhold e n).work = s.work := by simp [State.unhold]

@[simp] theorem State.work_closeRef (s : State) (e : Entry) : (s.closeRef e).work = s.work := by
  unfold State.closeRef
  split <;> simp

@[simp] theorem State.work_freeTu (s : State) (i : Issued) : (s.freeTu i).work = s.work := by
  unfold State.freeTu
  split <;> simp

@[simp] theorem State.work_noteWords (s : State) (task : BitVec 2) (dpi : Nat → W64) (ws : List Nat) :
    (s.noteWords task dpi ws).work = s.work := by
  unfold State.noteWords
  exact State.work_foldl (fun s a => by simp) _ s

@[simp] theorem State.work_closeCmd (s : State) (i : Issued) : (s.closeCmd i).work = s.work := by simp [State.closeCmd]

@[simp] theorem State.work_startPlane (s : State) (i : Issued) : (s.startPlane i).work = s.work := by
  unfold State.startPlane
  dsimp only
  split
  · rfl
  · simp

@[simp] theorem State.work_noteArray (s : State) (u : UnitId) : (s.noteArray u).work = s.work := by
  unfold State.noteArray
  split <;> simp

@[simp] theorem State.work_takeTu (s : State) (i : Issued) : (s.takeTu i).work = s.work := by
  unfold State.takeTu
  split <;> simp

@[simp] theorem State.work_endBallast (s : State) : s.endBallast.work = s.work := by simp [State.endBallast]
@[simp] theorem State.work_stopBallast (s : State) : s.stopBallast.work = s.work := by simp [State.stopBallast]

@[simp] theorem State.work_startBallast (s : State) (u : UnitId) : (s.startBallast u).work = s.work := by
  unfold State.startBallast
  split <;> simp

@[simp] theorem State.work_reballast (s : State) (c : Cmd) (u : UnitId) : (s.reballast c u).work = s.work := by
  unfold State.reballast
  split <;> simp

@[simp] theorem State.work_forecast (s : State) : s.forecast.work = s.work := by simp [State.forecast]

@[simp] theorem State.work_follow (s t : State) : (s.follow t).work = t.work := by
  unfold State.follow
  rw [State.work_forecast]
  exact State.work_foldl (fun t q => by split <;> simp) _ t

@[simp] theorem State.work_noteHolds (s : State) (l : List Entry) : (s.noteHolds l).work = s.work := by simp [State.noteHolds]
@[simp] theorem State.work_putOwn (s : State) (a n : Nat) (img : Bytes) : (s.putOwn a n img).work = s.work := by simp [State.putOwn]

@[simp] theorem State.work_putImage (s : State) (a : W64) (n : Nat) (img : Bytes) : (s.putImage a n img).work = s.work := by
  simp [State.putImage]

@[simp] theorem State.work_putBytes (s : State) (a : W64) (bs : List Byte) : (s.putBytes a bs).work = s.work := by simp [State.putBytes]

@[simp] theorem State.work_skipWord (s : State) (t : Fin 4) (w : CmdWord) (c : Cmd) : (s.skipWord t w c).work = s.work := by
  simp [State.skipWord]

@[simp] theorem State.work_lateBy (s : State) (t : Fin 4) (close : Late → Late) (f : State → State) :
    (s.lateBy t close f).work = s.work := by
  unfold State.lateBy
  split
  · rfl
  · dsimp only
    split
    · rfl
    · rw [State.work_setTask]
      rfl

@[simp] theorem State.work_setSel (s : State) (k : Nat) (v : BitVec 2) : (s.setSel k v).work = s.work := by simp [State.setSel]
@[simp] theorem Job.st_setGroup (j : Job) (g : BitVec 12) (m : McastGroup) : (j.setGroup g m).st = j.st := by simp [Job.setGroup]

@[simp] theorem State.work_endMcast (s : State) (t : Transfer) (b : StreamBody) : (s.endMcast t b).work = s.work := by
  simp [State.endMcast]

section
variable {w : Work} {s : State} (h : w.Calm s.work)
include h

@[simp] theorem State.calm_unqueue (e : Entry) : w.Calm (s.unqueue e).work :=
  State.calm_withIu_less h (fun hq => by simp [hq]) (fun hs => hs) (fun he => he)

@[simp] theorem State.calm_skipCmd (e : Entry) (enters : Bool) : w.Calm (s.skipCmd e enters).work := by
  unfold State.skipCmd
  dsimp only
  rw [State.work_closeRef]
  split <;> simp [h]

@[simp] theorem State.calm_putExec (i : Issued) : w.Calm (s.putExec i).work :=
  State.calm_withIu_less h (fun hq => hq) (fun hs => hs) (fun he => by simp [he])

@[simp] theorem State.calm_dropExec (i : Issued) : w.Calm (s.dropExec i).work :=
  State.calm_withIu_less h (fun hq => hq) (fun hs => hs) (fun he => by simp [he])

@[simp] theorem State.calm_execFaultAt (site : Site) (i : Issued) (code : Code) (dpi : W64) (ws : List Nat) (wrote : Bool) :
    w.Calm (s.execFaultAt site i code dpi ws wrote).work := by
  unfold State.execFaultAt
  dsimp only
  split <;> simp [h]

@[simp] theorem State.calm_execFault (u : UnitId) (i : Issued) (code : Code) (dpi : W64) (ws : List Nat) (wrote : Bool) :
    w.Calm (s.execFault u i code dpi ws wrote).work := State.calm_execFaultAt h ..

@[simp] theorem State.calm_endSteps (u : UnitId) (i : Issued) : w.Calm (s.endSteps u i).work := by
  unfold State.endSteps
  split
  · exact h
  · split
    · exact h
    · split
      · simp [h]
      · exact State.calm_putExec (s := s.setArray _ _) h _

@[simp] theorem State.calm_endAhead (u : UnitId) (n : Nat) : w.Calm (s.endAhead u n).work :=
  State.calm_foldl (fun _ x h => State.calm_endSteps h u x.2) _ h

@[simp] theorem State.calm_unitAhead (u : UnitId) : w.Calm (s.unitAhead u).work := State.calm_endAhead h ..

theorem State.calm_atIssue {e : Entry} {enters : Bool} {t : State} (ht : s.atIssue e enters = some t) : w.Calm t.work := by
  suffices ∀ t ∈ s.atIssue e enters, w.Calm t.work from this t ht
  unfold State.atIssue
  dsimp only
  split <;> simp [h]

/-! #### Issue, fetch and execution of a core that does not stand still -/

variable (hw : ¬ w.Stopped)
include hw

@[simp] theorem State.calm_putExport (u : UnitId) (i : Issued) (p : Exporting) : w.Calm (s.putExport u i p).work :=
  State.calm_withIu h hw _

@[simp] theorem State.calm_enqueue (e : Entry) : w.Calm (s.enqueue e).work := State.calm_withIu h hw _

@[simp] theorem State.calm_setSlot (e : Fin 8) (k : Fin 4) (x : Slot) : w.Calm (s.setSlot e k x).work := State.calm_withSe h hw _

@[simp] theorem State.calm_countAdmitted : w.Calm s.countAdmitted.work := State.calm_withSe h hw _

@[simp] theorem State.calm_enterSlot (e : Fin 8) (k : Fin 4) (i : Issued) (b : StreamBody) : w.Calm (s.enterSlot e k i b).work := by
  unfold State.enterSlot
  dsimp only
  split
  · split <;> simp [h, hw]
  · simp [h, hw]

@[simp] theorem State.calm_admitOrFault (e : Fin 8) (k : Fin 4) (i : Issued) (b : StreamBody) : w.Calm (s.admitOrFault e k i b).work := by
  unfold State.admitOrFault
  split <;> simp [h, hw]

@[simp] theorem State.calm_armStream (e : Entry) (b : StreamBody) : w.Calm (s.armStream e b).work := by
  unfold State.armStream
  extract_lets _ i eng k s1
  have h1 : w.Calm s1.work := by
    unfold s1
    split <;> simp [h]
  split
  · split <;> simp [h1, hw]
  · simp [h1, hw]

@[simp] theorem State.calm_sendPeer (u : UnitId) (i : Issued) (bs : Bytes) (seen : List Seen) : w.Calm (s.sendPeer u i bs seen).work := by
  unfold State.sendPeer
  split
  · split <;> simp [h]
  · simp [h, hw]

@[simp] theorem State.calm_finishCmd (u : UnitId) (i : Issued) : w.Calm (s.finishCmd u i).work := by
  unfold State.finishCmd
  split
  · simp [h]
  · dsimp only
    split
    · simp [h]
    · split <;> simp [h, hw]

@[simp] theorem State.calm_stage (e : Entry) : w.Calm (s.stage e).work := by simp [State.stage, h, hw]

@[simp] theorem State.calm_runWhole (e : Entry) : w.Calm (s.runWhole e).work := by
  unfold State.runWhole
  dsimp only
  split <;> simp [h, hw]

end

end Sys2Proof.Machine
end

section
namespace Sys2Proof.Machine

/-! #### The issue unit and the engines act on work that is there -/

theorem State.active_of_verdict {s : State} {e : Entry} {direct : Bool} (h : s.verdict e direct ≠ .hold) : s.active e.x.task = true := by
  by_contra hn
  refine h ?_
  have hissue : s.mayIssue e.x = false := by simp [State.mayIssue, hn]
  simp [State.verdict, hissue]

theorem takeUnit_mem {u : UnitId} {l : List (UnitId × Issued)} (h : ¬ (takeUnit u l).isNone = true) : ∃ q, q ∈ l := by
  simp only [takeUnit, Option.isNone_map, Option.isNone_iff_eq_none] at h
  obtain ⟨q, hq⟩ := Option.ne_none_iff_exists'.mp h
  exact ⟨q, List.mem_of_find?_eq_some hq⟩

theorem State.mem_of_onUnit {s : State} {u : UnitId} {k : Nat} {q : UnitId × Issued} (h : (s.iu.onUnit u)[k]? = some q) :
    q ∈ s.iu.exec := List.mem_of_mem_filter (List.mem_of_getElem? h)

theorem State.mem_of_exporter {s : State} {a k : Nat} {u : UnitId} {i : Issued} {p : Exporting}
    (h : s.exporter a k = some (u, i, p)) : ∃ q, q ∈ s.iu.exec := by
  obtain ⟨q, hq, -⟩ := List.exists_of_findSome?_eq_some h
  exact ⟨q, hq⟩

theorem State.not_stopped_of_shadow {s : State} {e : Fin 8} {k : Fin 4} {i : Issued} (h : (s.slot e k).shadow = some i) :
    ¬ s.work.Stopped := fun hs => nomatch h.symm.trans (Work.shadow_of_stopped hs (slotIdx e k))

theorem State.slot_of_work {s t : State} (h : t.work = s.work) (e : Fin 8) (k : Fin 4) : t.slot e k = s.slot e k :=
  State.slot_of_se (congrArg Work.se h :) e k

theorem State.run_of_transfer {s : State} {e : Fin 8} {k : Fin 4} {t : Transfer} {b : StreamBody} (h : s.transfer e k = some (t, b)) :
    (s.slot e k).run = some t := by
  unfold State.transfer at h
  split at h
  next r hr =>
    obtain ⟨_, _, hpair⟩ := Option.map_eq_some_iff.mp h
    rw [hr, (Prod.mk.inj hpair).1]
  · exact absurd h nofun

section
variable {w : Work} {s : State} (h : w.Calm s.work)
include h

/-- A slot that stays as full as it was, or empties. -/
theorem State.calm_setSlot_less {e : Fin 8} {k : Fin 4} {x : Slot} (hshadow : (s.slot e k).shadow = none → x.shadow = none)
    (hrun : x.run.isSome = true → (s.slot e k).run.isSome = true) : w.Calm (s.setSlot e k x).work := by
  refine State.calm_withSe_less h (fun n hn => ?_) fun n hn => ?_
  · simp only [Vector.getElem_set]
    split
    next heq =>
      refine hshadow ?_
      unfold State.slot
      simpa only [heq] using hn
    · exact hn
  · simp only [Vector.getElem_set] at hn
    split at hn
    next heq =>
      have hslot := hrun hn
      unfold State.slot at hslot
      simpa only [heq] using hslot
    · exact hn

theorem State.calm_setRun {e : Fin 8} {k : Fin 4} {t : Transfer} (x : Transfer) (ht : (s.slot e k).run = some t) :
    w.Calm (s.setRun e k x).work :=
  State.calm_setSlot_less h (fun hn => hn) fun _ => by simp [ht]

@[simp] theorem State.calm_act (e : Entry) (direct enters : Bool) : w.Calm (s.act e direct enters).work := by
  unfold State.act
  split
  · exact h
  · simp [h]
  · simp [h]
  next hgo =>
    have hw := State.not_stopped_of_calm h (State.not_stopped_of_active (State.active_of_verdict (by rw [hgo]; nofun)))
    dsimp only
    cases hi : (s.unqueue e).atIssue e enters with
    | some t => simpa using State.calm_atIssue (State.calm_unqueue h e) hi
    | none =>
      dsimp only
      split
      · simp [h, hw]
      · split <;> simp [h, hw]

@[simp] theorem State.calm_placeWord (hw : ¬ w.Stopped) (t : Fin 4) (c : CmdWord) : w.Calm (s.placeWord t c).work := by
  unfold State.placeWord
  dsimp only
  split
  · split
    · split <;> simp [h]
    · simp [h]
  · split
    · simp [h]
    · split
      · simp [h]
      · split
        · simp [h]
        · simp [h]
        · split
          · simp [h]
          · split
            · simp [h]
            · split
              · exact h
              · exact State.calm_enqueue (by simpa using h) hw _

@[simp] theorem State.calm_fetch (t : Fin 4) (data : Fetched) : w.Calm (s.fetch t data).work := by
  unfold State.fetch
  split
  · exact h
  next hfetch =>
    have hactive : s.active t = true := by
      simp only [State.mayFetch, Bool.not_eq_true', Bool.not_eq_false, Bool.and_eq_true] at hfetch
      exact hfetch.1.1.1.1
    have hw := State.not_stopped_of_calm h (State.not_stopped_of_active hactive)
    dsimp only
    split
    · simp [h, hw]
    · split
      · split
        · simp [h]
        · split <;> simp [h, hw]
      · split <;> simp [h, hw]

@[simp] theorem State.calm_issueNext : w.Calm s.issueNext.work := by
  unfold State.issueNext
  dsimp only
  split
  · exact h
  · exact State.calm_act (s := s.settleSwaps) h ..

@[simp] theorem State.calm_issueCycle : w.Calm s.issueCycle.work := by
  unfold State.issueCycle
  split <;> simp [h]

@[simp] theorem State.calm_startUnit (u : UnitId) : w.Calm (s.startUnit u).work := by
  unfold State.startUnit
  split
  · exact h
  next hstart =>
    rw [Bool.or_eq_true, not_or] at hstart
    obtain ⟨q, hq⟩ := takeUnit_mem hstart.2
    have hw := State.not_stopped_of_calm h (State.not_stopped_of_staged hq)
    have hahead : w.Calm (s.unitAhead u).work := State.calm_unitAhead h u
    dsimp only
    split
    · exact hahead
    · split <;> simp [hahead, hw]

@[simp] theorem State.calm_startCycle (u : UnitId) : w.Calm (s.startCycle u).work := by
  unfold State.startCycle
  split
  · simp [h]
  · split <;> simp [h]

@[simp] theorem State.calm_lateFault (u : UnitId) (i : Issued) (code : Code) (dpi : W64) (loc : PhysLoc) (detail : W64) :
    w.Calm (s.lateFault u i code dpi loc detail).work := by simp [State.lateFault, h]

@[simp] theorem State.calm_lateComplete (u : UnitId) : w.Calm (s.lateComplete u).work := by
  unfold State.lateComplete
  split
  · exact h
  · dsimp only
    split
    · simp [h]
    · split
      · simp [h]
      · split <;> simp [h]

@[simp] theorem State.calm_completeUnit (u : UnitId) (n : Nat) : w.Calm (s.completeUnit u n).work := by
  unfold State.completeUnit
  dsimp only
  split
  · simp [h]
  next hunit =>
    have hw := State.not_stopped_of_calm h (State.not_stopped_of_exec (State.mem_of_onUnit hunit))
    split
    · exact State.calm_finishCmd (State.calm_dropExec (State.calm_endAhead h ..) _) hw ..
    · exact State.calm_endAhead h ..

/-! #### Transfers -/

@[simp] theorem State.calm_promote (e : Fin 8) (k : Fin 4) : w.Calm (s.promote e k).work := by
  unfold State.promote
  dsimp only
  split
  next hshadow =>
    have hw := State.not_stopped_of_calm h (State.not_stopped_of_shadow hshadow)
    split
    · split <;> simp [h, hw]
    · exact h
  · exact h

@[simp] theorem State.calm_streamFault (e : Fin 8) (k : Fin 4) (t : Transfer) (b : StreamBody) (code : Code) (ws : List Nat)
    (detail : W64) : w.Calm (s.streamFault e k t b code ws detail).work := by
  unfold State.streamFault
  extract_lets s1
  have h1 : s1.work = s.work := by
    unfold s1
    split
    · rfl
    · split
      · exact State.work_foldl (fun s r => by simp) _ s
      · simp
  simp [h1, h]

theorem State.calm_failTransfer {e : Fin 8} {k : Fin 4} {x : Transfer} (t : Transfer) (hx : (s.slot e k).run = some x) (b : StreamBody)
    (code : Code) (detail : W64) (ws : List Nat) : w.Calm (s.failTransfer e k t b code detail ws).work :=
  State.calm_streamFault (State.calm_setRun h _ hx) ..

@[simp] theorem State.calm_finishStream (e : Fin 8) (k : Fin 4) : w.Calm (s.finishStream e k).work := by
  unfold State.finishStream
  split
  · exact h
  · split
    · exact h
    · split
      · exact h
      · have hempty : w.Calm (s.setSlot e k { s.slot e k with run := none }).work :=
          State.calm_setSlot_less h (fun hn => hn) fun hn => nomatch hn
        dsimp only
        split
        · split <;> simp [hempty]
        · split <;> split <;> split <;> simp [hempty]

@[simp] theorem State.calm_timeoutTasks : w.Calm s.timeoutTasks.work :=
  State.calm_foldl (fun s t h => by split <;> simp [h]) _ h

theorem State.calm_landData (e : Fin 8) (k : Fin 4) (addr : Nat) (bytes : List Byte) : w.Calm (s.landData e k addr bytes).work := by
  unfold State.landData
  split
  · exact h
  next hrun =>
    split
    · exact h
    · exact State.calm_setRun h _ (State.run_of_transfer hrun)

@[simp] theorem State.calm_acknowledge (e : Fin 8) (k : Fin 4) (n : Nat) : w.Calm (s.acknowledge e k n).work := by
  unfold State.acknowledge
  split
  · exact h
  next hrun =>
    have hset := fun x => State.calm_setRun h x (State.run_of_transfer hrun)
    dsimp only
    split
    · exact h
    · split <;> simp [hset]

@[simp] theorem State.calm_takeReport (e : Fin 8) (k : Fin 4) (result : BitVec 2) (chip : BitVec 20) (core : BitVec 3) :
    w.Calm (s.takeReport e k result chip core).work := by
  unfold State.takeReport
  split
  · exact h
  next hrun =>
    have hset := fun x => State.calm_setRun h x (State.run_of_transfer hrun)
    have hfail := fun x => State.calm_failTransfer (s := s.draw.2) h x (State.run_of_transfer hrun)
    dsimp only
    split
    · exact h
    · split
      · exact hset _
      · split
        · exact hset _
        · split
          · exact hfail ..
          · split
            · exact hset _
            · exact h

@[simp] theorem State.calm_timeOut (e : Fin 8) (k : Fin 4) (onDie : Bool) (code : Code) : w.Calm (s.timeOut e k onDie code).work := by
  unfold State.timeOut
  split
  · exact h
  next hrun =>
    have hset := fun x => State.calm_setRun h x (State.run_of_transfer hrun)
    have hfail := fun x => State.calm_failTransfer h x (State.run_of_transfer hrun)
    dsimp only
    split
    · exact h
    · split
      · exact hset _
      · exact hfail ..

theorem State.calm_reroute (k : Nat) (v : BitVec 2) (e : Fin 8) (q : Fin 4) : w.Calm (s.reroute k v e q).work := by
  unfold State.reroute
  split
  · exact h
  next t b hrun =>
    have hunsent : (s.unsend t.i.e.x.task t.i.e.x.dpi).work = s.work := State.work_unsend ..
    have hresent := fun x => State.calm_setRun (s := s.unsend t.i.e.x.task t.i.e.x.dpi) (hunsent ▸ h) x
      ((congrArg Slot.run (State.slot_of_work hunsent e q)).trans (State.run_of_transfer hrun))
    split
    · exact h
    · split
      · split
        · exact State.calm_setRun h _ (State.run_of_transfer hrun)
        · exact State.calm_failTransfer h _ (State.run_of_transfer hrun) ..
      · simp [hresent]

/-! #### Exports -/

@[simp] theorem State.calm_lateExport (a k : Nat) (code : Code) (detail : W64) : w.Calm (s.lateExport a k code detail).work := by
  unfold State.lateExport
  split <;> simp [h]

@[simp] theorem State.calm_exportDone (u : UnitId) (i : Issued) : w.Calm (s.exportDone u i).work := by simp [State.exportDone, h]

@[simp] theorem State.calm_exportAck (a k n : Nat) : w.Calm (s.exportAck a k n).work := by
  unfold State.exportAck
  split
  · exact h
  next hexport =>
    obtain ⟨q, hq⟩ := State.mem_of_exporter hexport
    have hw := State.not_stopped_of_calm h (State.not_stopped_of_exec hq)
    dsimp only
    split
    · exact h
    · split
      · simp [h]
      · split
        · simp [h, hw]
        · split <;> simp [h, hw]

@[simp] theorem State.calm_exportFail (u : UnitId) (i : Issued) (code : Code) (detail : W64) :
    w.Calm (s.exportFail u i code detail).work := by simp [State.exportFail, h]

theorem State.calm_exportReroute (hw : ¬ w.Stopped) (k : Nat) (v : BitVec 2) (u : UnitId) (i : Issued) (p : Exporting) :
    w.Calm (s.exportReroute k v u i p).work := by
  unfold State.exportReroute
  split
  · exact h
  · split <;> simp [h, hw]

@[simp] theorem State.calm_exportsReroute (k : Nat) (v : BitVec 2) : w.Calm (s.exportsReroute k v).work := by
  unfold State.exportsReroute
  by_cases hw : w.Stopped
  · rw [show s.iu.exec = [] from (h.stopped hw).1.exec]
    exact h
  · exact State.calm_foldl (fun s x h => by
      split
      · exact State.calm_exportReroute h hw ..
      · exact h) _ h

@[simp] theorem State.calm_moveSel (k from_ : Nat) : w.Calm (s.moveSel k from_).work := by
  unfold State.moveSel
  extract_lets en v s1 s2
  have h2 : w.Calm s2.work := by
    unfold s2
    split <;> simp [s1, h]
  exact State.calm_exportsReroute (State.calm_foldl (fun s q h => State.calm_reroute h ..) _ h2) ..

@[simp] theorem State.calm_losePort (q : Fin 64) : w.Calm (s.losePort q).work := by
  unfold State.losePort
  dsimp only
  split
  · rw [State.work_follow]
    exact State.calm_foldl (fun s p h => State.calm_moveSel h ..) _ h
  · exact h

@[simp] theorem State.calm_dropPort (p : Fin 8) : w.Calm (s.dropPort p).work := by
  unfold State.dropPort
  dsimp only
  split <;> simp [h]

@[simp] theorem State.calm_refused (e : Fin 8) (k : Fin 4) (cause : BitVec 8) (chip : BitVec 20) (core : BitVec 3) :
    w.Calm (s.refused e k cause chip core).work := by
  unfold State.refused
  split
  · exact h
  next hrun =>
    have hset := fun x => State.calm_setRun h x (State.run_of_transfer hrun)
    have hfail := fun x => State.calm_failTransfer h x (State.run_of_transfer hrun)
    dsimp only
    split
    · split
      · split
        · exact h
        · split
          · simp [h]
          · exact State.calm_reroute h ..
      · split
        · exact h
        · split
          · exact hset _
          · exact hfail ..
    · split
      · exact h
      · split
        · exact hset _
        · split
          · exact hfail ..
          · exact hfail ..

@[simp] theorem State.calm_exportRefused (a k : Nat) (cause : BitVec 8) (chip : BitVec 20) (core : BitVec 3) :
    w.Calm (s.exportRefused a k cause chip core).work := by
  unfold State.exportRefused
  split
  · split <;> simp [h]
  next hexport =>
    obtain ⟨q, hq⟩ := State.mem_of_exporter hexport
    have hw := State.not_stopped_of_calm h (State.not_stopped_of_exec hq)
    split
    · split
      · split
        · simp [h]
        · exact State.calm_exportReroute h hw ..
      · simp [h]
    · simp [h]

@[simp] theorem State.calm_exportTimeOut (a k : Nat) (onDie : Bool) (code : Code) : w.Calm (s.exportTimeOut a k onDie code).work := by
  unfold State.exportTimeOut
  split
  · simp [h]
  · split <;> simp [h]

@[simp] theorem State.calm_agentTimeOut (e : Fin 13) (k : Fin 4) (onDie : Bool) (code : Code) :
    w.Calm (s.agentTimeOut e k onDie code).work := by
  unfold State.agentTimeOut
  rw [State.work_follow]
  split <;> simp [h]

end

end Sys2Proof.Machine
end

section
namespace Sys2Proof.Machine

/-! #### Inbound accesses, multicast and the images of a job -/

@[simp] theorem State.work_answer (s : State) (req : Requester) (m : Msg) (us : List FabUnit) : (s.answer req m us).work = s.work := by
  simp [State.answer]

@[simp] theorem State.work_ackRun (s : State) (req : Requester) (addr len : Nat) : (s.ackRun req addr len).work = s.work := by
  simp [State.ackRun]

@[simp] theorem State.work_refuseRun (s : State) (req : Requester) (addr len : Nat) (cause : BitVec 8) :
    (s.refuseRun req addr len cause).work = s.work := by simp [State.refuseRun]

@[simp] theorem State.work_dataRun (s : State) (req : Requester) (addr len : Nat) : (s.dataRun req addr len).work = s.work := by
  simp [State.dataRun]

@[simp] theorem State.work_ackNotify (s : State) (req : Requester) (ec : BitVec 6) (inc : BitVec 8) :
    (s.ackNotify req ec inc).work = s.work := by simp [State.ackNotify]

@[simp] theorem State.work_refuseNotify (s : State) (req : Requester) (ec : BitVec 6) (inc cause : BitVec 8) :
    (s.refuseNotify req ec inc cause).work = s.work := by simp [State.refuseNotify]

@[simp] theorem State.work_refuseInbound (s : State) (req : Requester) (addr len : Nat) (cause : BitVec 8) :
    (s.refuseInbound req addr len cause).work = s.work := by simp [State.refuseInbound]

@[simp] theorem State.work_refuseWords (s : State) (req : Requester) (addr len : Nat) (ws : List Nat) (cause : BitVec 8) :
    (s.refuseWords req addr len ws cause).work = s.work := by simp [State.refuseWords]

@[simp] theorem State.work_windowWrite (s : State) (req : Requester) (addr : Nat) (bytes : List Byte) :
    (s.windowWrite req addr bytes).work = s.work := by
  unfold State.windowWrite
  split
  · simp
  · split <;> simp

@[simp] theorem State.work_inboundWrite (s : State) (req : Requester) (addr : Nat) (bytes : List Byte) :
    (s.inboundWrite req addr bytes).work = s.work := by
  unfold State.inboundWrite
  exact State.work_foldl (fun s a => by simp) _ s

@[simp] theorem State.work_windowRead (s : State) (req : Requester) (addr len : Nat) : (s.windowRead req addr len).work = s.work := by
  unfold State.windowRead
  split
  · simp
  · split
    · simp
    · split
      · simp
      · split <;> simp

@[simp] theorem State.work_inboundRead (s : State) (req : Requester) (addr len : Nat) : (s.inboundRead req addr len).work = s.work := by
  unfold State.inboundRead
  exact State.work_foldl (fun s a => by simp) _ s

@[simp] theorem State.work_reportMcast (s : State) (g : BitVec 12) (chip : BitVec 20) (core : BitVec 3) (seq : BitVec 16) (rs : List
    (Nat × List Byte)) (back : Fin 64) (result : BitVec 2) :
    (s.reportMcast g chip core seq rs back result).work = s.work := by simp [State.reportMcast]

@[simp] theorem State.work_dropMcast (s : State) (m : McastGroup) (g : BitVec 12) (seq : BitVec 16) :
    (s.dropMcast m g seq).work = s.work := by simp [State.dropMcast]

@[simp] theorem State.work_receiveMcast (s : State) (g : BitVec 12) (chip : BitVec 20) (core : BitVec 3)
    (seq : BitVec 16) (rs : List (Nat × List Byte)) (note : Option (BitVec 6 × BitVec 8)) (back : Fin 64) :
    (s.receiveMcast g chip core seq rs note back).work = s.work := by
  unfold State.receiveMcast
  extract_lets tell m key runs put s1 s2 s3 deliver
  have htell : ∀ t r, (tell t r).work = t.work := fun t r => State.work_reportMcast t ..
  have hput : ∀ (j : Job) m d, j.st = s.job.st → (put j m d).work = s.work := fun j m d hj =>
    State.work_withJob s ((Job.st_setGroup ..).trans hj)
  have hdeliver : deliver.work = s.work := by
    rw [htell]
    unfold s3
    split <;> simp [s2, s1, hput]
  split
  · rw [htell]
  · split
    · simp [htell]
    · split
      · rw [htell, State.work_withSpad]
      · rw [htell]
      · split
        · split
          next hlogged => rw [htell, State.work_dropMcast, hput _ _ _ (State.st_of_loggedDrop hlogged)]
          · exact hdeliver
        · split
          · exact hdeliver
          · rw [htell, State.work_dropMcast, hput]
            split
            · exact Job.st_append ..
            · rfl

@[simp] theorem State.work_spreadMcast (s : State) (g : BitVec 12) (chip : BitVec 20) (core : BitVec 3) (seq : BitVec 16)
    (rs : List (Nat × List Byte)) (note : Option (BitVec 6 × BitVec 8)) (back : Fin 64) (r : BitVec 12) :
    (s.spreadMcast g chip core seq rs note back r).work = s.work := by
  unfold State.spreadMcast
  dsimp only
  split
  · rfl
  · split
    · simp
    · exact (State.work_foldl (fun s q => by simp) _ _).trans (State.work_foldl (fun s c => by simp) _ s)

@[simp] theorem State.work_sendReleases (s : State) : s.sendReleases.work = s.work := by
  unfold State.sendReleases
  split
  · rfl
  · exact State.work_foldl (fun s p => by simp) _ s

@[simp] theorem State.work_level (s : State) (c : Fin 4) (age : Nat) : (s.level c age).work = s.work := by simp [State.level]

@[simp] theorem State.work_levels (s : State) : s.levels.work = s.work := by
  unfold State.levels
  exact State.work_foldl (fun s a => by simp) _ s

@[simp] theorem State.work_scrub (s : State) (addr : Nat) (found : EccKind) : (s.scrub addr found).work = s.work := by
  unfold State.scrub
  split <;> simp

@[simp] theorem State.work_passWord (s : State) : s.passWord.work = s.work := by simp [State.passWord]

@[simp] theorem State.work_drainTile (s : State) : s.drainTile.work = s.work := by
  unfold State.drainTile
  split <;> simp

@[simp] theorem State.work_queueTele (s : State) : s.queueTele.work = s.work := by simp [State.queueTele]

@[simp] theorem State.work_sendTele (s : State) : s.sendTele.work = s.work := by
  unfold State.sendTele
  split <;> simp

@[simp] theorem State.work_keepTags (s : State) : s.keepTags.work = s.work := by simp [State.keepTags]
@[simp] theorem State.work_writeDump (s : State) (status : Nat) : (s.writeDump status).work = s.work := by simp [State.writeDump]
@[simp] theorem State.work_writeSave (s : State) : s.writeSave.work = s.work := by simp [State.writeSave]

@[simp] theorem State.work_restoreRegions (s : State) (img : Bytes) (d : BitVec 2048) (tab : Vector Region 64) :
    (s.restoreRegions img d tab).work = s.work :=
  List.foldlRecOn (motive := fun acc : State × Nat => acc.1.work = s.work) _ _ rfl
    fun _ h _ _ => (State.work_putOwn ..).trans h

@[simp] theorem State.work_logRefusal (s : State) (code : Code) : (s.logRefusal code).work = s.work := by simp [State.logRefusal]

@[simp] theorem State.work_reportDead (s : State) : s.reportDead.work = s.work := by
  unfold State.reportDead
  exact State.work_foldl (fun s a => by simp) _ s

@[simp] theorem State.work_writeStartLog (s : State) : s.writeStartLog.work = s.work := by simp [State.writeStartLog]

@[simp] theorem State.work_endOldBallast (s t : State) : (s.endOldBallast t).work = t.work :=
  State.work_foldl (fun u n => by simp) _ t

@[simp] theorem State.work_stopTasks (s : State) : s.stopTasks.work = s.work := by
  unfold State.stopTasks
  exact State.work_foldl (fun s a => by simp) _ s

@[simp] theorem State.work_writeLog (s : State) : s.writeLog.work = s.work := by simp [State.writeLog]
@[simp] theorem State.work_dropInjection (s : State) : s.dropInjection.work = s.work := by simp [State.dropInjection]
@[simp] theorem State.work_writeAlmanac (s : State) (fin : Bool) : (s.writeAlmanac fin).work = s.work := by simp [State.writeAlmanac]
@[simp] theorem State.work_dropRefs (s : State) : s.dropRefs.work = s.work := by simp [State.dropRefs]

end Sys2Proof.Machine
end

section
namespace Sys2Proof.Machine

/-! #### A job starts and ends only where no fence holds (R356, R360, R366) -/

/-- A job that ends or is pre-empted runs, and no fence holds. -/
theorem State.not_stopped_of_jobDone {s : State} (h : s.jobDone = true) : ¬ s.work.Stopped := by
  simp only [State.jobDone, Bool.and_eq_true, Bool.not_eq_true'] at h
  exact State.not_stopped_of_unfenced (by tauto)

theorem State.not_stopped_of_drained {s : State} (h : s.drained = true) : ¬ s.work.Stopped := by
  simp only [State.drained, Bool.and_eq_true, Bool.not_eq_true'] at h
  exact State.not_stopped_of_unfenced (by tauto)

theorem State.not_stopped_of_reading {s : State} (h : ¬ (s.job.st != .reading) = true) : ¬ s.work.Stopped := by
  refine State.not_stopped_of_job fun hidle => h ?_
  rw [hidle]
  rfl

section
variable {w : Work} {s : State} (h : w.Calm s.work)
include h

@[simp] theorem State.calm_select : w.Calm s.select.work := by
  unfold State.select
  split
  · exact h
  next hfree =>
    have hunfenced : s.rep.coreFenced = false := by
      simp only [Bool.or_eq_true, not_or, Bool.not_eq_true] at hfree
      tauto
    have hw := State.not_stopped_of_calm h (State.not_stopped_of_unfenced hunfenced)
    split
    · exact h
    · simp [h, hw]

@[simp] theorem State.calm_finishJob (m : BitVec 256) (rec : Bool) : w.Calm (s.finishJob m rec).work := by
  unfold State.finishJob
  extract_lets s1 s2
  have h2 : w.Calm s2.work := by
    unfold s2
    split <;> simp [s1, h]
  exact State.calm_withJob_idle h2 fun _ => rfl

variable (hw : ¬ w.Stopped)
include hw

theorem State.calm_closeJob (rec : Option (BitVec 512)) (m : BitVec 256) : w.Calm (s.closeJob rec m).work := by
  unfold State.closeJob
  extract_lets s1 r j2 s2 c3 s3
  have h1 : w.Calm s1.work := by
    unfold s1
    split <;> simp [h]
  have h3 : w.Calm s3.work := by simp [s3, s2, h1, hw]
  split <;> simp [h3, hw]

theorem State.calm_reportJob (status : Nat) (updated : Bool) : w.Calm (s.reportJob status updated).work :=
  State.calm_closeJob (State.calm_withJob h hw _) hw ..

theorem State.calm_endJob : w.Calm s.endJob.work := by
  unfold State.endJob
  extract_lets status fin s1 s2
  have h2 : s2.work = s.work := by
    unfold s2 s1
    split <;> split <;> simp
  exact State.calm_reportJob (by simpa [h2] using h) hw ..

theorem State.calm_refuseJob (d : BitVec 2048) (code : Code) : w.Calm (s.refuseJob d code).work := by
  unfold State.refuseJob
  refine State.calm_closeJob ?_ hw ..
  rw [State.work_logRefusal]
  exact State.calm_withJob h hw _

theorem State.calm_restore (img : Bytes) (ntasks : Nat) : w.Calm (s.restore img ntasks).work := by
  unfold State.restore
  extract_lets d tab e c s1 iu1 s2 where_ s3 v s4 es alm4 s5 m bank sb cal cal5 s6 sol6 s7
  have h1 : w.Calm s1.work := by
    unfold s1
    rw [State.work_withRg, State.work_restoreRegions]
    exact h
  have h4 : w.Calm s4.work := by
    unfold s4 s3 s2
    split
    · rw [State.work_withCu, State.work_withMx]
      exact State.calm_withIu h1 hw _
    · rw [State.work_withVx, State.work_withMx]
      exact State.calm_withIu h1 hw _
  refine State.calm_withJob ?_ hw _
  unfold s7 s6 s5
  rw [State.work_withSol, State.work_withCal, State.work_withAlm]
  exact h4

theorem State.calm_startJob (ext : Bytes) (x : JobImages) : w.Calm (s.startJob ext x).work := by
  unfold State.startJob
  extract_lets d es src j src1 s1 src2 src3 s2 src4 src5 s3 s4 src6 s5 s6
  have h1 : w.Calm s1.work := by
    unfold s1
    refine State.calm_withIu ?_ hw _
    rw [State.work_withRg, State.work_withCu, State.work_withVx, State.work_withMx]
    exact State.calm_withJob h hw _
  have h3 : w.Calm s3.work := by
    unfold s3 s2
    rw [State.work_withFa, State.work_withSol, State.work_withCal, State.work_withAlm]
    exact h1
  have h4 : w.Calm s4.work := by
    unfold s4
    split
    · exact State.calm_restore h3 hw ..
    · exact h3
  have h5 : w.Calm s5.work := by
    unfold s5
    split
    · exact State.calm_withJob h4 hw _
    · exact h4
  have h6 : w.Calm s6.work := by simpa [s6] using h5
  split <;> simp [h6]

end

section
variable {w : Work} {s : State} (h : w.Calm s.work)
include h

@[simp] theorem State.calm_refuseDescriptor : w.Calm s.refuseDescriptor.work := by
  unfold State.refuseDescriptor
  split
  · exact h
  next hreading =>
    have hw := State.not_stopped_of_calm h (State.not_stopped_of_reading hreading)
    exact State.calm_closeJob (by simpa using h) hw ..

@[simp] theorem State.calm_loadJob (ext : Bytes) : w.Calm (s.loadJob ext).work := by
  unfold State.loadJob
  split
  · exact h
  next hreading =>
    have hw := State.not_stopped_of_calm h (State.not_stopped_of_reading hreading)
    dsimp only
    split
    · exact State.calm_refuseJob h hw ..
    · split
      · exact State.calm_refuseJob h hw ..
      · exact State.calm_startJob h hw ..

@[simp] theorem State.calm_tryEnd (p : State → Bool) : w.Calm (s.tryEnd p).work := by
  unfold State.tryEnd
  extract_lets s1 s2
  have h2 : w.Calm s2.work := by
    unfold s2
    split <;> simp [s1, h]
  split
  next hdone =>
    rw [Bool.and_eq_true] at hdone
    exact State.calm_endJob h2 (State.not_stopped_of_calm h2 (State.not_stopped_of_jobDone hdone.1))
  · exact h2

@[simp] theorem State.calm_preemptJob : w.Calm s.preemptJob.work := by
  unfold State.preemptJob
  extract_lets s1 s2 iu2 s3
  have h1 : w.Calm s1.work := by simpa [s1] using h
  split
  · exact h1
  next hdrained =>
    have hw := State.not_stopped_of_calm h1 (State.not_stopped_of_drained (by simpa using hdrained))
    have h2 : w.Calm s2.work := by simpa [s2] using h1
    have h3 : w.Calm s3.work := State.calm_withIu h2 hw _
    exact State.calm_reportJob (by simpa using h3) hw ..

end

end Sys2Proof.Machine
end

section
namespace Sys2Proof.Machine

/-! #### Ports, bring-up and repair -/

@[simp] theorem State.work_sendAbsent (s : State) (p : Fin 8) (hb : BitVec 8) : (s.sendAbsent p hb).work = s.work := by
  simp [State.sendAbsent]

@[simp] theorem State.work_sendPattern (s : State) (p : Fin 8) : (s.sendPattern p).work = s.work := by simp [State.sendPattern]
@[simp] theorem State.work_sendRunning (s : State) (p : Fin 8) : (s.sendRunning p).work = s.work := by simp [State.sendRunning]

@[simp] theorem State.work_extendBounds (s : State) (p : Fin 8) (fs : List SentFrame) : (s.extendBounds p fs).work = s.work := by
  unfold State.extendBounds
  exact State.work_foldl (fun s a => by simp) _ s

@[simp] theorem State.work_replayLink (s : State) (p : Fin 8) (seq : BitVec 12) (epoch : Bool) :
    (s.replayLink p seq epoch).work = s.work := by
  unfold State.replayLink
  extract_lets x fs s1 s2
  have h2 : s2.work = s.work := by simp [s2, s1]
  split
  · rfl
  · exact (State.work_foldl (fun s f => by simp) _ s2).trans h2

@[simp] theorem State.work_mismatch (s : State) (p : Fin 8) : (s.mismatch p).work = s.work := by simp [State.mismatch]

@[simp] theorem State.work_holdPosition (s : State) (p : Fin 8) (h : HeldPos) : (s.holdPosition p h).work = s.work := by
  simp [State.holdPosition]

@[simp] theorem State.work_takePosition (s : State) (p : Fin 8) (f : Frame) (pos : Nat) (us : List FabUnit) :
    (s.takePosition p f pos us).work = s.work := by
  unfold State.takePosition
  extract_lets x o cur skip w opens s1 s2
  have h2 : s2.work = s.work :=
    (State.work_foldl (fun s f => by simp) _ s1).trans (by simp [s1])
  exact (State.work_foldl (fun s f => by simp) _ s2).trans h2

@[simp] theorem State.work_takePositions (s : State) (p : Fin 8) (f : Frame) (n pos : Nat) (us : List FabUnit) :
    (s.takePositions p f n pos us).work = s.work := by
  induction n generalizing s pos us with
  | zero => exact State.work_setPort ..
  | succ n ih =>
    rw [State.takePositions]
    split
    · exact State.work_setPort ..
    · exact (ih ..).trans (State.work_takePosition ..)

@[simp] theorem State.work_takeMessage (s : State) (p : Fin 8) (u : FabUnit) : (s.takeMessage p u).work = s.work := by
  unfold State.takeMessage
  split
  · rfl
  · split
    · simp
    · split <;> simp

@[simp] theorem State.work_refuseBack (s : State) (down inport inpos : Nat) (u : FabUnit) :
    (s.refuseBack down inport inpos u).work = s.work := by
  unfold State.refuseBack
  dsimp only
  split
  · split <;> simp
  · simp

@[simp] theorem State.work_passOn (s : State) (p : Fin 8) (pos inport inpos skip : Nat) (us : List FabUnit) :
    (s.passOn p pos inport inpos skip us).work = s.work := by
  unfold State.passOn
  split
  · simp
  · exact State.work_foldl (fun s u => by simp) _ s

@[simp] theorem State.work_forwardTransit (s : State) (p : Fin 8) (pos : Nat) (inport inpos skip : Nat) (units : List FabUnit) :
    (s.forwardTransit p pos inport inpos skip units).work = s.work := by
  unfold State.forwardTransit
  dsimp only
  split
  · rfl
  · split
    · simp
    · split <;> simp

@[simp] theorem State.work_useRecord (s : State) (r : BitVec 2048) (fence : W32) : (s.useRecord r fence).work = s.work := rfl
@[simp] theorem State.work_reportRecord (s : State) : s.reportRecord.work = s.work := by simp [State.reportRecord]
@[simp] theorem State.work_steer (s : State) (r : BitVec 2048) : (s.steer r).work = s.work := by simp [State.steer]
@[simp] theorem State.work_sendReport (s : State) : s.sendReport.work = s.work := by simp [State.sendReport]

@[simp] theorem State.work_failBring (s : State) (cause : BitVec 4) (unit : BitVec 8) (loc : W32) :
    (s.failBring cause unit loc).work = s.work := by simp [State.failBring]

@[simp] theorem State.work_discardItem (s : State) : s.discardItem.work = s.work := by simp [State.discardItem]
@[simp] theorem State.work_toPhase (s : State) (p : BitVec 4) : (s.toPhase p).work = s.work := by simp [State.toPhase]
@[simp] theorem State.work_zeroise (s : State) : s.zeroise.work = s.work := rfl

@[simp] theorem State.work_release (s : State) (testHold : Bool) (failing : Option FailLoc) :
    (s.release testHold failing).work = s.work := by
  unfold State.release
  split
  · rfl
  · dsimp only
    split <;> simp

@[simp] theorem State.work_endPhase2 (s : State) : s.endPhase2.work = s.work := by simp [State.endPhase2]

@[simp] theorem State.work_dropKeys (s : State) : s.dropKeys.work = s.work := by
  unfold State.dropKeys
  exact State.work_foldl (fun s a => by simp) _ s

@[simp] theorem State.work_heldBist (s : State) (failing : List FailLoc) : (s.heldBist failing).work = s.work := by simp [State.heldBist]

@[simp] theorem State.work_endBist (s : State) (failing : List FailLoc) : (s.endBist failing).work = s.work := by
  unfold State.endBist
  extract_lets fs _ s1 s2
  have h2 : s2.work = s.work :=
    (State.work_foldl (fun s f => by simp) _ s1).trans (by simp [s1])
  split <;> simp [h2]

@[simp] theorem State.work_firstRecord (s : State) (r : BitVec 2048) : (s.firstRecord r).work = s.work := by
  unfold State.firstRecord
  split <;> simp

@[simp] theorem State.work_laterRecord (s : State) (r : BitVec 2048) : (s.laterRecord r).work = s.work := by simp [State.laterRecord]
@[simp] theorem State.work_phase8 (s : State) : s.phase8.work = s.work := by simp [State.phase8]
@[simp] theorem State.work_endPhase6 (s : State) : s.endPhase6.work = s.work := by simp [State.endPhase6]
@[simp] theorem State.work_takeDefault (s : State) (img : Bytes) : (s.takeDefault img).work = s.work := by simp [State.takeDefault]

@[simp] theorem State.work_holdDetour (s : State) (n : Fin 8) (img : Bytes) : (s.holdDetour n img).work = s.work := by
  simp [State.holdDetour]

@[simp] theorem State.work_takeDetour (s : State) (n : Fin 8) (img : Bytes) : (s.takeDetour n img).work = s.work := by
  simp [State.takeDetour]

@[simp] theorem State.work_raiseReady (s : State) : s.raiseReady.work = s.work := by simp [State.raiseReady]
@[simp] theorem State.work_tapSelect (s : State) (code : BitVec 5) : (s.tapSelect code).work = s.work := by simp [State.tapSelect]
@[simp] theorem State.work_evpendWrite (s : State) (v : W64) : (s.evpendWrite v).work = s.work := by simp [State.evpendWrite]
@[simp] theorem State.work_wdLimitStore (s : State) (v : W64) : (s.wdLimitStore v).work = s.work := by simp [State.wdLimitStore]

@[simp] theorem State.work_watchStore (s : State) (slot : Fin 8) (v : W64) : (s.watchStore slot v).work = s.work := by
  simp [State.watchStore]

@[simp] theorem State.work_injStore (s : State) (o : Nat) (v : W64) : (s.injStore o v).work = s.work := by simp [State.injStore]

@[simp] theorem State.work_submit (s : State) : s.submit.work = s.work := by
  unfold State.submit
  dsimp only
  split
  · simp
  · split <;> simp

@[simp] theorem State.work_injDone (s : State) (submitted : Bool) : (s.injDone submitted).work = s.work := by simp [State.injDone]

@[simp] theorem State.work_checkCrossing (s : State) (was : Nat) (k : Fin 8) (m : CrossingRead) :
    (s.checkCrossing was k m).work = s.work := by
  unfold State.checkCrossing
  extract_lets sides fastA fast slow hotA hotB ratio level s1 s2
  have h2 : s2.work = s.work := by simp [s2, s1]
  split
  · rfl
  · split <;> simp [h2]

@[simp] theorem State.work_monitor (s : State) (l : List CrossingRead) : (s.monitor l).work = s.work := by
  unfold State.monitor
  refine (State.work_foldl (fun s k => ?_) _ _).trans (State.work_withEq ..)
  split <;> simp

@[simp] theorem State.work_ballastParity (s : State) (q : Fin 4 × Fin 4 × PhysLoc) : (s.ballastParity q).work = s.work := by
  simp [State.ballastParity]

@[simp] theorem State.work_tick (s : State) (band : BitVec 33) (toggle : Bool) : (s.tick band toggle).work = s.work := by
  simp [State.tick]

@[simp] theorem State.work_setClock (s : State) (t st : Nat) : (s.setClock t st).work = s.work := by simp [State.setClock]

@[simp] theorem State.work_forwardFlits (s : State) (slot : Nat) (arrived : List (Fin 9 × Nat)) :
    (s.forwardFlits slot arrived).work = s.work := by
  unfold State.forwardFlits
  extract_lets w due go out _ s1 s2
  have h2 : s2.work = s.work := by simp [s2, s1]
  exact (State.work_foldl (fun s f => by simp) _ s2).trans h2

@[simp] theorem State.work_detourNote (s : State) (i : Issued) : (s.detourNote i).work = s.work := by simp [State.detourNote]
@[simp] theorem State.work_passDpi (s : State) (x : Ctx) (c : Cmd) : (s.passDpi x c).work = s.work := by simp [State.passDpi]

@[simp] theorem State.work_retireArrival (s : State) : s.retireArrival.work = s.work := by
  unfold State.retireArrival
  dsimp only
  split <;> simp

@[simp] theorem State.work_swapCalendars (s : State) (bank : Bool) : (s.swapCalendars bank).work = s.work := by simp [State.swapCalendars]
@[simp] theorem State.work_withHart (s : State) (h : Hart) : (s.withHart h).work = s.work := rfl

@[simp] theorem State.work_devicePut (s : State) (a : Nat) (v : W64) : (s.devicePut a v).work = s.work := by
  unfold State.devicePut
  split
  · simp
  · split
    · simp
    · split
      · simp
      · split <;> simp

theorem State.work_deviceStore {s t : State} {a n : Nat} {v : W64} (h : s.deviceStore a n v = some t) : t.work = s.work := by
  suffices ∀ t ∈ s.deviceStore a n v, t.work = s.work from this t h
  unfold State.deviceStore
  split
  · simp
  · split
    · simp
    · split <;> simp

@[simp] theorem State.work_fixSpan (s : State) (a n : Nat) : (s.fixSpan a n).work = s.work := by
  unfold State.fixSpan
  exact State.work_foldl (fun s a => by simp) _ s

@[simp] theorem State.work_fixData (s : State) (k : RvAccess) (a n : Nat) (atomic : Bool) : (s.fixData k a n atomic).work = s.work := by
  unfold State.fixData
  split
  · rfl
  · split <;> simp

theorem State.work_csrWrite {s t : State} {n : BitVec 12} {v : W64} (h : s.csrWrite n v = some t) : t.work = s.work := by
  suffices ∀ t ∈ s.csrWrite n v, t.work = s.work from this t h
  simp only [State.csrWrite]
  split_ifs <;> simp

@[simp] theorem State.work_rvPut (s : State) (r : RvReg) (v : W64) : (s.rvPut r v).work = s.work := by simp [State.rvPut]
@[simp] theorem State.work_rvJump (s : State) (rd : RvReg) (target : W64) : (s.rvJump rd target).work = s.work := by simp [State.rvJump]

@[simp] theorem State.work_rvFix (s : State) (i : Rv) : (s.rvFix i).work = s.work := by
  unfold State.rvFix
  dsimp only
  split
  case h_6 => split <;> simp
  all_goals simp

@[simp] theorem State.work_retire (s : State) (i : Rv) : (s.retire i).work = s.work := by simp [State.retire]

end Sys2Proof.Machine
end

section
namespace Sys2Proof.Machine

/-! #### Ports, faults, injection and the commands of a program -/

section
variable {w : Work} {s : State} (h : w.Calm s.work)
include h

@[simp] theorem State.calm_expireKey (p : Fin 8) : w.Calm (s.expireKey p).work := by
  unfold State.expireKey
  split <;> simp [h]

@[simp] theorem State.calm_sendFrame (p : Fin 8) : w.Calm (s.sendFrame p).work := by
  have h1 : w.Calm (s.expireKey p).work := State.calm_expireKey h p
  unfold State.sendFrame
  dsimp only
  split
  · exact h1
  · split
    · simp [h1]
    · split <;> simp [h1]

@[simp] theorem State.calm_acceptFrame (p : Fin 8) (f : Frame) : w.Calm (s.acceptFrame p f).work := by
  unfold State.acceptFrame
  extract_lets x abs n us old x1 s1 s2
  have h2 : s2.work = s.work := (State.work_foldl (fun s u => by simp) _ s1).trans (by simp [s1])
  split
  · exact State.calm_dropPort (by rwa [h2]) p
  · rwa [h2]

@[simp] theorem State.calm_rejectFrame (p : Fin 8) (tagOnly : Bool) : w.Calm (s.rejectFrame p tagOnly).work := by
  unfold State.rejectFrame
  dsimp only
  split
  · split <;> simp [h]
  · simp [h]

@[simp] theorem State.calm_receiveFrame (p : Fin 8) (f : Frame) : w.Calm (s.receiveFrame p f).work := by
  unfold State.receiveFrame
  dsimp only
  split_ifs <;> simp [h]

@[simp] theorem State.calm_missBeat (p : Fin 8) : w.Calm (s.missBeat p).work := by
  unfold State.missBeat
  dsimp only
  split
  · exact h
  · split <;> simp [h]

@[simp] theorem State.calm_applyRepair (failed : W32) : w.Calm (s.applyRepair failed).work := by
  unfold State.applyRepair
  split
  · exact h
  · split
    · exact h
    · extract_lets cleared stay s1 s2 s3
      have h2 : s2.work = s.work := (State.work_foldl (fun s k => by split <;> simp) _ s1).trans (by simp [s1])
      have h3 : w.Calm s3.work := State.calm_foldl (fun s p h => by split <;> simp [h]) _ (by rwa [h2])
      split <;> simp [h3]

@[simp] theorem State.calm_withdraw : w.Calm s.withdraw.work := by
  unfold State.withdraw
  split
  · exact h
  · exact State.calm_foldl (fun s p h => State.calm_dropPort h p) _ h

theorem State.calm_placeInjected (hw : ¬ w.Stopped) (c : CmdWord) (submitted : Bool) : w.Calm (s.placeInjected c submitted).work := by
  unfold State.placeInjected
  dsimp only
  split
  · simp [h]
  · split
    · simp [h]
    · simp [h, hw]

@[simp] theorem State.calm_inject : w.Calm s.inject.work := by
  unfold State.inject
  split
  · exact h
  next hmay =>
    have hactive : s.active 0 = true := by
      simp only [State.mayInject, Bool.not_eq_true', Bool.not_eq_false, Bool.and_eq_true] at hmay
      exact hmay.1.1.1
    have hw := State.not_stopped_of_calm h (State.not_stopped_of_active hactive)
    have hjob : ∀ j, w.Calm (s.settleSwaps.withJob j).work := fun j => State.calm_withJob (s := s.settleSwaps) h hw j
    dsimp only
    split
    · simp [h]
    · split
      · split
        · refine State.calm_placeInjected ?_ hw ..
          split
          · exact hjob _
          · exact h
        · exact h
      · split
        · exact h
        · split
          · exact h
          · split
            · exact State.calm_placeInjected (hjob _) hw ..
            · simp [h]

@[simp] theorem State.calm_replayCmd (u : UnitId) (i : Issued) (code : Code) (loc : PhysLoc) :
    w.Calm (s.replayCmd u i code loc).work := by simp [State.replayCmd, h]

@[simp] theorem State.calm_failCmd (u : UnitId) (i : Issued) (code : Code) (loc : PhysLoc) : w.Calm (s.failCmd u i code loc).work := by
  simp [State.failCmd, h]

@[simp] theorem State.calm_parity (u : UnitId) (hit : ParityHit) (f : Issued → ParityEnd) : w.Calm (s.parity u hit f).work := by
  unfold State.parity
  split
  · split <;> simp [h]
  · split
    · split <;> simp [h]
    · exact h

@[simp] theorem State.calm_shareFault (n : Fin 4) (loc : PhysLoc) : w.Calm (s.shareFault n loc).work := by
  unfold State.shareFault
  dsimp only
  split
  · exact h
  · split
    · simp [h]
    · exact State.calm_foldl (fun s t h => State.calm_abortTaskAt h ..) _ h

@[simp] theorem State.calm_peerRefuses (u : UnitId) (cause : BitVec 8) : w.Calm (s.peerRefuses u cause).work := by
  unfold State.peerRefuses
  split
  · split
    · simp [h]
    · split <;> simp [h]
  · simp [h]
  · split <;> simp [h]

@[simp] theorem State.calm_foundWord (u : UnitId) (word nth : Nat) : w.Calm (s.foundWord u word nth).work := by
  unfold State.foundWord
  extract_lets sp s1 quiet note
  have h1 : s1.work = s.work := by
    unfold s1
    split <;> rfl
  have hnote : ∀ i, (note i).work = s.work := fun i => (State.work_noteWords ..).trans h1
  split
  · split
    · exact h
    · split
      · exact State.calm_putExec (by rwa [hnote]) _
      · exact State.calm_execFault (State.calm_dropExec (by rwa [h1]) _) ..
  · split
    · rwa [hnote]
    · exact State.calm_lateFault (by rwa [State.work_poisonWords, h1]) ..
  · exact h

@[simp] theorem State.calm_foundFault (u : UnitId) (f : FoundFault) : w.Calm (s.foundFault u f).work := by
  cases f with
  | shared loc => cases u <;> simp [State.foundFault, h]
  | _ => simp [State.foundFault, h]

theorem State.calm_detourTransfer (n : BitVec 4) (e : Fin 8) (k : Fin 4) : w.Calm (s.detourTransfer n e k).work := by
  unfold State.detourTransfer
  split
  · exact h
  next hrun =>
    have hset := fun x => State.calm_setRun h x (State.run_of_transfer hrun)
    have hfail := fun x => State.calm_failTransfer h x (State.run_of_transfer hrun)
    dsimp only
    split_ifs <;> simp [h, hset, hfail]

@[simp] theorem State.calm_detourExport (n : BitVec 4) (x : UnitId × Issued) : w.Calm (s.detourExport n x).work := by
  unfold State.detourExport
  split
  · exact h
  · split_ifs <;> simp [h]

@[simp] theorem State.calm_meshFault (q : Fin 13 × Fin 4) : w.Calm (s.meshFault q).work := by
  unfold State.meshFault
  dsimp only
  split
  · split
    · simp [h]
    next hrun =>
      have hset := fun x => State.calm_setRun h x (State.run_of_transfer hrun)
      have hfail := fun x => State.calm_failTransfer h x (State.run_of_transfer hrun)
      split_ifs <;> simp [h, hset, hfail]
  · split
    · split <;> simp [h]
    · simp [h]

@[simp] theorem State.calm_replayFlit (second : Bool) (flit : Flit) (xfer : Option (Fin 13 × Fin 4)) :
    w.Calm (s.replayFlit second flit xfer).work := by
  unfold State.replayFlit
  dsimp only
  split
  · split <;> simp [h]
  · split
    · simp [h]
    · refine State.calm_meshFault ?_ _
      exact h

@[simp] theorem State.calm_goOn (e : Entry) : w.Calm (s.goOn e).work := by
  unfold State.goOn
  dsimp only
  split
  · rw [State.work_follow]
    split <;> simp [h]
  · split <;> simp [h]

@[simp] theorem State.calm_takeCommand (x : Ctx) (hd : Header) (op : Op) : w.Calm (s.takeCommand x hd op).work := by
  have h0 : w.Calm s.settleSwaps.work := h
  unfold State.takeCommand
  dsimp only
  split
  · exact h
  next hactive =>
    have hw := State.not_stopped_of_calm h0 (State.not_stopped_of_active (by simpa using hactive))
    split
    · split <;> simp [h]
    · split
      · exact h
      · split
        · simp [h]
        · split
          · simp [h]
          · simp [h]
          · split
            · simp [h]
            · split
              · exact h
              · exact State.calm_goOn (State.calm_enqueue (by simpa using h0) hw _) _

@[simp] theorem State.calm_command (x : Ctx) (hd : Header) (op : Op) : w.Calm (s.command x hd op).work := by
  unfold State.command
  split <;> simp [h]

@[simp] theorem State.calm_solstice : w.Calm s.solstice.work := by
  unfold State.solstice
  split
  · exact h
  · split
    · exact h
    · split
      · exact h
      · split
        · dsimp only
          split <;> simp [h]
        · simp [h]

@[simp] theorem State.calm_failLoad (l : CalLoading) (code : Code) (detail : W64) : w.Calm (s.failLoad l code detail).work := by
  unfold State.failLoad
  dsimp only
  split
  · simp [h]
  · refine State.calm_abortTaskAt ?_ _ _ _ _ _
    exact h

@[simp] theorem State.calm_endLoad : w.Calm s.endLoad.work := by
  unfold State.endLoad
  split
  · exact h
  · split
    · simp [h]
    · dsimp only
      split <;> simp [h]

end

end Sys2Proof.Machine
end

section
namespace Sys2Proof.Machine

/-! #### The instructions of the control core (R332) -/

/-- An instruction of the hart that leaves a state leaves the work alone. -/
def RvResult.keepsWork (w : Work) (r : RvResult) : Prop := ∀ t, r = .ok t → t.work = w

@[simp] theorem RvResult.keepsWork_ok (w : Work) (t : State) : RvResult.keepsWork w (.ok t) ↔ t.work = w :=
  ⟨fun h => h t rfl, fun h _ e => Except.ok.inj e ▸ h⟩

@[simp] theorem RvResult.keepsWork_error (w : Work) (e : RvStop) : RvResult.keepsWork w (.error e) := fun _ h => nomatch h

@[simp] theorem RvResult.keepsWork_illegal (w : Work) (v : W64) : RvResult.keepsWork w (illegal v) := RvResult.keepsWork_error w _

theorem RvResult.keepsWork_map {α : Type} {w : Work} {f : α → State} (hf :
    ∀ a, (f a).work = w) (r : Except RvStop α) : RvResult.keepsWork w (r.map f) := by
  cases r with
  | error e => exact RvResult.keepsWork_error w e
  | ok a => exact (RvResult.keepsWork_ok w _).mpr (hf a)

section
variable (s : State)

theorem State.keepsWork_rvStore (a n : Nat) (v : W64) (atomic : Bool) : RvResult.keepsWork s.work (s.rvStore a n v atomic) := by
  unfold State.rvStore
  dsimp only
  split
  · simp
  · split <;> simp
  · split <;> simp
  · split
    next hstore => exact (RvResult.keepsWork_ok _ _).mpr (State.work_deviceStore hstore)
    · simp

theorem State.keepsWork_rvLr (n : Nat) (rd rs1 : RvReg) : RvResult.keepsWork s.work (s.rvLr n rd rs1) := by
  unfold State.rvLr
  dsimp only
  split <;> simp

theorem State.keepsWork_rvSc (n : Nat) (rd rs1 rs2 : RvReg) : RvResult.keepsWork s.work (s.rvSc n rd rs1 rs2) := by
  unfold State.rvSc
  dsimp only
  split
  · simp
  · split
    · intro t h
      cases hstore : s.rvStore (s.rvGet rs1).toNat n (s.rvGet rs2) true with
      | error e => simp [hstore, Except.map] at h
      | ok u =>
        have hu := s.keepsWork_rvStore _ _ _ _ u hstore
        simp only [hstore, Except.map, Except.ok.injEq] at h
        simp [← h, hu]
    · simp

theorem State.keepsWork_rvAmo (op : RvAmo) (n : Nat) (rd rs1 rs2 : RvReg) : RvResult.keepsWork s.work (s.rvAmo op n rd rs1 rs2) := by
  unfold State.rvAmo
  dsimp only
  split
  · simp
  · split
    · simp
    · simp
    · split
      · simp
      next hstore => simp [s.keepsWork_rvStore _ _ _ _ _ hstore]

theorem State.keepsWork_rvCsr (op : CsrOp) (imm : Bool) (rd rs1 : RvReg) (n : BitVec 12) (v : W64) :
    RvResult.keepsWork s.work (s.rvCsr op imm rd rs1 n v) := by
  unfold State.rvCsr
  dsimp only
  split
  · simp
  · split
    · simp
    · split
      · simp
      next h => simp [State.work_csrWrite h]

theorem State.keepsWork_rvFpOp (op : RvFp) (d : Bool) (rm : Nat) (rd rs1 rs2 rs3 : RvReg) (v : W64) :
    RvResult.keepsWork s.work (s.rvFpOp op d rm rd rs1 rs2 rs3 v) := by
  unfold State.rvFpOp
  dsimp only
  split
  · simp
  · split <;> simp

theorem State.keepsWork_rvExec (i : Rv) (pc v : W64) : RvResult.keepsWork s.work (s.rvExec i pc v) := by
  cases i with
  | load => exact RvResult.keepsWork_map (fun v => by simp) _
  | store => exact s.keepsWork_rvStore _ _ _ _
  | lr => exact s.keepsWork_rvLr _ _ _
  | sc => exact s.keepsWork_rvSc _ _ _ _
  | amo => exact s.keepsWork_rvAmo _ _ _ _ _
  | csr => exact s.keepsWork_rvCsr _ _ _ _ _ _
  | fload =>
    simp only [State.rvExec]
    split
    · simp
    · exact RvResult.keepsWork_map (fun v => by simp) _
  | fstore =>
    simp only [State.rvExec]
    split
    · simp
    · exact s.keepsWork_rvStore _ _ _ _
  | fp =>
    simp only [State.rvExec]
    split
    · simp
    · exact s.keepsWork_rvFpOp _ _ _ _ _ _ _ _
  | mret | wfi =>
    simp only [State.rvExec]
    split <;> simp
  | _ => simp [State.rvExec]

end

/-! #### The fence (R398) -/

/-- A step that may raise a fence, and never lifts one: it leaves a core that it fences, or finds fenced, standing still. -/
structure Work.Safe (w v : Work) : Prop where
  raised : w.fenced = false → v.fenced = true → v.Stopped
  stopped : w.Stopped → v.Stopped ∧ w.se.NoneStarts v.se

theorem Work.Calm.safe {w v : Work} (h : w.Calm v) : w.Safe v :=
  ⟨fun hw hv => absurd (h.fenced.symm.trans hv) (by simp [hw]), h.stopped⟩

theorem Work.Safe.trans {w v u : Work} (hwv : w.Safe v) (hvu : v.Safe u) : w.Safe u := by
  refine ⟨fun hw hu => ?_, fun h => ?_⟩
  · cases hv : v.fenced with
    | false => exact hvu.raised hv hu
    | true => exact (hvu.stopped (hwv.raised hw hv)).1
  · obtain ⟨hv, hruns⟩ := hwv.stopped h
    obtain ⟨hu, hruns'⟩ := hvu.stopped hv
    exact ⟨hu, fun n hn => hruns n (hruns' n hn)⟩

theorem Work.Safe.refl (w : Work) : w.Safe w := (Work.Calm.refl w).safe

/-- A slot of a core that is fenced: its transfer runs on as an orphan, and its shadow is empty. -/
def Slot.stop (k : Slot) : Slot := { run := k.run.map (fun r => { r with orphan := true }), shadow := none }

/-- The work of a core whose commands have been abandoned. -/
def Work.emptied (fenced : Bool) (job : JobState) (se : Streams) : Work :=
  ⟨fenced, job, [], [], [], ⟨mapVec Slot.stop se.slots, se.next⟩⟩

theorem Work.stopped_emptied (se : Streams) : (Work.emptied true .idle se).Stopped := by
  refine ⟨rfl, rfl, rfl, rfl, rfl, Work.stopped_shadows fun n => ?_⟩
  show ((mapVec Slot.stop se.slots)[n.1]).shadow = none
  rw [getElem_mapVec]
  rfl

theorem State.work_stopCore (s : State) : s.stopCore.work = Work.emptied s.rep.coreFenced s.job.st s.se := by
  have h0 : (s.iu.busy.foldl (fun s u => s.scramble u.2) s).work = s.work := State.work_foldl (fun s u => by simp) _ s
  simp only [State.work, Work.mk.injEq] at h0
  obtain ⟨hfenced, hjob, -, -, -, hse⟩ := h0
  rw [← hfenced, ← hjob, ← hse]
  rfl

/-- A fence that is raised leaves nothing of the core's work, and no job. -/
theorem State.work_fenceCore {s : State} (h : s.rep.coreFenced = false) (code : Code) (unit : BitVec 8) (dpi : W64) :
    (s.fenceCore code unit dpi).work = Work.emptied true .idle s.se := by
  unfold State.fenceCore
  extract_lets s1 rep s2 s3 s4
  rw [if_neg (by simp [h])]
  have h1 : s1.work = s.work := State.work_addLog ..
  have h4 : ((s4.emit (.ctrl (s2.fencedMessage code dpi))).emit (.fenceNotice code)).work = s2.work := by
    rw [State.work_emit, State.work_emit]
    unfold s4 s3
    split <;> split <;> simp
  calc _ = { ((s4.emit (.ctrl (s2.fencedMessage code dpi))).emit (.fenceNotice code)).work with job := .idle } := rfl
    _ = { s1.stopCore.work with fenced := true, job := .idle } := by rw [h4]; rfl
    _ = Work.emptied true .idle s1.se := by rw [State.work_stopCore]; rfl
    _ = Work.emptied true .idle s.se := by rw [show s1.se = s.se from congrArg Work.se h1]

/-- A fence that is up is only logged again. -/
theorem State.work_fenceCore_again {s : State} (h : s.rep.coreFenced = true) (code : Code) (unit : BitVec 8) (dpi : W64) :
    (s.fenceCore code unit dpi).work = s.work := by
  unfold State.fenceCore
  dsimp only
  rw [if_pos h, State.work_addLog]

/-- The work is left alone, or a fence is raised. -/
def Work.KeptOrFenced (w v : Work) : Prop := v = w ∨ w.fenced = false ∧ v = Work.emptied true .idle w.se

theorem Work.KeptOrFenced.safe {w v : Work} (h : w.KeptOrFenced v) : w.Safe v := by
  obtain rfl | ⟨hw, rfl⟩ := h
  · exact .refl _
  · exact ⟨fun _ _ => Work.stopped_emptied w.se, fun hstopped => absurd (hw.symm.trans hstopped.fenced) (by decide)⟩

theorem Work.KeptOrFenced.eq_of_fenced {w v : Work} (h : w.KeptOrFenced v) (hw : w.fenced = true) : v = w := by
  obtain rfl | ⟨hn, -⟩ := h
  · rfl
  · exact absurd (hn.symm.trans hw) (by decide)

theorem State.keptOrFenced_fenceCore (s : State) (code : Code) (unit : BitVec 8) (dpi : W64) :
    s.work.KeptOrFenced (s.fenceCore code unit dpi).work := by
  cases hs : s.rep.coreFenced with
  | true => exact .inl (State.work_fenceCore_again hs ..)
  | false => exact .inr ⟨hs, State.work_fenceCore hs ..⟩

/-! #### Where a fence is raised (R284, R336, R376, R398) -/

theorem State.keptOrFenced_rvStop {s u : State} (h : u.work = s.work) (e : RvStop) : s.work.KeptOrFenced (u.rvStop e).work := by
  rw [← h]
  cases e with
  | trap => exact .inl rfl
  | fatal =>
    unfold State.rvStop
    rw [State.work_follow]
    exact u.keptOrFenced_fenceCore ..

theorem State.keptOrFenced_rvRun (s : State) : s.work.KeptOrFenced s.rvRun.work := by
  unfold State.rvRun
  extract_lets h
  split
  · refine State.keptOrFenced_rvStop ?_ _
    split <;> simp
  next v n i _ =>
    extract_lets s1 s2
    have h2 : s2.work = s.work := by
      unfold s2
      split <;> simp [s1]
    split
    · exact State.keptOrFenced_rvStop h2 _
    next i =>
      split
      next t ht =>
        rw [State.work_retire, State.keepsWork_rvExec _ _ _ _ t ht]
        exact .inl h2
      · exact State.keptOrFenced_rvStop h2 _

theorem State.keptOrFenced_hartStep (s : State) : s.work.KeptOrFenced s.hartStep.work := by
  unfold State.hartStep
  split
  · exact .inl rfl
  · split
    · exact .inl (State.work_ccHalt s)
    · split
      · exact .inl rfl
      · exact s.keptOrFenced_rvRun

theorem State.keptOrFenced_ccStore (s : State) (a : Nat) (v : W64) : s.work.KeptOrFenced (s.ccStore a v).work := by
  unfold State.ccStore
  split
  next t ht => exact .inl (s.keepsWork_rvStore _ _ _ _ t ht)
  · exact State.keptOrFenced_rvStop rfl _

theorem State.keptOrFenced_illegalCsr (s : State) : s.work.KeptOrFenced s.illegalCsr.work :=
  State.keptOrFenced_rvStop (u := s.draw.2) rfl _

theorem State.safe_stopClock (s : State) (c : ClockIn) : s.work.Safe (s.stopClock c).work := by
  cases c with
  | router => exact ((s.withCal { s.cal with routerFenced := true }).keptOrFenced_fenceCore ..).safe
  | sync => exact (s.keptOrFenced_fenceCore ..).safe
  | fabric => exact (State.calm_foldl (fun s p h => State.calm_dropPort h p) _ (.refl _)).safe
  | arrayClock n => exact (State.calm_shareFault (.refl _) n noLoc).safe

theorem State.safe_switchDetour (s : State) : s.work.Safe s.switchDetour.work := by
  unfold State.switchDetour
  split
  · exact .refl _
  next n _ =>
    split
    · exact .refl _
    · extract_lets cal s1 s2
      have h1 : s1.work = s.work := by simp [s1]
      have h2 : s.work.Calm s2.work :=
        State.calm_foldl (fun s x h => State.calm_detourExport h n x) _
          (State.calm_foldl (fun s q h => State.calm_detourTransfer h n q.1 q.2) _ (by rw [h1]; exact .refl _))
      split
      · exact h2.safe.trans (s2.keptOrFenced_fenceCore ..).safe
      · exact h2.safe

theorem State.safe_sample (s : State) (p : PowerSample) : s.work.Safe (s.sample p).work := by
  unfold State.sample
  extract_lets s' e temps tmax sp hot placed e1 s0 s1 s2
  have h2 : s2.work = s.work := by
    unfold s2 s1 s0 s'
    rw [State.work_monitor, State.work_forecast, State.work_emit, State.work_withEq]
    exact State.work_foldl (fun s q => State.work_ballastParity s q) _ s
  rw [← h2]
  split
  · rw [State.work_forecast]
    exact (s2.keptOrFenced_fenceCore ..).safe
  · exact .refl _

end Sys2Proof.Machine
end

section
namespace Sys2Proof.Machine

/-! #### Every command and every cycle -/

/-- The state that a command leaves, where it leaves one, stands to `w` as `Work.Safe` says. -/
def leavesSafe (w : Work) (o : Host.Outcome State Fault Refusal) : Prop := ∀ t, o = .next t → w.Safe t.work

theorem leavesSafe_next {w : Work} {t : State} (h : w.Safe t.work) : leavesSafe w (.next t) := fun _ e =>
  Host.Outcome.next.inj e ▸ h

theorem leavesSafe_of_calm {w : Work} {t : State} (h : w.Calm t.work) : leavesSafe w (.next t) := leavesSafe_next h.safe

theorem State.calm_served {s : State} {f : State → State} (hf : s.work.Calm (f s).work) : s.work.Calm (s.served f).work := by
  unfold State.served
  split
  · exact hf
  · simp [Work.Calm.refl]

theorem State.safe_byCc {s : State} {f : State → State} (hf : s.work.Safe (f s).work) : s.work.Safe (s.byCc f).work := by
  unfold State.byCc
  split
  · exact .refl _
  · exact hf

/-- What is done, or left undone, on a condition. -/
theorem State.safe_ite {s t : State} {p : Prop} [Decidable p] (ht : s.work.Safe t.work) : s.work.Safe (if p then t else s).work := by
  split
  · exact ht
  · exact .refl _

/-- The commands that may lift a fence: the resets (R399) and the loss of power (R389). -/
def liftsFence : Instr → Bool
  | .powerOnReset | .warmReset | .unlock | .powerRemoval => true
  | _ => false

theorem safe_exec {c : Instr} (hc : liftsFence c = false) (s : State) : leavesSafe s.work (exec c s) := by
  have hrefl := Work.Calm.refl s.work
  cases c
  case powerOnReset | warmReset | unlock | powerRemoval => exact absurd hc (by decide)
  case loop | setEc | setPd | barrier | calLoad | regionSet | regionSwap | regionAttr | nop | fin | mmOs | mmSt | mmEw | mmDrain
      | maskSet | arrayMode | vxMap | vxReduce | vxAux | vxProg | vxTable | stream | transpose | cuMap | cuReduce | cuProg | cuTable =>
    exact leavesSafe_of_calm (State.calm_command hrefl ..)
  case doorbell | preempt | ringCommit | eqCommit | bgCommit | fpCommit | routeCommit | routeEntHi | obsCommit | ccCtrl | ccMdataRead
      | ccMdataWrite | errlogPop | clrLost | clrPrbs | clrReplay | registerWrite =>
    exact leavesSafe_of_calm (State.calm_served (by simp [commitWrite, hrefl]))
  case mtimecmpWrite | wdKick | wdLimitWrite | watchWrite | injCmdWrite | injGo | msgSend =>
    exact leavesSafe_next (State.safe_byCc (s.keptOrFenced_ccStore _ _).safe)
  case sfCsrWrite | evpendWrite =>
    refine leavesSafe_next (State.safe_byCc ?_)
    split
    · simp [hrefl.safe]
    · exact s.keptOrFenced_illegalCsr.safe
  case preemptTimeout =>
    refine leavesSafe_of_calm ?_
    split
    · rw [State.work_follow]
      exact State.calm_foldl (fun s t h => by split <;> simp [h]) _ (by simp [hrefl])
    · exact hrefl
  case commandFetch | issueTimeout | ack | refuse | portDownNotice | mcastWrite =>
    refine leavesSafe_of_calm ?_
    split <;> simp [hrefl]
  case controlSlotSend =>
    exact leavesSafe_of_calm (State.calm_sendFrame (State.calm_foldl (fun s o h => by simp [h]) _ (by simp [hrefl])) _)
  case readReq => exact leavesSafe_of_calm (State.calm_foldl (fun s a h => by simp [h]) _ (by simp [hrefl]))
  case readData => exact leavesSafe_of_calm (State.calm_landData hrefl ..)
  case membershipChange =>
    refine leavesSafe_of_calm ?_
    rw [State.work_follow]
    refine State.calm_solstice ?_
    exact hrefl
  case watchdogExpiry =>
    refine leavesSafe_next ?_
    split
    · exact .refl _
    · rw [State.work_follow]
      have hfence := (s.advanceTo (s.cc.wdStart + 12 * s.cc.wdLimit.toNat)).keptOrFenced_fenceCore Code.ccWatchdog 0x41 noDpi
      rw [State.work_advanceTo] at hfence
      exact hfence.safe
  case detourSwitch => exact leavesSafe_next (by simpa using s.safe_switchDetour)
  case equinoxSample => exact leavesSafe_next (State.safe_ite (s.safe_sample _))
  case clockStop => exact leavesSafe_next (by simpa using State.safe_ite (s.safe_stopClock _))
  case coreFence | mgmtFence => exact leavesSafe_next (by simpa using State.safe_ite (s.keptOrFenced_fenceCore ..).safe)
  all_goals exact leavesSafe_of_calm (by simp [hrefl])

/-- A control cycle that passes: only the control core may raise a fence. -/
theorem keptOrFenced_idleCycle (s : State) : s.work.KeptOrFenced (idleCycle s).work := by
  unfold idleCycle
  split
  · exact .inl rfl
  · rw [State.work_sendReleases, State.work_passMessage, State.work_sendTele, ← s.work_advanceTo (s.cycle + 1)]
    exact State.keptOrFenced_hartStep _

/-- A reset that takes place leaves no fence; one that is ignored leaves the state. -/
theorem exec_reset {c : Instr} (hc : liftsFence c = true) {s t : State} (h : exec c s = .next t) : t = s ∨ t.rep.coreFenced = false := by
  unfold liftsFence at hc
  split at hc
  · obtain rfl := Host.Outcome.next.inj h
    exact .inr rfl
  · obtain rfl := Host.Outcome.next.inj h
    split
    · exact .inl rfl
    · exact .inr rfl
  · obtain rfl := Host.Outcome.next.inj h
    split
    · exact .inl rfl
    · exact .inr rfl
  · obtain rfl := Host.Outcome.next.inj h
    exact .inr rfl
  · exact absurd hc (by decide)

theorem liftsFence_eq_false {c : Instr} (hpower : c ≠ .powerOnReset) (hwarm : c ≠ .warmReset) (hunlock : c ≠ .unlock)
    (hremoval : c ≠ .powerRemoval) : liftsFence c = false := by
  unfold liftsFence
  split
  · exact absurd rfl hpower
  · exact absurd rfl hwarm
  · exact absurd rfl hunlock
  · exact absurd rfl hremoval
  · rfl

/-! #### The statement's terms -/

theorem State.allQuiet_iff (s : State) : s.allQuiet = true ↔
    s.iu.queued = [] ∧ s.iu.staged = [] ∧ s.iu.exec = [] ∧ ∀ k ∈ s.se.slots.toList, k.shadow = none := by
  simp only [State.allQuiet, Bool.and_eq_true, List.isEmpty_iff, List.all_eq_true, Option.isNone_iff_eq_none, and_assoc]

theorem State.stopped_iff (s : State) : s.work.Stopped ↔ s.rep.coreFenced = true ∧ s.job.st = .idle ∧ s.allQuiet = true := by
  rw [State.allQuiet_iff]
  constructor
  · rintro ⟨hfenced, hjob, hqueued, hstaged, hexec, hshadows⟩
    exact ⟨hfenced, hjob, hqueued, hstaged, hexec, hshadows⟩
  · rintro ⟨hfenced, hjob, hqueued, hstaged, hexec, hshadows⟩
    exact ⟨hfenced, hjob, hqueued, hstaged, hexec, hshadows⟩

theorem State.fenceOk_iff (s : State) : s.fenceOk = true ↔ (s.rep.coreFenced = true → s.work.Stopped) := by
  rw [State.stopped_iff]
  cases hfenced : s.rep.coreFenced <;> simp [State.fenceOk, hfenced]

theorem State.fenceOk_of_safe {s t : State} (hs : s.fenceOk = true) (h : s.work.Safe t.work) : t.fenceOk = true := by
  rw [State.fenceOk_iff] at hs ⊢
  intro ht
  cases hfenced : s.rep.coreFenced with
  | false => exact h.raised hfenced ht
  | true => exact (h.stopped (hs hfenced)).1

theorem fenceOk_exec {c : Instr} {s t : State} (hs : s.fenceOk = true) (h : exec c s = .next t) : t.fenceOk = true := by
  cases hc : liftsFence c with
  | false => exact State.fenceOk_of_safe hs (safe_exec hc s t h)
  | true =>
    obtain rfl | hunfenced := exec_reset hc h
    · exact hs
    · exact (State.fenceOk_iff t).mpr fun hfenced => absurd (hunfenced.symm.trans hfenced) (by decide)

theorem fenceOk_step {s t : State} (hs : s.fenceOk = true) (h : step s = .next t) : t.fenceOk = true := by
  unfold step at h
  split at h
  · obtain rfl := Host.Outcome.next.inj h
    exact State.fenceOk_of_safe hs (keptOrFenced_idleCycle s).safe
  next c rest _ => exact fenceOk_exec (s := s.withPending rest) hs h

/-- Settles O7. Every operation either leaves a core that stands still as it is, raises no fence and lifts none (`Work.Calm`), or raises a
fence, which takes all work away (`Work.KeptOrFenced`); both are `Work.Safe`, and only a reset lifts a fence. -/
theorem fenceLasts : Obligations.FenceLasts := by
  refine ⟨fun s t => fenceOk_step, fun c s t hfenced hok hexec hpower hwarm hunlock hremoval => ?_,
    fun s t hfenced hok hpending hstep => ?_⟩
  · have hc := liftsFence_eq_false hpower hwarm hunlock hremoval
    obtain ⟨hstopped, hruns⟩ := (safe_exec hc s t hexec).stopped ((State.fenceOk_iff s).mp hok hfenced)
    obtain ⟨hfence, hjob, hquiet⟩ := (State.stopped_iff t).mp hstopped
    exact ⟨hfence, hjob, hquiet, fun e k hrun => hruns (slotIdx e k) hrun⟩
  · have ht : t.work = s.work := by
      simp only [step, hpending] at hstep
      obtain rfl := Host.Outcome.next.inj hstep
      exact (keptOrFenced_idleCycle s).eq_of_fenced hfenced
    have hstopped : t.work.Stopped := ht ▸ (State.fenceOk_iff s).mp hok hfenced
    obtain ⟨hfence, hjob, hquiet⟩ := (State.stopped_iff t).mp hstopped
    exact ⟨hfence, hjob, hquiet, congrArg Work.se ht⟩

end Sys2Proof.Machine
end

/-! ### Fabric links: what their operations leave alone (O46, O51, O52) -/

section
namespace Sys2Proof.Machine

/-! #### Ports of the state -/

@[simp] theorem State.port_setPort (s : State) (p q : Fin 8) (x : Port) :
    (s.setPort p x).port q = if q = p then x else s.port q := by
  by_cases h : q = p
  · subst h; simp [State.setPort, State.port]
  · have hn : p.1 ≠ q.1 := fun e => h (Fin.ext e.symm)
    simp [State.setPort, State.port, h, Vector.getElem_set_ne _ _ hn]

theorem State.setPort_setPort (s : State) (p : Fin 8) (x y : Port) : (s.setPort p x).setPort p y = s.setPort p y := by
  simp [State.setPort, State.withFp]

@[simp] theorem State.setPort_port (s : State) (p : Fin 8) : s.setPort p (s.port p) = s := by
  simp [State.setPort, State.port, State.withFp]

theorem State.port_of_fp {s t : State} (h : t.fp = s.fp) (i : Fin 8) : t.port i = s.port i := by rw [State.port, State.port, h]

/-! #### The log never shrinks (R395) -/

/-- The log has lost no entry but those that a full log displaces. -/
def logGrows (s t : State) : Prop :=
  s.err.log.length ≤ t.err.log.length ∧ (t.err.log.length < 64 → keepsCodes s t)

theorem logGrows_of_err {s t : State} (h : t.err = s.err) : logGrows s t := ⟨by rw [h], fun _ => keepsCodes_of_err h⟩

theorem logGrows_trans (a b c : State) (hab : logGrows a b) (hbc : logGrows b c) : logGrows a c := by
  obtain ⟨hlen, hcodes⟩ := hab
  obtain ⟨hlen', hcodes'⟩ := hbc
  exact ⟨hlen.trans hlen', fun h => keepsCodes_trans a b c (hcodes (by omega)) (hcodes' h)⟩

theorem State.addLog_grows (s : State) (e : LogEntry) : logGrows s (s.addLog e) := by
  unfold State.addLog
  split
  · refine ⟨(mergeLog_length e s.err.log).ge, fun _ code hc => ?_⟩
    simp only [← List.mem_map] at hc ⊢
    exact (mergeLog_codes e s.err.log).symm ▸ hc
  · split
    · refine ⟨by simp [State.latchEvent], fun _ code => ?_⟩
      rintro ⟨x, hx, hcode⟩
      exact ⟨x, List.mem_append_left _ hx, hcode⟩
    · next hfull =>
      split
      · exact ⟨Nat.le_refl _, fun _ => keepsCodes_refl s⟩
      · split
        · next hm =>
          have hlen := dropMinor_length _ hm
          refine ⟨by simp [State.latchEvent]; omega, fun h => absurd h ?_⟩
          simp [State.latchEvent]; omega
        · exact ⟨Nat.le_refl _, fun _ => keepsCodes_refl s⟩

theorem State.noteFor_grows (s : State) (task : BitVec 2) (code : Code) (unit sub : BitVec 8) (loc : W32) (dpi detail : W64) :
    logGrows s (s.noteFor task code unit sub loc dpi detail) := by
  have hlog := s.addLog_grows (s.logEntry code .minor task unit sub loc dpi detail)
  unfold State.noteFor
  dsimp only
  split
  · refine logGrows_trans _ _ _ hlog ?_
    generalize s.addLog (s.logEntry code .minor task unit sub loc dpi detail) = u
    exact State.addLog_grows (u.withJob { u.job with hints := (unit, loc) :: u.job.hints }) _
  · exact hlog

theorem noted_of_logged {s t : State} {code : Code} (h : logged s t code) (hg : logGrows s t) : noted t code :=
  fun hroom => h (by have := hg.1; omega)

theorem noted_of_grows {s t : State} {code : Code} (h : noted s code) (hg : logGrows s t) : noted t code :=
  fun hroom => hg.2 hroom code (h (by have := hg.1; omega))

theorem State.note_noted (s : State) (code : Code) (unit sub : BitVec 8) (loc : W32) (dpi detail : W64) :
    noted (s.note code unit sub loc dpi detail) code :=
  noted_of_logged s.noteFor_logged (s.noteFor_grows 0 code unit sub loc dpi detail)

/-! #### The state of the links (R312 to R328) -/

/-- Two ports are the same but for the packets and messages that wait at them and the positions that they hold or are receiving (R315,
R319). -/
def Port.sameLink (x y : Port) : Prop :=
  y = { x with queue := y.queue, msgs := y.msgs, held := y.held, carry := y.carry, opens := y.opens }

/-- The state of every link is the same, and the log has grown at most. -/
def keepsLinks (s t : State) : Prop := (∀ i, (s.port i).sameLink (t.port i)) ∧ logGrows s t

theorem Port.sameLink_trans {x y z : Port} (hxy : x.sameLink y) (hyz : y.sameLink z) : x.sameLink z :=
  Eq.trans hyz (congrArg (fun w : Port =>
    { w with queue := z.queue, msgs := z.msgs, held := z.held, carry := z.carry, opens := z.opens }) hxy)

theorem keepsLinks_of_same {s t : State} (hfp : t.fp = s.fp) (herr : t.err = s.err) : keepsLinks s t :=
  ⟨fun i => by rw [State.port_of_fp hfp i]; rfl, logGrows_of_err herr⟩

theorem keepsLinks_refl (s : State) : keepsLinks s s := keepsLinks_of_same rfl rfl

theorem keepsLinks_trans (a b c : State) (hab : keepsLinks a b) (hbc : keepsLinks b c) : keepsLinks a c :=
  ⟨fun i => Port.sameLink_trans (hab.1 i) (hbc.1 i), logGrows_trans a b c hab.2 hbc.2⟩

theorem keepsLinks_foldl {α : Type} {f : State → α → State} (hf : ∀ s a, keepsLinks s (f s a)) (l : List α) (s : State) :
    keepsLinks s (l.foldl f s) :=
  foldl_only keepsLinks keepsLinks_refl keepsLinks_trans f hf l s

theorem State.setPort_keepsLinks {s : State} {p : Fin 8} {x : Port} (h : (s.port p).sameLink x) : keepsLinks s (s.setPort p x) := by
  refine ⟨fun i => ?_, logGrows_of_err rfl⟩
  rw [State.port_setPort]
  split
  · next hi => rwa [hi]
  · rfl

theorem keepsLinks_of_onlyRg {s t : State} (h : onlyRg s t) : keepsLinks s t :=
  keepsLinks_of_same ((congrArg State.fp h).trans rfl) ((congrArg State.err h).trans rfl)

theorem State.noteFor_keepsLinks (s : State) (task : BitVec 2) (code : Code) (unit sub : BitVec 8) (loc : W32) (dpi detail : W64) :
    keepsLinks s (s.noteFor task code unit sub loc dpi detail) :=
  ⟨fun i => by rw [State.port_of_fp (onlyNote_sameSender (s.noteFor_only ..)).2 i]; rfl, s.noteFor_grows ..⟩

theorem State.note_keepsLinks (s : State) (code : Code) (unit sub : BitVec 8) (loc : W32) (dpi detail : W64) :
    keepsLinks s (s.note code unit sub loc dpi detail) := s.noteFor_keepsLinks 0 code unit sub loc dpi detail

theorem State.emit_keepsLinks (s : State) (m : Msg) : keepsLinks s (s.emit m) := keepsLinks_of_same rfl rfl

/-! #### Packets and routes (R315, R325, R326) -/

theorem State.unsend_keepsLinks (s : State) (task : Fin 4) (dpi : W64) : keepsLinks s (s.unsend task dpi) :=
  ⟨fun i => by simp [State.unsend, State.port, State.withFp, mapVec, Port.sameLink], logGrows_of_err rfl⟩

theorem State.queueUnits_keepsLinks (s : State) (p : Fin 8) (q : OutPacket) : keepsLinks s (s.queueUnits p q) :=
  State.setPort_keepsLinks rfl

theorem State.sendPackets_keepsLinks (s : State) (q agent : Nat) (task : Fin 4) (dpi : W64) (ps : List (List FabUnit)) :
    keepsLinks s (s.sendPackets q agent task dpi ps) := by
  refine keepsLinks_foldl (fun s us => ?_) ps s
  dsimp only
  split
  · exact s.queueUnits_keepsLinks _ _
  · exact s.emit_keepsLinks _

theorem State.sendRuns_keepsLinks (s : State) (e : Fin 8) (i : Issued) (b : StreamBody) (bs : Bytes) (route : Option Nat)
    (path : BitVec 2) (us : List (Nat × Nat)) : keepsLinks s (s.sendRuns e i b bs route path us) := by
  unfold State.sendRuns
  split
  · exact s.sendPackets_keepsLinks ..
  · split
    · exact keepsLinks_refl s
    · split
      · exact s.emit_keepsLinks _
      · exact keepsLinks_foldl (fun s u => s.emit_keepsLinks _) us s

theorem State.sendExport_keepsLinks (s : State) (u : UnitId) (i : Issued) (p : Exporting) : keepsLinks s (s.sendExport u i p) := by
  unfold State.sendExport
  split
  · exact s.sendPackets_keepsLinks ..
  · exact s.emit_keepsLinks _

/-- A task's abort logs its fault and leaves the links (R56). -/
theorem State.abortTaskAt_keepsLinks (s : State) (t : Fin 4) (code : Code) (dpi : W64) (w : Site) (detail : W64) :
    keepsLinks s (s.abortTaskAt t code dpi w detail) := by
  obtain ⟨-, -, hfp, -, -⟩ := s.abortTaskAt_sameOutside t code dpi w detail
  refine ⟨fun i => by rw [State.port_of_fp hfp i]; rfl, ?_⟩
  have hlog : logGrows s (s.logFatal t code dpi w detail) := s.addLog_grows _
  have hend : logGrows s ((s.logFatal t code dpi w detail).abandonTask t) :=
    logGrows_trans _ _ _ hlog (logGrows_of_err (State.abandonTask_keepsLogAndPoison _ t).1)
  unfold State.abortTaskAt
  dsimp only
  split
  · exact logGrows_of_err rfl
  · split
    · split <;> exact logGrows_trans _ _ _ hlog (logGrows_of_err rfl)
    · split <;> exact logGrows_trans _ _ _ hend (logGrows_of_err rfl)

/-- A transfer that fails poisons regions and aborts its task (R72, R79). -/
theorem State.failTransfer_keepsLinks (s : State) (e : Fin 8) (k : Fin 4) (t : Transfer) (b : StreamBody) (code : Code) (detail : W64)
    (ws : List Nat) : keepsLinks s (s.failTransfer e k t b code detail ws) := by
  have hset : keepsLinks s (s.setRun e k { t with orphan := true, faulted := true }) := keepsLinks_of_same rfl rfl
  unfold State.failTransfer State.streamFault
  generalize s.setRun e k { t with orphan := true, faulted := true } = u at hset ⊢
  have hpoison : onlyRg u (if t.orphan then u
      else if b.dir then ((ownFarBytes u b).filterMap u.locate).foldl State.poison u else u.poison (b.region, t.halfB)) := by
    split
    · exact onlyRg_refl u
    · split
      · exact foldl_only onlyRg onlyRg_refl onlyRg_trans State.poison (fun s h => State.poison_only s h) _ u
      · exact u.poison_only _
  refine keepsLinks_trans _ _ _ hset (keepsLinks_trans _ _ _ (keepsLinks_of_onlyRg ?_) (State.abortTaskAt_keepsLinks ..))
  exact onlyRg_trans _ _ _ hpoison (onlyRg_trans _ _ _ (State.poisonWords_only _ ws) (State.closeRef_only _ _))

theorem State.reroute_keepsLinks (s : State) (k : Nat) (v : BitVec 2) (e : Fin 8) (q : Fin 4) : keepsLinks s (s.reroute k v e q) := by
  unfold State.reroute
  split
  · exact keepsLinks_refl s
  · next t b _ =>
    split
    · exact keepsLinks_refl s
    · split
      · split
        · exact keepsLinks_of_same rfl rfl
        · exact s.failTransfer_keepsLinks ..
      · have hset : keepsLinks s ((s.unsend t.i.e.x.task t.i.e.x.dpi).setRun e q { t with path := v }) :=
          keepsLinks_trans _ _ _ (s.unsend_keepsLinks _ _) (keepsLinks_of_same rfl rfl)
        exact keepsLinks_trans _ _ _ (keepsLinks_trans _ _ _ hset (State.sendRuns_keepsLinks ..)) (State.noteFor_keepsLinks ..)

theorem State.exportReroute_keepsLinks (s : State) (k : Nat) (v : BitVec 2) (u : UnitId) (i : Issued) (p : Exporting) :
    keepsLinks s (s.exportReroute k v u i p) := by
  unfold State.exportReroute
  split
  · exact keepsLinks_refl s
  · split
    · have hdrop : keepsLinks s (s.dropExec i) := keepsLinks_of_same rfl rfl
      refine keepsLinks_trans _ _ _ (keepsLinks_trans _ _ _ hdrop (keepsLinks_of_onlyRg ?_)) (State.abortTaskAt_keepsLinks ..)
      exact onlyRg_trans _ _ _ (State.poisonOutputs_only _ i) (State.closeRef_only _ _)
    · have hput : keepsLinks s ((s.unsend i.e.x.task i.e.x.dpi).putExport u i { p with path := v }) :=
        keepsLinks_trans _ _ _ (s.unsend_keepsLinks _ _) (keepsLinks_of_same rfl rfl)
      exact keepsLinks_trans _ _ _ (keepsLinks_trans _ _ _ hput (State.sendExport_keepsLinks ..)) (State.noteFor_keepsLinks ..)

theorem State.rerouteAll_keepsLinks (s : State) (k : Nat) (v : BitVec 2) : keepsLinks s (s.rerouteAll k v) := by
  have hslots := keepsLinks_foldl (f := fun s (q : Fin 8 × Fin 4) => s.reroute k v q.1 q.2)
    (fun s q => s.reroute_keepsLinks k v q.1 q.2) s.slotsInOrder s
  refine keepsLinks_trans _ _ _ hslots (keepsLinks_foldl (fun s x => ?_) _ _)
  split
  · exact s.exportReroute_keepsLinks ..
  · exact keepsLinks_refl s

theorem State.noteDead_keepsLinks (s : State) (en : BitVec 128) (v : BitVec 2) : keepsLinks s (s.noteDead en v) := by
  unfold State.noteDead
  split
  · exact keepsLinks_trans _ _ _ (s.note_keepsLinks ..) (State.emit_keepsLinks _ _)
  · exact keepsLinks_refl s

theorem State.moveSel_keepsLinks (s : State) (k n : Nat) : keepsLinks s (s.moveSel k n) := by
  rw [State.moveSel_eq]
  have hset : keepsLinks s (s.setSel k (s.pathFrom (s.fa.route.get k) (n + 1))) := keepsLinks_of_same rfl rfl
  exact keepsLinks_trans _ _ _ (keepsLinks_trans _ _ _ (keepsLinks_trans _ _ _ hset (State.note_keepsLinks ..))
    (State.noteDead_keepsLinks ..)) (State.rerouteAll_keepsLinks ..)

/-! #### A port that goes down (R324, R325) -/

/-- The fabric once a port of the chip is marked down. -/
def State.markDown (s : State) (q : Fin 64) : State := s.withFa { s.fa with portLive := s.fa.portLive &&& ~~~(1#64 <<< q.1) }

theorem State.losePort_of_idle {s : State} (h : s.job.st ≠ .running) (q : Fin 64) : s.losePort q = s.markDown q := by
  have hjob : (s.job.st == JobState.running) = false := by simpa using h
  simp only [State.losePort, State.withFa_job, hjob, Bool.false_eq_true, if_false, State.markDown]

theorem State.losePort_cases (s : State) (q : Fin 64) : s.losePort q = s.markDown q ∨
    s.losePort q = s.follow (((s.markDown q).entriesOn q.1).foldl (fun s p => s.moveSel p.1 p.2) (s.markDown q)) := by
  by_cases h : s.job.st = .running
  · refine .inr ?_
    simp only [State.losePort, State.withFa_job, h, beq_self_eq_true, if_true, State.markDown]
  · exact .inl (s.losePort_of_idle h q)

theorem State.losePort_keepsLinks (s : State) (q : Fin 64) : keepsLinks s (s.losePort q) := by
  have hmark : keepsLinks s (s.markDown q) := keepsLinks_of_same rfl rfl
  obtain h | h := s.losePort_cases q
  · rwa [h]
  · rw [h]
    have hmove := keepsLinks_foldl (f := fun s (p : Nat × Nat) => s.moveSel p.1 p.2) (fun s p => s.moveSel_keepsLinks p.1 p.2)
      ((s.markDown q).entriesOn q.1) (s.markDown q)
    generalize ((s.markDown q).entriesOn q.1).foldl (fun s p => s.moveSel p.1 p.2) (s.markDown q) = v at hmove ⊢
    exact keepsLinks_trans _ _ _ (keepsLinks_trans _ _ _ hmark hmove) (keepsLinks_of_same (s.follow_fp v) (s.follow_err v))

theorem State.follow_sendsOn (s t : State) : sendsOn t (s.follow t) := by
  obtain ⟨l, hl⟩ := s.follow_forecasts t
  exact ⟨l.map Msg.forecast, by simp [hl]⟩

/-- The port is marked down, whatever selections move then, and what was sent stays sent. -/
theorem State.losePort_effect (s : State) (q : Fin 64) :
    (s.losePort q).fa.portLive = (s.markDown q).fa.portLive ∧ sendsOn s (s.losePort q) := by
  obtain h | h := s.losePort_cases q
  · rw [h]
    exact ⟨rfl, sendsOn_of_out rfl⟩
  · rw [h]
    have hmove := foldl_only onlySel onlySel_refl onlySel_trans (fun s p => s.moveSel p.1 p.2)
      (fun s p => (s.moveSel_effect p.1 p.2).1) ((s.markDown q).entriesOn q.1) (s.markDown q)
    generalize ((s.markDown q).entriesOn q.1).foldl (fun s p => s.moveSel p.1 p.2) (s.markDown q) = v at hmove
    obtain ⟨hfa, -, -, -, hsent⟩ := hmove
    have hfollow : (s.follow v).fa = v.fa := (congrArg State.fa (s.follow_rest v) :)
    refine ⟨by rw [hfollow, hfa], sendsOn_trans _ _ _ (sendsOn_of_out rfl) (sendsOn_trans _ _ _ hsent (s.follow_sendsOn v))⟩

theorem State.markDown_portLive (s : State) (q : Fin 64) : (s.markDown q).fa.portLive.getLsbD q.1 = false := by
  simp [State.markDown]

/-- A port as it is when it goes down: its training and its rejections start again, and nothing waits for its schedule. -/
def Port.dropped (x : Port) : Port :=
  { x with up := false, good := 0, misses := 0, nak := false, rejects := 0, tagRejects := 0, absRun := 0, queue := [], egress := [] }

/-- The number of a port of this core on the chip. -/
def State.chipPort (s : State) (p : Fin 8) : Fin 64 := ⟨(8 * s.id.core.toNat + p.1) % 64, Nat.mod_lt _ (by decide)⟩

theorem State.dropPort_of_down {s : State} {p : Fin 8} (h : (s.port p).up = false) : s.dropPort p = s := by
  simp [State.dropPort, h]

theorem State.dropPort_of_up {s : State} {p : Fin 8} (h : (s.port p).up = true) : s.dropPort p =
    (((s.setPort p (s.port p).dropped).note Code.linkDown 0x43 (BitVec.ofNat 8 p.1) 0 noDpi 0).emit
      (.portDown (s.chipPort p).1)).losePort (s.chipPort p) := by
  simp only [State.dropPort, h, Bool.not_true, Bool.false_eq_true, if_false]
  rfl

/-- A link that was up goes down; every other link stays as it is, and the log notes it. -/
theorem State.dropPort_links {s : State} {p : Fin 8} (h : (s.port p).up = true) :
    keepsLinks (s.setPort p (s.port p).dropped) (s.dropPort p) ∧ noted (s.dropPort p) Code.linkDown := by
  rw [State.dropPort_of_up h]
  generalize s.setPort p (s.port p).dropped = u
  have hnoted := u.note_noted Code.linkDown 0x43 (BitVec.ofNat 8 p.1) 0 noDpi 0
  have hnote := u.note_keepsLinks Code.linkDown 0x43 (BitVec.ofNat 8 p.1) 0 noDpi 0
  generalize u.note Code.linkDown 0x43 (BitVec.ofNat 8 p.1) 0 noDpi 0 = v at hnoted hnote ⊢
  have hlose := keepsLinks_trans _ _ _ (v.emit_keepsLinks (.portDown (s.chipPort p).1)) (State.losePort_keepsLinks _ (s.chipPort p))
  exact ⟨keepsLinks_trans _ _ _ hnote hlose, noted_of_grows hnoted hlose.2⟩

theorem State.dropPort_grows (s : State) (p : Fin 8) : logGrows s (s.dropPort p) := by
  cases h : (s.port p).up with
  | false => rw [State.dropPort_of_down h]; exact logGrows_of_err rfl
  | true => exact logGrows_trans _ _ _ (logGrows_of_err rfl) (State.dropPort_links h).1.2

/-- The port itself as a drop leaves it. -/
theorem State.dropPort_port {s : State} {p : Fin 8} (h : (s.port p).up = true) :
    (s.port p).dropped.sameLink ((s.dropPort p).port p) := by
  simpa using (State.dropPort_links h).1.1 p

theorem State.dropPort_up (s : State) (p q : Fin 8) :
    ((s.dropPort p).port q).up = if q = p then false else (s.port q).up := by
  cases h : (s.port p).up with
  | false =>
    rw [State.dropPort_of_down h]
    split
    · next hq => rw [hq, h]
    · rfl
  | true =>
    rw [((State.dropPort_links h).1.1 q), State.port_setPort]
    split <;> rfl

end Sys2Proof.Machine
end

/-! ### Heartbeats, training and key epochs (O52) -/

section
namespace Sys2Proof.Machine

/-- The ports as a function of their number gives them. -/
theorem State.port_withFp_mapVec (s : State) (f : Fin 8 → Port) (p : Fin 8) :
    (s.withFp (mapVec f #v[0, 1, 2, 3, 4, 5, 6, 7])).port p = f p := by
  fin_cases p <;> rfl

/-- HEARTBEAT_TICK (R323). -/
theorem heartbeatTick_effect {s : State} (hlive : s.live = true) : ∃ t, exec .heartbeatTick s = .next t ∧ t.withFp s.fp = s ∧
    ∀ p, t.port p = if s.id.hasPort p.1 then { s.port p with hb := (s.port p).hb + 1 } else s.port p := by
  exact ⟨_, congrArg Host.Outcome.next (if_pos hlive), rfl, fun p => State.port_withFp_mapVec s _ p⟩

/-- HEARTBEAT_MISS: the fourth interval without a new heartbeat takes the link down (R323, R324). -/
theorem heartbeatMiss_effect {s : State} {p : Fin 8} (hport : s.id.hasPort p.1 = true) (hpat : (s.port p).pattern = 0) :
    ∃ t, exec (.heartbeatMiss p) s = .next t ∧
      ((s.port p).misses + 1 < 4 → t = s.setPort p { s.port p with misses := (s.port p).misses + 1, good := 0 }) ∧
      (4 ≤ (s.port p).misses + 1 → (t.port p).up = false ∧ ((s.port p).up = true → noted t Code.linkDown)) := by
  have hrun : s.missBeat p = if 4 ≤ (s.port p).misses + 1
      then (s.setPort p { s.port p with misses := (s.port p).misses + 1, good := 0 }).dropPort p
      else s.setPort p { s.port p with misses := (s.port p).misses + 1, good := 0 } := by
    simp [State.missBeat, hport, hpat]
  refine ⟨_, rfl, fun hfew => ?_, fun hmany => ?_⟩
  · rw [hrun, if_neg (by omega)]
  · rw [hrun, if_pos hmany, State.dropPort_up, if_pos rfl]
    exact ⟨rfl, fun hup => (State.dropPort_links (by simpa using hup)).2⟩

/-- PHY_UP_FALL: the link goes down, which is announced and logged (R324, R325, R447). -/
theorem phyUpFall_effect {s : State} {p : Fin 8} (hup : (s.port p).up = true) :
    ∃ t, exec (.phyUpFall p) s = .next t ∧ (t.port p).up = false ∧ (t.port p).phyUp = false ∧
      .portDown ((8 * s.id.core.toNat + p.1) % 64) ∈ t.out ∧ noted t Code.linkDown ∧
      t.fa.portLive.getLsbD ((8 * s.id.core.toNat + p.1) % 64) = false ∧
      (s.job.st ≠ .running → (∀ q, q ≠ p → t.port q = s.port q) ∧ t.iu = s.iu) := by
  have hrest : (s.setPort p { s.port p with phyUp := false }).withFp s.fp = s := rfl
  have hothers : ∀ q, q ≠ p → (s.setPort p { s.port p with phyUp := false }).port q = s.port q := fun q hq => by simp [hq]
  have hport : ((s.setPort p { s.port p with phyUp := false }).port p) = { s.port p with phyUp := false } := by simp
  refine ⟨_, rfl, ?_⟩
  generalize s.setPort p { s.port p with phyUp := false } = u at hrest hothers hport ⊢
  have huup : (u.port p).up = true := by rw [hport]; exact hup
  have hlink := State.dropPort_port huup
  have hnumber : (8 * s.id.core.toNat + p.1) % 64 = (u.chipPort p).1 := by rw [← hrest]; rfl
  have hidle : s.job.st ≠ .running → u.job.st ≠ .running := by rw [← hrest]; exact id
  have hiu : u.iu = s.iu := by rw [← hrest]; rfl
  refine ⟨by rw [hlink]; rfl, by rw [hlink, Port.dropped, hport], ?_, (State.dropPort_links huup).2, ?_, fun hjob => ?_⟩
  · rw [State.dropPort_of_up huup, hnumber]
    exact sendsOn_mem (State.losePort_effect _ _).2 (State.mem_out_emit _ _)
  · rw [State.dropPort_of_up huup, hnumber, (State.losePort_effect _ _).1]
    exact State.markDown_portLive _ _
  · have hnote := (u.setPort p (u.port p).dropped).note_only Code.linkDown 0x43 (BitVec.ofNat 8 p.1) 0 noDpi 0
    rw [State.dropPort_of_up huup]
    generalize (u.setPort p (u.port p).dropped).note Code.linkDown 0x43 (BitVec.ofNat 8 p.1) 0 noDpi 0 = v at hnote ⊢
    have ⟨_, _, _, hvjob⟩ := hnote
    have hvidle : (v.emit (.portDown (u.chipPort p).1)).job.st ≠ .running := by
      have hst : v.job.st = u.job.st := (congrArg Job.st hvjob).trans rfl
      exact hst ▸ hidle hjob
    rw [State.losePort_of_idle hvidle]
    refine ⟨fun q hq => ?_, (onlyNote_iu hnote).trans hiu⟩
    have hfp := State.port_of_fp (onlyNote_sameSender hnote).2 q
    exact hfp.trans (by simp [hq, hothers q hq])

/-- LINK_TRAINING_COMPLETE: a trained port comes up with its sequence and its counts at 0 (R324, R328). -/
theorem linkTrainingComplete_effect {s : State} {p : Fin 8} (hlive : s.live = true) (hport : s.id.hasPort p.1 = true)
    (hfence : s.portFenced p = false) (hpat : (s.port p).pattern = 0) (hphy : (s.port p).phyUp = true) (hdown : (s.port p).up = false)
    (hgood : 4 ≤ (s.port p).good) :
    ∃ t, exec (.linkTrainingComplete p) s = .next t ∧ (t.port p).up = true ∧ (t.port p).txSeq = 0 ∧ (t.port p).fcount = 0 ∧
      (t.port p).rxAny = false ∧ (t.port p).sent = [] ∧ (t.port p).applied = (s.port p).applied ∧ (t.port p).keys = (s.port p).keys ∧
      (∀ q, q ≠ p → t.port q = s.port q) ∧ t.withFp s.fp = s := by
  have hrun : exec (.linkTrainingComplete p) s = .next (s.setPort p (s.port p).start) := by
    simp [exec, execLinkTrainingComplete, hlive, hport, hfence, hpat, hphy, hdown, hgood]
  refine ⟨_, hrun, ?_, ?_, ?_, ?_, ?_, ?_, ?_, fun q hq => by simp [hq], rfl⟩
  all_goals simp [Port.start]

/-- KEY_EPOCH_FLIP at the start of a link period from FCOUNT 64 on (R328, R474). -/
theorem keyEpochFlip_due {s : State} {p : Fin 8} (hwant : epochOf (s.port p).applied.ctrl ≠ (s.port p).txEpoch)
    (hcount : 64 ≤ (s.port p).fcount.toNat) (hstart : periodFrame (s.port p).fcount = 0) :
    exec (.keyEpochFlip p) s = .next (s.setPort p { s.port p with
      txEpoch := epochOf (s.port p).applied.ctrl, txSeq := 0, fcount := 0 }) := by
  simp [exec, execKeyEpochFlip, hwant, hcount, hstart]

/-- KEY_EPOCH_FLIP waits before that. -/
theorem keyEpochFlip_waits {s : State} {p : Fin 8} (h : (s.port p).fcount.toNat < 64 ∨ periodFrame (s.port p).fcount ≠ 0) :
    exec (.keyEpochFlip p) s = .next s := by
  have hnot : ¬ (64 ≤ (s.port p).fcount.toNat ∧ periodFrame (s.port p).fcount = 0) := by omega
  simp [exec, execKeyEpochFlip, and_assoc, hnot]

/-- KEY_EXPIRED: a count that would reach 2^48 takes the link down (R328). -/
theorem keyExpired_effect {s : State} {p : Fin 8} (hup : (s.port p).up = true) (hcount : 2 ^ 48 ≤ (s.port p).fcount.toNat + 1) :
    ∃ t, exec (.keyExpired p) s = .next t ∧ (t.port p).up = false ∧ noted t Code.keyExpired := by
  have hrun : s.expireKey p = (s.note Code.keyExpired 0x43 (BitVec.ofNat 8 p.1) 0 noDpi 0).dropPort p := by
    simp only [State.expireKey, hup, hcount, decide_true, Bool.and_self, if_true]
  refine ⟨_, rfl, ?_, ?_⟩
  · rw [hrun, State.dropPort_up, if_pos rfl]
  · rw [hrun]
    exact noted_of_grows (s.note_noted Code.keyExpired 0x43 (BitVec.ofNat 8 p.1) 0 noDpi 0) (State.dropPort_grows _ p)

/-- Settles O52: each event of a link by its own effect. -/
theorem linkEvents : Obligations.LinkEvents :=
  ⟨fun _ => heartbeatTick_effect, fun _ _ => heartbeatMiss_effect, fun _ _ => phyUpFall_effect,
    fun _ _ => linkTrainingComplete_effect, fun _ _ => keyEpochFlip_due, fun _ _ => keyEpochFlip_waits,
    fun _ _ => keyExpired_effect⟩

end Sys2Proof.Machine
end

/-! ### The routes of a message (O46) -/

section
namespace Sys2Proof.Machine

theorem exec_barrierMessage {s : State} (hlive : s.live = true) (m : BarrierHead) (ec : BitVec 6) (inc : BitVec 8) :
    exec (.barrierMessage m ec inc) s = .next (s.routeMsg (.barrier m ec inc)) :=
  congrArg Host.Outcome.next (if_pos hlive)

theorem State.routeMsg_here {s : State} {m : FabMsg} (h : m.chip = s.id.chip) : s.routeMsg m = s.deliverMsg m :=
  if_pos (by simpa using h)

/-- A notice that brings no hint sends nothing (R397). -/
theorem State.out_noteFor {code : Code} {unit : BitVec 8} (h : hintable code unit = false) (s : State) (task : BitVec 2)
    (sub : BitVec 8) (loc : W32) (dpi detail : W64) : (s.noteFor task code unit sub loc dpi detail).out = s.out := by
  simp only [State.noteFor, h, Bool.false_and, Bool.false_eq_true, if_false, State.out_addLog]

/-- A message that is discarded is logged, and nothing else happens (R320). -/
theorem State.discardMsg_effect (s : State) :
    logged s s.discardMsg Code.msgDiscarded ∧ s.discardMsg.out = s.out ∧ s.discardMsg.iu = s.iu ∧ s.discardMsg.fp = s.fp := by
  have hnote := s.note_only Code.msgDiscarded 0x43 0 0 noDpi 0
  exact ⟨s.noteFor_logged, s.out_noteFor (by decide) 0 0 0 noDpi 0, onlyNote_iu hnote, (onlyNote_sameSender hnote).2⟩

/-- BARRIER for this chip: to this core's counter, to another core of the membership, or nowhere (R320). -/
theorem barrierMessage_here {s : State} {m : BarrierHead} {ec : BitVec 6} {inc : BitVec 8} (hlive : s.live = true)
    (hchip : chipOf m.dest = s.id.chip) :
    let k := kindOf m.dest
    (k = 1 + s.id.core.toNat → s.rep.coreFenced = false →
      ∃ t, exec (.barrierMessage m ec inc) s = .next t ∧ t.ec ec = s.ec ec + inc.setWidth 16 ∧
        (∀ i, i ≠ ec → t.ec i = s.ec i) ∧ samePdSf s t ∧ t.withIu s.iu = s) ∧
    (k = 1 + s.id.core.toNat → s.rep.coreFenced = true → exec (.barrierMessage m ec inc) s = .next s) ∧
    (k ≠ 1 + s.id.core.toNat → 1 ≤ k → k ≤ 8 → s.sol.memb.getLsbD (k - 1) = true →
      exec (.barrierMessage m ec inc) s = .next (s.emit (.routeMsg (k - 1) (.barrier m ec inc)))) ∧
    (k ≠ 1 + s.id.core.toNat → k = 0 ∨ 8 < k ∨ s.sol.memb.getLsbD (k - 1) = false →
      ∃ t, exec (.barrierMessage m ec inc) s = .next t ∧ logged s t Code.msgDiscarded ∧ t.out = s.out ∧ t.iu = s.iu) := by
  have hrun := exec_barrierMessage hlive m ec inc
  rw [State.routeMsg_here (m := .barrier m ec inc) hchip, State.deliverMsg] at hrun
  dsimp only at hrun ⊢
  rw [hrun]
  refine ⟨fun hown hfence => ?_, fun hown hfence => ?_, fun hother hlo hhi hin => ?_, fun hother hout => ?_⟩
  · rw [if_pos hown, hfence]
    refine ⟨_, rfl, ?_, fun i hi => ?_, ⟨rfl, rfl⟩, rfl⟩
    · exact (s.ec_addEc ec ec _).trans (if_pos rfl)
    · exact (s.ec_addEc ec i _).trans (if_neg hi)
  · rw [if_pos hown, hfence]
    rfl
  · rw [if_neg hother, if_pos ⟨hlo, hhi, hin⟩]
  · have hnot : ¬ (1 ≤ kindOf m.dest ∧ kindOf m.dest ≤ 8 ∧ s.sol.memb.getLsbD (kindOf m.dest - 1) = true) := by
      rintro ⟨hlo, hhi, hin⟩
      obtain h | h | h := hout
      · omega
      · omega
      · rw [h] at hin
        cases hin
    rw [if_neg hother, if_neg hnot]
    obtain ⟨hlog, hout, hiu, -⟩ := s.discardMsg_effect
    exact ⟨_, rfl, hlog, hout, hiu⟩

/-- A message for another chip waits at its egress port, goes to the core that has it, or finds no live path (R320). -/
theorem State.routeMsg_away {s : State} {m : FabMsg} {k : Nat} {e : BitVec 128} (hchip : m.chip ≠ s.id.chip)
    (hroute : s.routeFor m.chip = some (k, e)) :
    s.routeMsg m = if s.selNow k e = 3#2 then s.discardMsg
      else
        let q := routePort e (s.selNow k e).toNat
        let n : Fin 8 := ⟨q % 8, Nat.mod_lt _ (by decide)⟩
        if q / 8 = s.id.core.toNat then s.setPort n { s.port n with msgs := (s.port n).msgs ++ [m] }
        else s.emit (.routeMsg (q / 8) m) := by
  rw [State.routeMsg, if_neg (by simpa using hchip), hroute]

/-- BARRIER for another chip (R320). -/
theorem barrierMessage_away {s : State} {m : BarrierHead} {ec : BitVec 6} {inc : BitVec 8} {k : Nat} {e : BitVec 128}
    (hlive : s.live = true) (hchip : chipOf m.dest ≠ s.id.chip) (hroute : s.routeFor (chipOf m.dest) = some (k, e)) :
    let sel := s.selNow k e
    let q := routePort e sel.toNat
    ∃ t, exec (.barrierMessage m ec inc) s = .next t ∧ t.iu = s.iu ∧
      (sel = 3#2 → logged s t Code.msgDiscarded ∧ t.out = s.out ∧ t.fp = s.fp) ∧
      (sel ≠ 3#2 → q / 8 = s.id.core.toNat → t.withFp s.fp = s ∧
        ∀ p : Fin 8, t.port p = if p.1 = q % 8 then { s.port p with msgs := (s.port p).msgs ++ [.barrier m ec inc] } else s.port p) ∧
      (sel ≠ 3#2 → q / 8 ≠ s.id.core.toNat → t = s.emit (.routeMsg (q / 8) (.barrier m ec inc))) := by
  have hrun := exec_barrierMessage hlive m ec inc
  rw [State.routeMsg_away (m := .barrier m ec inc) hchip hroute] at hrun
  dsimp only at hrun ⊢
  generalize s.selNow k e = sel at hrun ⊢
  by_cases hdead : sel = 3#2
  · rw [if_pos hdead] at hrun
    obtain ⟨hlog, hout, hiu, hfp⟩ := s.discardMsg_effect
    exact ⟨_, hrun, hiu, fun _ => ⟨hlog, hout, hfp⟩, fun h => absurd hdead h, fun h => absurd hdead h⟩
  · rw [if_neg hdead] at hrun
    by_cases hown : routePort e sel.toNat / 8 = s.id.core.toNat
    · rw [if_pos hown] at hrun
      refine ⟨_, hrun, rfl, fun h => absurd h hdead, fun _ _ => ⟨rfl, fun p => ?_⟩, fun _ h => absurd hown h⟩
      by_cases hp : p.1 = routePort e sel.toNat % 8
      · have hn : p = ⟨routePort e sel.toNat % 8, Nat.mod_lt _ (by decide)⟩ := Fin.ext hp
        rw [State.port_setPort, if_pos hn, if_pos hp, hn]
      · have hn : p ≠ ⟨routePort e sel.toNat % 8, Nat.mod_lt _ (by decide)⟩ := fun h => hp (congrArg Fin.val h)
        rw [State.port_setPort, if_neg hn, if_neg hp]
    · rw [if_neg hown] at hrun
      exact ⟨_, hrun, rfl, fun h => absurd h hdead, fun _ h => absurd h hown, fun _ _ => rfl⟩

/-- CTRL for this chip (R319, R320). -/
theorem ctrlMessage_here {s : State} (hlive : s.live = true) (payload : BitVec 128) :
    exec (.ctrlMessage payload s.id.chip) s = .next (s.emit (.toMgmt (.ctrl s.id.chip payload))) := by
  have hrun : exec (.ctrlMessage payload s.id.chip) s = .next (s.routeMsg (.ctrl s.id.chip payload)) :=
    congrArg Host.Outcome.next (if_pos hlive)
  rw [hrun, State.routeMsg_here rfl]
  rfl

end Sys2Proof.Machine
end

/-! ### What a frame carries (O46) -/

section
namespace Sys2Proof.Machine

/-! #### The control flit (R312) -/

section
variable (c : CtlFields) (crc : W32) (tag m0 m1 : FabUnit)

theorem flitBit_getLsbD (b : Bool) {k i : Nat} (hi : i < 512) : (flitBit b k).getLsbD i = (b && decide (i = k)) := by
  by_cases h : i = k
  · subst h
    cases b <;> simp [flitBit, hi]
  · rw [getLsbD_flitBit b k i h]
    simp [h]

/-- Each bit of a control flit is that of the field whose place it is. -/
theorem CtlFields.getLsbD_flit {i : Nat} (hi : i < 512) :
    (c.flit crc tag m0 m1).getLsbD i = (c.fseq.getLsbD i || (decide (16 ≤ i) && c.ackSeq.getLsbD (i - 16)) ||
      (c.nak && decide (i = 28)) || (c.aEpoch && decide (i = 29)) || (decide (32 ≤ i) && crc.getLsbD (i - 32)) ||
      (decide (64 ≤ i) && c.link.getLsbD (i - 64)) || (decide (128 ≤ i) && tag.getLsbD (i - 128)) ||
      (decide (256 ≤ i) && m0.getLsbD (i - 256)) || (decide (384 ≤ i) && m1.getLsbD (i - 384))) := by
  have hlt (n : Nat) : i - n < 512 := by omega
  simp only [CtlFields.flit, BitVec.getLsbD_or, flitBit_getLsbD _ hi, BitVec.getLsbD_shiftLeft, BitVec.getLsbD_setWidth, hi, hlt,
    decide_true, Bool.true_and, ← decide_not, Nat.not_lt]

/-- Each bit of LINK_STATE. -/
theorem CtlFields.getLsbD_link {i : Nat} (hi : i < 64) :
    c.link.getLsbD i = (c.idle.getLsbD i || (decide (8 ≤ i) && c.hb.getLsbD (i - 8)) || (c.epoch && decide (i = 16))) := by
  have hlt (n : Nat) : i - n < 64 := by omega
  have hepoch : ((if c.epoch then 1#64 else 0) <<< 16).getLsbD i = (c.epoch && decide (i = 16)) := by
    by_cases h : i = 16
    · subst h; cases c.epoch <;> rfl
    · cases c.epoch
      · simp
      · rw [if_pos rfl, BitVec.getLsbD_shiftLeft, BitVec.getLsbD_one]; simp [h]; omega
  simp only [CtlFields.link, BitVec.getLsbD_or, hepoch, BitVec.getLsbD_shiftLeft, BitVec.getLsbD_setWidth, hi, hlt,
    decide_true, Bool.true_and, ← decide_not, Nat.not_lt]

/-- A field of a control flit is read bit by bit. -/
theorem CtlFields.fld_flit {n lo : Nat} {v : BitVec n}
    (h : ∀ j, j < n → (c.flit crc tag m0 m1).getLsbD (lo + j) = v.getLsbD j) : fld (c.flit crc tag m0 m1) lo n = v := by
  refine BitVec.eq_of_getLsbD_eq fun j hj => ?_
  rw [← h j hj]
  simp [fld, hj]

/-- What a control flit carries is what was put into it. -/
theorem CtlFields.fields_flit :
    let f := c.flit crc tag m0 m1
    (fld f 0 12 = c.fseq ∧ fld f 16 12 = c.ackSeq ∧ bit f 28 = c.nak ∧ bit f 29 = c.aEpoch) ∧
    (fld f 64 8 = c.idle ∧ fld f 72 8 = c.hb ∧ bit f 80 = c.epoch) ∧
    fld f 128 128 = tag ∧ fld f 256 128 = m0 ∧ fld f 384 128 = m1 := by
  dsimp only
  refine ⟨⟨c.fld_flit crc tag m0 m1 fun j hj => ?_, c.fld_flit crc tag m0 m1 fun j hj => ?_, ?_, ?_⟩,
    ⟨c.fld_flit crc tag m0 m1 fun j hj => ?_, c.fld_flit crc tag m0 m1 fun j hj => ?_, ?_⟩,
    c.fld_flit crc tag m0 m1 fun j hj => ?_, c.fld_flit crc tag m0 m1 fun j hj => ?_,
    c.fld_flit crc tag m0 m1 fun j hj => ?_⟩
  all_goals
    simp (disch := omega) only [bit, CtlFields.getLsbD_flit, CtlFields.getLsbD_link, BitVec.getLsbD_of_ge, decide_eq_true,
      decide_eq_false, decide_true, Nat.sub_sub, Nat.reduceAdd, Nat.add_sub_cancel_left, Nat.zero_add, Bool.and_false,
      Bool.false_and, Bool.or_false, Bool.false_or, Bool.and_true, Bool.true_and]

end

/-! #### The flits of a frame (R309) -/

theorem flitUnits_flitOf (us : List FabUnit) :
    flitUnits (flitOf us) = [us.getD 0 0, us.getD 1 0, us.getD 2 0, us.getD 3 0] := by
  simp only [flitUnits, flitOf]
  generalize us.getD 0 0 = a
  generalize us.getD 1 0 = b
  generalize us.getD 2 0 = c
  generalize us.getD 3 0 = d
  have hbit (n lo : Nat) (i : Nat) (x : BitVec 512) : (fld x lo n).getLsbD i = (decide (i < n) && x.getLsbD (lo + i)) := by
    simp [fld]
  refine congrArg₂ _ ?_ (congrArg₂ _ ?_ (congrArg₂ _ ?_ (congrArg (fun x => [x]) ?_)))
  all_goals
    refine BitVec.eq_of_getLsbD_eq fun j hj => ?_
    simp (disch := omega) only [hbit, hj, decide_true, decide_eq_true, decide_eq_false, BitVec.getLsbD_or, BitVec.getLsbD_shiftLeft,
      BitVec.getLsbD_setWidth, BitVec.getLsbD_of_ge, Bool.true_and, Bool.not_true, Bool.not_false, Bool.false_and, Bool.and_false,
      Bool.or_false, Bool.false_or, Nat.zero_add, Nat.add_sub_cancel_left]

theorem take_four {l : List FabUnit} (h : 4 ≤ l.length) : l.take 4 = [l.getD 0 0, l.getD 1 0, l.getD 2 0, l.getD 3 0] := by
  match l, h with
  | _ :: _ :: _ :: _ :: _, _ => rfl

/-- The data flits hold the units in their order. -/
theorem units_dataFlits {us : List FabUnit} (n : Nat) (h : 4 * n ≤ us.length) :
    ((List.range n).map fun f => flitOf (us.drop (4 * f))).flatMap flitUnits = us.take (4 * n) := by
  induction n with
  | zero => simp
  | succ n ih =>
    have hfour : 4 ≤ (us.drop (4 * n)).length := by rw [List.length_drop]; omega
    rw [List.range_succ, List.map_append, List.flatMap_append, ih (by omega), Nat.mul_succ, List.take_add, take_four hfour]
    simp [flitUnits_flitOf]

theorem dataFlits_length (us : List FabUnit) : (dataFlits us).length = 15 := by simp [dataFlits]

/-! #### Sealed frames (R312, R328) -/

/-- A frame as it is on the link, with nothing that the receiver's own plan adds. -/
def sentFrame (fs : List (BitVec 512)) : Frame := ⟨fs, false, false, [], []⟩

/-- A sealed frame has sixteen flits, its control flit carries its fields, and its CRC holds; without encryption its units are those that
were put into it. -/
theorem Port.sealFrame_effect (x : Port) (c : CtlFields) (us : List FabUnit) (m0 m1 : FabUnit) :
    let f := sentFrame (x.sealFrame c us m0 m1)
    f.flits.length = 16 ∧ f.crcBad = false ∧ (f.fseq = c.fseq ∧ f.ackSeq = c.ackSeq ∧ f.nak = c.nak ∧ f.aEpoch = c.aEpoch) ∧
    (f.idle = c.idle ∧ f.hb = c.hb ∧ f.keyEpoch = c.epoch) ∧
    (encTx x.applied.ctrl = false → us.length = 60 → f.tag = 0 ∧ f.rawUnits = us ++ [m0, m1]) := by
  obtain ⟨data, crc, tag, n0, n1, hseal, hdata, hcrc, hplain⟩ : ∃ data crc tag n0 n1,
      x.sealFrame c us m0 m1 = data ++ [c.flit crc tag n0 n1] ∧ data.length = 15 ∧ crc = frameCrc data (c.flit 0 tag n0 n1) ∧
      (encTx x.applied.ctrl = false → us.length = 60 → tag = 0 ∧ data.flatMap flitUnits = us ∧ n0 = m0 ∧ n1 = m1) := by
    refine ⟨_, _, _, _, _, rfl, dataFlits_length _, rfl, fun hoff hlen => ?_⟩
    simp [hoff, hlen, dataFlits, units_dataFlits, List.take_of_length_le]
  have hctl : (sentFrame (x.sealFrame c us m0 m1)).ctl = c.flit crc tag n0 n1 := by
    simp [Frame.ctl, sentFrame, hseal, hdata]
  obtain ⟨hword, hlink, htag, hm0, hm1⟩ := c.fields_flit crc tag n0 n1
  dsimp only
  refine ⟨by simp [sentFrame, hseal, hdata], ?_, ?_, ?_, fun hoff hlen => ?_⟩
  · rw [sentFrame, hseal, hcrc]
    exact crcBad_sealed c data tag n0 n1 hdata false false [] []
  · simpa only [Frame.fseq, Frame.ackSeq, Frame.nak, Frame.aEpoch, hctl] using hword
  · simpa only [Frame.idle, Frame.hb, Frame.keyEpoch, hctl] using hlink
  · obtain ⟨rfl, hunits, rfl, rfl⟩ := hplain hoff hlen
    refine ⟨by simpa only [Frame.tag, hctl] using htag, ?_⟩
    rw [Frame.rawUnits, hctl, hm0, hm1, sentFrame, hseal, List.take_append_of_le_length hdata.ge,
      List.take_of_length_le hdata.le, hunits]

/-! #### The units that a schedule fills (R313, R315) -/

/-- Every unit of a frame is filled once. -/
theorem fillUnit_length (sched : List W64) (core : BitVec 3) (v : Nat) (a : Filling) :
    (fillUnit sched core v a).units.length = a.units.length + 1 := by
  unfold fillUnit
  dsimp only
  split
  · split <;> simp
  · split
    · split <;> simp
    · simp

theorem Port.fill_length (x : Port) (core : BitVec 3) : (x.fill core).units.length = 60 := by
  have hfold (l : List Nat) (a : Filling) :
      (l.foldl (fun a u => fillUnit x.sched core (60 * periodFrame x.fcount + u) a) a).units.length = a.units.length + l.length := by
    induction l generalizing a with
    | nil => rfl
    | cons u l ih => rw [List.foldl_cons, ih, fillUnit_length, List.length_cons]; omega
  exact (hfold _ _).trans (by simp)

end Sys2Proof.Machine
end

/-! ### Frames that a port sends (O46) -/

section
namespace Sys2Proof.Machine

/-! #### What happens before a frame (R314, R315, R346, R474) -/

/-- No message leaves the message port of a core that is not live, and none of an empty one (R346). -/
theorem State.passMessages_eq {s : State} (h : s.live = true → s.cc.msgQ = []) : s.passMessages = s := by
  unfold State.passMessages
  cases hlive : s.live with
  | true => rw [h hlive]; rfl
  | false =>
    have hpass : s.passMessage = s := by
      unfold State.passMessage
      split
      · rfl
      · rw [hlive]; rfl
    induction s.cc.msgQ with
    | nil => rfl
    | cons m l ih => rw [List.foldl_cons, hpass, ih]

/-- The packets of other owners join those that wait at the port (R315). -/
theorem State.foldl_queueUnits (s : State) (p : Fin 8) (l : List OutPacket) :
    l.foldl (fun s o => s.queueUnits p o) s = s.setPort p { s.port p with queue := (s.port p).queue ++ l } := by
  induction l generalizing s with
  | nil =>
    rw [List.append_nil]
    exact (s.setPort_port p).symm
  | cons o l ih =>
    rw [List.foldl_cons, ih]
    simp [State.queueUnits, State.setPort_setPort]

theorem State.foldl_queueUnits_effect (s : State) (p : Fin 8) (l : List OutPacket) :
    let u := l.foldl (fun s o => s.queueUnits p o) s
    u.withFp s.fp = s ∧ (∀ q, q ≠ p → u.port q = s.port q) ∧ u.port p = { s.port p with queue := (s.port p).queue ++ l } := by
  rw [s.foldl_queueUnits p l]
  exact ⟨rfl, fun q hq => by simp [hq], by simp⟩

/-- A link period's start changes the schedule and the pattern in force alone. -/
theorem Port.atPeriod_eq (x : Port) : x.atPeriod = { x with sched := x.atPeriod.sched, pat := x.atPeriod.pat, lfsr := x.atPeriod.lfsr } := by
  unfold Port.atPeriod
  split <;> rfl

/-- A port that is up stays in the pattern mode it is in. -/
theorem Port.atPeriod_pattern_of_up {x : Port} (h : x.up = true) : x.atPeriod.pattern = x.pattern := by
  unfold Port.atPeriod
  split
  · simp [Port.takePattern, Port.pattern, h]
  · rfl

/-- A down port takes PATTERN of its control word at the start of a link period (R474). -/
theorem Port.atPeriod_pattern_of_down {x : Port} (h : x.up = false) (hstart : periodFrame x.fcount = 0) :
    x.atPeriod.pattern = patternOf x.applied.ctrl := by
  simp [Port.atPeriod, hstart, Port.takePattern, Port.pattern, h, patternOf]

/-- A frame of a port whose count of frames does not expire (R323, R324, R329, R398, R400). -/
theorem State.sendFrame_eq {s : State} {p : Fin 8} (hpower : s.powered = true) (hmay : s.id.mayHavePort p.1 = true)
    (hcount : (s.port p).up = true → (s.port p).fcount.toNat + 1 < 2 ^ 48) :
    let x := (s.port p).atPeriod
    let u := s.setPort p x
    s.sendFrame p = if x.pattern ≠ 0 then u.sendPattern p
      else if (s.port p).up = false ∨ s.live = false ∨ s.portFenced p = true
        then u.sendAbsent p (if s.live then (s.port p).hb else 0)
        else u.sendRunning p := by
  have hkey : s.expireKey p = s := by
    rw [State.expireKey, if_neg]
    rw [Bool.and_eq_true, decide_eq_true_eq]
    rintro ⟨hup, hover⟩
    have := hcount hup
    omega
  have hx := (s.port p).atPeriod_eq
  have hup : (s.port p).atPeriod.up = (s.port p).up := by rw [hx]
  have hhb : (s.port p).atPeriod.hb = (s.port p).hb := by rw [hx]
  have hlive : (s.setPort p (s.port p).atPeriod).live = s.live := rfl
  have hfence : (s.setPort p (s.port p).atPeriod).portFenced p = s.portFenced p := rfl
  unfold State.sendFrame
  dsimp only
  simp only [hkey, hpower, hmay, State.port_setPort, if_true, hup, hhb, hlive, hfence]
  simp only [bne_iff_ne, ne_eq, Bool.or_eq_true, Bool.not_eq_true', Bool.not_true, Bool.or_self, Bool.false_eq_true, if_false, or_assoc]

/-! #### Sending (R309, R312, R319, R322 to R324, R329) -/

/-- The kept frames are the last 40 at most, and the last of them is the one sent last (R322). -/
theorem keepFrames_append (l : List SentFrame) (f : SentFrame) :
    (keepFrames (l ++ [f])).length ≤ 40 ∧ (keepFrames (l ++ [f])).getLast? = some f := by
  have hlen : (keepFrames (l ++ [f])).length = l.length + 1 - (l.length + 1 - 40) := by simp [keepFrames]
  refine ⟨by omega, ?_⟩
  rw [keepFrames, List.getLast?_drop, if_neg (by simp)]
  simp

/-- Port `p`, as the frame finds it in `x`, sends its next frame `f` with what its schedule and its messages put into it, and keeps it
(R309 to R315, R319, R322). -/
def sendsRunning (s t : State) (p : Fin 8) (x : Port) (f : Frame) : Prop :=
  let m := fillSlot x.msgs
  let a := x.fill s.id.core
  t.out = s.out ++ [.frame p f.flits] ∧ f.flits.length = 16 ∧
  f.fseq = x.txSeq ∧ f.ackSeq = x.rxLast ∧ f.nak = x.nak ∧ f.aEpoch = x.rxEpoch ∧ f.idle = 0 ∧ f.hb = x.hb ∧
  f.keyEpoch = x.txEpoch ∧ f.crcBad = false ∧
  (encTx x.applied.ctrl = false → f.tag = 0 ∧ f.rawUnits = a.units ++ [msgUnit m.1 0, msgUnit m.1 1]) ∧
  m.1.length ≤ 2 ∧ a.units.length = 60 ∧
  t.port p = { x with
    txSeq := x.txSeq + 1, fcount := x.fcount + 1, msgs := m.2, queue := a.queue, egress := a.egress, sent := (t.port p).sent } ∧
  (t.port p).sent.length ≤ 40 ∧ (t.port p).sent.getLast? = some ⟨x.txSeq, x.txEpoch, f.flits, a.keys⟩ ∧
  (∀ q, q ≠ p → t.port q = s.port q) ∧ (t.withFp s.fp).withOut s.out = s

theorem State.port_emit (s : State) (m : Msg) (q : Fin 8) : (s.emit m).port q = s.port q := rfl

theorem State.sendRunning_effect (s : State) (p : Fin 8) : ∃ f, sendsRunning s (s.sendRunning p) p (s.port p) f := by
  obtain ⟨hlen, hcrc, ⟨hseq, hack, hnak, hae⟩, ⟨hidle, hhb, hke⟩, hplain⟩ := (s.port p).sealFrame_effect
    ((s.port p).fields 0 (s.port p).hb) ((s.port p).fill s.id.core).units (msgUnit (fillSlot (s.port p).msgs).1 0)
    (msgUnit (fillSlot (s.port p).msgs).1 1)
  have hfill := (s.port p).fill_length s.id.core
  obtain ⟨hkept, hlast⟩ := keepFrames_append (s.port p).sent ⟨(s.port p).txSeq, (s.port p).txEpoch, (s.port p).sealFrame
    ((s.port p).fields 0 (s.port p).hb) ((s.port p).fill s.id.core).units (msgUnit (fillSlot (s.port p).msgs).1 0)
    (msgUnit (fillSlot (s.port p).msgs).1 1), ((s.port p).fill s.id.core).keys⟩
  unfold State.sendRunning
  refine ⟨sentFrame _, rfl, hlen, hseq, hack, hnak, hae, hidle, hhb, hke, hcrc, fun hoff => hplain hoff hfill,
    List.length_take_le _ _, hfill, ?_, ?_, ?_, fun q hq => ?_, rfl⟩
  · rw [State.port_emit, State.port_setPort, if_pos rfl]
    rfl
  · rw [State.port_emit, State.port_setPort, if_pos rfl]
    exact hkept
  · rw [State.port_emit, State.port_setPort, if_pos rfl]
    exact hlast
  · rw [State.port_emit, State.port_setPort, if_neg hq]

/-- What the port of one state sends it sends from another that differs in that port alone. -/
theorem sendsRunning_of_rest {s u t : State} {p : Fin 8} {x : Port} {f : Frame} (hrest : u.withFp s.fp = s)
    (hothers : ∀ q, q ≠ p → u.port q = s.port q) (h : sendsRunning u t p x f) : sendsRunning s t p x f := by
  obtain ⟨hid, hout⟩ : u.id = s.id ∧ u.out = s.out := by
    rw [← hrest]
    exact ⟨rfl, rfl⟩
  unfold sendsRunning at h ⊢
  rw [hid, hout] at h
  obtain ⟨hsent, hlen, hseq, hack, hnak, hae, hidle, hhb, hke, hcrc, hplain, htwo, hfill, hport, hkept, hlast, hq, hframe⟩ := h
  exact ⟨hsent, hlen, hseq, hack, hnak, hae, hidle, hhb, hke, hcrc, hplain, htwo, hfill, hport, hkept, hlast,
    fun q hne => (hq q hne).trans (hothers q hne), (congrArg (fun w : State => w.withFp s.fp) hframe).trans hrest⟩

/-- CONTROL_SLOT_SEND of a live port that is up (R309, R312, R319, R322). -/
theorem controlSlotSend_running {s : State} {p : Fin 8} {handed : List OutPacket} (hpower : s.powered = true) (hlive : s.live = true)
    (hmay : s.id.mayHavePort p.1 = true) (hmsgs : s.cc.msgQ = []) (hup : (s.port p).up = true) (hpat : (s.port p).pattern = 0)
    (hcount : (s.port p).fcount.toNat + 1 < 2 ^ 48) (hfence : s.portFenced p = false) :
    ∃ t f, exec (.controlSlotSend ⟨p, handed⟩) s = .next t ∧
      sendsRunning s t p ((handed.foldl (fun s o => s.queueUnits p o) s).port p).atPeriod f := by
  have hrun : exec (.controlSlotSend ⟨p, handed⟩) s = .next ((handed.foldl (fun s o => s.queueUnits p o) s).sendFrame p) := by
    rw [exec, execControlSlotSend, State.passMessages_eq fun _ => hmsgs]
  obtain ⟨hrest, hothers, hport⟩ := s.foldl_queueUnits_effect p handed
  generalize handed.foldl (fun s o => s.queueUnits p o) s = u at hrun hrest hothers hport ⊢
  have huup : (u.port p).up = true := by rw [hport]; exact hup
  have hupat : (u.port p).pattern = 0 := by rw [hport]; exact hpat
  have hucount : (u.port p).fcount.toNat + 1 < 2 ^ 48 := by rw [hport]; exact hcount
  obtain ⟨hupower, huid, hulive, hufence⟩ : u.powered = s.powered ∧ u.id = s.id ∧ u.live = s.live ∧
      u.portFenced p = s.portFenced p := by
    rw [← hrest]
    exact ⟨rfl, rfl, rfl, rfl⟩
  rw [State.sendFrame_eq (hupower.trans hpower) (huid ▸ hmay) fun _ => hucount,
    if_neg (not_not.mpr ((Port.atPeriod_pattern_of_up huup).trans hupat)),
    if_neg (by simp [huup, hulive, hlive, hufence, hfence])] at hrun
  obtain ⟨f, hsends⟩ := (u.setPort p (u.port p).atPeriod).sendRunning_effect p
  have hx : (u.setPort p (u.port p).atPeriod).port p = (u.port p).atPeriod := by simp
  rw [hx] at hsends
  exact ⟨_, f, hrun, sendsRunning_of_rest (u := u.setPort p _) hrest (fun q hq => by simp [hq, hothers q hq]) hsends⟩

/-- CONTROL_SLOT_SEND of a port that no other owner hands packets. -/
theorem exec_controlSlotSend_alone {s : State} (hmsgs : s.live = true → s.cc.msgQ = []) (p : Fin 8) :
    exec (.controlSlotSend ⟨p, []⟩) s = .next (s.sendFrame p) := by
  rw [exec, execControlSlotSend, State.passMessages_eq hmsgs]
  rfl

/-- CONTROL_SLOT_SEND of a port that is down or fenced, or of a core that is not live (R323, R324, R398, R400). -/
theorem controlSlotSend_absent {s : State} {p : Fin 8} (hpower : s.powered = true) (hmay : s.id.mayHavePort p.1 = true)
    (hpat : (s.port p).atPeriod.pattern = 0) (hmsgs : s.live = true → s.cc.msgQ = [])
    (hcount : (s.port p).up = true → (s.port p).fcount.toNat + 1 < 2 ^ 48)
    (hdown : (s.port p).up = false ∨ s.live = false ∨ s.portFenced p = true) :
    ∃ t, ∃ f : Frame, exec (.controlSlotSend ⟨p, []⟩) s = .next t ∧ t.out = s.out ++ [.frame p f.flits] ∧ f.flits.length = 16 ∧
      f.idle = 0x5A ∧ f.fseq = (s.port p).txSeq ∧ f.hb = (if s.live then (s.port p).hb else 0) ∧ f.crcBad = false ∧
      (encTx (s.port p).applied.ctrl = false → f.rawUnits = List.replicate 62 0) ∧
      t.port p = { (s.port p).atPeriod with txSeq := (s.port p).txSeq + 1, fcount := (s.port p).fcount + 1 } ∧
      (∀ q, q ≠ p → t.port q = s.port q) ∧ (t.withFp s.fp).withOut s.out = s := by
  have hx := (s.port p).atPeriod_eq
  obtain ⟨hseq, hctrl, hfcount⟩ : (s.port p).atPeriod.txSeq = (s.port p).txSeq ∧ (s.port p).atPeriod.applied = (s.port p).applied ∧
      (s.port p).atPeriod.fcount = (s.port p).fcount := by
    rw [hx]
    exact ⟨rfl, rfl, rfl⟩
  have hrun := exec_controlSlotSend_alone hmsgs p
  rw [State.sendFrame_eq hpower hmay hcount, if_neg (not_not.mpr hpat), if_pos hdown, State.sendAbsent, State.port_setPort,
    if_pos rfl, State.setPort_setPort] at hrun
  generalize (if s.live then (s.port p).hb else 0) = hb at hrun ⊢
  obtain ⟨hlen, hcrc, ⟨hfseq, -⟩, ⟨hidle, hhb, -⟩, hplain⟩ :=
    (s.port p).atPeriod.sealFrame_effect ((s.port p).atPeriod.fields 0x5A hb) (List.replicate 60 0) 0 0
  refine ⟨_, sentFrame _, hrun, rfl, hlen, hidle, hfseq.trans hseq, hhb, hcrc, fun hoff => ?_, ?_, fun q hq => ?_, rfl⟩
  · exact (hplain (hctrl ▸ hoff) List.length_replicate).2
  · rw [State.port_emit, State.port_setPort, if_pos rfl, Port.count, hseq, hfcount]
  · rw [State.port_emit, State.port_setPort, if_neg hq]

/-- A down port at the start of a link period, and one that sends the generator's flits (R329, R474). -/
theorem controlSlotSend_pattern {s : State} {p : Fin 8} (hpower : s.powered = true) (hmay : s.id.mayHavePort p.1 = true)
    (hdown : (s.port p).up = false) (hmsgs : s.live = true → s.cc.msgQ = []) :
    let x := (s.port p).atPeriod
    (periodFrame (s.port p).fcount = 0 → x.pattern = patternOf (s.port p).applied.ctrl) ∧
    (periodFrame (s.port p).fcount ≠ 0 → x = s.port p) ∧
    (x.pattern ≠ 0 → exec (.controlSlotSend ⟨p, []⟩) s = .next ((s.setPort p { x with
      lfsr := (prbsFlits x.pattern 16 x.lfsr).2 }).emit (.frame p (prbsFlits x.pattern 16 x.lfsr).1))) := by
  refine ⟨Port.atPeriod_pattern_of_down hdown, fun hlater => if_neg hlater, fun hon => ?_⟩
  have hcount : (s.port p).up = true → (s.port p).fcount.toNat + 1 < 2 ^ 48 := fun hup => absurd hup (by simp [hdown])
  rw [exec_controlSlotSend_alone hmsgs p, State.sendFrame_eq hpower hmay hcount, if_pos hon]
  simp only [State.sendPattern, State.port_setPort, if_true, State.setPort_setPort]

/-- Settles O46: the routes of a message, and each kind of frame that a port sends. -/
theorem messages : Obligations.Messages :=
  ⟨fun _ _ _ _ => barrierMessage_here, fun _ _ _ _ _ _ => barrierMessage_away, fun _ payload hlive => ctrlMessage_here hlive payload,
    fun _ _ _ => controlSlotSend_running, fun _ _ => controlSlotSend_absent, fun _ _ => controlSlotSend_pattern⟩

end Sys2Proof.Machine
end

/-! ### Frames that a port receives (O51) -/

section
namespace Sys2Proof.Machine

/-! #### What the content of a frame leaves of the links (R310, R313, R315, R320) -/

theorem State.discardMsg_keepsLinks (s : State) : keepsLinks s s.discardMsg := s.note_keepsLinks ..

theorem State.deliverMsg_keepsLinks (s : State) (m : FabMsg) : keepsLinks s (s.deliverMsg m) := by
  unfold State.deliverMsg
  split
  · exact s.emit_keepsLinks _
  · dsimp only
    split
    · split <;> exact keepsLinks_of_same rfl rfl
    · split
      · exact s.emit_keepsLinks _
      · exact s.discardMsg_keepsLinks

/-- A message waits at a port at most (R320). -/
theorem State.routeMsg_keepsLinks (s : State) (m : FabMsg) : keepsLinks s (s.routeMsg m) := by
  unfold State.routeMsg
  split
  · exact s.deliverMsg_keepsLinks m
  · split
    · exact s.discardMsg_keepsLinks
    · dsimp only
      split
      · exact s.discardMsg_keepsLinks
      · split
        · exact State.setPort_keepsLinks rfl
        · exact s.emit_keepsLinks _

theorem State.mismatch_keepsLinks (s : State) (p : Fin 8) : keepsLinks s (s.mismatch p) := s.note_keepsLinks ..

theorem State.takeMessage_keepsLinks (s : State) (p : Fin 8) (u : FabUnit) : keepsLinks s (s.takeMessage p u) := by
  unfold State.takeMessage
  split
  · exact keepsLinks_refl s
  · split
    · exact s.mismatch_keepsLinks p
    · split
      · exact s.routeMsg_keepsLinks _
      · exact keepsLinks_refl s

theorem State.mismatch_fp (s : State) (p : Fin 8) : (s.mismatch p).fp = s.fp := (onlyNote_sameSender (s.note_only ..)).2

theorem State.holdPosition_keepsLinks (s : State) (p : Fin 8) (h : HeldPos) : keepsLinks s (s.holdPosition p h) := by
  unfold State.holdPosition
  dsimp only
  split
  · refine keepsLinks_trans _ _ _ (s.mismatch_keepsLinks p) (State.setPort_keepsLinks ?_)
    rw [State.port_of_fp (s.mismatch_fp p)]
    rfl
  · exact State.setPort_keepsLinks rfl

theorem State.takePosition_keepsLinks (s : State) (p : Fin 8) (f : Frame) (pos : Nat) (us : List FabUnit) :
    keepsLinks s (s.takePosition p f pos us) := by
  unfold State.takePosition
  extract_lets x o cur skip w opens s1 s2
  have hopen : keepsLinks s (s.setPort p { x with opens := opens }) := State.setPort_keepsLinks rfl
  have hheld : keepsLinks s s1 := keepsLinks_trans _ _ _ hopen (State.holdPosition_keepsLinks ..)
  have hbad : keepsLinks s s2 := keepsLinks_trans _ _ _ hheld (keepsLinks_foldl (fun s _ => s.mismatch_keepsLinks p) _ s1)
  exact keepsLinks_trans _ _ _ hbad (keepsLinks_foldl (fun s us => s.emit_keepsLinks _) _ s2)

theorem State.takePositions_keepsLinks (s : State) (p : Fin 8) (f : Frame) (n pos : Nat) (us : List FabUnit) :
    keepsLinks s (s.takePositions p f n pos us) := by
  induction n generalizing s pos us with
  | zero => exact State.setPort_keepsLinks rfl
  | succ n ih =>
    rw [State.takePositions]
    split
    · exact State.setPort_keepsLinks rfl
    · exact keepsLinks_trans _ _ _ (s.takePosition_keepsLinks ..) (ih ..)

/-! #### Acceptance (R321, R324) -/

/-- A port as an accepted frame leaves it. -/
def Port.accepted (x : Port) (f : Frame) : Port :=
  { x with
    rxAny := true, rxLast := f.fseq, rxEpoch := f.keyEpoch, rxCount := x.rxFcount f.keyEpoch + 1, nak := false, rejects := 0,
    tagRejects := 0, misses := if f.hb != x.peerHb then 0 else x.misses, peerHb := f.hb,
    absRun := if f.idle == 0x5A#8 then x.absRun + 1 else 0, absent := f.idle == 0x5A#8 }

/-- An accepted frame's content reaches no link; the second absent frame in succession takes its own down (R324). -/
theorem State.acceptFrame_eq (s : State) (p : Fin 8) (f : Frame) :
    ∃ u, keepsLinks (s.setPort p ((s.port p).accepted f)) u ∧
      s.acceptFrame p f = if 2 ≤ ((s.port p).accepted f).absRun then u.dropPort p else u := by
  unfold State.acceptFrame
  extract_lets x abs n us old x1 s1 s2
  refine ⟨s2, ?_, rfl⟩
  have hpos : keepsLinks (s.setPort p x1) s1 := State.takePositions_keepsLinks ..
  exact keepsLinks_trans _ _ _ hpos (keepsLinks_foldl (fun s u => s.takeMessage_keepsLinks p u) _ s1)

/-- Ports with the same link agree in what they have received and rejected. -/
theorem Port.sameLink_received {x y : Port} (h : x.sameLink y) : y.up = x.up ∧ y.rxLast = x.rxLast ∧ y.rxEpoch = x.rxEpoch ∧
    y.rxCount = x.rxCount ∧ y.nak = x.nak ∧ y.rejects = x.rejects ∧ y.peerHb = x.peerHb ∧ y.absent = x.absent ∧
    y.rejected = x.rejected := by
  rw [h]
  exact ⟨rfl, rfl, rfl, rfl, rfl, rfl, rfl, rfl, rfl⟩

/-- The link of another port stays as it is when one goes down or is replaced. -/
theorem up_of_keepsLinks {s u : State} {p q : Fin 8} {x : Port} (h : keepsLinks (s.setPort p x) u) (hq : q ≠ p) :
    (u.port q).up = (s.port q).up := by
  obtain ⟨hup, -⟩ := Port.sameLink_received (h.1 q)
  rw [hup, State.port_setPort, if_neg hq]

/-- A frame has been accepted: its numbers are the last good ones, NAK falls, and the second absent frame in succession has taken the link
down (R321, R324). -/
def acceptedAt (s t : State) (p : Fin 8) (f : Frame) : Prop :=
  (t.port p).rxLast = f.fseq ∧ (t.port p).rxEpoch = f.keyEpoch ∧ (t.port p).rxCount = (s.port p).rxFcount f.keyEpoch + 1 ∧
  (t.port p).nak = false ∧ (t.port p).rejects = 0 ∧ (t.port p).peerHb = f.hb ∧
  ((t.port p).absent = true ↔ f.idle = 0x5A#8) ∧ ((t.port p).up = false ↔ f.idle = 0x5A#8 ∧ 1 ≤ (s.port p).absRun)

/-- Every link but that of port `p` is up as before. -/
def otherLinksUp (s t : State) (p : Fin 8) : Prop := ∀ q, q ≠ p → (t.port q).up = (s.port q).up

theorem State.acceptFrame_effect {s : State} {p : Fin 8} (hup : (s.port p).up = true) (f : Frame) :
    otherLinksUp s (s.acceptFrame p f) p ∧ acceptedAt s (s.acceptFrame p f) p f := by
  obtain ⟨u, hu, heq⟩ := s.acceptFrame_eq p f
  have hothers : ∀ q, q ≠ p → (u.port q).up = (s.port q).up := fun q hq => up_of_keepsLinks hu hq
  have hlink : ((s.port p).accepted f).sameLink (u.port p) := by simpa using hu.1 p
  obtain ⟨huup, hlast, hepoch, hcount, hnak, hrejects, hhb, habsent, -⟩ := Port.sameLink_received hlink
  have hrun : 2 ≤ ((s.port p).accepted f).absRun ↔ f.idle = 0x5A#8 ∧ 1 ≤ (s.port p).absRun := by
    by_cases hidle : f.idle = 0x5A#8 <;> simp [Port.accepted, hidle]
  have habs : ((s.port p).accepted f).absent = true ↔ f.idle = 0x5A#8 := by simp [Port.accepted]
  rw [heq]
  by_cases hdrop : 2 ≤ ((s.port p).accepted f).absRun
  · rw [if_pos hdrop]
    obtain ⟨hdown, hlast', hepoch', hcount', hnak', hrejects', hhb', habsent', -⟩ :=
      Port.sameLink_received (State.dropPort_port (huup.trans hup))
    refine ⟨fun q hq => ?_, hlast'.trans hlast, hepoch'.trans hepoch, hcount'.trans hcount, hnak', hrejects', hhb'.trans hhb, ?_, ?_⟩
    · rw [State.dropPort_up, if_neg hq, hothers q hq]
    · rw [habsent', Port.dropped, habsent]
      exact habs
    · exact iff_of_true hdown (hrun.mp hdrop)
  · rw [if_neg hdrop]
    refine ⟨hothers, hlast, hepoch, hcount, hnak, hrejects, hhb, habsent ▸ habs, ?_⟩
    exact iff_of_false (by rw [huup]; exact fun h => absurd (hup.symm.trans h) (by decide)) fun h => hdrop (hrun.mpr h)

/-! #### Rejection (R321, R322, R328) -/

/-- A port as a rejected frame leaves it, `tagOnly` if its tag alone fails. -/
def Port.refusing (x : Port) (tagOnly : Bool) : Port :=
  { x with
    nak := true, rejects := x.rejects + 1, tagRejects := if tagOnly then x.tagRejects + 1 else 0, rejected := addSat32 x.rejected 1 }

/-- The fourth rejection by the tag alone is logged (R328). -/
def State.noteTags (s : State) (p : Fin 8) (n : Nat) : State :=
  if 4 ≤ n then s.note Code.linkAuth 0x43 (BitVec.ofNat 8 p.1) 0 noDpi 0 else s

theorem State.noteTags_effect (s : State) (p : Fin 8) (n : Nat) :
    (s.noteTags p n).fp = s.fp ∧ (4 ≤ n → noted (s.noteTags p n) Code.linkAuth) := by
  unfold State.noteTags
  split
  · exact ⟨(onlyNote_sameSender (s.note_only ..)).2, fun _ => s.note_noted Code.linkAuth 0x43 (BitVec.ofNat 8 p.1) 0 noDpi 0⟩
  · next hn => exact ⟨rfl, fun h => absurd h hn⟩

theorem State.rejectFrame_eq (s : State) (p : Fin 8) (tagOnly : Bool) :
    let x1 := (s.port p).refusing tagOnly
    s.rejectFrame p tagOnly =
      if 4 ≤ x1.rejects then ((s.setPort p x1).noteTags p x1.tagRejects).dropPort p else s.setPort p x1 := rfl

/-- A frame has been rejected: NAK stands, and the fourth rejection has taken the link down, logged as LINK_AUTH when each was by the tag
alone (R321, R322, R328). -/
def rejectedAt (s t : State) (p : Fin 8) (tagOnly : Bool) : Prop :=
  (t.port p).rejected = addSat32 (s.port p).rejected 1 ∧ (t.port p).rxLast = (s.port p).rxLast ∧
  ((s.port p).rejects < 3 → (t.port p).nak = true ∧ (t.port p).rejects = (s.port p).rejects + 1 ∧ (t.port p).up = true) ∧
  (3 ≤ (s.port p).rejects → (t.port p).up = false ∧ (tagOnly = true → 3 ≤ (s.port p).tagRejects → noted t Code.linkAuth))

theorem State.rejectFrame_effect {s : State} {p : Fin 8} (hup : (s.port p).up = true) (tagOnly : Bool) :
    otherLinksUp s (s.rejectFrame p tagOnly) p ∧ rejectedAt s (s.rejectFrame p tagOnly) p tagOnly := by
  have hx : (s.setPort p ((s.port p).refusing tagOnly)).port p = (s.port p).refusing tagOnly := by simp
  have hqs : ∀ q, q ≠ p → (s.setPort p ((s.port p).refusing tagOnly)).port q = s.port q := fun q hq => by simp [hq]
  have heq := s.rejectFrame_eq p tagOnly
  have hcount : ((s.port p).refusing tagOnly).rejects = (s.port p).rejects + 1 := rfl
  dsimp only at heq
  rw [heq, hcount]
  by_cases hfour : 3 ≤ (s.port p).rejects
  · rw [if_pos (by omega)]
    obtain ⟨hfp, htags⟩ := (s.setPort p ((s.port p).refusing tagOnly)).noteTags_effect p ((s.port p).refusing tagOnly).tagRejects
    generalize (s.setPort p ((s.port p).refusing tagOnly)).noteTags p ((s.port p).refusing tagOnly).tagRejects = u at hfp htags ⊢
    have hport : u.port p = (s.port p).refusing tagOnly := (State.port_of_fp hfp p).trans hx
    have huup : (u.port p).up = true := by rw [hport]; exact hup
    obtain ⟨hdown, hlast, -, -, -, -, -, -, hrejected⟩ := Port.sameLink_received (State.dropPort_port huup)
    refine ⟨fun q hq => ?_, ?_, ?_, fun h => by omega, fun _ => ⟨hdown, fun htag hmany => ?_⟩⟩
    · rw [State.dropPort_up, if_neg hq, State.port_of_fp hfp, hqs q hq]
    · rw [hrejected, Port.dropped, hport]
      rfl
    · rw [hlast, Port.dropped, hport]
      rfl
    · refine noted_of_grows (htags ?_) (u.dropPort_grows p)
      have htags : ((s.port p).refusing tagOnly).tagRejects = (s.port p).tagRejects + 1 := by simp [Port.refusing, htag]
      omega
  · rw [if_neg (by omega), rejectedAt, hx]
    exact ⟨fun q hq => by rw [hqs q hq], rfl, rfl, fun _ => ⟨rfl, rfl, hup⟩, fun h => absurd h hfour⟩

/-! #### A frame at a port that is up (R321) -/

theorem State.receiveFrame_eq {s : State} {p : Fin 8} (hlive : s.live = true) (hport : s.id.hasPort p.1 = true)
    (hfence : s.portFenced p = false) (hpat : (s.port p).pattern = 0) (hup : (s.port p).up = true) (f : Frame) :
    let x := s.port p
    let s1 := s.setPort p { x with phyUp := true }
    s.receiveFrame p f =
      if f.fseq != x.expected f.keyEpoch then (if x.nak then s1 else s1.rejectFrame p false)
      else if frameBroken f then s1.rejectFrame p false
      else if x.tagFails f then s1.rejectFrame p true
      else s1.acceptFrame p f := by
  unfold State.receiveFrame
  extract_lets _ _ y s1
  have hypat : y.pattern = 0 := hpat
  have hyup : y.up = true := hup
  rw [if_neg (by simp [hport]), if_neg (by simp [hlive, hfence]), if_neg (by simp [hypat]), if_neg (by simp [hyup])]
  rfl

/-- FRAME_RECEIVE at a port that is up (R321, R322, R324, R328). -/
theorem frameReceive_effect {s : State} {p : Fin 8} {f : Frame} (hlive : s.live = true) (hport : s.id.hasPort p.1 = true)
    (hfence : s.portFenced p = false) (hpat : (s.port p).pattern = 0) (hup : (s.port p).up = true) :
    let x := s.port p
    let inSeq := f.fseq = x.expected f.keyEpoch
    let sound := frameBroken f = false ∧ x.tagFails f = false
    ∃ t, exec (.frameReceive p f) s = .next t ∧ otherLinksUp s t p ∧ (inSeq → sound → acceptedAt s t p f) ∧
      (¬ inSeq → x.nak = true → t = s.setPort p { x with phyUp := true }) ∧
      ((¬ inSeq ∧ x.nak = false) ∨ (inSeq ∧ ¬ sound) →
        (t.port p).rejected = addSat32 x.rejected 1 ∧ (t.port p).rxLast = x.rxLast ∧
        (x.rejects < 3 → (t.port p).nak = true ∧ (t.port p).rejects = x.rejects + 1 ∧ (t.port p).up = true) ∧
        (3 ≤ x.rejects → (t.port p).up = false ∧
          (inSeq → frameBroken f = false → 3 ≤ x.tagRejects → noted t Code.linkAuth))) := by
  have hrun := s.receiveFrame_eq hlive hport hfence hpat hup f
  dsimp only at hrun ⊢
  have hexec : exec (.frameReceive p f) s = .next (s.receiveFrame p f) := rfl
  have hx : (s.setPort p { s.port p with phyUp := true }).port p = { s.port p with phyUp := true } := by simp
  have hqs : ∀ q, q ≠ p → (s.setPort p { s.port p with phyUp := true }).port q = s.port q := fun q hq => by simp [hq]
  generalize s.setPort p { s.port p with phyUp := true } = u at hrun hx hqs ⊢
  have huup : (u.port p).up = true := by rw [hx]; exact hup
  have hreject (tagOnly : Bool) :
      otherLinksUp s (u.rejectFrame p tagOnly) p ∧ rejectedAt s (u.rejectFrame p tagOnly) p tagOnly := by
    obtain ⟨hothers, h⟩ := u.rejectFrame_effect huup tagOnly
    rw [rejectedAt, hx] at h
    exact ⟨fun q hq => by rw [hothers q hq, hqs q hq], h⟩
  by_cases hseq : f.fseq = (s.port p).expected f.keyEpoch
  · rw [if_neg (by simp [hseq])] at hrun
    cases hbroken : frameBroken f with
    | true =>
      rw [if_pos hbroken] at hrun
      obtain ⟨hothers, hrejected, hlast, hfew, hmany⟩ := hreject false
      rw [hexec, hrun]
      exact ⟨_, rfl, hothers, fun _ h => absurd h.1 (by simp), fun h => absurd hseq h, fun _ =>
        ⟨hrejected, hlast, hfew, fun h => ⟨(hmany h).1, fun _ h => absurd h (by simp)⟩⟩⟩
    | false =>
      rw [if_neg (by simp [hbroken])] at hrun
      cases htag : (s.port p).tagFails f with
      | true =>
        rw [if_pos htag] at hrun
        obtain ⟨hothers, hrejected, hlast, hfew, hmany⟩ := hreject true
        rw [hexec, hrun]
        exact ⟨_, rfl, hothers, fun _ h => absurd h.2 (by simp), fun h => absurd hseq h, fun _ =>
          ⟨hrejected, hlast, hfew, fun h => ⟨(hmany h).1, fun _ _ => (hmany h).2 rfl⟩⟩⟩
      | false =>
        rw [if_neg (by simp [htag])] at hrun
        obtain ⟨hothers, haccepted⟩ := u.acceptFrame_effect huup f
        rw [acceptedAt, hx] at haccepted
        rw [hexec, hrun]
        refine ⟨_, rfl, fun q hq => by rw [hothers q hq, hqs q hq], fun _ _ => haccepted, fun h => absurd hseq h, ?_⟩
        rintro (⟨h, -⟩ | ⟨-, h⟩)
        · exact absurd hseq h
        · exact absurd ⟨rfl, rfl⟩ h
  · rw [if_pos (by simpa using hseq)] at hrun
    rw [hexec, hrun]
    cases hnak : (s.port p).nak with
    | true =>
      refine ⟨u, rfl, fun q hq => by rw [hqs q hq], fun h => absurd h hseq, fun _ _ => rfl, ?_⟩
      rintro (⟨-, h⟩ | ⟨h, -⟩)
      · cases h
      · exact absurd h hseq
    | false =>
      obtain ⟨hothers, hrejected, hlast, hfew, hmany⟩ := hreject false
      exact ⟨_, rfl, hothers, fun h => absurd h hseq, fun _ h => absurd h (by decide), fun _ =>
        ⟨hrejected, hlast, hfew, fun h => ⟨(hmany h).1, fun h => absurd h hseq⟩⟩⟩

end Sys2Proof.Machine
end

/-! ### Replay and transit (O51) -/

section
namespace Sys2Proof.Machine

/-! #### Notices that send nothing (R395, R397) -/

/-- Events have been logged, and nothing was sent. -/
def onlyLogged (s t : State) : Prop := onlyNote s t ∧ keepsCodes s t ∧ t.out = s.out

theorem onlyLogged_refl (s : State) : onlyLogged s s := ⟨onlyNote_refl s, keepsCodes_refl s, rfl⟩

theorem onlyLogged_trans (a b c : State) (hab : onlyLogged a b) (hbc : onlyLogged b c) : onlyLogged a c :=
  ⟨onlyNote_trans _ _ _ hab.1 hbc.1, keepsCodes_trans _ _ _ hab.2.1 hbc.2.1, hbc.2.2.trans hab.2.2⟩

theorem State.noteFor_onlyLogged {code : Code} {unit : BitVec 8} (h : hintable code unit = false) (s : State) (task : BitVec 2)
    (sub : BitVec 8) (loc : W32) (dpi detail : W64) : onlyLogged s (s.noteFor task code unit sub loc dpi detail) :=
  ⟨s.noteFor_only .., s.noteFor_keepsCodes, s.out_noteFor h ..⟩

theorem onlyNote_se {s t : State} (h : onlyNote s t) : t.se = s.se := (congrArg State.se h.1).trans rfl

/-- One event takes at most one entry of the log (R395). -/
theorem State.addLog_length_le (s : State) (e : LogEntry) : (s.addLog e).err.log.length ≤ s.err.log.length + 1 := by
  unfold State.addLog
  split
  · simp [mergeLog_length]
  · split
    · simp [State.latchEvent]
    · split
      · simp
      · split
        · next hm =>
          have := dropMinor_length _ hm
          simp [State.latchEvent]; omega
        · simp

theorem foldl_emit {α : Type} (g : α → Msg) (l : List α) (s : State) :
    l.foldl (fun s x => s.emit (g x)) s = s.withOut (s.out ++ l.map g) := by
  induction l generalizing s with
  | nil => rw [List.map_nil, List.append_nil]; rfl
  | cons x l ih =>
    rw [List.foldl_cons, ih, List.map_cons, List.append_cons]
    rfl

/-! #### LINK_REPLAY (R322) -/

theorem mem_noRepeats {α : Type} [BEq α] [LawfulBEq α] {l : List α} {x : α} (h : x ∈ l) : x ∈ noRepeats l := by
  have hfold (l acc : List α) (h : x ∈ acc ∨ x ∈ l) : x ∈ l.foldl (fun acc x => if acc.contains x then acc else acc ++ [x]) acc := by
    induction l generalizing acc with
    | nil => exact h.resolve_right List.not_mem_nil
    | cons y l ih =>
      refine ih _ ?_
      dsimp only
      obtain h | h := h
      · left
        split <;> simp [h]
      · obtain rfl | h := List.mem_cons.mp h
        · left
          split
          · next hc => simpa using hc
          · simp
        · exact .inr h
  exact hfold l [] (.inr h)

/-- A command that waits for the far side. -/
theorem State.awaits_of_engines {s t : State} (hse : t.se = s.se) (hiu : t.iu = s.iu) (k : Fin 4 × W64) : t.awaits k = s.awaits k := by
  simp only [State.awaits, State.slot, hse, hiu]

theorem State.extendBounds_onlyLogged (s : State) (p : Fin 8) (fs : List SentFrame) : onlyLogged s (s.extendBounds p fs) :=
  foldl_only onlyLogged onlyLogged_refl onlyLogged_trans _ (fun s _ => s.noteFor_onlyLogged rfl ..) _ s

/-- The bound of a transfer that waits with a run in a replayed frame is extended, which is logged (R322). -/
theorem State.extendBounds_logs {s : State} {p : Fin 8} {fs : List SentFrame} {f : SentFrame} {k : Fin 4 × W64} (hf : f ∈ fs)
    (hk : k ∈ f.keys) (hwait : s.awaits k = true) : logged s (s.extendBounds p fs) Code.boundExtend := by
  have hmem : k ∈ (noRepeats (fs.flatMap SentFrame.keys)).filter s.awaits :=
    List.mem_filter.mpr ⟨mem_noRepeats (List.mem_flatMap.mpr ⟨f, hf, hk⟩), hwait⟩
  unfold State.extendBounds
  cases hl : (noRepeats (fs.flatMap SentFrame.keys)).filter s.awaits with
  | nil => rw [hl] at hmem; cases hmem
  | cons a rest =>
    rw [List.foldl_cons]
    refine logged_of_keepsCodes (s.noteFor_logged (task := BitVec.ofNat 2 a.1.1) (unit := 0x43) (sub := BitVec.ofNat 8 p.1)
      (loc := 0) (dpi := a.2) (detail := 0)) ?_
    exact foldl_only keepsCodes keepsCodes_refl keepsCodes_trans _ (fun s _ => s.noteFor_keepsCodes) rest _

theorem State.replayLink_eq {s : State} {p : Fin 8} {seq : BitVec 12} {ep : Bool} (hlive : s.live = true) (hup : (s.port p).up = true)
    (hfs : framesAfter (s.port p).sent seq ep ≠ []) :
    let fs := framesAfter (s.port p).sent seq ep
    let s1 := s.setPort p { s.port p with resent := addSat32 (s.port p).resent fs.length }
    let s2 := (s1.note Code.linkReplay 0x43 (BitVec.ofNat 8 p.1) 0 noDpi 0).extendBounds p fs
    s.replayLink p seq ep = s2.withOut (s2.out ++ fs.map fun f => .frame p f.flits) := by
  dsimp only
  rw [← foldl_emit (fun f : SentFrame => Msg.frame p f.flits)]
  exact if_neg (by simpa [hlive, hup] using hfs)

theorem linkReplay_effect {s : State} {p : Fin 8} {seq : BitVec 12} {ep : Bool} (hlive : s.live = true) (hup : (s.port p).up = true)
    (hfs : framesAfter (s.port p).sent seq ep ≠ []) :
    let fs := framesAfter (s.port p).sent seq ep
    ∃ t, exec (.linkReplay p seq ep) s = .next t ∧
      (t.port p).resent = addSat32 (s.port p).resent fs.length ∧ (t.port p).sent = (s.port p).sent ∧ logged s t Code.linkReplay ∧
      t.iu = s.iu ∧ t.se = s.se ∧ t.out = s.out ++ fs.map (fun f => .frame p f.flits) ∧
      (∀ f ∈ fs, ∀ k ∈ f.keys, s.awaits k = true → s.err.log.length < 63 → ∃ n ∈ t.err.log, n.code = Code.boundExtend) := by
  have hrun : exec (.linkReplay p seq ep) s = .next (s.replayLink p seq ep) := rfl
  have heq := State.replayLink_eq hlive hup hfs
  dsimp only at heq ⊢
  rw [heq] at hrun
  generalize framesAfter (s.port p).sent seq ep = fs at hrun ⊢
  have hs1 : (s.setPort p { s.port p with resent := addSat32 (s.port p).resent fs.length }).port p =
      { s.port p with resent := addSat32 (s.port p).resent fs.length } := by simp
  have hs1rest : (s.setPort p { s.port p with resent := addSat32 (s.port p).resent fs.length }).withFp s.fp = s := rfl
  generalize s.setPort p { s.port p with resent := addSat32 (s.port p).resent fs.length } = u at hrun hs1 hs1rest
  have hu : u.err = s.err ∧ u.iu = s.iu ∧ u.se = s.se ∧ u.out = s.out := by
    rw [← hs1rest]
    exact ⟨rfl, rfl, rfl, rfl⟩
  obtain ⟨huerr, huiu, huse, huout⟩ := hu
  have hlink : logged u (u.note Code.linkReplay 0x43 (BitVec.ofNat 8 p.1) 0 noDpi 0) Code.linkReplay := u.noteFor_logged
  have hlen : (u.note Code.linkReplay 0x43 (BitVec.ofNat 8 p.1) 0 noDpi 0).err.log.length ≤ u.err.log.length + 1 := by
    rw [State.note_of_not_hintable (by decide)]
    exact u.addLog_length_le _
  have hnote : onlyLogged u (u.note Code.linkReplay 0x43 (BitVec.ofNat 8 p.1) 0 noDpi 0) := u.noteFor_onlyLogged rfl ..
  generalize u.note Code.linkReplay 0x43 (BitVec.ofNat 8 p.1) 0 noDpi 0 = v at hrun hlink hlen hnote
  have hext := v.extendBounds_onlyLogged p fs
  have hbound : ∀ f ∈ fs, ∀ k ∈ f.keys, v.awaits k = true → logged v (v.extendBounds p fs) Code.boundExtend :=
    fun f hf k hk hwait => State.extendBounds_logs hf hk hwait
  generalize v.extendBounds p fs = w at hrun hext hbound
  obtain ⟨honly, hcodes, hout⟩ := onlyLogged_trans _ _ _ hnote hext
  have hport : w.port p = u.port p := State.port_of_fp (onlyNote_sameSender honly).2 p
  refine ⟨_, hrun, ?_, ?_, ?_, (onlyNote_iu honly).trans huiu, (onlyNote_se honly).trans huse, ?_, fun f hf k hk hwait hroom => ?_⟩
  · exact (congrArg Port.resent (hport.trans hs1) :)
  · exact (congrArg Port.sent (hport.trans hs1) :)
  · exact fun hroom => hext.2.1 _ (hlink (huerr ▸ hroom))
  · rw [State.withOut_out, hout, huout]
  · refine hbound f hf k hk ?_ (by rw [huerr] at hlen; omega)
    rwa [State.awaits_of_engines ((onlyNote_se hnote.1).trans huse) ((onlyNote_iu hnote.1).trans huiu)]

/-! #### TRANSIT_FORWARD (R315, R325) -/

/-- A position is marked as forwarded (R315). -/
def Port.forwarded (x : Port) (inpos : Nat) : Port :=
  { x with held := x.held.map fun y => if y.pos == inpos then { y with done := true } else y }

theorem Port.forwarded_done {x : Port} {inpos : Nat} {y : HeldPos} (hy : y ∈ (x.forwarded inpos).held) (hpos : y.pos = inpos) :
    y.done = true := by
  obtain ⟨z, -, rfl⟩ := List.mem_map.mp hy
  by_cases hz : z.pos = inpos
  · simp [hz]
  · simp [hz] at hpos

section
variable {s : State} {p : Fin 8} {pos : Fin 60} {inport : Fin 64} {inpos : Fin 60} {skip : Nat} {units : List (BitVec 128)}

/-- An egress position of a live core names the ingress position (R314, R315). -/
theorem exec_transitForward (hlive : s.live = true)
    (hkind : (fld (schedEntry (s.port p).sched pos.1) 0 2 : BitVec 2) = 2#2)
    (hport : (fld (schedEntry (s.port p).sched pos.1) 2 6 : BitVec 6).toNat = inport.1)
    (hpos : (fld (schedEntry (s.port p).sched pos.1) 8 6 : BitVec 6).toNat = inpos.1) :
    (inport.1 / 8 ≠ s.id.core.toNat → exec (.transitForward p pos inport inpos ⟨skip, units⟩) s =
      .next (s.passOn p pos.1 inport.1 inpos.1 skip units)) ∧
    ∀ (q : Fin 8) (h : HeldPos), inport.1 / 8 = s.id.core.toNat → inport.1 % 8 = q.1 →
      ((s.port q).held.find? fun h => h.pos == inpos.1) = some h →
      exec (.transitForward p pos inport inpos ⟨skip, units⟩) s =
        .next ((s.setPort q ((s.port q).forwarded inpos.1)).passOn p pos.1 inport.1 inpos.1 h.skip h.units) := by
  have hnamed : ¬ (!s.live || fld (schedEntry (s.port p).sched pos.1) 0 2 != 2#2 ||
      (fld (schedEntry (s.port p).sched pos.1) 2 6 : BitVec 6).toNat != inport.1 ||
      (fld (schedEntry (s.port p).sched pos.1) 8 6 : BitVec 6).toNat != inpos.1) = true := by
    simp [hlive, hkind, hport, hpos]
  have hrun : exec (.transitForward p pos inport inpos ⟨skip, units⟩) s =
    .next (s.forwardTransit p pos.1 inport.1 inpos.1 skip units) := rfl
  rw [hrun, State.forwardTransit]
  dsimp only
  rw [if_neg hnamed]
  refine ⟨fun hother => by rw [if_pos (by simpa using hother)], fun q h hown hq hheld => ?_⟩
  have hqe : (⟨inport.1 % 8, Nat.mod_lt _ (by decide)⟩ : Fin 8) = q := Fin.ext hq
  rw [if_neg (by simpa using hown), hqe, hheld]
  rfl

end

theorem State.passOn_up {s : State} {p : Fin 8} (h : (s.port p).up = true) (pos inport inpos skip : Nat) (us : List FabUnit) :
    s.passOn p pos inport inpos skip us =
      s.setPort p { s.port p with egress := (pos, us) :: (s.port p).egress.filter fun e => !(e.1 == pos) } := if_pos h

theorem State.passOn_down {s : State} {p : Fin 8} (h : (s.port p).up = false) (pos inport inpos skip : Nat) (us : List FabUnit) :
    s.passOn p pos inport inpos skip us = (headsIn skip us).foldl (fun s u =>
      s.refuseBack (8 * s.id.core.toNat + p.1) inport inpos (pathDownRefusal (s.sender 14) u)) s := if_neg (by simp [h])

/-- The core of the ingress port answers each packet (R325). -/
theorem State.refuseBack_far {s : State} {inport : Nat} (h : inport / 8 ≠ s.id.core.toNat) (p inpos : Nat) (us : List FabUnit) :
    us.foldl (fun s u => s.refuseBack (8 * s.id.core.toNat + p) inport inpos (pathDownRefusal (s.sender 14) u)) s =
      s.withOut (s.out ++ us.map fun u => .pathDown inport inpos (pathDownRefusal (s.sender 14) u)) := by
  induction us generalizing s with
  | nil => rw [List.map_nil, List.append_nil]; rfl
  | cons u us ih =>
    have hback : s.refuseBack (8 * s.id.core.toNat + p) inport inpos (pathDownRefusal (s.sender 14) u) =
        s.emit (.pathDown inport inpos (pathDownRefusal (s.sender 14) u)) := if_neg h
    rw [List.foldl_cons, hback, ih (s := s.emit _) h, List.map_cons, List.append_cons]
    rfl

/-- TRANSIT_FORWARD of a position that another core's port holds (R315, R325). -/
theorem transitForward_far {s : State} {p : Fin 8} {pos : Fin 60} {inport : Fin 64} {inpos : Fin 60} {skip : Nat}
    {units : List (BitVec 128)} (hlive : s.live = true) :
    let w := schedEntry (s.port p).sched pos.1
    (fld w 0 2 : BitVec 2) = 2#2 → (fld w 2 6 : BitVec 6).toNat = inport.1 → (fld w 8 6 : BitVec 6).toNat = inpos.1 →
    inport.1 / 8 ≠ s.id.core.toNat →
    ∃ t, exec (.transitForward p pos inport inpos ⟨skip, units⟩) s = .next t ∧
      ((s.port p).up = true → t = s.setPort p { s.port p with
        egress := (pos.1, units) :: (s.port p).egress.filter fun e => !(e.1 == pos.1) }) ∧
      ((s.port p).up = false → t = s.withOut (s.out ++ (headsIn skip units).map fun u =>
        .pathDown inport.1 inpos.1 (pathDownRefusal (s.sender 14) u))) := by
  intro w hkind hport hpos hother
  refine ⟨_, (exec_transitForward hlive hkind hport hpos).1 hother, fun hup => ?_, fun hdown => ?_⟩
  · exact State.passOn_up hup ..
  · rw [State.passOn_down hdown, State.refuseBack_far hother]

/-- A REFUSE of a down port names its cause (R308, R310, R325). -/
theorem headOf_pathDownRefusal (w : Sender) (u : FabUnit) :
    (headOf (pathDownRefusal w u)).op = opRefuse ∧ (headOf (pathDownRefusal w u)).first = 5 := by
  rw [pathDownRefusal, answerHead, headOf_toUnit]
  exact ⟨rfl, rfl⟩

/-- TRANSIT_FORWARD to a down port of a position that this core's port holds (R325). -/
theorem transitForward_down {s : State} {p q : Fin 8} {pos : Fin 60} {inport : Fin 64} {inpos : Fin 60} {skip : Nat}
    {units : List (BitVec 128)} {h : HeldPos} {x : BitVec 128} (hlive : s.live = true) (hdown : (s.port p).up = false)
    (hown : inport.1 / 8 = s.id.core.toNat) (hq : inport.1 % 8 = q.1)
    (hheld : ((s.port q).held.find? fun h => h.pos == inpos.1) = some h) (hheads : headsIn h.skip h.units = [x]) :
    let w := schedEntry (s.port p).sched pos.1
    let back := (s.port q).reversePos (8 * s.id.core.toNat + p.1)
    (fld w 0 2 : BitVec 2) = 2#2 → (fld w 2 6 : BitVec 6).toNat = inport.1 → (fld w 8 6 : BitVec 6).toNat = inpos.1 →
    ∃ t, exec (.transitForward p pos inport inpos ⟨skip, units⟩) s = .next t ∧ t.out = s.out ∧
      (∀ e, back = some e → (t.port q).egress = ((s.port q).addEgress e (pathDownRefusal (s.sender 14) x)).egress) ∧
      (back = none → (t.port q).egress = (s.port q).egress ∧ logged s t Code.calMismatch) ∧
      (headOf (pathDownRefusal (s.sender 14) x)).op = opRefuse ∧ (headOf (pathDownRefusal (s.sender 14) x)).first = 5 := by
  intro w back hkind hport hpos
  have hrun := (exec_transitForward (skip := skip) (units := units) hlive hkind hport hpos).2 q h hown hq hheld
  have hmarked : (s.setPort q ((s.port q).forwarded inpos.1)).port q = (s.port q).forwarded inpos.1 := by simp
  have hmdown : ((s.setPort q ((s.port q).forwarded inpos.1)).port p).up = false := by
    rw [State.port_setPort]
    split
    · next hp => exact hp ▸ hdown
    · exact hdown
  have hqe : (⟨inport.1 % 8, Nat.mod_lt _ (by decide)⟩ : Fin 8) = q := Fin.ext hq
  have hback : ((s.port q).forwarded inpos.1).reversePos (8 * s.id.core.toNat + p.1) = back := rfl
  have hpass : (s.setPort q ((s.port q).forwarded inpos.1)).passOn p pos.1 inport.1 inpos.1 h.skip h.units =
      (s.setPort q ((s.port q).forwarded inpos.1)).refuseBack (8 * s.id.core.toNat + p.1) inport.1 inpos.1
        (pathDownRefusal (s.sender 14) x) := by
    rw [State.passOn_down hmdown, hheads]
    rfl
  have hrest : (s.setPort q ((s.port q).forwarded inpos.1)).withFp s.fp = s := rfl
  rw [hpass, State.refuseBack] at hrun
  generalize s.setPort q ((s.port q).forwarded inpos.1) = u at hrun hmarked hrest
  dsimp only at hrun
  obtain ⟨huid, huout, huerr⟩ : u.id = s.id ∧ u.out = s.out ∧ u.err = s.err := by
    rw [← hrest]
    exact ⟨rfl, rfl, rfl⟩
  rw [if_pos (huid ▸ hown), hqe, hmarked, hback] at hrun
  have hhead := headOf_pathDownRefusal (s.sender 14) x
  generalize pathDownRefusal (s.sender 14) x = r at hrun hhead ⊢
  cases hb : back with
  | some e =>
    rw [hb] at hrun
    refine ⟨_, hrun, huout, fun e' he => ?_, fun hn => (by cases hn), hhead⟩
    obtain rfl := Option.some.inj he
    rw [State.port_setPort, if_pos rfl]
    rfl
  | none =>
    rw [hb] at hrun
    refine ⟨_, hrun, (u.out_noteFor (by decide) ..).trans huout, fun e he => (by cases he), fun _ => ⟨?_, ?_⟩, hhead⟩
    · rw [State.port_of_fp (u.mismatch_fp q), hmarked]
      rfl
    · exact logged_of_err (show logged u (u.mismatch q) Code.calMismatch from u.noteFor_logged) huerr

/-- TRANSIT_FORWARD to a port that is up, of a position that this core's port holds (R315). -/
theorem transitForward_up {s : State} {p q : Fin 8} {pos : Fin 60} {inport : Fin 64} {inpos : Fin 60} {skip : Nat}
    {units : List (BitVec 128)} {h : HeldPos} (hlive : s.live = true) (hup : (s.port p).up = true)
    (hown : inport.1 / 8 = s.id.core.toNat) (hq : inport.1 % 8 = q.1)
    (hheld : ((s.port q).held.find? fun h => h.pos == inpos.1) = some h) :
    let w := schedEntry (s.port p).sched pos.1
    (fld w 0 2 : BitVec 2) = 2#2 → (fld w 2 6 : BitVec 6).toNat = inport.1 → (fld w 8 6 : BitVec 6).toNat = inpos.1 →
    ∃ t, exec (.transitForward p pos inport inpos ⟨skip, units⟩) s = .next t ∧
      (t.port p).egress = (pos.1, h.units) :: (s.port p).egress.filter (fun e => !(e.1 == pos.1)) ∧
      (∀ y ∈ (t.port q).held, y.pos = inpos.1 → y.done = true) ∧ t.withFp s.fp = s := by
  intro w hkind hport hpos
  have hrun := (exec_transitForward (skip := skip) (units := units) hlive hkind hport hpos).2 q h hown hq hheld
  have hmarked : (s.setPort q ((s.port q).forwarded inpos.1)).port q = (s.port q).forwarded inpos.1 := by simp
  have hrest : (s.setPort q ((s.port q).forwarded inpos.1)).withFp s.fp = s := rfl
  have hmup : ((s.setPort q ((s.port q).forwarded inpos.1)).port p).up = true ∧
      ((s.setPort q ((s.port q).forwarded inpos.1)).port p).egress = (s.port p).egress := by
    rw [State.port_setPort]
    split
    · next hp => exact hp ▸ ⟨hup, rfl⟩
    · exact ⟨hup, rfl⟩
  generalize s.setPort q ((s.port q).forwarded inpos.1) = u at hrun hmarked hrest hmup
  obtain ⟨huup, hegress⟩ := hmup
  rw [State.passOn_up huup] at hrun
  refine ⟨_, hrun, ?_, fun y hy => ?_, hrest⟩
  · rw [State.port_setPort, if_pos rfl, hegress]
  · have hsame : y ∈ (u.port q).held := by
      rw [State.port_setPort] at hy
      split at hy
      · next hp => exact hp ▸ hy
      · exact hy
    rw [hmarked] at hsame
    exact Port.forwarded_done hsame

/-- Settles O51: reception, replay, and the forwarding of transit positions. -/
theorem frames : Obligations.Frames :=
  ⟨fun _ _ _ => frameReceive_effect, fun _ _ _ _ => linkReplay_effect, fun _ _ _ _ _ _ _ => transitForward_far,
    fun _ _ _ _ _ _ _ _ _ _ => transitForward_down, fun _ _ _ _ _ _ _ _ _ => transitForward_up⟩

end Sys2Proof.Machine
end
